-- ==== Sys2Proof/Word.lean ====
section
/-! DEFINITION. The word types of the Mezon instruction set and the small types its instructions are written with. -/
namespace Sys2Proof

/-- A byte of memory (R5). -/
abbrev Byte := BitVec 8
/-- A 64-bit scalar register (R14). -/
abbrev Word := BitVec 64
/-- The bits of one vector register, or of one predicate register: VLEN = 2048 on this part (R14, R58). -/
abbrev VBits := BitVec 2048

/-- The two ways a word is no instruction (R99, steps 2 and 3). -/
inductive DecodeError where
  | illegalInsn   -- an unassigned opcode, func or operation, or an operand beyond a static limit
  | reservedEnc   -- a reserved bit, field or code that is not zero
  deriving DecidableEq, Repr, Inhabited

/-- The second source of a lane word: a register, or one of the forms I, L and S (R89). -/
inductive Src2 where
  | vec (b : BitVec 6)     -- register group `v`b
  | imm (i : BitVec 6)     -- form I: a signed 6-bit constant
  | lit (x : BitVec 32)    -- form L: the literal in imm32
  | sca (k : BitVec 6)     -- form S: the snapshot scalar s[k]
  deriving DecidableEq, Repr, Inhabited

/-- What every lane word carries beside its operands: the run boundary B, the guard and its negation (R88). -/
structure Ctl where
  last  : Bool
  guard : BitVec 7
  neg   : Bool
  deriving DecidableEq, Repr, Inhabited

/-- The ordering of a lane access: func [7], and the scope in func [6:4] (R92). -/
structure Ord where
  on    : Bool
  scope : BitVec 3
  deriving DecidableEq, Repr, Inhabited

/-- Where a lane access or atomic finds its capability: field k, uniform or per lane (R71, R92, R93). -/
structure Auth where
  k       : BitVec 6
  perLane : Bool
  deriving DecidableEq, Repr, Inhabited

/-- Who executes a scalar word: a group, by its resident slot index (R278), or the service core of a cluster. -/
inductive Thread where
  | group (slot : Nat)
  | service (cluster : Nat)
  deriving DecidableEq, Repr, Inhabited

/-- What one package asks of another over Wordo Link (R148, R266): a read, a write with the tags beside its beats, an atomic and whether it returns, an
    invocation, a message. -/
inductive RemoteKind where
  | read (len : Nat)
  | write (bytes : List Byte) (tagBits : List Bool)
  | atomic (op : BitVec 5) (v u : Word) (ret : Bool) (flags : BitVec 5)
  | routine (n : BitVec 6) (o0 o1 : Word)
  | message (tag : BitVec 16) (record : Nat)
  deriving DecidableEq, Repr, Inhabited

/-- An extent of an object (R361): the namespace, 16 × port + its number there, the byte of it where the extent begins, the byte of the object that it
    holds first, its length. -/
structure Extent where
  ns    : Nat
  start : Nat
  off   : Nat
  len   : Nat
  deriving DecidableEq, Repr, Inhabited

/-- What the host asks for, at a place and of a length (R347, R364, R365): bytes of BAR2 read or written; bytes of a register of BAR0 read; so many pages of BAR2
    mapped by the kernel from a page on; a kernel image loaded for a context at a virtual address, with a spill area of the length: the physical pages for it and for
    page tables, the ring's bits of the team word, the Basket word. -/
inductive HostAsk where
  | read
  | write (bytes : List Byte)
  | reg
  | map (phys : Word)
  | load (ctx : Nat) (image : List Byte) (pages : List Word) (ring basket : Word)
  deriving DecidableEq, Repr, Inhabited

/-- How a datagram came (R362, R408): in one packet of IP version 4 or 6, as a fragment, or in a frame whose FCS, nonzero UDP checksum or RoCEv2 invariant CRC
    is wrong. -/
inductive IpForm where
  | v4 | v6 | fragment | damaged
  deriving DecidableEq, Repr, Inhabited

/-- What the extent store says of an open (R290, R361): that it may be, that there is no room for a new object, that it is denied. -/
inductive StoreAnswer where
  | ok | full | denied
  deriving DecidableEq, Repr, Inhabited

/-- A datagram as it arrives (R362): how, and its payload. -/
structure Datagram where
  form  : IpForm
  bytes : List Byte
  deriving DecidableEq, Repr, Inhabited

/-- Where an error is found (R408): in memory, in L2, the tag cache or a cluster store on the line's way, or in the transfer of the line to who asked for it, the
    first time or again; and whether it is corrected there. -/
inductive ErrorFound where
  | memory (corrected : Bool)
  | sram (corrected : Bool)
  | transfer (again : Bool)
  deriving DecidableEq, Repr, Inhabited

/-- A line moved between an L2 slice and memory (R406): a fill for an acting world, held at the port or not; a dirty line at a physical address written back,
    with the place of its last writer's world among those that may have written it; a line moved for the firmware. -/
inductive LineMove where
  | fill (world : BitVec 8)
  | writeback (addr : Nat) (writer : BitVec 8)
  | firmware
  deriving DecidableEq, Repr, Inhabited

/-- A link whose CRC fails (R408): one of a die's mesh, vertical and ring links, a Wordo Link port, the CXL link. -/
inductive LinkAt where
  | die (die link : Nat)
  | wordo (port : Nat)
  | cxl
  deriving DecidableEq, Repr, Inhabited

/-- How a part of an image comes (R346, R401): by the management command or by a path of the firmware, and whether it is the last; or a message of the management
    path that is none of its commands, of a command code that is not assigned, or of another enterprise number. -/
inductive ImagePart where
  | image (cmd last : Bool)
  | unassigned (command : BitVec 8)
  | foreign
  deriving DecidableEq, Repr, Inhabited

/-- What TLB_SHOOT names (R358): a context, an address and a page size; and the bytes of its body beside them. -/
structure ShootBody where
  ctx  : Nat
  va   : Word
  size : BitVec 2
  rest : List Byte
  deriving DecidableEq, Repr, Inhabited

/-- What REVOKE and SWEEP_DONE name (R358): a context, a set of colours, and the phase, which REVOKE alone carries; and the bytes of the body beside them. -/
structure ColourBody where
  ctx     : Nat
  colours : BitVec 256
  release : Bool
  rest    : List Byte
  deriving DecidableEq, Repr, Inhabited

/-- Who has waited for a place (R277): the grid that a queue is placing, launch i of a cluster's Basket, a saved team. -/
inductive Asker where
  | queue (q : Nat)
  | bin (cluster i : Nat)
  | saved (i : Nat)
  deriving DecidableEq, Repr, Inhabited

/-- What acts in one turn of the schedule (log entry 4): a group's scalar thread, its lane stream, a service core, or
    one of the agents whose steps the event rows of the opcode table are. -/
inductive TurnAct (ι : Type) where
  | scalar (slot : Nat)
  | lane (slot : Nat)
  | service (cluster : Nat)
  | event (i : ι)
  deriving DecidableEq, Repr, Inhabited

end Sys2Proof
end

