-- ==== Sys2Proof/Syntax.lean ====
section
/-! DEFINITION. The instructions: one constructor per row of the opcode table. Scalar, lane and routine words carry their
fields; an event row carries what the outside supplies or what the manual leaves open in it. -/
namespace Sys2Proof

/-- An instruction or event of the Sengejo 9400, one constructor per row of the opcode table. A register field of a scalar word
    is called d, a or b as in R77; of a lane word d, a, e (the third source, field c) and k as in R88. -/
inductive Instr where
  -- Scalar words: integer arithmetic and logic (R129, R130).
  | add (d a b : BitVec 6)
  | sub (d a b : BitVec 6)
  | and (d a b : BitVec 6)
  | or (d a b : BitVec 6)
  | xor (d a b : BitVec 6)
  | andn (d a b : BitVec 6)
  | sll (d a b : BitVec 6)
  | srl (d a b : BitVec 6)
  | sra (d a b : BitVec 6)
  | mul (d a b : BitVec 6)
  | mulhS64 (d a b : BitVec 6)
  | mulhZ64 (d a b : BitVec 6)
  | divS64 (d a b : BitVec 6)
  | divZ64 (d a b : BitVec 6)
  | remS64 (d a b : BitVec 6)
  | remZ64 (d a b : BitVec 6)
  | minS64 (d a b : BitVec 6)
  | minZ64 (d a b : BitVec 6)
  | maxS64 (d a b : BitVec 6)
  | maxZ64 (d a b : BitVec 6)
  | sltS64 (d a b : BitVec 6)
  | sltZ64 (d a b : BitVec 6)
  | seq (d a b : BitVec 6)
  | sne (d a b : BitVec 6)
  | clz (d a : BitVec 6)
  | ctz (d a : BitVec 6)
  | popc (d a : BitVec 6)
  | sextS8 (d a : BitVec 6)
  | sextS16 (d a : BitVec 6)
  | sextS32 (d a : BitVec 6)
  | zextZ8 (d a : BitVec 6)
  | zextZ16 (d a : BitVec 6)
  | zextZ32 (d a : BitVec 6)
  | addi (d a : BitVec 6) (imm : BitVec 14)
  | andi (d a : BitVec 6) (imm : BitVec 14)
  | ori (d a : BitVec 6) (imm : BitVec 14)
  | xori (d a : BitVec 6) (imm : BitVec 14)
  | slli (d a : BitVec 6) (n : BitVec 6)
  | srli (d a : BitVec 6) (n : BitVec 6)
  | srai (d a : BitVec 6) (n : BitVec 6)
  | sltiS64 (d a : BitVec 6) (imm : BitVec 14)
  | sltiZ64 (d a : BitVec 6) (imm : BitVec 14)
  | sethi (d a : BitVec 6) (imm : BitVec 14)
  -- Scalar words: loads, stores and atomics (R131 to R135).
  | ldZ8 (d : BitVec 6) (a : BitVec 5) (imm : BitVec 14)
  | ldZ16 (d : BitVec 6) (a : BitVec 5) (imm : BitVec 14)
  | ldZ32 (d : BitVec 6) (a : BitVec 5) (imm : BitVec 14)
  | ldB64 (d : BitVec 6) (a : BitVec 5) (imm : BitVec 14)
  | ldS8 (d : BitVec 6) (a : BitVec 5) (imm : BitVec 14)
  | ldS16 (d : BitVec 6) (a : BitVec 5) (imm : BitVec 14)
  | ldS32 (d : BitVec 6) (a : BitVec 5) (imm : BitVec 14)
  | stZ8 (d : BitVec 6) (a : BitVec 5) (imm : BitVec 14)
  | stZ16 (d : BitVec 6) (a : BitVec 5) (imm : BitVec 14)
  | stZ32 (d : BitVec 6) (a : BitVec 5) (imm : BitVec 14)
  | stB64 (d : BitVec 6) (a : BitVec 5) (imm : BitVec 14)
  | ldx (d : BitVec 6) (a : BitVec 5) (b : BitVec 6) (o : Ord) (ty : BitVec 3)
  | stx (d : BitVec 6) (a : BitVec 5) (b : BitVec 6) (o : Ord) (ty : BitVec 2)
  | lc (d a : BitVec 5) (imm : BitVec 14)
  | sc (d a : BitVec 5) (imm : BitVec 14)
  | atom (d : BitVec 6) (a : BitVec 5) (b : BitVec 6) (scope : BitVec 3) (op : BitVec 5)
  -- Scalar words: barriers, messages, launching, traps, fences (R146 to R158).
  | barArrive (n : BitVec 4)
  | barWait (n : BitVec 4)
  | barSync (n : BitVec 4)
  | barInit (n : BitVec 4) (a : BitVec 6)
  | msend (d : BitVec 6) (a : BitVec 5) (b : BitVec 6)
  | mpost (d : BitVec 6) (a : BitVec 5) (b : BitVec 6)
  | mrecv (d : BitVec 6) (a : BitVec 5) (b : BitVec 6)
  | mprobe (d : BitVec 6) (a : BitVec 5) (b : BitVec 6)
  | qpost (d : BitVec 6) (a : BitVec 5)
  | exitc (a : BitVec 5)
  | bflush (a : BitVec 6)
  | trapAll (guard : BitVec 7) (neg : Bool)
  | trapAny (d : BitVec 6) (guard : BitVec 7) (neg : Bool)
  | fenceAcq (scope : BitVec 3)
  | fenceRel (scope : BitVec 3)
  | fenceAr (scope : BitVec 3)
  | fenceSc (scope : BitVec 3)
  -- Scalar words: capabilities (R139 to R141).
  | cbound (d a : BitVec 5) (b : BitVec 6)
  | cboundExact (d a : BitVec 5) (b : BitVec 6)
  | cperm (d a : BitVec 5) (b : BitVec 6)
  | cinc (d a : BitVec 5) (b : BitVec 6)
  | cset (d a : BitVec 5) (b : BitVec 6)
  | cseal (d a b : BitVec 5)
  | cunseal (d a b : BitVec 5)
  | cmov (d a : BitVec 5)
  | cgetaddr (d : BitVec 6) (a : BitVec 5)
  | cgetbase (d : BitVec 6) (a : BitVec 5)
  | cgettop (d : BitVec 6) (a : BitVec 5)
  | cgetperm (d : BitVec 6) (a : BitVec 5)
  | cgettype (d : BitVec 6) (a : BitVec 5)
  | cgetcolour (d : BitVec 6) (a : BitVec 5)
  | cgettag (d : BitVec 6) (a : BitVec 5)
  | cgetlen (d : BitVec 6) (a : BitVec 5)
  | ccleartag (d a : BitVec 5)
  | ctestsub (d : BitVec 6) (a b : BitVec 5)
  | cexlen (d a : BitVec 6)
  | cexalign (d a b : BitVec 6)
  | ccolour (d a : BitVec 5) (b : BitVec 6)
  | cinci (d a : BitVec 5) (imm : BitVec 14)
  -- Scalar words: branches, jumps, the lane queue, control and status registers (R136 to R145, R157).
  | beq (a b : BitVec 6) (off : BitVec 14)
  | bne (a b : BitVec 6) (off : BitVec 14)
  | bltS64 (a b : BitVec 6) (off : BitVec 14)
  | bgeS64 (a b : BitVec 6) (off : BitVec 14)
  | bltZ64 (a b : BitVec 6) (off : BitVec 14)
  | bgeZ64 (a b : BitVec 6) (off : BitVec 14)
  | j (off : BitVec 26)
  | jal (off : BitVec 26)
  | jr (a : BitVec 6)
  | jalr (d a : BitVec 6)
  | lrun (a : BitVec 6) (off : BitVec 14)
  | waitc (ld st cp mx : BitVec 6)
  | rdcsr (d : BitVec 6) (n : BitVec 12)
  | wrcsr (a : BitVec 6) (n : BitVec 12)
  | setcsr (a : BitVec 6) (n : BitVec 12)
  | clrcsr (a : BitVec 6) (n : BitVec 12)
  | spsize (d a : BitVec 6)
  -- Scalar words: matrix, copy and graph commands, routine install (R189 to R238).
  | mxlds (a : BitVec 5) (b : BitVec 6) (pair : Bool) (ty : BitVec 3)
  | mxmm (acc : BitVec 2) (z : Bool) (a : BitVec 5) (b : BitVec 6) (flip pair : Bool) (ty : BitVec 3)
  | mxst (acc : BitVec 2) (a : BitVec 5) (b : BitVec 6) (pair : Bool) (ty : BitVec 3)
  | mxzero (acc : BitVec 2) (pair : Bool)
  | mxfence (d : BitVec 6)
  | mxwait (a : BitVec 6)
  | tcopy (d a b : BitVec 5) (mc : Bool) (fmt : BitVec 3)
  | bcopy (d a : BitVec 5) (b : BitVec 6) (ring : Bool)
  | gnode (d : BitVec 6) (a : BitVec 5)
  | gedge (a b : BitVec 6)
  | grplay (d : BitVec 6) (a : BitVec 5)
  | gpatch (d : BitVec 6) (a : BitVec 5) (b : BitVec 6)
  | gclose (a : BitVec 5)
  | lrinst (d : BitVec 6) (a : BitVec 5) (b : BitVec 6)
  -- Scalar words: privileged forms (R356).
  | gresume (a : BitVec 6)
  | gend (a : BitVec 6)
  | gsave (a : BitVec 6)
  | tlbinv (a : BitVec 6)
  | revbcast (a : BitVec 6)
  -- Lane words (R162 to R188, R230 to R240).
  | vsetl (last : Bool) (d k vt : BitVec 6)
  | vsetli (last : Bool) (d vt : BitVec 6) (n : BitVec 16)
  | vadd (c : Ctl) (d a : BitVec 6) (x : Src2) (ty : BitVec 4)
  | vsub (c : Ctl) (d a : BitVec 6) (x : Src2) (ty : BitVec 4)
  | vrsub (c : Ctl) (d a : BitVec 6) (x : Src2) (ty : BitVec 4)
  | vmul (c : Ctl) (d a : BitVec 6) (x : Src2) (ty : BitVec 4)
  | vmulh (c : Ctl) (d a : BitVec 6) (x : Src2) (ty : BitVec 4)
  | vdiv (c : Ctl) (d a : BitVec 6) (x : Src2) (ty : BitVec 4)
  | vrem (c : Ctl) (d a : BitVec 6) (x : Src2) (ty : BitVec 4)
  | vmin (c : Ctl) (d a : BitVec 6) (x : Src2) (ty : BitVec 4)
  | vmax (c : Ctl) (d a : BitVec 6) (x : Src2) (ty : BitVec 4)
  | vand (c : Ctl) (d a : BitVec 6) (x : Src2) (ty : BitVec 4)
  | vor (c : Ctl) (d a : BitVec 6) (x : Src2) (ty : BitVec 4)
  | vxor (c : Ctl) (d a : BitVec 6) (x : Src2) (ty : BitVec 4)
  | vandn (c : Ctl) (d a : BitVec 6) (x : Src2) (ty : BitVec 4)
  | vsll (c : Ctl) (d a : BitVec 6) (x : Src2) (ty : BitVec 4)
  | vsrl (c : Ctl) (d a : BitVec 6) (x : Src2) (ty : BitVec 4)
  | vsra (c : Ctl) (d a : BitVec 6) (x : Src2) (ty : BitVec 4)
  | vaddSat (c : Ctl) (d a : BitVec 6) (x : Src2) (ty : BitVec 4)
  | vsubSat (c : Ctl) (d a : BitVec 6) (x : Src2) (ty : BitVec 4)
  | vclz (c : Ctl) (d a : BitVec 6) (ty : BitVec 4)
  | vpopc (c : Ctl) (d a : BitVec 6) (ty : BitVec 4)
  | vwadd (c : Ctl) (d a : BitVec 6) (x : Src2) (ty : BitVec 4)
  | vwsub (c : Ctl) (d a : BitVec 6) (x : Src2) (ty : BitVec 4)
  | vwmul (c : Ctl) (d a : BitVec 6) (x : Src2) (ty : BitVec 4)
  | vnsrl (c : Ctl) (d a : BitVec 6) (x : Src2) (ty : BitVec 4)
  | vnsra (c : Ctl) (d a : BitVec 6) (x : Src2) (ty : BitVec 4)
  | vnclip (c : Ctl) (d a : BitVec 6) (x : Src2) (ty : BitVec 4)
  | vmacc (c : Ctl) (d a : BitVec 6) (x : Src2) (ty : BitVec 4)
  | vnmsac (c : Ctl) (d a : BitVec 6) (x : Src2) (ty : BitVec 4)
  | vwmacc (c : Ctl) (d a : BitVec 6) (x : Src2) (ty : BitVec 4)
  | vfadd (c : Ctl) (rm : BitVec 3) (d a : BitVec 6) (x : Src2) (ty : BitVec 4)
  | vfsub (c : Ctl) (rm : BitVec 3) (d a : BitVec 6) (x : Src2) (ty : BitVec 4)
  | vfmul (c : Ctl) (rm : BitVec 3) (d a : BitVec 6) (x : Src2) (ty : BitVec 4)
  | vfdiv (c : Ctl) (rm : BitVec 3) (d a : BitVec 6) (x : Src2) (ty : BitVec 4)
  | vfsqrt (c : Ctl) (rm : BitVec 3) (d a : BitVec 6) (ty : BitVec 4)
  | vfmin (c : Ctl) (d a : BitVec 6) (x : Src2) (ty : BitVec 4)
  | vfmax (c : Ctl) (d a : BitVec 6) (x : Src2) (ty : BitVec 4)
  | vfsgnj (c : Ctl) (d a : BitVec 6) (x : Src2) (ty : BitVec 4)
  | vfsgnjn (c : Ctl) (d a : BitVec 6) (x : Src2) (ty : BitVec 4)
  | vfsgnjx (c : Ctl) (d a : BitVec 6) (x : Src2) (ty : BitVec 4)
  | vfabs (c : Ctl) (d a : BitVec 6) (ty : BitVec 4)
  | vfneg (c : Ctl) (d a : BitVec 6) (ty : BitVec 4)
  | vfkind (c : Ctl) (d a : BitVec 6) (ty : BitVec 4)
  | vfma (c : Ctl) (rm : BitVec 3) (d a : BitVec 6) (x : Src2) (e : BitVec 6) (ty : BitVec 4)
  | vfms (c : Ctl) (rm : BitVec 3) (d a : BitVec 6) (x : Src2) (e : BitVec 6) (ty : BitVec 4)
  | vfnma (c : Ctl) (rm : BitVec 3) (d a : BitVec 6) (x : Src2) (e : BitVec 6) (ty : BitVec 4)
  | vfnms (c : Ctl) (rm : BitVec 3) (d a : BitVec 6) (x : Src2) (e : BitVec 6) (ty : BitVec 4)
  | vfwma (c : Ctl) (rm : BitVec 3) (d a : BitVec 6) (x : Src2) (e : BitVec 6) (ty : BitVec 4)
  | vcvt (c : Ctl) (rm : BitVec 3) (d a : BitVec 6) (sty dty : BitVec 4)
  | vcvtSat (c : Ctl) (rm : BitVec 3) (d a : BitVec 6) (sty dty : BitVec 4)
  | vcmpEq (c : Ctl) (pd : BitVec 7) (a : BitVec 6) (x : Src2) (ty : BitVec 4)
  | vcmpNe (c : Ctl) (pd : BitVec 7) (a : BitVec 6) (x : Src2) (ty : BitVec 4)
  | vcmpLt (c : Ctl) (pd : BitVec 7) (a : BitVec 6) (x : Src2) (ty : BitVec 4)
  | vcmpLe (c : Ctl) (pd : BitVec 7) (a : BitVec 6) (x : Src2) (ty : BitVec 4)
  | vcmpGt (c : Ctl) (pd : BitVec 7) (a : BitVec 6) (x : Src2) (ty : BitVec 4)
  | vcmpGe (c : Ctl) (pd : BitVec 7) (a : BitVec 6) (x : Src2) (ty : BitVec 4)
  | vfcmpEq (c : Ctl) (pd : BitVec 7) (a : BitVec 6) (x : Src2) (ty : BitVec 4)
  | vfcmpLt (c : Ctl) (pd : BitVec 7) (a : BitVec 6) (x : Src2) (ty : BitVec 4)
  | vfcmpLe (c : Ctl) (pd : BitVec 7) (a : BitVec 6) (x : Src2) (ty : BitVec 4)
  | vfcmpUnord (c : Ctl) (pd : BitVec 7) (a : BitVec 6) (x : Src2) (ty : BitVec 4)
  | vpand (c : Ctl) (pd pa pb : BitVec 7)
  | vpor (c : Ctl) (pd pa pb : BitVec 7)
  | vpxor (c : Ctl) (pd pa pb : BitVec 7)
  | vpandn (c : Ctl) (pd pa pb : BitVec 7)
  | vpnot (c : Ctl) (pd pa : BitVec 7)
  | vpmov (c : Ctl) (pd pa : BitVec 7)
  | vpset (c : Ctl) (pd : BitVec 7)
  | vpclr (c : Ctl) (pd : BitVec 7)
  | vpcnt (c : Ctl) (d : BitVec 6) (pa : BitVec 7)
  | vpfirst (c : Ctl) (d : BitVec 6) (pa : BitVec 7)
  | vpfrom (c : Ctl) (pd : BitVec 7) (a : BitVec 6) (ty : BitVec 4)
  | vpto (c : Ctl) (d : BitVec 6) (pa : BitVec 7) (ty : BitVec 4)
  | vmv (c : Ctl) (d : BitVec 6) (x : Src2) (ty : BitVec 4)
  | vmerge (c : Ctl) (d a : BitVec 6) (x : Src2) (ty : BitVec 4)
  | vid (c : Ctl) (d : BitVec 6) (ty : BitVec 4)
  | vmvx (last : Bool) (d a : BitVec 6) (ty : BitVec 4)
  | vredsum (c : Ctl) (d a : BitVec 6) (ty : BitVec 4)
  | vredmin (c : Ctl) (d a : BitVec 6) (ty : BitVec 4)
  | vredmax (c : Ctl) (d a : BitVec 6) (ty : BitVec 4)
  | vredand (c : Ctl) (d a : BitVec 6) (ty : BitVec 4)
  | vredor (c : Ctl) (d a : BitVec 6) (ty : BitVec 4)
  | vredxor (c : Ctl) (d a : BitVec 6) (ty : BitVec 4)
  | vfredsum (c : Ctl) (rm : BitVec 3) (d a : BitVec 6) (ty : BitVec 4)
  | vfredmin (c : Ctl) (d a : BitVec 6) (ty : BitVec 4)
  | vfredmax (c : Ctl) (d a : BitVec 6) (ty : BitVec 4)
  | vscanAdd (c : Ctl) (d a : BitVec 6) (ty : BitVec 4)
  | vscanMin (c : Ctl) (d a : BitVec 6) (ty : BitVec 4)
  | vscanMax (c : Ctl) (d a : BitVec 6) (ty : BitVec 4)
  | vfscanAdd (c : Ctl) (rm : BitVec 3) (d a : BitVec 6) (ty : BitVec 4)
  | vshup (c : Ctl) (d a : BitVec 6) (x : Src2) (e : BitVec 6) (ty : BitVec 4)
  | vshdn (c : Ctl) (d a : BitVec 6) (x : Src2) (e : BitVec 6) (ty : BitVec 4)
  | vpick (c : Ctl) (d a : BitVec 6) (x : Src2) (ty : BitVec 4)
  | vpack (c : Ctl) (d a : BitVec 6) (ty : BitVec 4)
  | vxchg (c : Ctl) (d a : BitVec 6) (x : Src2) (ty : BitVec 4)
  | vbcast (c : Ctl) (d a : BitVec 6) (x : Src2) (ty : BitVec 4)
  | vrev (c : Ctl) (d a : BitVec 6) (ty : BitVec 4)
  | vld (c : Ctl) (o : Ord) (d : BitVec 6) (q : Auth) (disp : BitVec 32) (ty : BitVec 4)
  | vlds (c : Ctl) (o : Ord) (d b k : BitVec 6) (disp : BitVec 32) (ty : BitVec 4)
  | vldx (c : Ctl) (o : Ord) (d a : BitVec 6) (q : Auth) (ty : BitVec 4)
  | vldff (c : Ctl) (o : Ord) (d e : BitVec 6) (q : Auth) (disp : BitVec 32) (ty : BitVec 4)
  | vldp (c : Ctl) (o : Ord) (d a : BitVec 6) (disp : BitVec 32) (ty : BitVec 4)
  | vldc (c : Ctl) (o : Ord) (d a : BitVec 6) (q : Auth)
  | vst (c : Ctl) (o : Ord) (d : BitVec 6) (q : Auth) (disp : BitVec 32) (ty : BitVec 4)
  | vsts (c : Ctl) (o : Ord) (d b k : BitVec 6) (disp : BitVec 32) (ty : BitVec 4)
  | vstx (c : Ctl) (o : Ord) (d a : BitVec 6) (q : Auth) (ty : BitVec 4)
  | vstp (c : Ctl) (o : Ord) (d a : BitVec 6) (disp : BitVec 32) (ty : BitVec 4)
  | vstc (c : Ctl) (o : Ord) (d a : BitVec 6) (q : Auth)
  | vatom (c : Ctl) (scope : BitVec 3) (op : BitVec 5) (d a b e : BitVec 6) (q : Auth) (nr : Bool)
  | vatom32 (c : Ctl) (scope : BitVec 3) (op : BitVec 5) (d a b : BitVec 6) (q : Auth) (nr : Bool)
  | vlrc (c : Ctl) (d a b e : BitVec 6) (q : Auth) (n : BitVec 6) (stop : Bool)
  | vbasket (c : Ctl) (a b : BitVec 6)
  -- Routine words (R242).
  | routineAdd (d a b : BitVec 5)
  | routineSub (d a b : BitVec 5)
  | routineAnd (d a b : BitVec 5)
  | routineOr (d a b : BitVec 5)
  | routineXor (d a b : BitVec 5)
  | routineSll (d a b : BitVec 5)
  | routineSrl (d a b : BitVec 5)
  | routineSra (d a b : BitVec 5)
  | routineMinS64 (d a b : BitVec 5)
  | routineMinZ64 (d a b : BitVec 5)
  | routineMaxS64 (d a b : BitVec 5)
  | routineMaxZ64 (d a b : BitVec 5)
  | routineSltS64 (d a b : BitVec 5)
  | routineSltZ64 (d a b : BitVec 5)
  | routineSeq (d a b : BitVec 5)
  | routineCsel (d a b : BitVec 5)
  | routineMul (d a b : BitVec 5)
  | routineFaddF32 (d a b : BitVec 5)
  | routineFaddF64 (d a b : BitVec 5)
  | routineFminF32 (d a b : BitVec 5)
  | routineFminF64 (d a b : BitVec 5)
  | routineFmaxF32 (d a b : BitVec 5)
  | routineFmaxF64 (d a b : BitVec 5)
  | routineAddi (d a : BitVec 5) (imm : BitVec 16)
  | routineLi (d : BitVec 5) (imm : BitVec 16)
  | routineExt (d a : BitVec 5) (pos len : BitVec 6)
  | routineIns (d a : BitVec 5) (pos len : BitVec 6)
  | routineSkipEq (a b : BitVec 5) (n : BitVec 5)
  | routineSkipNe (a b : BitVec 5) (n : BitVec 5)
  | routineSkipLtS64 (a b : BitVec 5) (n : BitVec 5)
  | routineSkipLtZ64 (a b : BitVec 5) (n : BitVec 5)
  | routineRet
  | routineRetTc
  | routineFail
  -- Events: steps of the agents beside the threads, in the order of the opcode table.
  | loadReturn (t : Thread) (id : Nat)
  | storeAccept (t : Thread) (id : Nat)
  | atomicPerform (t : Thread) (id n : Nat)
  | lineRoutineInvocation (t : Thread) (id n : Nat)
  | arrivalLands (slot bar : Nat)
  | parkedGroupWake (slot : Nat)
  | matrixOpStart (core : Nat)
  | matrixOpRetire (core : Nat)
  | engineOpStart (cluster id : Nat)
  | tcopyComplete (cluster id : Nat)
  | bcopyComplete (cluster id : Nat)
  | ringRecordWrite (cluster id : Nat)
  | groupRetire (slot : Nat)
  | teamPlacement
  | dispatchPreemptRequest (asker : Asker)
  | teamSaveStart (team : Nat)
  | forcedSave (team rows : Nat)
  | teamSaveComplete (team : Nat)
  | teamRestore (src : Option Nat)
  | basketBinTimeout (cluster ctx : Nat) (key : BitVec 16)
  | basketSpillReturn (cluster ctx : Nat)
  | graphNodeEnd (die inst node : Nat)
  | graphLaunchPost (die inst node : Nat)
  | stepStop (slot : Nat)
  | sampleRecord (core : Nat)
  | revbcastComplete (cluster : Nat)
  | sevtRead (cluster : Nat) (d : BitVec 6)
  | atomflagsRead (slot : Nat) (d : BitVec 6)
  | stimerExpiry (cluster : Nat)
  | srestoreWrite (cluster : Nat) (image : Word)
  | ctxActivate (cluster ctx : Nat)
  | ctxFatal (cluster ctx : Nat) (cause : BitVec 8)
  | ctxEnd (cluster ctx : Nat)
  | ctxRelease (cluster ctx : Nat)
  | ctxClearAtomicFlags (cluster ctx : Nat)
  | dumpWrite (die : Nat)
  | migrationStart (cluster : Nat) (size : BitVec 2)
  | migrationCopyDone (cluster : Nat)
  | migrationRelease (cluster : Nat)
  | worldChange (cluster : Nat) (value : Word)
  | keyAllocate (cluster ctx : Nat)
  | keyInstall (cluster : Nat)
  | keyRetirePrevious (cluster : Nat)
  | keyPreviousErased (key : Nat)
  | keyFree (cluster : Nat)
  | achalWrite (cluster : Nat) (addr : Word)
  | challengeResponse
  | challengeTimeout
  | certRewriteRequest (cluster : Nat) (value : Word)
  | certRewriteEffect (cert : Nat)
  | queueDoorbell (host : Bool) (queue : Nat) (v : BitVec 32)
  | registerWrite (host : Bool) (off : Nat) (v : Word)
  | packageReset
  | wlPortBringup (port peerPkg peerDim : Nat) (peerPlus : Bool) (peerSec : Nat)
  | wlRemoteRequest (src seq : Nat) (world : BitVec 8) (ctx : Nat) (addr : Word) (kind : RemoteKind)
  | hostAccess (place len : Nat) (ask : HostAsk)
  | taggedLaunchFrame (port : Nat) (payload : Datagram)
  | ethFrameReceive (port localPort : Nat) (form : IpForm) (payload : List Byte)
  | nvmeCompletion (port : Nat) (fin : Nat × Bool)
  | memAlloc (rec : Word) (k : Nat) (region : Word × List Word) (quotaOk : Bool)
  | memFree (rec : Word) (k : Nat)
  | poolGrow (rec : Word) (k : Nat) (grant : Option (List Word))
  | fileOpen (rec : Word) (k obj : Nat) (answer : StoreAnswer)
  | fileRead (rec : Word) (k shard : Nat)
  | fileWrite (rec : Word) (k : Nat) (extents : List Extent) (roomOk : Bool)
  | fileClose (rec : Word) (k : Nat)
  | fileStat (rec : Word) (k shard : Nat)
  | sockOpen (rec : Word) (k obj : Nat) (accepted : Bool)
  | sockSend (rec : Word) (k : Nat) (ioOk : Bool)
  | sockRecv (rec : Word) (k : Nat)
  | sockRecvTimeout (rec : Word) (k : Nat)
  | sockClose (rec : Word) (k : Nat)
  | timeNow (rec : Word) (k : Nat)
  | logWrite (rec : Word) (k : Nat)
  | gridYield (rec : Word) (k : Nat)
  | ctxExit (rec : Word) (k : Nat)
  | hello (src dst : Nat) (addr : Word) (rest : List Byte)
  | callFwd (rec : Word) (k : Nat) (addr : Word) (rest : List Byte)
  | callReply (rec : Word) (k : Nat) (addr : Word) (rest : List Byte)
  | nameAdd (src dst : Nat) (addr : Word) (rest : List Byte)
  | nameAck (src dst : Nat) (addr : Word) (rest : List Byte)
  | tlbShoot (src dst : Nat) (addr : Word) (body : ShootBody)
  | tlbAck (src dst : Nat) (addr : Word) (rest : List Byte)
  | revoke (src dst : Nat) (addr : Word) (body : ColourBody)
  | sweepDone (src dst : Nat) (addr : Word) (body : ColourBody)
  | msgOverflowTimeout (slot : Nat)
  | getInfo
  | getTelemetry
  | setClass (bytes : List Byte)
  | setWorldClass (world cls : BitVec 8)
  | setPowerLimit (watts : Nat)
  | getRetired (first : Nat)
  | getCrash
  | challenge (bytes : List Byte)
  | recovery (offset : Nat) (bytes : List Byte) (part : ImagePart)
  | tokenRefill (die : Nat)
  | scrubPass
  | softError (addr : Word) (found : ErrorFound) (slot : Option Nat)
  | linkCrcError (link : LinkAt) (again : Bool)
  | watchdogReset
  | powerControlStep (milliwatts : Nat)
  | currentSurge
  | thermalThrottle (sensor : Nat) (celsius : Int)
  | thermalTrip (celsius : Int) (flow : Nat)
  | unassignedOpcode (lane : Bool) (w : BitVec 96)
  | wordoLinkRetransmission (src seq : Nat)
  | ethTransmitCompletion (port cluster : Nat)
  -- Scalar words without operands (they stand last because the compiler numbers constructors that carry fields first).
  | exit
  | trapwait
  | lqwait
  | sret
  | tlbinvall
  | idle
  deriving DecidableEq, Repr, Inhabited

/-- One turn of the schedule: which agent acts next, and how many core cycles pass before it does (log entry 4). -/
structure Turn where
  cycles : Nat
  act    : TurnAct Instr
  deriving DecidableEq, Repr, Inhabited

end Sys2Proof
end

