-- ==== Sys2Proof/WellFormed.lean ====
section
/-! DEFINITION. What makes an instruction well-formed: the field values that its encoding admits (R78, R81, R84 to R98). -/
namespace Sys2Proof

/-- A scope code is 0 to 5 (R81). -/
def scopeOk (s : BitVec 3) : Bool := s.toNat < 6
/-- A rounding code is 0 to 5 (R81). -/
def rmOk (r : BitVec 3) : Bool := r.toNat < 6
/-- A predicate number is 0 to 95 (R47, R90). -/
def guardOk (g : BitVec 7) : Bool := g.toNat < 96
/-- Every type code but the reserved 0x9 (R80). -/
def tyOk (t : BitVec 4) : Bool := t != 9
/-- The integer type codes 0x0 to 0x7 (R80). -/
def isIntTy (t : BitVec 4) : Bool := t.toNat < 8
/-- The compare-exchange codes 0x0A and 0x0B (R84). -/
def isCas (op : BitVec 5) : Bool := op == 0x0A || op == 0x0B
/-- The guard of a lane word names a predicate (R47). -/
def ctlOk (c : Ctl) : Bool := guardOk c.guard
/-- A scope stands only beside an ordering, and is 0 to 5 (R84, R92). -/
def ordOk (o : Ord) : Bool := if o.on then scopeOk o.scope else o.scope == 0
/-- A uniform capability has bit 5 of k clear (R88). -/
def authOk (q : Auth) : Bool := q.perLane || q.k.toNat < 32
/-- A routine register that can be read: 0 to 26 (R96). -/
def routineSrc (r : BitVec 5) : Bool := r.toNat < 27
/-- A routine register that can be written: 0 to 26 but `o0` and `o1` (R96, R98). -/
def routineDst (r : BitVec 5) : Bool := r.toNat < 27 && r != 16 && r != 17

/-- The instructions whose fields an encoding admits. An event row has no encoding and is always well-formed. -/
def Instr.wf : Instr → Bool
  | .add _ _ _ => true
  | .sub _ _ _ => true
  | .and _ _ _ => true
  | .or _ _ _ => true
  | .xor _ _ _ => true
  | .andn _ _ _ => true
  | .sll _ _ _ => true
  | .srl _ _ _ => true
  | .sra _ _ _ => true
  | .mul _ _ _ => true
  | .mulhS64 _ _ _ => true
  | .mulhZ64 _ _ _ => true
  | .divS64 _ _ _ => true
  | .divZ64 _ _ _ => true
  | .remS64 _ _ _ => true
  | .remZ64 _ _ _ => true
  | .minS64 _ _ _ => true
  | .minZ64 _ _ _ => true
  | .maxS64 _ _ _ => true
  | .maxZ64 _ _ _ => true
  | .sltS64 _ _ _ => true
  | .sltZ64 _ _ _ => true
  | .seq _ _ _ => true
  | .sne _ _ _ => true
  | .clz _ _ => true
  | .ctz _ _ => true
  | .popc _ _ => true
  | .sextS8 _ _ => true
  | .sextS16 _ _ => true
  | .sextS32 _ _ => true
  | .zextZ8 _ _ => true
  | .zextZ16 _ _ => true
  | .zextZ32 _ _ => true
  | .addi _ _ _ => true
  | .andi _ _ _ => true
  | .ori _ _ _ => true
  | .xori _ _ _ => true
  | .slli _ _ _ => true
  | .srli _ _ _ => true
  | .srai _ _ _ => true
  | .sltiS64 _ _ _ => true
  | .sltiZ64 _ _ _ => true
  | .sethi _ _ _ => true
  | .ldZ8 _ _ _ => true
  | .ldZ16 _ _ _ => true
  | .ldZ32 _ _ _ => true
  | .ldB64 _ _ _ => true
  | .ldS8 _ _ _ => true
  | .ldS16 _ _ _ => true
  | .ldS32 _ _ _ => true
  | .stZ8 _ _ _ => true
  | .stZ16 _ _ _ => true
  | .stZ32 _ _ _ => true
  | .stB64 _ _ _ => true
  | .ldx _ _ _ o _ => ordOk o
  | .stx _ _ _ o _ => ordOk o
  | .lc _ _ _ => true
  | .sc _ _ _ => true
  | .atom _ _ _ scope op => scopeOk scope && op.toNat < 24
  | .barArrive _ => true
  | .barWait _ => true
  | .barSync _ => true
  | .barInit _ _ => true
  | .msend _ _ _ => true
  | .mpost _ _ _ => true
  | .mrecv _ _ _ => true
  | .mprobe _ _ _ => true
  | .qpost _ _ => true
  | .exit => true
  | .exitc _ => true
  | .bflush _ => true
  | .trapAll guard _ => guardOk guard
  | .trapAny d guard _ => d != 0 && guardOk guard
  | .trapwait => true
  | .fenceAcq scope => scopeOk scope
  | .fenceRel scope => scopeOk scope
  | .fenceAr scope => scopeOk scope
  | .fenceSc scope => scopeOk scope
  | .cbound _ _ _ => true
  | .cboundExact _ _ _ => true
  | .cperm _ _ _ => true
  | .cinc _ _ _ => true
  | .cset _ _ _ => true
  | .cseal _ _ _ => true
  | .cunseal _ _ _ => true
  | .cmov _ _ => true
  | .cgetaddr _ _ => true
  | .cgetbase _ _ => true
  | .cgettop _ _ => true
  | .cgetperm _ _ => true
  | .cgettype _ _ => true
  | .cgetcolour _ _ => true
  | .cgettag _ _ => true
  | .cgetlen _ _ => true
  | .ccleartag _ _ => true
  | .ctestsub _ _ _ => true
  | .cexlen _ _ => true
  | .cexalign _ _ _ => true
  | .ccolour _ _ _ => true
  | .cinci _ _ _ => true
  | .beq _ _ _ => true
  | .bne _ _ _ => true
  | .bltS64 _ _ _ => true
  | .bgeS64 _ _ _ => true
  | .bltZ64 _ _ _ => true
  | .bgeZ64 _ _ _ => true
  | .j _ => true
  | .jal _ => true
  | .jr _ => true
  | .jalr _ _ => true
  | .lqwait => true
  | .lrun _ _ => true
  | .waitc _ _ _ _ => true
  | .rdcsr d n => if n == 0x070 || n == 0x071 then d.toNat < 32 else true
  | .wrcsr _ _ => true
  | .setcsr _ _ => true
  | .clrcsr _ _ => true
  | .spsize _ _ => true
  | .mxlds _ _ _ ty => ty.toNat < 5
  | .mxmm acc _ _ _ _ _ ty => acc.toNat < 3 && ty.toNat < 5
  | .mxst acc _ _ _ ty => acc.toNat < 3 && ty.toNat < 4
  | .mxzero acc _ => acc.toNat < 3
  | .mxfence _ => true
  | .mxwait _ => true
  | .tcopy _ _ _ _ fmt => fmt.toNat < 5
  | .bcopy _ _ _ _ => true
  | .gnode _ _ => true
  | .gedge _ _ => true
  | .grplay _ _ => true
  | .gpatch _ _ _ => true
  | .gclose _ => true
  | .lrinst _ _ _ => true
  | .sret => true
  | .gresume _ => true
  | .gend _ => true
  | .gsave _ => true
  | .tlbinv _ => true
  | .tlbinvall => true
  | .revbcast _ => true
  | .idle => true
  | .vsetl _ _ _ _ => true
  | .vsetli _ _ _ _ => true
  | .vadd c _ _ _ ty => ctlOk c && tyOk ty
  | .vsub c _ _ _ ty => ctlOk c && tyOk ty
  | .vrsub c _ _ _ ty => ctlOk c && tyOk ty
  | .vmul c _ _ _ ty => ctlOk c && tyOk ty
  | .vmulh c _ _ _ ty => ctlOk c && tyOk ty
  | .vdiv c _ _ _ ty => ctlOk c && tyOk ty
  | .vrem c _ _ _ ty => ctlOk c && tyOk ty
  | .vmin c _ _ _ ty => ctlOk c && tyOk ty
  | .vmax c _ _ _ ty => ctlOk c && tyOk ty
  | .vand c _ _ _ ty => ctlOk c && tyOk ty
  | .vor c _ _ _ ty => ctlOk c && tyOk ty
  | .vxor c _ _ _ ty => ctlOk c && tyOk ty
  | .vandn c _ _ _ ty => ctlOk c && tyOk ty
  | .vsll c _ _ _ ty => ctlOk c && tyOk ty
  | .vsrl c _ _ _ ty => ctlOk c && tyOk ty
  | .vsra c _ _ _ ty => ctlOk c && tyOk ty
  | .vaddSat c _ _ _ ty => ctlOk c && tyOk ty
  | .vsubSat c _ _ _ ty => ctlOk c && tyOk ty
  | .vclz c _ _ ty => ctlOk c && tyOk ty
  | .vpopc c _ _ ty => ctlOk c && tyOk ty
  | .vwadd c _ _ _ ty => ctlOk c && tyOk ty
  | .vwsub c _ _ _ ty => ctlOk c && tyOk ty
  | .vwmul c _ _ _ ty => ctlOk c && tyOk ty
  | .vnsrl c _ _ _ ty => ctlOk c && tyOk ty
  | .vnsra c _ _ _ ty => ctlOk c && tyOk ty
  | .vnclip c _ _ _ ty => ctlOk c && tyOk ty
  | .vmacc c _ _ _ ty => ctlOk c && tyOk ty
  | .vnmsac c _ _ _ ty => ctlOk c && tyOk ty
  | .vwmacc c _ _ _ ty => ctlOk c && tyOk ty
  | .vfadd c rm _ _ _ ty => ctlOk c && rmOk rm && tyOk ty
  | .vfsub c rm _ _ _ ty => ctlOk c && rmOk rm && tyOk ty
  | .vfmul c rm _ _ _ ty => ctlOk c && rmOk rm && tyOk ty
  | .vfdiv c rm _ _ _ ty => ctlOk c && rmOk rm && tyOk ty
  | .vfsqrt c rm _ _ ty => ctlOk c && rmOk rm && tyOk ty
  | .vfmin c _ _ _ ty => ctlOk c && tyOk ty
  | .vfmax c _ _ _ ty => ctlOk c && tyOk ty
  | .vfsgnj c _ _ _ ty => ctlOk c && tyOk ty
  | .vfsgnjn c _ _ _ ty => ctlOk c && tyOk ty
  | .vfsgnjx c _ _ _ ty => ctlOk c && tyOk ty
  | .vfabs c _ _ ty => ctlOk c && tyOk ty
  | .vfneg c _ _ ty => ctlOk c && tyOk ty
  | .vfkind c _ _ ty => ctlOk c && tyOk ty
  | .vfma c rm _ _ _ _ ty => ctlOk c && rmOk rm && tyOk ty
  | .vfms c rm _ _ _ _ ty => ctlOk c && rmOk rm && tyOk ty
  | .vfnma c rm _ _ _ _ ty => ctlOk c && rmOk rm && tyOk ty
  | .vfnms c rm _ _ _ _ ty => ctlOk c && rmOk rm && tyOk ty
  | .vfwma c rm _ _ _ _ ty => ctlOk c && rmOk rm && tyOk ty
  | .vcvt c rm _ _ sty dty => ctlOk c && rmOk rm && tyOk sty && tyOk dty && (rm == 0 || !(isIntTy sty && isIntTy dty))
  | .vcvtSat c rm _ _ sty dty => ctlOk c && rmOk rm && tyOk sty && tyOk dty && (rm == 0 || !(isIntTy sty && isIntTy dty))
  | .vcmpEq c pd _ _ ty => ctlOk c && tyOk ty && guardOk pd
  | .vcmpNe c pd _ _ ty => ctlOk c && tyOk ty && guardOk pd
  | .vcmpLt c pd _ _ ty => ctlOk c && tyOk ty && guardOk pd
  | .vcmpLe c pd _ _ ty => ctlOk c && tyOk ty && guardOk pd
  | .vcmpGt c pd _ _ ty => ctlOk c && tyOk ty && guardOk pd
  | .vcmpGe c pd _ _ ty => ctlOk c && tyOk ty && guardOk pd
  | .vfcmpEq c pd _ _ ty => ctlOk c && tyOk ty && guardOk pd
  | .vfcmpLt c pd _ _ ty => ctlOk c && tyOk ty && guardOk pd
  | .vfcmpLe c pd _ _ ty => ctlOk c && tyOk ty && guardOk pd
  | .vfcmpUnord c pd _ _ ty => ctlOk c && tyOk ty && guardOk pd
  | .vpand c pd pa pb => ctlOk c && guardOk pd && guardOk pa && guardOk pb
  | .vpor c pd pa pb => ctlOk c && guardOk pd && guardOk pa && guardOk pb
  | .vpxor c pd pa pb => ctlOk c && guardOk pd && guardOk pa && guardOk pb
  | .vpandn c pd pa pb => ctlOk c && guardOk pd && guardOk pa && guardOk pb
  | .vpnot c pd pa => ctlOk c && guardOk pd && guardOk pa
  | .vpmov c pd pa => ctlOk c && guardOk pd && guardOk pa
  | .vpset c pd => ctlOk c && guardOk pd
  | .vpclr c pd => ctlOk c && guardOk pd
  | .vpcnt c _ pa => ctlOk c && guardOk pa
  | .vpfirst c _ pa => ctlOk c && guardOk pa
  | .vpfrom c pd _ ty => ctlOk c && tyOk ty && guardOk pd
  | .vpto c _ pa ty => ctlOk c && tyOk ty && guardOk pa
  | .vmv c _ _ ty => ctlOk c && tyOk ty
  | .vmerge c _ _ _ ty => ctlOk c && tyOk ty
  | .vid c _ ty => ctlOk c && tyOk ty
  | .vmvx _ _ _ ty => tyOk ty
  | .vredsum c _ _ ty => ctlOk c && tyOk ty
  | .vredmin c _ _ ty => ctlOk c && tyOk ty
  | .vredmax c _ _ ty => ctlOk c && tyOk ty
  | .vredand c _ _ ty => ctlOk c && tyOk ty
  | .vredor c _ _ ty => ctlOk c && tyOk ty
  | .vredxor c _ _ ty => ctlOk c && tyOk ty
  | .vfredsum c rm _ _ ty => ctlOk c && rmOk rm && tyOk ty
  | .vfredmin c _ _ ty => ctlOk c && tyOk ty
  | .vfredmax c _ _ ty => ctlOk c && tyOk ty
  | .vscanAdd c _ _ ty => ctlOk c && tyOk ty
  | .vscanMin c _ _ ty => ctlOk c && tyOk ty
  | .vscanMax c _ _ ty => ctlOk c && tyOk ty
  | .vfscanAdd c rm _ _ ty => ctlOk c && rmOk rm && tyOk ty
  | .vshup c _ _ _ _ ty => ctlOk c && tyOk ty
  | .vshdn c _ _ _ _ ty => ctlOk c && tyOk ty
  | .vpick c _ _ _ ty => ctlOk c && tyOk ty
  | .vpack c _ _ ty => ctlOk c && tyOk ty
  | .vxchg c _ _ _ ty => ctlOk c && tyOk ty
  | .vbcast c _ _ _ ty => ctlOk c && tyOk ty
  | .vrev c _ _ ty => ctlOk c && tyOk ty
  | .vld c o _ q _ ty => ctlOk c && tyOk ty && ordOk o && authOk q
  | .vlds c o _ _ k _ ty => ctlOk c && tyOk ty && ordOk o && k.toNat < 32
  | .vldx c o _ _ q ty => ctlOk c && tyOk ty && ordOk o && authOk q
  | .vldff c o _ _ q _ ty => ctlOk c && tyOk ty && ordOk o && authOk q
  | .vldp c o _ _ _ ty => ctlOk c && tyOk ty && ordOk o
  | .vldc c o _ _ q => ctlOk c && ordOk o && authOk q
  | .vst c o _ q _ ty => ctlOk c && tyOk ty && ordOk o && authOk q
  | .vsts c o _ _ k _ ty => ctlOk c && tyOk ty && ordOk o && k.toNat < 32
  | .vstx c o _ _ q ty => ctlOk c && tyOk ty && ordOk o && authOk q
  | .vstp c o _ _ _ ty => ctlOk c && tyOk ty && ordOk o
  | .vstc c o _ _ q => ctlOk c && ordOk o && authOk q
  | .vatom c scope op d _ _ e q nr => ctlOk c && authOk q && scopeOk scope && op.toNat < 24 && (!nr || d == 0) && (isCas op || e == 0)
  | .vatom32 c scope op d _ _ q nr => ctlOk c && authOk q && scopeOk scope && op.toNat < 6 && (!nr || d == 0)
  | .vlrc c _ _ _ _ q _ _ => ctlOk c && authOk q
  | .vbasket c _ _ => ctlOk c
  | .routineAdd d a b => routineDst d && routineSrc a && routineSrc b
  | .routineSub d a b => routineDst d && routineSrc a && routineSrc b
  | .routineAnd d a b => routineDst d && routineSrc a && routineSrc b
  | .routineOr d a b => routineDst d && routineSrc a && routineSrc b
  | .routineXor d a b => routineDst d && routineSrc a && routineSrc b
  | .routineSll d a b => routineDst d && routineSrc a && routineSrc b
  | .routineSrl d a b => routineDst d && routineSrc a && routineSrc b
  | .routineSra d a b => routineDst d && routineSrc a && routineSrc b
  | .routineMinS64 d a b => routineDst d && routineSrc a && routineSrc b
  | .routineMinZ64 d a b => routineDst d && routineSrc a && routineSrc b
  | .routineMaxS64 d a b => routineDst d && routineSrc a && routineSrc b
  | .routineMaxZ64 d a b => routineDst d && routineSrc a && routineSrc b
  | .routineSltS64 d a b => routineDst d && routineSrc a && routineSrc b
  | .routineSltZ64 d a b => routineDst d && routineSrc a && routineSrc b
  | .routineSeq d a b => routineDst d && routineSrc a && routineSrc b
  | .routineCsel d a b => routineDst d && routineSrc a && routineSrc b
  | .routineMul d a b => routineDst d && routineSrc a && routineSrc b
  | .routineFaddF32 d a b => routineDst d && routineSrc a && routineSrc b
  | .routineFaddF64 d a b => routineDst d && routineSrc a && routineSrc b
  | .routineFminF32 d a b => routineDst d && routineSrc a && routineSrc b
  | .routineFminF64 d a b => routineDst d && routineSrc a && routineSrc b
  | .routineFmaxF32 d a b => routineDst d && routineSrc a && routineSrc b
  | .routineFmaxF64 d a b => routineDst d && routineSrc a && routineSrc b
  | .routineAddi d a _ => routineDst d && routineSrc a
  | .routineLi d _ => routineDst d
  | .routineExt d a pos len => routineDst d && routineSrc a && pos.toNat + len.toNat < 64
  | .routineIns d a pos len => routineDst d && routineSrc a && pos.toNat + len.toNat < 64
  | .routineSkipEq a b n => routineSrc a && routineSrc b && n != 0
  | .routineSkipNe a b n => routineSrc a && routineSrc b && n != 0
  | .routineSkipLtS64 a b n => routineSrc a && routineSrc b && n != 0
  | .routineSkipLtZ64 a b n => routineSrc a && routineSrc b && n != 0
  | .routineRet => true
  | .routineRetTc => true
  | .routineFail => true
  | .loadReturn _ _ => true
  | .storeAccept _ _ => true
  | .atomicPerform _ _ _ => true
  | .lineRoutineInvocation _ _ _ => true
  | .arrivalLands _ _ => true
  | .parkedGroupWake _ => true
  | .matrixOpStart _ => true
  | .matrixOpRetire _ => true
  | .engineOpStart _ _ => true
  | .tcopyComplete _ _ => true
  | .bcopyComplete _ _ => true
  | .ringRecordWrite _ _ => true
  | .groupRetire _ => true
  | .teamPlacement => true
  | .dispatchPreemptRequest _ => true
  | .teamSaveStart _ => true
  | .forcedSave _ _ => true
  | .teamSaveComplete _ => true
  | .teamRestore _ => true
  | .basketBinTimeout _ _ _ => true
  | .basketSpillReturn _ _ => true
  | .graphNodeEnd _ _ _ => true
  | .graphLaunchPost _ _ _ => true
  | .stepStop _ => true
  | .sampleRecord _ => true
  | .revbcastComplete _ => true
  | .sevtRead _ _ => true
  | .atomflagsRead _ _ => true
  | .stimerExpiry _ => true
  | .srestoreWrite _ _ => true
  | .ctxActivate _ _ => true
  | .ctxFatal _ _ _ => true
  | .ctxEnd _ _ => true
  | .ctxRelease _ _ => true
  | .ctxClearAtomicFlags _ _ => true
  | .dumpWrite _ => true
  | .migrationStart _ _ => true
  | .migrationCopyDone _ => true
  | .migrationRelease _ => true
  | .worldChange _ _ => true
  | .keyAllocate _ _ => true
  | .keyInstall _ => true
  | .keyRetirePrevious _ => true
  | .keyPreviousErased _ => true
  | .keyFree _ => true
  | .achalWrite _ _ => true
  | .challengeResponse => true
  | .challengeTimeout => true
  | .certRewriteRequest _ _ => true
  | .certRewriteEffect _ => true
  | .queueDoorbell _ _ _ => true
  | .registerWrite _ _ _ => true
  | .packageReset => true
  | .wlPortBringup _ _ _ _ _ => true
  | .wlRemoteRequest _ _ _ _ _ _ => true
  | .hostAccess _ _ _ => true
  | .taggedLaunchFrame _ _ => true
  | .ethFrameReceive _ _ _ _ => true
  | .nvmeCompletion _ _ => true
  | .memAlloc _ _ _ _ => true
  | .memFree _ _ => true
  | .poolGrow _ _ _ => true
  | .fileOpen _ _ _ _ => true
  | .fileRead _ _ _ => true
  | .fileWrite _ _ _ _ => true
  | .fileClose _ _ => true
  | .fileStat _ _ _ => true
  | .sockOpen _ _ _ _ => true
  | .sockSend _ _ _ => true
  | .sockRecv _ _ => true
  | .sockRecvTimeout _ _ => true
  | .sockClose _ _ => true
  | .timeNow _ _ => true
  | .logWrite _ _ => true
  | .gridYield _ _ => true
  | .ctxExit _ _ => true
  | .hello _ _ _ _ => true
  | .callFwd _ _ _ _ => true
  | .callReply _ _ _ _ => true
  | .nameAdd _ _ _ _ => true
  | .nameAck _ _ _ _ => true
  | .tlbShoot _ _ _ _ => true
  | .tlbAck _ _ _ _ => true
  | .revoke _ _ _ _ => true
  | .sweepDone _ _ _ _ => true
  | .msgOverflowTimeout _ => true
  | .getInfo => true
  | .getTelemetry => true
  | .setClass _ => true
  | .setWorldClass _ _ => true
  | .setPowerLimit _ => true
  | .getRetired _ => true
  | .getCrash => true
  | .challenge _ => true
  | .recovery _ _ _ => true
  | .tokenRefill _ => true
  | .scrubPass => true
  | .softError _ _ _ => true
  | .linkCrcError _ _ => true
  | .watchdogReset => true
  | .powerControlStep _ => true
  | .currentSurge => true
  | .thermalThrottle _ _ => true
  | .thermalTrip _ _ => true
  | .unassignedOpcode _ _ => true
  | .wordoLinkRetransmission _ _ => true
  | .ethTransmitCompletion _ _ => true

end Sys2Proof
end

