-- ==== Sys2Proof/Decode.lean ====
section
/-! DEFINITION. From words to instructions and back: the scalar word (R77 to R87), the lane word (R88 to R93) and the
routine word (R95 to R98). A word that is no instruction is refused with the fault of R99. Some decoders are marked
noncomputable: the compiler has room for 244 constructors that carry fields, and Instr has more. They are plain total
functions, which the kernel evaluates like the others. -/
namespace Sys2Proof

/-! ### The scalar word -/

/-- The fields of a scalar word in the Register layout of R77. Immediates span `b` and `func`; a jump offset spans all four. -/
structure ScalarFields where
  maj  : BitVec 6
  d    : BitVec 6
  a    : BitVec 6
  b    : BitVec 6
  func : BitVec 8
  deriving DecidableEq, Repr

/-- The fields of a 32-bit word (R77). -/
def ScalarFields.ofWord (w : BitVec 32) : ScalarFields :=
  ⟨w.extractLsb' 26 6, w.extractLsb' 20 6, w.extractLsb' 14 6, w.extractLsb' 8 6, w.extractLsb' 0 8⟩

/-- The 32-bit word with these fields (R77). -/
def ScalarFields.toWord (f : ScalarFields) : BitVec 32 := f.maj ++ f.d ++ f.a ++ f.b ++ f.func

/-- imm14, offset14 or sub: bits [13:0] (R77). -/
def ScalarFields.imm (f : ScalarFields) : BitVec 14 := f.b ++ f.func

/-- offset26: bits [25:0] (R77). -/
def ScalarFields.off26 (f : ScalarFields) : BitVec 26 := f.d ++ f.a ++ f.b ++ f.func

/-- The fields of an Immediate or System word (R77). -/
def ScalarFields.ofImm (maj d a : BitVec 6) (imm : BitVec 14) : ScalarFields :=
  ⟨maj, d, a, imm.extractLsb' 8 6, imm.extractLsb' 0 8⟩

/-- The fields of a Jump word (R77). -/
def ScalarFields.ofJump (maj : BitVec 6) (off : BitVec 26) : ScalarFields :=
  ⟨maj, off.extractLsb' 20 6, off.extractLsb' 14 6, off.extractLsb' 8 6, off.extractLsb' 0 8⟩

/-- A capability field's number: the low five bits (R78). -/
def capField (x : BitVec 6) : BitVec 5 := x.extractLsb' 0 5
/-- Bit 5 of a capability field is reserved (R78). -/
def capOk (x : BitVec 6) : Bool := x.toNat < 32
/-- The field that names capability register `c`. -/
def ofCap (c : BitVec 5) : BitVec 6 := c.setWidth 6

/-- An instruction if its reserved bits and fields are as they must be; otherwise the fault of R99 step 3. -/
def need (ok : Bool) (i : Instr) : Except DecodeError Instr := if ok then .ok i else .error .reservedEnc

/-- Major 0x01: the integer ALU (R83). -/
def decodeAlu (f : ScalarFields) : Except DecodeError Instr :=
  match f.func.toNat with
  | 0x00 => .ok (.add f.d f.a f.b)
  | 0x01 => .ok (.sub f.d f.a f.b)
  | 0x02 => .ok (.and f.d f.a f.b)
  | 0x03 => .ok (.or f.d f.a f.b)
  | 0x04 => .ok (.xor f.d f.a f.b)
  | 0x05 => .ok (.andn f.d f.a f.b)
  | 0x06 => .ok (.sll f.d f.a f.b)
  | 0x07 => .ok (.srl f.d f.a f.b)
  | 0x08 => .ok (.sra f.d f.a f.b)
  | 0x09 => .ok (.mul f.d f.a f.b)
  | 0x0A => .ok (.mulhS64 f.d f.a f.b)
  | 0x0B => .ok (.mulhZ64 f.d f.a f.b)
  | 0x0C => .ok (.divS64 f.d f.a f.b)
  | 0x0D => .ok (.divZ64 f.d f.a f.b)
  | 0x0E => .ok (.remS64 f.d f.a f.b)
  | 0x0F => .ok (.remZ64 f.d f.a f.b)
  | 0x10 => .ok (.minS64 f.d f.a f.b)
  | 0x11 => .ok (.minZ64 f.d f.a f.b)
  | 0x12 => .ok (.maxS64 f.d f.a f.b)
  | 0x13 => .ok (.maxZ64 f.d f.a f.b)
  | 0x14 => .ok (.sltS64 f.d f.a f.b)
  | 0x15 => .ok (.sltZ64 f.d f.a f.b)
  | 0x16 => .ok (.seq f.d f.a f.b)
  | 0x17 => .ok (.sne f.d f.a f.b)
  | 0x18 => need (f.b == 0) (.clz f.d f.a)
  | 0x19 => need (f.b == 0) (.ctz f.d f.a)
  | 0x1A => need (f.b == 0) (.popc f.d f.a)
  | 0x1B => need (f.b == 0) (.sextS8 f.d f.a)
  | 0x1C => need (f.b == 0) (.sextS16 f.d f.a)
  | 0x1D => need (f.b == 0) (.sextS32 f.d f.a)
  | 0x1E => need (f.b == 0) (.zextZ8 f.d f.a)
  | 0x1F => need (f.b == 0) (.zextZ16 f.d f.a)
  | 0x20 => need (f.b == 0) (.zextZ32 f.d f.a)
  | _ => .error .illegalInsn

/-- Major 0x06: the immediate shifts (R83). Kind 3 is unassigned. -/
def decodeShift (f : ScalarFields) : Except DecodeError Instr :=
  let n : BitVec 6 := f.func.extractLsb' 0 6
  match (f.func.extractLsb' 6 2).toNat with
  | 0 => need (f.b == 0) (.slli f.d f.a n)
  | 1 => need (f.b == 0) (.srli f.d f.a n)
  | 2 => need (f.b == 0) (.srai f.d f.a n)
  | _ => .error .illegalInsn

/-- The ordering fields of `ldx` and `stx`: func [7], [6:4] (R84). -/
def ScalarFields.ord (f : ScalarFields) : Ord := ⟨f.func.getLsbD 7, f.func.extractLsb' 4 3⟩

/-- Major 0x16 (R84). Type code 0x9 is reserved (R80); other codes above 0x7 are not accepted. -/
def decodeLdx (f : ScalarFields) : Except DecodeError Instr :=
  let ty : BitVec 4 := f.func.extractLsb' 0 4
  if !(capOk f.a && ordOk f.ord && tyOk ty) then .error .reservedEnc
  else if ty.toNat < 8 then .ok (.ldx f.d (capField f.a) f.b f.ord (ty.extractLsb' 0 3)) else .error .illegalInsn

/-- Major 0x17 (R84). -/
def decodeStx (f : ScalarFields) : Except DecodeError Instr :=
  let ty : BitVec 4 := f.func.extractLsb' 0 4
  if !(capOk f.a && ordOk f.ord && tyOk ty) then .error .reservedEnc
  else if ty.toNat < 4 then .ok (.stx f.d (capField f.a) f.b f.ord (ty.extractLsb' 0 2)) else .error .illegalInsn

/-- Major 0x1A (R84): operation codes 0x18 to 0x1F are unassigned. -/
def decodeAtom (f : ScalarFields) : Except DecodeError Instr :=
  let op : BitVec 5 := f.func.extractLsb' 0 5
  let sc : BitVec 3 := f.func.extractLsb' 5 3
  if op.toNat < 24 then need (capOk f.a && scopeOk sc) (.atom f.d (capField f.a) f.b sc op) else .error .illegalInsn

/-- The operation code in sub [13:12] (R86). -/
def ScalarFields.op2 (f : ScalarFields) : Nat := (f.b.extractLsb' 4 2).toNat
/-- sub [11:0] (R86). -/
def ScalarFields.sub12 (f : ScalarFields) : BitVec 12 := f.imm.extractLsb' 0 12

/-- Major 0x1B: barriers (R86). -/
def decodeBar (f : ScalarFields) : Except DecodeError Instr :=
  let n : BitVec 4 := f.func.extractLsb' 0 4
  let z := f.d == 0 && f.sub12.toNat < 16
  match f.op2 with
  | 0 => need (z && f.a == 0) (.barArrive n)
  | 1 => need (z && f.a == 0) (.barWait n)
  | 2 => need (z && f.a == 0) (.barSync n)
  | _ => need z (.barInit n f.a)

/-- Major 0x1C: messages (R86). -/
def decodeMsg (f : ScalarFields) : Except DecodeError Instr :=
  let b : BitVec 6 := f.func.extractLsb' 0 6
  let ok := capOk f.a && f.sub12.toNat < 64
  match f.op2 with
  | 0 => need ok (.msend f.d (capField f.a) b)
  | 1 => need ok (.mpost f.d (capField f.a) b)
  | 2 => need ok (.mrecv f.d (capField f.a) b)
  | _ => need ok (.mprobe f.d (capField f.a) b)

/-- Major 0x1D: `qpost`, `exit`, `exitc`, `bflush` (R86). -/
def decodePost (f : ScalarFields) : Except DecodeError Instr :=
  let z := f.sub12 == 0
  match f.op2 with
  | 0 => need (z && capOk f.a) (.qpost f.d (capField f.a))
  | 1 => need (z && f.d == 0 && f.a == 0) .exit
  | 2 => need (z && f.d == 0 && capOk f.a) (.exitc (capField f.a))
  | _ => need (z && f.d == 0) (.bflush f.a)

/-- Major 0x1E: traps (R86). Operation 3 is unassigned. -/
def decodeTrap (f : ScalarFields) : Except DecodeError Instr :=
  let g : BitVec 7 := f.func.extractLsb' 0 7
  let neg := f.func.getLsbD 7
  let z := f.a == 0 && f.sub12.toNat < 256
  match f.op2 with
  | 0 => need (z && f.d == 0 && guardOk g) (.trapAll g neg)
  | 1 => need (z && f.d != 0 && guardOk g) (.trapAny f.d g neg)
  | 2 => need (f.a == 0 && f.d == 0 && f.sub12 == 0) .trapwait
  | _ => .error .illegalInsn

/-- Major 0x1F: fences (R86). -/
def decodeFence (f : ScalarFields) : Except DecodeError Instr :=
  let sc : BitVec 3 := f.func.extractLsb' 0 3
  let ok := f.d == 0 && f.a == 0 && f.imm.toNat < 32 && scopeOk sc
  match (f.func.extractLsb' 3 2).toNat with
  | 0 => need ok (.fenceAcq sc)
  | 1 => need ok (.fenceRel sc)
  | 2 => need ok (.fenceAr sc)
  | _ => need ok (.fenceSc sc)

/-- Major 0x20: capability derivation and inspection (R85). -/
def decodeCap (f : ScalarFields) : Except DecodeError Instr :=
  let d := capField f.d
  let a := capField f.a
  let cc := capOk f.d && capOk f.a
  match f.func.toNat with
  | 0x00 => need cc (.cbound d a f.b)
  | 0x01 => need cc (.cboundExact d a f.b)
  | 0x02 => need cc (.cperm d a f.b)
  | 0x03 => need cc (.cinc d a f.b)
  | 0x04 => need cc (.cset d a f.b)
  | 0x05 => need (cc && capOk f.b) (.cseal d a (capField f.b))
  | 0x06 => need (cc && capOk f.b) (.cunseal d a (capField f.b))
  | 0x07 => need (cc && f.b == 0) (.cmov d a)
  | 0x08 => need (capOk f.a && f.b == 0) (.cgetaddr f.d a)
  | 0x09 => need (capOk f.a && f.b == 0) (.cgetbase f.d a)
  | 0x0A => need (capOk f.a && f.b == 0) (.cgettop f.d a)
  | 0x0B => need (capOk f.a && f.b == 0) (.cgetperm f.d a)
  | 0x0C => need (capOk f.a && f.b == 0) (.cgettype f.d a)
  | 0x0D => need (capOk f.a && f.b == 0) (.cgetcolour f.d a)
  | 0x0E => need (capOk f.a && f.b == 0) (.cgettag f.d a)
  | 0x0F => need (capOk f.a && f.b == 0) (.cgetlen f.d a)
  | 0x10 => need (cc && f.b == 0) (.ccleartag d a)
  | 0x11 => need (capOk f.a && capOk f.b) (.ctestsub f.d a (capField f.b))
  | 0x12 => need (f.b == 0) (.cexlen f.d f.a)
  | 0x13 => .ok (.cexalign f.d f.a f.b)
  | 0x20 => need cc (.ccolour d a f.b)
  | _ => .error .illegalInsn

/-- Major 0x32: control and status registers (R86). A read of `SCODE` or `LCODE` names a capability register in d. -/
def decodeCsr (f : ScalarFields) : Except DecodeError Instr :=
  let n := f.sub12
  match f.op2 with
  | 0 => need (f.a == 0 && (if n == 0x070 || n == 0x071 then f.d.toNat < 32 else true)) (.rdcsr f.d n)
  | 1 => need (f.d == 0) (.wrcsr f.a n)
  | 2 => need (f.d == 0) (.setcsr f.a n)
  | _ => need (f.d == 0) (.clrcsr f.a n)

/-- Major 0x34: matrix forms (R87). -/
def decodeMx (f : ScalarFields) : Except DecodeError Instr :=
  let ty : BitVec 3 := f.func.extractLsb' 0 3
  let pair := f.func.getLsbD 3
  let flip := f.func.getLsbD 4
  let acc : BitVec 2 := f.d.extractLsb' 0 2
  match (f.func.extractLsb' 5 3).toNat with
  | 0 => need (!flip && ty.toNat < 5 && f.d == 0 && capOk f.a) (.mxlds (capField f.a) f.b pair ty)
  | 1 => need (ty.toNat < 5 && acc.toNat < 3 && f.d.toNat < 8 && capOk f.a) (.mxmm acc (f.d.getLsbD 2) (capField f.a) f.b flip pair ty)
  | 2 => need (!flip && ty.toNat < 4 && acc.toNat < 3 && f.d.toNat < 4 && capOk f.a) (.mxst acc (capField f.a) f.b pair ty)
  | 3 => need (!flip && ty == 0 && acc.toNat < 3 && f.d.toNat < 4 && f.a == 0 && f.b == 0) (.mxzero acc pair)
  | 4 => need (f.func == 0x80 && f.a == 0 && f.b == 0) (.mxfence f.d)
  | 5 => need (f.func == 0xA0 && f.d == 0 && f.b == 0) (.mxwait f.a)
  | _ => .error .illegalInsn

/-- Major 0x35: copies (R87). -/
def decodeCopy (f : ScalarFields) : Except DecodeError Instr :=
  let fmt : BitVec 3 := f.func.extractLsb' 0 3
  let cc := capOk f.d && capOk f.a
  match (f.func.extractLsb' 4 4).toNat with
  | 0 => need (cc && capOk f.b && fmt.toNat < 5) (.tcopy (capField f.d) (capField f.a) (capField f.b) (f.func.getLsbD 3) fmt)
  | 1 => need (cc && fmt == 0) (.bcopy (capField f.d) (capField f.a) f.b (f.func.getLsbD 3))
  | _ => .error .illegalInsn

/-- Major 0x36: dependence graphs (R87). -/
def decodeGraph (f : ScalarFields) : Except DecodeError Instr :=
  match f.func.toNat with
  | 0x00 => need (capOk f.a && f.b == 0) (.gnode f.d (capField f.a))
  | 0x01 => need (f.d == 0) (.gedge f.a f.b)
  | 0x02 => need (capOk f.a && f.b == 0) (.grplay f.d (capField f.a))
  | 0x03 => need (capOk f.a) (.gpatch f.d (capField f.a) f.b)
  | 0x04 => need (capOk f.a && f.d == 0 && f.b == 0) (.gclose (capField f.a))
  | _ => .error .illegalInsn

/-- Major 0x3C: privileged forms (R86, R356). -/
def decodePriv (f : ScalarFields) : Except DecodeError Instr :=
  let z := f.d == 0 && f.func == 0
  match f.b.toNat with
  | 0 => need (z && f.a == 0) .sret
  | 1 => need z (.gresume f.a)
  | 2 => need z (.gend f.a)
  | 3 => need z (.gsave f.a)
  | 4 => need z (.tlbinv f.a)
  | 5 => need (z && f.a == 0) .tlbinvall
  | 6 => need z (.revbcast f.a)
  | 7 => need (z && f.a == 0) .idle
  | _ => .error .illegalInsn

/-- Major 0x2C: `jr` and `jalr` (R82). -/
def decodeJr (f : ScalarFields) : Except DecodeError Instr :=
  match f.func.toNat with
  | 0 => need (f.d == 0 && f.b == 0) (.jr f.a)
  | 1 => need (f.b == 0) (.jalr f.d f.a)
  | _ => .error .illegalInsn

/-- The scalar opcode map (R82). -/
def decodeScalarFields (f : ScalarFields) : Except DecodeError Instr :=
  match f.maj.toNat with
  | 0x01 => decodeAlu f
  | 0x02 => .ok (.addi f.d f.a f.imm)
  | 0x03 => .ok (.andi f.d f.a f.imm)
  | 0x04 => .ok (.ori f.d f.a f.imm)
  | 0x05 => .ok (.xori f.d f.a f.imm)
  | 0x06 => decodeShift f
  | 0x07 => .ok (.sltiS64 f.d f.a f.imm)
  | 0x08 => .ok (.sltiZ64 f.d f.a f.imm)
  | 0x0A => .ok (.sethi f.d f.a f.imm)
  | 0x0B => need (capOk f.a) (.ldZ8 f.d (capField f.a) f.imm)
  | 0x0C => need (capOk f.a) (.ldZ16 f.d (capField f.a) f.imm)
  | 0x0D => need (capOk f.a) (.ldZ32 f.d (capField f.a) f.imm)
  | 0x0E => need (capOk f.a) (.ldB64 f.d (capField f.a) f.imm)
  | 0x0F => need (capOk f.a) (.ldS8 f.d (capField f.a) f.imm)
  | 0x10 => need (capOk f.a) (.ldS16 f.d (capField f.a) f.imm)
  | 0x11 => need (capOk f.a) (.ldS32 f.d (capField f.a) f.imm)
  | 0x12 => need (capOk f.a) (.stZ8 f.d (capField f.a) f.imm)
  | 0x13 => need (capOk f.a) (.stZ16 f.d (capField f.a) f.imm)
  | 0x14 => need (capOk f.a) (.stZ32 f.d (capField f.a) f.imm)
  | 0x15 => need (capOk f.a) (.stB64 f.d (capField f.a) f.imm)
  | 0x16 => decodeLdx f
  | 0x17 => decodeStx f
  | 0x18 => need (capOk f.d && capOk f.a) (.lc (capField f.d) (capField f.a) f.imm)
  | 0x19 => need (capOk f.d && capOk f.a) (.sc (capField f.d) (capField f.a) f.imm)
  | 0x1A => decodeAtom f
  | 0x1B => decodeBar f
  | 0x1C => decodeMsg f
  | 0x1D => decodePost f
  | 0x1E => decodeTrap f
  | 0x1F => decodeFence f
  | 0x20 => decodeCap f
  | 0x21 => need (capOk f.d && capOk f.a) (.cinci (capField f.d) (capField f.a) f.imm)
  | 0x24 => .ok (.beq f.d f.a f.imm)
  | 0x25 => .ok (.bne f.d f.a f.imm)
  | 0x26 => .ok (.bltS64 f.d f.a f.imm)
  | 0x27 => .ok (.bgeS64 f.d f.a f.imm)
  | 0x28 => .ok (.bltZ64 f.d f.a f.imm)
  | 0x29 => .ok (.bgeZ64 f.d f.a f.imm)
  | 0x2A => .ok (.j f.off26)
  | 0x2B => .ok (.jal f.off26)
  | 0x2C => decodeJr f
  | 0x2D => need (f.d == 0 && f.a == 0 && f.b == 0 && f.func == 0) .lqwait
  | 0x30 => need (f.d == 0) (.lrun f.a f.imm)
  | 0x31 => need (f.func.extractLsb' 0 2 == 0) (.waitc f.d f.a f.b (f.func.extractLsb' 2 6))
  | 0x32 => decodeCsr f
  | 0x33 => need (f.b == 0 && f.func == 0) (.spsize f.d f.a)
  | 0x34 => decodeMx f
  | 0x35 => decodeCopy f
  | 0x36 => decodeGraph f
  | 0x37 => if f.func == 0 then need (capOk f.a) (.lrinst f.d (capField f.a) f.b) else .error .illegalInsn
  | 0x3C => decodePriv f
  | _ => .error .illegalInsn

/-- What a scalar word stands for, or the fault of R99 it takes (steps 2 and 3, and the static part of step 4). -/
def decodeScalar (w : BitVec 32) : Except DecodeError Instr := decodeScalarFields (.ofWord w)

/-- R99 step 1: the words that fault `PRIV_INSN` in user mode whatever their other bits hold. -/
def isPrivWord (w : BitVec 32) : Bool :=
  let f := ScalarFields.ofWord w
  f.maj == 0x3C || (f.maj == 0x20 && f.func == 0x20) || (f.maj == 0x32 && 0x400 ≤ f.sub12.toNat)

/-! ### The lane word -/

/-- The fields of a lane word (R88). -/
structure LaneFields where
  last : Bool
  maj  : BitVec 7
  func : BitVec 8
  guard : BitVec 7
  neg  : Bool
  d    : BitVec 6
  a    : BitVec 6
  b    : BitVec 6
  c    : BitVec 6
  k    : BitVec 6
  ty   : BitVec 4
  fl   : Bool
  fi   : Bool
  fs   : Bool
  dh   : Bool
  ah   : Bool
  r32  : Bool
  imm  : BitVec 32
  deriving DecidableEq, Repr

/-- The fields of a 96-bit word (R88). -/
def LaneFields.ofWord (w : BitVec 96) : LaneFields :=
  ⟨w.getLsbD 95, w.extractLsb' 88 7, w.extractLsb' 80 8, w.extractLsb' 73 7, w.getLsbD 72, w.extractLsb' 66 6, w.extractLsb' 60 6,
   w.extractLsb' 54 6, w.extractLsb' 48 6, w.extractLsb' 42 6, w.extractLsb' 38 4, w.getLsbD 37, w.getLsbD 36, w.getLsbD 35,
   w.getLsbD 34, w.getLsbD 33, w.getLsbD 32, w.extractLsb' 0 32⟩

/-- The 96-bit word with these fields (R88). -/
def LaneFields.toWord (f : LaneFields) : BitVec 96 :=
  BitVec.ofBool f.last ++ f.maj ++ f.func ++ f.guard ++ BitVec.ofBool f.neg ++ f.d ++ f.a ++ f.b ++ f.c ++ f.k ++ f.ty ++
  BitVec.ofBool f.fl ++ BitVec.ofBool f.fi ++ BitVec.ofBool f.fs ++ BitVec.ofBool f.dh ++ BitVec.ofBool f.ah ++
  BitVec.ofBool f.r32 ++ f.imm

namespace LaneFields

/-- The boundary and guard of the word. -/
def ctl (f : LaneFields) : Ctl := ⟨f.last, f.guard, f.neg⟩
/-- No L, I or S flag. -/
def noFlags (f : LaneFields) : Bool := !f.fl && !f.fi && !f.fs
/-- DH and AH clear. -/
def noHigh (f : LaneFields) : Bool := !f.dh && !f.ah
/-- Reserved bit [32] clear and the guard a predicate (R47, R88). -/
def base (f : LaneFields) : Bool := !f.r32 && guardOk f.guard
/-- The second source named by b, k, the flags and imm32 (R89). -/
def src2 (f : LaneFields) : Src2 := if f.fl then .lit f.imm else if f.fi then .imm f.b else if f.fs then .sca f.k else .vec f.b
/-- At most one flag, and no field that its form leaves unused (R88, R89). -/
def src2Ok (f : LaneFields) : Bool :=
  if f.fl then !f.fi && !f.fs && f.b == 0 && f.k == 0
  else if f.fi then !f.fs && f.k == 0 && f.imm == 0
  else if f.fs then f.b == 0 && f.imm == 0
  else f.k == 0 && f.imm == 0
/-- No second source: b, k, imm32 zero and no flag. -/
def noSrc2 (f : LaneFields) : Bool := f.noFlags && f.b == 0 && f.k == 0 && f.imm == 0
/-- The predicate destination DH x 64 + d (R90). -/
def pd (f : LaneFields) : BitVec 7 := BitVec.ofBool f.dh ++ f.d
/-- The predicate source AH x 64 + a (R90). -/
def pa (f : LaneFields) : BitVec 7 := BitVec.ofBool f.ah ++ f.a
/-- The predicate source c x 64 + b (R90). -/
def pb (f : LaneFields) : BitVec 7 := f.c.extractLsb' 0 1 ++ f.b
/-- The rounding code in func [7:5] (R91). -/
def rm (f : LaneFields) : BitVec 3 := f.func.extractLsb' 5 3
/-- The operation in func [4:0] of the majors marked rm (R91). -/
def op5 (f : LaneFields) : Nat := (f.func.extractLsb' 0 5).toNat
/-- The ordering of a load or store: func [7], [6:4] (R92). -/
def ord (f : LaneFields) : Ord := ⟨f.func.getLsbD 7, f.func.extractLsb' 4 3⟩
/-- The authority of a load or store: k, func [3] (R92). -/
def auth (f : LaneFields) : Auth := ⟨f.k, f.func.getLsbD 3⟩
/-- The authority of an atomic or routine call: k, imm32 [6] (R93). -/
def authImm (f : LaneFields) : Auth := ⟨f.k, f.imm.getLsbD 6⟩
/-- A word whose predicate fields are vectors or scalars, with a second source and c unused. -/
def okBin (f : LaneFields) : Bool := f.base && f.noHigh && f.src2Ok && f.c == 0 && tyOk f.ty
/-- A word with one source and c unused. -/
def okUn (f : LaneFields) : Bool := f.base && f.noHigh && f.noSrc2 && f.c == 0 && tyOk f.ty
/-- A compare: predicate destination, second source, c unused. -/
def okCmp (f : LaneFields) : Bool := f.base && !f.ah && guardOk f.pd && f.src2Ok && f.c == 0 && tyOk f.ty
/-- A memory word: no flags, no high bits, guard and reserved bit well formed. -/
def okMem (f : LaneFields) : Bool := f.base && f.noHigh && f.noFlags

end LaneFields

/-- Major 0x01 (R91, R166): neither form takes a guard. -/
def decodeVtype (f : LaneFields) : Except DecodeError Instr :=
  let z := f.base && f.guard == 0 && !f.neg && f.noHigh && f.noFlags && f.a == 0 && f.b == 0 && f.c == 0 && f.ty == 0
  let vt : BitVec 6 := f.imm.extractLsb' 0 6
  match f.func.toNat with
  | 0 => need (z && f.imm.extractLsb' 6 26 == 0) (.vsetl f.last f.d f.k vt)
  | 1 => need (z && f.k == 0 && f.imm.extractLsb' 6 10 == 0) (.vsetli f.last f.d vt (f.imm.extractLsb' 16 16))
  | _ => .error .illegalInsn

/-- Major 0x02: integer (R91, R167). -/
def decodeVint (f : LaneFields) : Except DecodeError Instr :=
  match f.func.toNat with
  | 0x00 => need f.okBin (.vadd f.ctl f.d f.a f.src2 f.ty)
  | 0x01 => need f.okBin (.vsub f.ctl f.d f.a f.src2 f.ty)
  | 0x02 => need f.okBin (.vrsub f.ctl f.d f.a f.src2 f.ty)
  | 0x03 => need f.okBin (.vmul f.ctl f.d f.a f.src2 f.ty)
  | 0x04 => need f.okBin (.vmulh f.ctl f.d f.a f.src2 f.ty)
  | 0x05 => need f.okBin (.vdiv f.ctl f.d f.a f.src2 f.ty)
  | 0x06 => need f.okBin (.vrem f.ctl f.d f.a f.src2 f.ty)
  | 0x07 => need f.okBin (.vmin f.ctl f.d f.a f.src2 f.ty)
  | 0x08 => need f.okBin (.vmax f.ctl f.d f.a f.src2 f.ty)
  | 0x09 => need f.okBin (.vand f.ctl f.d f.a f.src2 f.ty)
  | 0x0A => need f.okBin (.vor f.ctl f.d f.a f.src2 f.ty)
  | 0x0B => need f.okBin (.vxor f.ctl f.d f.a f.src2 f.ty)
  | 0x0C => need f.okBin (.vandn f.ctl f.d f.a f.src2 f.ty)
  | 0x0D => need f.okBin (.vsll f.ctl f.d f.a f.src2 f.ty)
  | 0x0E => need f.okBin (.vsrl f.ctl f.d f.a f.src2 f.ty)
  | 0x0F => need f.okBin (.vsra f.ctl f.d f.a f.src2 f.ty)
  | 0x10 => need f.okBin (.vaddSat f.ctl f.d f.a f.src2 f.ty)
  | 0x11 => need f.okBin (.vsubSat f.ctl f.d f.a f.src2 f.ty)
  | 0x12 => need f.okUn (.vclz f.ctl f.d f.a f.ty)
  | 0x13 => need f.okUn (.vpopc f.ctl f.d f.a f.ty)
  | _ => .error .illegalInsn

/-- Major 0x03: widen and narrow (R91, R168). -/
def decodeVwiden (f : LaneFields) : Except DecodeError Instr :=
  match f.func.toNat with
  | 0x00 => need f.okBin (.vwadd f.ctl f.d f.a f.src2 f.ty)
  | 0x01 => need f.okBin (.vwsub f.ctl f.d f.a f.src2 f.ty)
  | 0x02 => need f.okBin (.vwmul f.ctl f.d f.a f.src2 f.ty)
  | 0x03 => need f.okBin (.vnsrl f.ctl f.d f.a f.src2 f.ty)
  | 0x04 => need f.okBin (.vnsra f.ctl f.d f.a f.src2 f.ty)
  | 0x05 => need f.okBin (.vnclip f.ctl f.d f.a f.src2 f.ty)
  | _ => .error .illegalInsn

/-- Major 0x04: integer multiply-add (R91, R169). -/
def decodeVmacc (f : LaneFields) : Except DecodeError Instr :=
  match f.func.toNat with
  | 0x00 => need f.okBin (.vmacc f.ctl f.d f.a f.src2 f.ty)
  | 0x01 => need f.okBin (.vnmsac f.ctl f.d f.a f.src2 f.ty)
  | 0x02 => need f.okBin (.vwmacc f.ctl f.d f.a f.src2 f.ty)
  | _ => .error .illegalInsn

/-- Major 0x05: float (R91, R170). -/
def decodeVfloat (f : LaneFields) : Except DecodeError Instr :=
  match f.op5 with
  | 0x00 => need (f.okBin && rmOk f.rm) (.vfadd f.ctl f.rm f.d f.a f.src2 f.ty)
  | 0x01 => need (f.okBin && rmOk f.rm) (.vfsub f.ctl f.rm f.d f.a f.src2 f.ty)
  | 0x02 => need (f.okBin && rmOk f.rm) (.vfmul f.ctl f.rm f.d f.a f.src2 f.ty)
  | 0x03 => need (f.okBin && rmOk f.rm) (.vfdiv f.ctl f.rm f.d f.a f.src2 f.ty)
  | 0x04 => need (f.okUn && rmOk f.rm) (.vfsqrt f.ctl f.rm f.d f.a f.ty)
  | 0x05 => need (f.okBin && f.rm == 0) (.vfmin f.ctl f.d f.a f.src2 f.ty)
  | 0x06 => need (f.okBin && f.rm == 0) (.vfmax f.ctl f.d f.a f.src2 f.ty)
  | 0x07 => need (f.okBin && f.rm == 0) (.vfsgnj f.ctl f.d f.a f.src2 f.ty)
  | 0x08 => need (f.okBin && f.rm == 0) (.vfsgnjn f.ctl f.d f.a f.src2 f.ty)
  | 0x09 => need (f.okBin && f.rm == 0) (.vfsgnjx f.ctl f.d f.a f.src2 f.ty)
  | 0x0A => need (f.okUn && f.rm == 0) (.vfabs f.ctl f.d f.a f.ty)
  | 0x0B => need (f.okUn && f.rm == 0) (.vfneg f.ctl f.d f.a f.ty)
  | 0x0C => need (f.okUn && f.rm == 0) (.vfkind f.ctl f.d f.a f.ty)
  | _ => .error .illegalInsn

/-- Major 0x06: fused (R91, R172). -/
def decodeVfused (f : LaneFields) : Except DecodeError Instr :=
  match f.op5 with
  | 0x00 => need (f.base && f.noHigh && f.src2Ok && tyOk f.ty && rmOk f.rm) (.vfma f.ctl f.rm f.d f.a f.src2 f.c f.ty)
  | 0x01 => need (f.base && f.noHigh && f.src2Ok && tyOk f.ty && rmOk f.rm) (.vfms f.ctl f.rm f.d f.a f.src2 f.c f.ty)
  | 0x02 => need (f.base && f.noHigh && f.src2Ok && tyOk f.ty && rmOk f.rm) (.vfnma f.ctl f.rm f.d f.a f.src2 f.c f.ty)
  | 0x03 => need (f.base && f.noHigh && f.src2Ok && tyOk f.ty && rmOk f.rm) (.vfnms f.ctl f.rm f.d f.a f.src2 f.c f.ty)
  | 0x04 => need (f.base && f.noHigh && f.src2Ok && tyOk f.ty && rmOk f.rm) (.vfwma f.ctl f.rm f.d f.a f.src2 f.c f.ty)
  | _ => .error .illegalInsn

/-- The checks of a conversion: c [3:0] is the source type, and integer to integer carries rounding code 0 (R91, R173). -/
def LaneFields.okCvt (f : LaneFields) : Bool :=
  let s : BitVec 4 := f.c.extractLsb' 0 4
  f.base && f.noHigh && f.noSrc2 && f.c.toNat < 16 && tyOk f.ty && tyOk s && rmOk f.rm && (f.rm == 0 || !(isIntTy s && isIntTy f.ty))

/-- Major 0x07: conversion (R91, R173). -/
def decodeVcvt (f : LaneFields) : Except DecodeError Instr :=
  match f.op5 with
  | 0x00 => need f.okCvt (.vcvt f.ctl f.rm f.d f.a (f.c.extractLsb' 0 4) f.ty)
  | 0x01 => need f.okCvt (.vcvtSat f.ctl f.rm f.d f.a (f.c.extractLsb' 0 4) f.ty)
  | _ => .error .illegalInsn

/-- Major 0x08: integer compare (R91, R174). -/
def decodeVcmp (f : LaneFields) : Except DecodeError Instr :=
  match f.func.toNat with
  | 0x00 => need f.okCmp (.vcmpEq f.ctl f.pd f.a f.src2 f.ty)
  | 0x01 => need f.okCmp (.vcmpNe f.ctl f.pd f.a f.src2 f.ty)
  | 0x02 => need f.okCmp (.vcmpLt f.ctl f.pd f.a f.src2 f.ty)
  | 0x03 => need f.okCmp (.vcmpLe f.ctl f.pd f.a f.src2 f.ty)
  | 0x04 => need f.okCmp (.vcmpGt f.ctl f.pd f.a f.src2 f.ty)
  | 0x05 => need f.okCmp (.vcmpGe f.ctl f.pd f.a f.src2 f.ty)
  | _ => .error .illegalInsn

/-- Major 0x09: float compare (R91, R174). -/
def decodeVfcmp (f : LaneFields) : Except DecodeError Instr :=
  match f.op5 with
  | 0x00 => need (f.okCmp && f.rm == 0) (.vfcmpEq f.ctl f.pd f.a f.src2 f.ty)
  | 0x01 => need (f.okCmp && f.rm == 0) (.vfcmpLt f.ctl f.pd f.a f.src2 f.ty)
  | 0x02 => need (f.okCmp && f.rm == 0) (.vfcmpLe f.ctl f.pd f.a f.src2 f.ty)
  | 0x03 => need (f.okCmp && f.rm == 0) (.vfcmpUnord f.ctl f.pd f.a f.src2 f.ty)
  | _ => .error .illegalInsn

/-- Major 0x0A: predicates (R91, R175). -/
def decodeVpred (f : LaneFields) : Except DecodeError Instr :=
  let z := f.base && f.noFlags && f.k == 0 && f.imm == 0
  match f.func.toNat with
  | 0x00 => need (z && f.ty == 0 && guardOk f.pd && guardOk f.pa && f.c.toNat < 2 && guardOk f.pb) (.vpand f.ctl f.pd f.pa f.pb)
  | 0x01 => need (z && f.ty == 0 && guardOk f.pd && guardOk f.pa && f.c.toNat < 2 && guardOk f.pb) (.vpor f.ctl f.pd f.pa f.pb)
  | 0x02 => need (z && f.ty == 0 && guardOk f.pd && guardOk f.pa && f.c.toNat < 2 && guardOk f.pb) (.vpxor f.ctl f.pd f.pa f.pb)
  | 0x03 => need (z && f.ty == 0 && guardOk f.pd && guardOk f.pa && f.c.toNat < 2 && guardOk f.pb) (.vpandn f.ctl f.pd f.pa f.pb)
  | 0x04 => need (z && f.ty == 0 && guardOk f.pd && guardOk f.pa && f.b == 0 && f.c == 0) (.vpnot f.ctl f.pd f.pa)
  | 0x05 => need (z && f.ty == 0 && guardOk f.pd && guardOk f.pa && f.b == 0 && f.c == 0) (.vpmov f.ctl f.pd f.pa)
  | 0x06 => need (z && f.ty == 0 && guardOk f.pd && !f.ah && f.a == 0 && f.b == 0 && f.c == 0) (.vpset f.ctl f.pd)
  | 0x07 => need (z && f.ty == 0 && guardOk f.pd && !f.ah && f.a == 0 && f.b == 0 && f.c == 0) (.vpclr f.ctl f.pd)
  | 0x08 => need (z && f.ty == 0 && !f.dh && guardOk f.pa && f.b == 0 && f.c == 0) (.vpcnt f.ctl f.d f.pa)
  | 0x09 => need (z && f.ty == 0 && !f.dh && guardOk f.pa && f.b == 0 && f.c == 0) (.vpfirst f.ctl f.d f.pa)
  | 0x0A => need (z && tyOk f.ty && guardOk f.pd && !f.ah && f.b == 0 && f.c == 0) (.vpfrom f.ctl f.pd f.a f.ty)
  | 0x0B => need (z && tyOk f.ty && !f.dh && guardOk f.pa && f.b == 0 && f.c == 0) (.vpto f.ctl f.d f.pa f.ty)
  | _ => .error .illegalInsn

/-- Major 0x0B: moves (R91, R176). `vmvx` takes no guard (R165). -/
def decodeVmove (f : LaneFields) : Except DecodeError Instr :=
  match f.func.toNat with
  | 0x00 => need (f.okBin && f.a == 0) (.vmv f.ctl f.d f.src2 f.ty)
  | 0x01 => need f.okBin (.vmerge f.ctl f.d f.a f.src2 f.ty)
  | 0x02 => need (f.okUn && f.a == 0) (.vid f.ctl f.d f.ty)
  | 0x03 => need (f.okUn && f.guard == 0 && !f.neg) (.vmvx f.last f.d f.a f.ty)
  | _ => .error .illegalInsn

/-- Major 0x0C: reductions (R91, R177). -/
def decodeVred (f : LaneFields) : Except DecodeError Instr :=
  match f.op5 with
  | 0x00 => need (f.okUn && f.rm == 0) (.vredsum f.ctl f.d f.a f.ty)
  | 0x01 => need (f.okUn && f.rm == 0) (.vredmin f.ctl f.d f.a f.ty)
  | 0x02 => need (f.okUn && f.rm == 0) (.vredmax f.ctl f.d f.a f.ty)
  | 0x03 => need (f.okUn && f.rm == 0) (.vredand f.ctl f.d f.a f.ty)
  | 0x04 => need (f.okUn && f.rm == 0) (.vredor f.ctl f.d f.a f.ty)
  | 0x05 => need (f.okUn && f.rm == 0) (.vredxor f.ctl f.d f.a f.ty)
  | 0x06 => need (f.okUn && rmOk f.rm) (.vfredsum f.ctl f.rm f.d f.a f.ty)
  | 0x07 => need (f.okUn && f.rm == 0) (.vfredmin f.ctl f.d f.a f.ty)
  | 0x08 => need (f.okUn && f.rm == 0) (.vfredmax f.ctl f.d f.a f.ty)
  | _ => .error .illegalInsn

/-- Major 0x0D: scans (R91, R178). -/
def decodeVscan (f : LaneFields) : Except DecodeError Instr :=
  match f.op5 with
  | 0x00 => need (f.okUn && f.rm == 0) (.vscanAdd f.ctl f.d f.a f.ty)
  | 0x01 => need (f.okUn && f.rm == 0) (.vscanMin f.ctl f.d f.a f.ty)
  | 0x02 => need (f.okUn && f.rm == 0) (.vscanMax f.ctl f.d f.a f.ty)
  | 0x03 => need (f.okUn && rmOk f.rm) (.vfscanAdd f.ctl f.rm f.d f.a f.ty)
  | _ => .error .illegalInsn

/-- Major 0x0E: permutes (R91, R179). -/
def decodeVperm (f : LaneFields) : Except DecodeError Instr :=
  match f.op5 with
  | 0x00 => need (f.base && f.noHigh && f.src2Ok && tyOk f.ty && f.rm == 0) (.vshup f.ctl f.d f.a f.src2 f.c f.ty)
  | 0x01 => need (f.base && f.noHigh && f.src2Ok && tyOk f.ty && f.rm == 0) (.vshdn f.ctl f.d f.a f.src2 f.c f.ty)
  | 0x02 => need (f.okBin && f.rm == 0) (.vpick f.ctl f.d f.a f.src2 f.ty)
  | 0x03 => need (f.okUn && f.rm == 0) (.vpack f.ctl f.d f.a f.ty)
  | 0x04 => need (f.okBin && f.rm == 0) (.vxchg f.ctl f.d f.a f.src2 f.ty)
  | 0x05 => need (f.okBin && f.rm == 0) (.vbcast f.ctl f.d f.a f.src2 f.ty)
  | 0x06 => need (f.okUn && f.rm == 0) (.vrev f.ctl f.d f.a f.ty)
  | _ => .error .illegalInsn

/-- Major 0x10: loads (R92, R182). Per-lane strided accesses are unassigned. -/
def decodeVload (f : LaneFields) : Except DecodeError Instr :=
  let z := f.okMem && ordOk f.ord
  let q := f.auth
  match (f.func.extractLsb' 0 3).toNat with
  | 0 => need (z && tyOk f.ty && authOk q && f.a == 0 && f.b == 0 && f.c == 0) (.vld f.ctl f.ord f.d q f.imm f.ty)
  | 1 => if q.perLane then .error .illegalInsn
         else need (z && tyOk f.ty && authOk q && f.a == 0 && f.c == 0) (.vlds f.ctl f.ord f.d f.b f.k f.imm f.ty)
  | 2 => need (z && tyOk f.ty && authOk q && f.b == 0 && f.c == 0 && f.imm == 0) (.vldx f.ctl f.ord f.d f.a q f.ty)
  | 3 => need (z && tyOk f.ty && authOk q && f.a == 0 && f.b == 0) (.vldff f.ctl f.ord f.d f.c q f.imm f.ty)
  | 4 => need (z && tyOk f.ty && !q.perLane && f.k == 0 && f.b == 0 && f.c == 0) (.vldp f.ctl f.ord f.d f.a f.imm f.ty)
  | 5 => need (z && f.ty == 0 && authOk q && f.b == 0 && f.c == 0 && f.imm == 0) (.vldc f.ctl f.ord f.d f.a q)
  | _ => .error .illegalInsn

/-- Major 0x11: stores (R92, R182). -/
def decodeVstore (f : LaneFields) : Except DecodeError Instr :=
  let z := f.okMem && ordOk f.ord
  let q := f.auth
  match (f.func.extractLsb' 0 3).toNat with
  | 0 => need (z && tyOk f.ty && authOk q && f.a == 0 && f.b == 0 && f.c == 0) (.vst f.ctl f.ord f.d q f.imm f.ty)
  | 1 => if q.perLane then .error .illegalInsn
         else need (z && tyOk f.ty && authOk q && f.a == 0 && f.c == 0) (.vsts f.ctl f.ord f.d f.b f.k f.imm f.ty)
  | 2 => need (z && tyOk f.ty && authOk q && f.b == 0 && f.c == 0 && f.imm == 0) (.vstx f.ctl f.ord f.d f.a q f.ty)
  | 4 => need (z && tyOk f.ty && !q.perLane && f.k == 0 && f.b == 0 && f.c == 0) (.vstp f.ctl f.ord f.d f.a f.imm f.ty)
  | 5 => need (z && f.ty == 0 && authOk q && f.b == 0 && f.c == 0 && f.imm == 0) (.vstc f.ctl f.ord f.d f.a q)
  | _ => .error .illegalInsn

/-- The imm32 of an atomic: only [0] and [6] may be set (R93). -/
def atomImmOk (x : BitVec 32) : Bool := x &&& 0xFFFFFFBE == 0

/-- Major 0x12: `vatom` (R93, R230). -/
def decodeVatom (f : LaneFields) : Except DecodeError Instr :=
  let op : BitVec 5 := f.func.extractLsb' 0 5
  let nr := f.imm.getLsbD 0
  if op.toNat < 24 then
    need (f.okMem && f.ty == 0 && scopeOk f.rm && atomImmOk f.imm && authOk f.authImm && (!nr || f.d == 0) && (isCas op || f.c == 0))
      (.vatom f.ctl f.rm op f.d f.a f.b f.c f.authImm nr)
  else .error .illegalInsn

/-- Major 0x13: `vatom32` (R93, R232). -/
def decodeVatom32 (f : LaneFields) : Except DecodeError Instr :=
  let op : BitVec 5 := f.func.extractLsb' 0 5
  let nr := f.imm.getLsbD 0
  if op.toNat < 6 then
    need (f.okMem && f.ty == 0 && f.c == 0 && scopeOk f.rm && atomImmOk f.imm && authOk f.authImm && (!nr || f.d == 0))
      (.vatom32 f.ctl f.rm op f.d f.a f.b f.authImm nr)
  else .error .illegalInsn

/-- Major 0x14: `vlrc` (R93, R240). -/
noncomputable def decodeVlrc (f : LaneFields) : Except DecodeError Instr :=
  if f.func == 0 then
    need (f.okMem && f.ty == 0 && f.imm.toNat < 256 && authOk f.authImm)
      (.vlrc f.ctl f.d f.a f.b f.c f.authImm (f.imm.extractLsb' 0 6) (f.imm.getLsbD 7))
  else .error .illegalInsn

/-- Major 0x15: `vbasket` (R93, R188). -/
noncomputable def decodeVbasket (f : LaneFields) : Except DecodeError Instr :=
  if f.func == 0 then
    need (f.okMem && f.ty == 0 && f.d == 0 && f.c == 0 && f.k == 0 && f.imm == 0) (.vbasket f.ctl f.a f.b)
  else .error .illegalInsn

/-- The lane opcode map (R91). -/
noncomputable def decodeLaneFields (f : LaneFields) : Except DecodeError Instr :=
  match f.maj.toNat with
  | 0x01 => decodeVtype f
  | 0x02 => decodeVint f
  | 0x03 => decodeVwiden f
  | 0x04 => decodeVmacc f
  | 0x05 => decodeVfloat f
  | 0x06 => decodeVfused f
  | 0x07 => decodeVcvt f
  | 0x08 => decodeVcmp f
  | 0x09 => decodeVfcmp f
  | 0x0A => decodeVpred f
  | 0x0B => decodeVmove f
  | 0x0C => decodeVred f
  | 0x0D => decodeVscan f
  | 0x0E => decodeVperm f
  | 0x10 => decodeVload f
  | 0x11 => decodeVstore f
  | 0x12 => decodeVatom f
  | 0x13 => decodeVatom32 f
  | 0x14 => decodeVlrc f
  | 0x15 => decodeVbasket f
  | _ => .error .illegalInsn

/-- The fault of a decoding, if it is one. -/
def decodeFault : Except DecodeError Instr → Option DecodeError
  | .ok _ => none
  | .error e => some e

/-- The fault that a lane word takes instead of standing for an instruction (R99 steps 2 and 3), found without building the instruction. -/
def laneFault (f : LaneFields) : Option DecodeError :=
  let sel (func ok : Bool) : Option DecodeError := if func then (if ok then none else some .reservedEnc) else some .illegalInsn
  match f.maj.toNat with
  | 0x01 => decodeFault (decodeVtype f)
  | 0x02 => decodeFault (decodeVint f)
  | 0x03 => decodeFault (decodeVwiden f)
  | 0x04 => decodeFault (decodeVmacc f)
  | 0x05 => decodeFault (decodeVfloat f)
  | 0x06 => decodeFault (decodeVfused f)
  | 0x07 => decodeFault (decodeVcvt f)
  | 0x08 => decodeFault (decodeVcmp f)
  | 0x09 => decodeFault (decodeVfcmp f)
  | 0x0A => decodeFault (decodeVpred f)
  | 0x0B => decodeFault (decodeVmove f)
  | 0x0C => decodeFault (decodeVred f)
  | 0x0D => decodeFault (decodeVscan f)
  | 0x0E => decodeFault (decodeVperm f)
  | 0x10 => decodeFault (decodeVload f)
  | 0x11 => decodeFault (decodeVstore f)
  | 0x12 => decodeFault (decodeVatom f)
  | 0x13 => decodeFault (decodeVatom32 f)
  | 0x14 => sel (f.func == 0) (f.okMem && f.ty == 0 && f.imm.toNat < 256 && authOk f.authImm)
  | 0x15 => sel (f.func == 0) (f.okMem && f.ty == 0 && f.d == 0 && f.c == 0 && f.k == 0 && f.imm == 0)
  | _ => some .illegalInsn

/-- What a lane word stands for, or the fault of R99 it takes. -/
noncomputable def decodeLane (w : BitVec 96) : Except DecodeError Instr := decodeLaneFields (.ofWord w)

/-! ### The routine word -/

/-- The fields of a routine word (R95): operation code, d, a, and [15:0], which RR, RF and RS divide further. -/
structure RoutineFields where
  op  : BitVec 6
  d   : BitVec 5
  a   : BitVec 5
  imm : BitVec 16
  deriving DecidableEq, Repr

/-- The fields of a routine word (R95). -/
def RoutineFields.ofWord (w : BitVec 32) : RoutineFields :=
  ⟨w.extractLsb' 26 6, w.extractLsb' 21 5, w.extractLsb' 16 5, w.extractLsb' 0 16⟩

/-- The routine word with these fields (R95). -/
def RoutineFields.toWord (f : RoutineFields) : BitVec 32 := f.op ++ f.d ++ f.a ++ f.imm

/-- Field b of the RR and RS layouts: [15:11] (R95). -/
def RoutineFields.b (f : RoutineFields) : BitVec 5 := f.imm.extractLsb' 11 5

/-- What a routine word stands for. R98 gives one fate to every illegal word, so its error is always `illegalInsn`. -/
noncomputable def decodeRoutineFields (f : RoutineFields) : Except DecodeError Instr :=
  let okI (ok : Bool) (i : Instr) : Except DecodeError Instr := if ok then .ok i else .error .illegalInsn
  let rr := routineDst f.d && routineSrc f.a && routineSrc f.b && f.imm.extractLsb' 0 11 == 0
  let pos : BitVec 6 := f.imm.extractLsb' 6 6
  let len : BitVec 6 := f.imm.extractLsb' 0 6
  let rf := routineDst f.d && routineSrc f.a && f.imm.extractLsb' 12 4 == 0 && pos.toNat + len.toNat < 64
  let n : BitVec 5 := f.imm.extractLsb' 0 5
  let rs := f.d == 0 && routineSrc f.a && routineSrc f.b && f.imm.extractLsb' 5 6 == 0 && n != 0
  match f.op.toNat with
  | 0x01 => okI rr (.routineAdd f.d f.a f.b)
  | 0x02 => okI rr (.routineSub f.d f.a f.b)
  | 0x03 => okI rr (.routineAnd f.d f.a f.b)
  | 0x04 => okI rr (.routineOr f.d f.a f.b)
  | 0x05 => okI rr (.routineXor f.d f.a f.b)
  | 0x06 => okI rr (.routineSll f.d f.a f.b)
  | 0x07 => okI rr (.routineSrl f.d f.a f.b)
  | 0x08 => okI rr (.routineSra f.d f.a f.b)
  | 0x09 => okI rr (.routineMinS64 f.d f.a f.b)
  | 0x0A => okI rr (.routineMinZ64 f.d f.a f.b)
  | 0x0B => okI rr (.routineMaxS64 f.d f.a f.b)
  | 0x0C => okI rr (.routineMaxZ64 f.d f.a f.b)
  | 0x0D => okI rr (.routineSltS64 f.d f.a f.b)
  | 0x0E => okI rr (.routineSltZ64 f.d f.a f.b)
  | 0x0F => okI rr (.routineSeq f.d f.a f.b)
  | 0x10 => okI rr (.routineCsel f.d f.a f.b)
  | 0x11 => okI rr (.routineMul f.d f.a f.b)
  | 0x12 => okI rr (.routineFaddF32 f.d f.a f.b)
  | 0x13 => okI rr (.routineFaddF64 f.d f.a f.b)
  | 0x14 => okI rr (.routineFminF32 f.d f.a f.b)
  | 0x15 => okI rr (.routineFminF64 f.d f.a f.b)
  | 0x16 => okI rr (.routineFmaxF32 f.d f.a f.b)
  | 0x17 => okI rr (.routineFmaxF64 f.d f.a f.b)
  | 0x18 => okI (routineDst f.d && routineSrc f.a) (.routineAddi f.d f.a f.imm)
  | 0x19 => okI (routineDst f.d && f.a == 0) (.routineLi f.d f.imm)
  | 0x1A => okI rf (.routineExt f.d f.a pos len)
  | 0x1B => okI rf (.routineIns f.d f.a pos len)
  | 0x1C => okI rs (.routineSkipEq f.a f.b n)
  | 0x1D => okI rs (.routineSkipNe f.a f.b n)
  | 0x1E => okI rs (.routineSkipLtS64 f.a f.b n)
  | 0x1F => okI rs (.routineSkipLtZ64 f.a f.b n)
  | 0x20 => if f.d == 0 && f.a == 0 && f.imm == 0 then .ok .routineRet
            else if f.d == 0 && f.a == 0 && f.imm == 1 then .ok .routineRetTc else .error .illegalInsn
  | 0x21 => okI (f.d == 0 && f.a == 0 && f.imm == 0) .routineFail
  | _ => .error .illegalInsn

/-- What a routine word stands for (R97, R98). -/
noncomputable def decodeRoutine (w : BitVec 32) : Except DecodeError Instr := decodeRoutineFields (.ofWord w)

/-! ### Encoders: the words of a well-formed instruction, from the same encoding tables -/

/-- The fields of a word of the Register layout with no capability operand. -/
def regWord (maj d a b : BitVec 6) (func : BitVec 8) : ScalarFields := ⟨maj, d, a, b, func⟩

/-- The fields of a System word: op in sub [13:12], the rest of sub given (R86). -/
def sysWord (maj d a : BitVec 6) (op : BitVec 2) (sub : BitVec 12) : ScalarFields := .ofImm maj d a (op ++ sub)

/-- The fields of a scalar instruction's word; `none` for an instruction that has no scalar word. -/
def encodeScalarFields : Instr → Option ScalarFields
  | .add d a b => some (regWord 0x01 d a b 0x00)
  | .sub d a b => some (regWord 0x01 d a b 0x01)
  | .and d a b => some (regWord 0x01 d a b 0x02)
  | .or d a b => some (regWord 0x01 d a b 0x03)
  | .xor d a b => some (regWord 0x01 d a b 0x04)
  | .andn d a b => some (regWord 0x01 d a b 0x05)
  | .sll d a b => some (regWord 0x01 d a b 0x06)
  | .srl d a b => some (regWord 0x01 d a b 0x07)
  | .sra d a b => some (regWord 0x01 d a b 0x08)
  | .mul d a b => some (regWord 0x01 d a b 0x09)
  | .mulhS64 d a b => some (regWord 0x01 d a b 0x0A)
  | .mulhZ64 d a b => some (regWord 0x01 d a b 0x0B)
  | .divS64 d a b => some (regWord 0x01 d a b 0x0C)
  | .divZ64 d a b => some (regWord 0x01 d a b 0x0D)
  | .remS64 d a b => some (regWord 0x01 d a b 0x0E)
  | .remZ64 d a b => some (regWord 0x01 d a b 0x0F)
  | .minS64 d a b => some (regWord 0x01 d a b 0x10)
  | .minZ64 d a b => some (regWord 0x01 d a b 0x11)
  | .maxS64 d a b => some (regWord 0x01 d a b 0x12)
  | .maxZ64 d a b => some (regWord 0x01 d a b 0x13)
  | .sltS64 d a b => some (regWord 0x01 d a b 0x14)
  | .sltZ64 d a b => some (regWord 0x01 d a b 0x15)
  | .seq d a b => some (regWord 0x01 d a b 0x16)
  | .sne d a b => some (regWord 0x01 d a b 0x17)
  | .clz d a => some (regWord 0x01 d a 0 0x18)
  | .ctz d a => some (regWord 0x01 d a 0 0x19)
  | .popc d a => some (regWord 0x01 d a 0 0x1A)
  | .sextS8 d a => some (regWord 0x01 d a 0 0x1B)
  | .sextS16 d a => some (regWord 0x01 d a 0 0x1C)
  | .sextS32 d a => some (regWord 0x01 d a 0 0x1D)
  | .zextZ8 d a => some (regWord 0x01 d a 0 0x1E)
  | .zextZ16 d a => some (regWord 0x01 d a 0 0x1F)
  | .zextZ32 d a => some (regWord 0x01 d a 0 0x20)
  | .addi d a imm => some (.ofImm 0x02 d a imm)
  | .andi d a imm => some (.ofImm 0x03 d a imm)
  | .ori d a imm => some (.ofImm 0x04 d a imm)
  | .xori d a imm => some (.ofImm 0x05 d a imm)
  | .sltiS64 d a imm => some (.ofImm 0x07 d a imm)
  | .sltiZ64 d a imm => some (.ofImm 0x08 d a imm)
  | .sethi d a imm => some (.ofImm 0x0A d a imm)
  | .slli d a n => some (regWord 0x06 d a 0 (0#2 ++ n))
  | .srli d a n => some (regWord 0x06 d a 0 (1#2 ++ n))
  | .srai d a n => some (regWord 0x06 d a 0 (2#2 ++ n))
  | .ldZ8 d a imm => some (.ofImm 0x0B d (ofCap a) imm)
  | .ldZ16 d a imm => some (.ofImm 0x0C d (ofCap a) imm)
  | .ldZ32 d a imm => some (.ofImm 0x0D d (ofCap a) imm)
  | .ldB64 d a imm => some (.ofImm 0x0E d (ofCap a) imm)
  | .ldS8 d a imm => some (.ofImm 0x0F d (ofCap a) imm)
  | .ldS16 d a imm => some (.ofImm 0x10 d (ofCap a) imm)
  | .ldS32 d a imm => some (.ofImm 0x11 d (ofCap a) imm)
  | .stZ8 d a imm => some (.ofImm 0x12 d (ofCap a) imm)
  | .stZ16 d a imm => some (.ofImm 0x13 d (ofCap a) imm)
  | .stZ32 d a imm => some (.ofImm 0x14 d (ofCap a) imm)
  | .stB64 d a imm => some (.ofImm 0x15 d (ofCap a) imm)
  | .ldx d a b o ty => some (regWord 0x16 d (ofCap a) b (BitVec.ofBool o.on ++ o.scope ++ 0#1 ++ ty))
  | .stx d a b o ty => some (regWord 0x17 d (ofCap a) b (BitVec.ofBool o.on ++ o.scope ++ 0#2 ++ ty))
  | .lc d a imm => some (.ofImm 0x18 (ofCap d) (ofCap a) imm)
  | .sc d a imm => some (.ofImm 0x19 (ofCap d) (ofCap a) imm)
  | .atom d a b sc op => some (regWord 0x1A d (ofCap a) b (sc ++ op))
  | .barArrive n => some (sysWord 0x1B 0 0 0 (n.setWidth 12))
  | .barWait n => some (sysWord 0x1B 0 0 1 (n.setWidth 12))
  | .barSync n => some (sysWord 0x1B 0 0 2 (n.setWidth 12))
  | .barInit n a => some (sysWord 0x1B 0 a 3 (n.setWidth 12))
  | .msend d a b => some (sysWord 0x1C d (ofCap a) 0 (b.setWidth 12))
  | .mpost d a b => some (sysWord 0x1C d (ofCap a) 1 (b.setWidth 12))
  | .mrecv d a b => some (sysWord 0x1C d (ofCap a) 2 (b.setWidth 12))
  | .mprobe d a b => some (sysWord 0x1C d (ofCap a) 3 (b.setWidth 12))
  | .qpost d a => some (sysWord 0x1D d (ofCap a) 0 0)
  | .exit => some (sysWord 0x1D 0 0 1 0)
  | .exitc a => some (sysWord 0x1D 0 (ofCap a) 2 0)
  | .bflush a => some (sysWord 0x1D 0 a 3 0)
  | .trapAll g n => some (sysWord 0x1E 0 0 0 ((BitVec.ofBool n ++ g).setWidth 12))
  | .trapAny d g n => some (sysWord 0x1E d 0 1 ((BitVec.ofBool n ++ g).setWidth 12))
  | .trapwait => some (sysWord 0x1E 0 0 2 0)
  | .fenceAcq sc => some (regWord 0x1F 0 0 0 (0#3 ++ 0#2 ++ sc))
  | .fenceRel sc => some (regWord 0x1F 0 0 0 (0#3 ++ 1#2 ++ sc))
  | .fenceAr sc => some (regWord 0x1F 0 0 0 (0#3 ++ 2#2 ++ sc))
  | .fenceSc sc => some (regWord 0x1F 0 0 0 (0#3 ++ 3#2 ++ sc))
  | .cbound d a b => some (regWord 0x20 (ofCap d) (ofCap a) b 0x00)
  | .cboundExact d a b => some (regWord 0x20 (ofCap d) (ofCap a) b 0x01)
  | .cperm d a b => some (regWord 0x20 (ofCap d) (ofCap a) b 0x02)
  | .cinc d a b => some (regWord 0x20 (ofCap d) (ofCap a) b 0x03)
  | .cset d a b => some (regWord 0x20 (ofCap d) (ofCap a) b 0x04)
  | .ccolour d a b => some (regWord 0x20 (ofCap d) (ofCap a) b 0x20)
  | .cseal d a b => some (regWord 0x20 (ofCap d) (ofCap a) (ofCap b) 0x05)
  | .cunseal d a b => some (regWord 0x20 (ofCap d) (ofCap a) (ofCap b) 0x06)
  | .cmov d a => some (regWord 0x20 (ofCap d) (ofCap a) 0 0x07)
  | .ccleartag d a => some (regWord 0x20 (ofCap d) (ofCap a) 0 0x10)
  | .cgetaddr d a => some (regWord 0x20 d (ofCap a) 0 0x08)
  | .cgetbase d a => some (regWord 0x20 d (ofCap a) 0 0x09)
  | .cgettop d a => some (regWord 0x20 d (ofCap a) 0 0x0A)
  | .cgetperm d a => some (regWord 0x20 d (ofCap a) 0 0x0B)
  | .cgettype d a => some (regWord 0x20 d (ofCap a) 0 0x0C)
  | .cgetcolour d a => some (regWord 0x20 d (ofCap a) 0 0x0D)
  | .cgettag d a => some (regWord 0x20 d (ofCap a) 0 0x0E)
  | .cgetlen d a => some (regWord 0x20 d (ofCap a) 0 0x0F)
  | .ctestsub d a b => some (regWord 0x20 d (ofCap a) (ofCap b) 0x11)
  | .cexlen d a => some (regWord 0x20 d a 0 0x12)
  | .cexalign d a b => some (regWord 0x20 d a b 0x13)
  | .cinci d a imm => some (.ofImm 0x21 (ofCap d) (ofCap a) imm)
  | .beq a b off => some (.ofImm 0x24 a b off)
  | .bne a b off => some (.ofImm 0x25 a b off)
  | .bltS64 a b off => some (.ofImm 0x26 a b off)
  | .bgeS64 a b off => some (.ofImm 0x27 a b off)
  | .bltZ64 a b off => some (.ofImm 0x28 a b off)
  | .bgeZ64 a b off => some (.ofImm 0x29 a b off)
  | .j off => some (.ofJump 0x2A off)
  | .jal off => some (.ofJump 0x2B off)
  | .jr a => some (regWord 0x2C 0 a 0 0x00)
  | .jalr d a => some (regWord 0x2C d a 0 0x01)
  | .lqwait => some (regWord 0x2D 0 0 0 0)
  | .lrun a off => some (.ofImm 0x30 0 a off)
  | .waitc ld st cp mx => some (regWord 0x31 ld st cp (mx ++ 0#2))
  | .rdcsr d n => some (sysWord 0x32 d 0 0 n)
  | .wrcsr a n => some (sysWord 0x32 0 a 1 n)
  | .setcsr a n => some (sysWord 0x32 0 a 2 n)
  | .clrcsr a n => some (sysWord 0x32 0 a 3 n)
  | .spsize d a => some (regWord 0x33 d a 0 0)
  | .mxlds a b pair ty => some (regWord 0x34 0 (ofCap a) b (0#3 ++ 0#1 ++ BitVec.ofBool pair ++ ty))
  | .mxmm acc z a b flip pair ty =>
    some (regWord 0x34 (0#3 ++ BitVec.ofBool z ++ acc) (ofCap a) b (1#3 ++ BitVec.ofBool flip ++ BitVec.ofBool pair ++ ty))
  | .mxst acc a b pair ty => some (regWord 0x34 (acc.setWidth 6) (ofCap a) b (2#3 ++ 0#1 ++ BitVec.ofBool pair ++ ty))
  | .mxzero acc pair => some (regWord 0x34 (acc.setWidth 6) 0 0 (3#3 ++ 0#1 ++ BitVec.ofBool pair ++ 0#3))
  | .mxfence d => some (regWord 0x34 d 0 0 0x80)
  | .mxwait a => some (regWord 0x34 0 a 0 0xA0)
  | .tcopy d a b mc fmt => some (regWord 0x35 (ofCap d) (ofCap a) (ofCap b) (0#4 ++ BitVec.ofBool mc ++ fmt))
  | .bcopy d a b ring => some (regWord 0x35 (ofCap d) (ofCap a) b (1#4 ++ BitVec.ofBool ring ++ 0#3))
  | .gnode d a => some (regWord 0x36 d (ofCap a) 0 0x00)
  | .gedge a b => some (regWord 0x36 0 a b 0x01)
  | .grplay d a => some (regWord 0x36 d (ofCap a) 0 0x02)
  | .gpatch d a b => some (regWord 0x36 d (ofCap a) b 0x03)
  | .gclose a => some (regWord 0x36 0 (ofCap a) 0 0x04)
  | .lrinst d a b => some (regWord 0x37 d (ofCap a) b 0x00)
  | .sret => some (regWord 0x3C 0 0 0 0)
  | .gresume a => some (regWord 0x3C 0 a 1 0)
  | .gend a => some (regWord 0x3C 0 a 2 0)
  | .gsave a => some (regWord 0x3C 0 a 3 0)
  | .tlbinv a => some (regWord 0x3C 0 a 4 0)
  | .tlbinvall => some (regWord 0x3C 0 0 5 0)
  | .revbcast a => some (regWord 0x3C 0 a 6 0)
  | .idle => some (regWord 0x3C 0 0 7 0)
  | _ => none

/-- The 32-bit word of a scalar instruction. -/
def encodeScalar (i : Instr) : Option (BitVec 32) := (encodeScalarFields i).map ScalarFields.toWord

/-- The fields that carry nothing but the control part and the opcode of a lane word. -/
def laneBase (c : Ctl) (maj : BitVec 7) (func : BitVec 8) : LaneFields :=
  ⟨c.last, maj, func, c.guard, c.neg, 0, 0, 0, 0, 0, 0, false, false, false, false, false, false, 0⟩

/-- Puts a second source into the fields of a lane word (R89). -/
def LaneFields.withSrc2 (f : LaneFields) : Src2 → LaneFields
  | .vec b => { f with b := b }
  | .imm i => { f with b := i, fi := true }
  | .lit x => { f with imm := x, fl := true }
  | .sca k => { f with k := k, fs := true }

/-- A word d, a, second source, type. -/
def laneBin (c : Ctl) (maj : BitVec 7) (func : BitVec 8) (d a : BitVec 6) (x : Src2) (ty : BitVec 4) : LaneFields :=
  ({ laneBase c maj func with d := d, a := a, ty := ty }).withSrc2 x

/-- A word d, a, type. -/
def laneUn (c : Ctl) (maj : BitVec 7) (func : BitVec 8) (d a : BitVec 6) (ty : BitVec 4) : LaneFields :=
  { laneBase c maj func with d := d, a := a, ty := ty }

/-- A word with a predicate destination, a, second source, type. -/
def laneCmp (c : Ctl) (maj : BitVec 7) (func : BitVec 8) (pd : BitVec 7) (a : BitVec 6) (x : Src2) (ty : BitVec 4) : LaneFields :=
  ({ laneBase c maj func with d := pd.extractLsb' 0 6, dh := pd.getLsbD 6, a := a, ty := ty }).withSrc2 x

/-- A word of predicate logic: destination, and up to two predicate sources (R90). -/
def lanePred (c : Ctl) (func : BitVec 8) (pd pa pb : BitVec 7) : LaneFields :=
  { laneBase c 0x0A func with
    d := pd.extractLsb' 0 6, dh := pd.getLsbD 6, a := pa.extractLsb' 0 6, ah := pa.getLsbD 6,
    b := pb.extractLsb' 0 6, c := (pb.extractLsb' 6 1).setWidth 6 }

/-- A load or store word: func [7:3] from the ordering and the authority, mode in [2:0] (R92). -/
def laneMem (c : Ctl) (maj : BitVec 7) (o : Ord) (q : Auth) (mode : BitVec 3) (d : BitVec 6) (ty : BitVec 4) : LaneFields :=
  { laneBase c maj (BitVec.ofBool o.on ++ o.scope ++ BitVec.ofBool q.perLane ++ mode) with d := d, k := q.k, ty := ty }

/-- The fields of a lane instruction's word; `none` for an instruction that has no lane word. -/
def encodeLaneFields : Instr → Option LaneFields
  | .vsetl last d k vt => some { laneBase ⟨last, 0, false⟩ 0x01 0x00 with d := d, k := k, imm := vt.setWidth 32 }
  | .vsetli last d vt n => some { laneBase ⟨last, 0, false⟩ 0x01 0x01 with d := d, imm := n ++ 0#10 ++ vt }
  | .vadd c d a x ty => some (laneBin c 0x02 0x00 d a x ty)
  | .vsub c d a x ty => some (laneBin c 0x02 0x01 d a x ty)
  | .vrsub c d a x ty => some (laneBin c 0x02 0x02 d a x ty)
  | .vmul c d a x ty => some (laneBin c 0x02 0x03 d a x ty)
  | .vmulh c d a x ty => some (laneBin c 0x02 0x04 d a x ty)
  | .vdiv c d a x ty => some (laneBin c 0x02 0x05 d a x ty)
  | .vrem c d a x ty => some (laneBin c 0x02 0x06 d a x ty)
  | .vmin c d a x ty => some (laneBin c 0x02 0x07 d a x ty)
  | .vmax c d a x ty => some (laneBin c 0x02 0x08 d a x ty)
  | .vand c d a x ty => some (laneBin c 0x02 0x09 d a x ty)
  | .vor c d a x ty => some (laneBin c 0x02 0x0A d a x ty)
  | .vxor c d a x ty => some (laneBin c 0x02 0x0B d a x ty)
  | .vandn c d a x ty => some (laneBin c 0x02 0x0C d a x ty)
  | .vsll c d a x ty => some (laneBin c 0x02 0x0D d a x ty)
  | .vsrl c d a x ty => some (laneBin c 0x02 0x0E d a x ty)
  | .vsra c d a x ty => some (laneBin c 0x02 0x0F d a x ty)
  | .vaddSat c d a x ty => some (laneBin c 0x02 0x10 d a x ty)
  | .vsubSat c d a x ty => some (laneBin c 0x02 0x11 d a x ty)
  | .vclz c d a ty => some (laneUn c 0x02 0x12 d a ty)
  | .vpopc c d a ty => some (laneUn c 0x02 0x13 d a ty)
  | .vwadd c d a x ty => some (laneBin c 0x03 0x00 d a x ty)
  | .vwsub c d a x ty => some (laneBin c 0x03 0x01 d a x ty)
  | .vwmul c d a x ty => some (laneBin c 0x03 0x02 d a x ty)
  | .vnsrl c d a x ty => some (laneBin c 0x03 0x03 d a x ty)
  | .vnsra c d a x ty => some (laneBin c 0x03 0x04 d a x ty)
  | .vnclip c d a x ty => some (laneBin c 0x03 0x05 d a x ty)
  | .vmacc c d a x ty => some (laneBin c 0x04 0x00 d a x ty)
  | .vnmsac c d a x ty => some (laneBin c 0x04 0x01 d a x ty)
  | .vwmacc c d a x ty => some (laneBin c 0x04 0x02 d a x ty)
  | .vfadd c rm d a x ty => some (laneBin c 0x05 (rm ++ 0#5) d a x ty)
  | .vfsub c rm d a x ty => some (laneBin c 0x05 (rm ++ 1#5) d a x ty)
  | .vfmul c rm d a x ty => some (laneBin c 0x05 (rm ++ 2#5) d a x ty)
  | .vfdiv c rm d a x ty => some (laneBin c 0x05 (rm ++ 3#5) d a x ty)
  | .vfsqrt c rm d a ty => some (laneUn c 0x05 (rm ++ 4#5) d a ty)
  | .vfmin c d a x ty => some (laneBin c 0x05 0x05 d a x ty)
  | .vfmax c d a x ty => some (laneBin c 0x05 0x06 d a x ty)
  | .vfsgnj c d a x ty => some (laneBin c 0x05 0x07 d a x ty)
  | .vfsgnjn c d a x ty => some (laneBin c 0x05 0x08 d a x ty)
  | .vfsgnjx c d a x ty => some (laneBin c 0x05 0x09 d a x ty)
  | .vfabs c d a ty => some (laneUn c 0x05 0x0A d a ty)
  | .vfneg c d a ty => some (laneUn c 0x05 0x0B d a ty)
  | .vfkind c d a ty => some (laneUn c 0x05 0x0C d a ty)
  | .vfma c rm d a x e ty => some { laneBin c 0x06 (rm ++ 0#5) d a x ty with c := e }
  | .vfms c rm d a x e ty => some { laneBin c 0x06 (rm ++ 1#5) d a x ty with c := e }
  | .vfnma c rm d a x e ty => some { laneBin c 0x06 (rm ++ 2#5) d a x ty with c := e }
  | .vfnms c rm d a x e ty => some { laneBin c 0x06 (rm ++ 3#5) d a x ty with c := e }
  | .vfwma c rm d a x e ty => some { laneBin c 0x06 (rm ++ 4#5) d a x ty with c := e }
  | .vcvt c rm d a sty dty => some { laneUn c 0x07 (rm ++ 0#5) d a dty with c := sty.setWidth 6 }
  | .vcvtSat c rm d a sty dty => some { laneUn c 0x07 (rm ++ 1#5) d a dty with c := sty.setWidth 6 }
  | .vcmpEq c pd a x ty => some (laneCmp c 0x08 0x00 pd a x ty)
  | .vcmpNe c pd a x ty => some (laneCmp c 0x08 0x01 pd a x ty)
  | .vcmpLt c pd a x ty => some (laneCmp c 0x08 0x02 pd a x ty)
  | .vcmpLe c pd a x ty => some (laneCmp c 0x08 0x03 pd a x ty)
  | .vcmpGt c pd a x ty => some (laneCmp c 0x08 0x04 pd a x ty)
  | .vcmpGe c pd a x ty => some (laneCmp c 0x08 0x05 pd a x ty)
  | .vfcmpEq c pd a x ty => some (laneCmp c 0x09 0x00 pd a x ty)
  | .vfcmpLt c pd a x ty => some (laneCmp c 0x09 0x01 pd a x ty)
  | .vfcmpLe c pd a x ty => some (laneCmp c 0x09 0x02 pd a x ty)
  | .vfcmpUnord c pd a x ty => some (laneCmp c 0x09 0x03 pd a x ty)
  | .vpand c pd pa pb => some (lanePred c 0x00 pd pa pb)
  | .vpor c pd pa pb => some (lanePred c 0x01 pd pa pb)
  | .vpxor c pd pa pb => some (lanePred c 0x02 pd pa pb)
  | .vpandn c pd pa pb => some (lanePred c 0x03 pd pa pb)
  | .vpnot c pd pa => some (lanePred c 0x04 pd pa 0)
  | .vpmov c pd pa => some (lanePred c 0x05 pd pa 0)
  | .vpset c pd => some (lanePred c 0x06 pd 0 0)
  | .vpclr c pd => some (lanePred c 0x07 pd 0 0)
  | .vpcnt c d pa => some (lanePred c 0x08 (d.setWidth 7) pa 0)
  | .vpfirst c d pa => some (lanePred c 0x09 (d.setWidth 7) pa 0)
  | .vpfrom c pd a ty => some (laneCmp c 0x0A 0x0A pd a (.vec 0) ty)
  | .vpto c d pa ty => some { lanePred c 0x0B (d.setWidth 7) pa 0 with ty := ty }
  | .vmv c d x ty => some (laneBin c 0x0B 0x00 d 0 x ty)
  | .vmerge c d a x ty => some (laneBin c 0x0B 0x01 d a x ty)
  | .vid c d ty => some (laneUn c 0x0B 0x02 d 0 ty)
  | .vmvx last d a ty => some (laneUn ⟨last, 0, false⟩ 0x0B 0x03 d a ty)
  | .vredsum c d a ty => some (laneUn c 0x0C 0x00 d a ty)
  | .vredmin c d a ty => some (laneUn c 0x0C 0x01 d a ty)
  | .vredmax c d a ty => some (laneUn c 0x0C 0x02 d a ty)
  | .vredand c d a ty => some (laneUn c 0x0C 0x03 d a ty)
  | .vredor c d a ty => some (laneUn c 0x0C 0x04 d a ty)
  | .vredxor c d a ty => some (laneUn c 0x0C 0x05 d a ty)
  | .vfredsum c rm d a ty => some (laneUn c 0x0C (rm ++ 6#5) d a ty)
  | .vfredmin c d a ty => some (laneUn c 0x0C 0x07 d a ty)
  | .vfredmax c d a ty => some (laneUn c 0x0C 0x08 d a ty)
  | .vscanAdd c d a ty => some (laneUn c 0x0D 0x00 d a ty)
  | .vscanMin c d a ty => some (laneUn c 0x0D 0x01 d a ty)
  | .vscanMax c d a ty => some (laneUn c 0x0D 0x02 d a ty)
  | .vfscanAdd c rm d a ty => some (laneUn c 0x0D (rm ++ 3#5) d a ty)
  | .vshup c d a x e ty => some { laneBin c 0x0E 0x00 d a x ty with c := e }
  | .vshdn c d a x e ty => some { laneBin c 0x0E 0x01 d a x ty with c := e }
  | .vpick c d a x ty => some (laneBin c 0x0E 0x02 d a x ty)
  | .vpack c d a ty => some (laneUn c 0x0E 0x03 d a ty)
  | .vxchg c d a x ty => some (laneBin c 0x0E 0x04 d a x ty)
  | .vbcast c d a x ty => some (laneBin c 0x0E 0x05 d a x ty)
  | .vrev c d a ty => some (laneUn c 0x0E 0x06 d a ty)
  | .vld c o d q disp ty => some { laneMem c 0x10 o q 0 d ty with imm := disp }
  | .vlds c o d b k disp ty => some { laneMem c 0x10 o ⟨k, false⟩ 1 d ty with b := b, imm := disp }
  | .vldx c o d a q ty => some { laneMem c 0x10 o q 2 d ty with a := a }
  | .vldff c o d e q disp ty => some { laneMem c 0x10 o q 3 d ty with c := e, imm := disp }
  | .vldp c o d a disp ty => some { laneMem c 0x10 o ⟨0, false⟩ 4 d ty with a := a, imm := disp }
  | .vldc c o d a q => some { laneMem c 0x10 o q 5 d 0 with a := a }
  | .vst c o d q disp ty => some { laneMem c 0x11 o q 0 d ty with imm := disp }
  | .vsts c o d b k disp ty => some { laneMem c 0x11 o ⟨k, false⟩ 1 d ty with b := b, imm := disp }
  | .vstx c o d a q ty => some { laneMem c 0x11 o q 2 d ty with a := a }
  | .vstp c o d a disp ty => some { laneMem c 0x11 o ⟨0, false⟩ 4 d ty with a := a, imm := disp }
  | .vstc c o d a q => some { laneMem c 0x11 o q 5 d 0 with a := a }
  | .vatom c sc op d a b e q nr =>
    some { laneBase c 0x12 (sc ++ op) with
           d := d, a := a, b := b, c := e, k := q.k, imm := 0#25 ++ BitVec.ofBool q.perLane ++ 0#5 ++ BitVec.ofBool nr }
  | .vatom32 c sc op d a b q nr =>
    some { laneBase c 0x13 (sc ++ op) with
           d := d, a := a, b := b, k := q.k, imm := 0#25 ++ BitVec.ofBool q.perLane ++ 0#5 ++ BitVec.ofBool nr }
  | .vlrc c d a b e q n stop =>
    some { laneBase c 0x14 0x00 with
           d := d, a := a, b := b, c := e, k := q.k, imm := 0#24 ++ BitVec.ofBool stop ++ BitVec.ofBool q.perLane ++ n }
  | .vbasket c a b => some { laneBase c 0x15 0x00 with a := a, b := b }
  | _ => none

/-- The 96-bit word of a lane instruction. -/
def encodeLane (i : Instr) : Option (BitVec 96) := (encodeLaneFields i).map LaneFields.toWord

/-- The fields of a routine instruction's word; `none` for an instruction that has no routine word. -/
def encodeRoutineFields : Instr → Option RoutineFields
  | .routineAdd d a b => some ⟨0x01, d, a, b ++ 0#11⟩
  | .routineSub d a b => some ⟨0x02, d, a, b ++ 0#11⟩
  | .routineAnd d a b => some ⟨0x03, d, a, b ++ 0#11⟩
  | .routineOr d a b => some ⟨0x04, d, a, b ++ 0#11⟩
  | .routineXor d a b => some ⟨0x05, d, a, b ++ 0#11⟩
  | .routineSll d a b => some ⟨0x06, d, a, b ++ 0#11⟩
  | .routineSrl d a b => some ⟨0x07, d, a, b ++ 0#11⟩
  | .routineSra d a b => some ⟨0x08, d, a, b ++ 0#11⟩
  | .routineMinS64 d a b => some ⟨0x09, d, a, b ++ 0#11⟩
  | .routineMinZ64 d a b => some ⟨0x0A, d, a, b ++ 0#11⟩
  | .routineMaxS64 d a b => some ⟨0x0B, d, a, b ++ 0#11⟩
  | .routineMaxZ64 d a b => some ⟨0x0C, d, a, b ++ 0#11⟩
  | .routineSltS64 d a b => some ⟨0x0D, d, a, b ++ 0#11⟩
  | .routineSltZ64 d a b => some ⟨0x0E, d, a, b ++ 0#11⟩
  | .routineSeq d a b => some ⟨0x0F, d, a, b ++ 0#11⟩
  | .routineCsel d a b => some ⟨0x10, d, a, b ++ 0#11⟩
  | .routineMul d a b => some ⟨0x11, d, a, b ++ 0#11⟩
  | .routineFaddF32 d a b => some ⟨0x12, d, a, b ++ 0#11⟩
  | .routineFaddF64 d a b => some ⟨0x13, d, a, b ++ 0#11⟩
  | .routineFminF32 d a b => some ⟨0x14, d, a, b ++ 0#11⟩
  | .routineFminF64 d a b => some ⟨0x15, d, a, b ++ 0#11⟩
  | .routineFmaxF32 d a b => some ⟨0x16, d, a, b ++ 0#11⟩
  | .routineFmaxF64 d a b => some ⟨0x17, d, a, b ++ 0#11⟩
  | .routineAddi d a imm => some ⟨0x18, d, a, imm⟩
  | .routineLi d imm => some ⟨0x19, d, 0, imm⟩
  | .routineExt d a pos len => some ⟨0x1A, d, a, 0#4 ++ pos ++ len⟩
  | .routineIns d a pos len => some ⟨0x1B, d, a, 0#4 ++ pos ++ len⟩
  | .routineSkipEq a b n => some ⟨0x1C, 0, a, b ++ 0#6 ++ n⟩
  | .routineSkipNe a b n => some ⟨0x1D, 0, a, b ++ 0#6 ++ n⟩
  | .routineSkipLtS64 a b n => some ⟨0x1E, 0, a, b ++ 0#6 ++ n⟩
  | .routineSkipLtZ64 a b n => some ⟨0x1F, 0, a, b ++ 0#6 ++ n⟩
  | .routineRet => some ⟨0x20, 0, 0, 0⟩
  | .routineRetTc => some ⟨0x20, 0, 0, 1⟩
  | .routineFail => some ⟨0x21, 0, 0, 0⟩
  | _ => none

/-- The 32-bit word of a routine instruction. -/
def encodeRoutine (i : Instr) : Option (BitVec 32) := (encodeRoutineFields i).map RoutineFields.toWord

/-! ### From bytes -/

/-- The little-endian value of a list of bytes (R5). -/
def leNat : List Byte → Nat
  | [] => 0
  | b :: bs => b.toNat + 256 * leNat bs

/-- The first `n` bytes of a value, little-endian (R5). -/
def leBytes : Nat → Nat → List Byte
  | 0, _ => []
  | n + 1, v => BitVec.ofNat 8 v :: leBytes n (v / 256)

/-- The encoder: the bytes of a scalar, lane or routine instruction, lowest address first; none for an event row. -/
def encode (i : Instr) : Option (List Byte) :=
  match encodeScalar i with
  | some w => some (leBytes 4 w.toNat)
  | none => match encodeLane i with
    | some w => some (leBytes 12 w.toNat)
    | none => (encodeRoutine i).map fun w => leBytes 4 w.toNat

/-- The decoder over bytes: 4 bytes are a scalar word, 12 a lane word; any other length is no instruction. -/
noncomputable def decodeBytes (bs : List Byte) : Except DecodeError Instr :=
  if bs.length = 4 then decodeScalar (BitVec.ofNat 32 (leNat bs))
  else if bs.length = 12 then decodeLane (BitVec.ofNat 96 (leNat bs))
  else .error .illegalInsn

/-- What the decoder reads from a word of the opcode table with `nbits` bits of value `w`. The table numbers the rows of routine words
    (R97) in the same 32 bits as scalar words; those bits are read as the scalar word. -/
noncomputable def decodeTableWord (nbits w : Nat) : Option Instr := (decodeBytes (leBytes (nbits / 8) w)).toOption

end Sys2Proof
end

