-- ==== Sys2Proof/Config.lean ====
section
/-! DEFINITION. What is fixed for the part: its sizes, its physical address map, and the free values that nothing constrains. -/
namespace Sys2Proof.Config

/-- VLEN on this part (R14, R44). -/
abbrev vlen : Nat := 2048
/-- Present 32-bit lanes of a group launched whole (R51). -/
abbrev lanes32 : Nat := 64
/-- Clusters of the package (R12). -/
abbrev nClusters : Nat := 192
/-- Clusters of one die (R12). -/
abbrev clustersPerDie : Nat := 48
/-- Resident slots of the package: 192 x 4 x 32 (R14, R278). -/
abbrev nSlots : Nat := 24576

/-- Keys of the memory map at and above this one are window offsets, below it physical addresses, which have 52 bits (R373): what counts on from one never
    reaches a window offset. DESIGN CHOICE: one map holds both (log entry 3). -/
abbrev windowKey : Nat := 2 ^ 53
/-- The window region's size: 192 cluster blocks of 16 MiB (R26). -/
abbrev windowSize : Nat := nClusters * 0x1000000
/-- Raw bytes of one HBM4 stack: 64 GB (R6, R24). -/
abbrev hbmRaw : Nat := 64000000000
/-- Stack i lies at i x 2^36. DESIGN CHOICE (log entry 3): the manual gives no physical map. -/
abbrev hbmStride : Nat := 2 ^ 36
/-- The second tier of die d lies at 2^40 + d x 2^39. DESIGN CHOICE (log entry 3). -/
abbrev tier2Base : Nat := 2 ^ 40
/-- See `tier2Base`. -/
abbrev tier2Stride : Nat := 2 ^ 39
/-- Raw bytes of the second tier of one die at most: 1536 GB over four dies (R2, R24). -/
abbrev tier2Most : Nat := 384000000000
/-- The firmware's own region, in the second tier of die 0 (R346 step 2, R386, R388): the page ownership table, the crash record, copies of packets. DESIGN
    CHOICE of its place and layout (log entry 63). -/
abbrev fwBase : Nat := tier2Base
/-- Its size, whole pages. -/
abbrev fwSize : Nat := 0x2100000
/-- FREE: the part, false SGJ-9400, true SGJ-9400M (R2). -/
opaque partM : Bool
/-- FREE: the CXL memory that an SGJ-9400 has attached (R2, R364): its raw bytes per die, up to 1536 GB over four dies, as boot reads its capacity and interleave
    (R346 step 2), beside the firmware's own region; and its bandwidth per die in bytes a second at the clock of reset (R403). -/
opaque cxl : Fin (tier2Most - fwSize + 1) × Nat
/-- Raw bytes of the second tier of one die (R2, R24). -/
def tier2Raw : Nat := if partM then tier2Most else fwSize + cxl.1.val
/-- The crash record of R386, behind the table's 32 MiB. -/
abbrev fwCrash : Nat := fwBase + 0x2000000
/-- The packet copies of R279, R282 and R353, in 1,024 places taken in turn. -/
abbrev fwCopies : Nat := fwCrash + 0x1000
/-- The edge register block of 64 KiB (R347). DESIGN CHOICE of its place (log entry 3). -/
abbrev edgeBase : Nat := 0xFFFFFFFFF0000
/-- Where the service kernel is copied and entered: die 0 HBM4 (R346 step 3). DESIGN CHOICE of the address (log entry 3). -/
abbrev kernelEntry : Word := 0
/-- Configuration: `WLTOPO` (R347: from configuration), a package alone. DESIGN CHOICE (log entry 6). -/
abbrev wltopo : Word := 0
/-- The firmware image in the flash at power-on. DESIGN CHOICE: a blank flash (log entry 6). -/
abbrev flashImage : List Byte := []
/-- Rated tokens of kind 1 per die and period (R403): the lines that 1024 cycles of the attached memory's bandwidth carry, at 1.6 GHz. -/
def ratedTier2 : Nat := if partM then 2000 else cxl.2 * 1024 / (1600000000 * 128)

/-- FREE: what the agents do when the schedule of the state is used up (log entry 4). -/
opaque freeTurn : Nat → Turn
/-- Keys at and above this one name bytes of other packages: + package x 2^52 + physical address there (R266, R373). DESIGN CHOICE of the
    numbering (log entry 3). -/
abbrev remoteKey : Nat := 2 ^ 56
/-- FREE: a byte of another package (R266), by the counter of the state and the key: what an agent there wrote last, or none where that is what this package
    wrote. -/
opaque remoteByte : Nat → Nat → Option Byte
/-- FREE: the cause with which another package refuses an access, if it does (R266): `WORLD_MISMATCH` or `TRANS_INVALID`. -/
opaque remoteRefuses : Nat → Nat → Option Bool
/-- FREE: a byte of ways that turn from cache to scratchpad (R21, R157), by the counter and the byte's place. -/
opaque lostByte : Nat → Nat → Byte
/-- FREE: which of several equal choices the part takes: a slot number (R149). -/
opaque freePick : Nat → Nat
/-- FREE: the number the dispatcher assigns to a launch (R59), by the count of launches. -/
opaque gridNumber : Nat → BitVec 32
/-- FREE: the cause code of an event whose rule names none (R282, R284), by its place among the codes of R63. -/
opaque freeCause : Nat → Fin 28
/-- FREE: the namespaces that the drives at an NVMe port offer (R360), by port and number: LBA data size and blocks. -/
opaque namespaces : Nat → Nat → Option (Nat × Nat)
/-- FREE: how another package takes a message: delivered, queued, or none where its queue is full (R148, R149). -/
opaque remoteSend : Nat → Option Bool
/-- FREE: what an invocation at another package answers (R240, R266), by the counter and the element: q, which status, in the order of the table of R240, and
    the flags it raises. -/
opaque remoteRoutine : Nat → Nat → Word × Fin 5 × BitVec 5
/-- FREE: a scale byte of a canonical tile that the microscaling conversion does not state: a block with no element in the tensor, or with elements of
    two MX blocks (R206), by the counter and the byte's place. -/
opaque freeScale : Nat → Nat → Byte
/-- FREE: what R288 does not state of a handle, its colour and bounds bits, by the counter. -/
opaque freeHandle : Nat → BitVec 36
/-- FREE: a gauge of the telemetry record that nothing in the machine determines (R413), by the counter and its offset. -/
opaque gauge : Nat → Nat → Nat
/-- FREE: the lines that a die's memory of a kind has moved since its last refill, in order (R405, R406); which lines miss every cache is open (log entry 50).
    Kinds are numbered 2 × die + kind. -/
opaque linesMoved : Nat → Nat → List LineMove
/-- FREE: for how many cycles since the last refill a die's cluster ports have held requests of a class (R406, R413), by the counter and 16 × die + class. -/
opaque cyclesHeld : Nat → Nat → Nat
/-- FREE: UTC in ns at a package reset (R290), by the count of resets. -/
opaque utcAtReset : Nat → Nat
/-- FREE: whether the configuration section asks for the fused security count to be raised (R346), by `FWVER`. -/
opaque raisesFuse : Word → Bool
/-- FREE: the build number of an image (R347), by its bytes. -/
opaque buildNumber : List Byte → BitVec 56
/-- FREE: a code that `BOOTSTAT` reports (R347, R366), by the image or topology it refuses. -/
opaque refusalCode : List Byte → BitVec 8
/-- FREE: the part number that GET_INFO reports (R401). -/
opaque partNumber : Word
/-- FREE: the fused digest of the vendor key and the fused security count (R344, R345). -/
opaque fusedDigest : List Byte
/-- FREE: see `fusedDigest`. -/
opaque fusedCount : Nat
/-- FREE: what the package's XMSS key is made of, and never leaves it (R398): the secret seed, the seed of the randomisers, the public seed, 32 bytes each. -/
opaque xmssSeeds : Vector Byte 32 × Vector Byte 32 × Vector Byte 32
/-- FREE: the package's ML-KEM-1024 decapsulation key (R396), the 3,168 bytes of FIPS 203. -/
opaque decapKey : Vector Byte 3168
/-- FREE: the vendor certificate of the signing key, in certificate slot 0 (R400), and its length, at most 8 KiB (R399). -/
opaque vendorCert : Vector Byte 8192 × Fin 8193
/-- FREE: the two flash records of the attestation index as they are at power-on (R398). -/
opaque indexRecords : Vector (Vector Byte 64) 2
/-- FREE: the index of a package neither of whose flash records is valid (R387, R398). -/
opaque indexWithout : Fin (2 ^ 20 + 1)

end Sys2Proof.Config
end

