-- ==== Sys2Proof/Machine/State.lean ====
section
/-! DEFINITION. The state of the package as plain data, the reasons a step can stop, and the state after reset. -/
namespace Sys2Proof.Machine
open Sys2Proof

/-- A sparse map: pairs of key and value, keys strictly rising, so that equal maps are equal lists. -/
abbrev SMap (α : Type) := List (Nat × α)

/-! ### Registers -/

/-- A capability: the fields of R64, and the tag. -/
structure Cap where
  perms  : BitVec 16
  otype  : BitVec 12
  colour : BitVec 8
  e      : BitVec 6
  bf     : BitVec 11
  lf     : BitVec 11
  cursor : Word
  tag    : Bool
  deriving DecidableEq, Repr, Inhabited

/-- The null capability: all zero, tag clear (R58). -/
def Cap.null : Cap := ⟨0, 0, 0, 0, 0, 0, 0, false⟩

/-- A vector register with one tag-shadow bit per 16-byte granule (R58, R72). -/
structure VReg where
  bits : VBits
  tags : BitVec 16
  deriving DecidableEq, Repr, Inhabited

/-- What a run copies at acceptance (R35, R60). -/
structure Snap where
  s     : Vector Word 64
  c     : Vector Cap 32
  fpctl : BitVec 5
  deriving DecidableEq, Repr

/-- An accepted run, whole or partial (R38): its number among the group's accepted runs, the words not yet issued, the address of the
    first of them, the snapshot, the head time once at Head, and whether it holds the issue slot. -/
structure Run where
  seq     : Nat
  words   : List (BitVec 96)
  addr    : Word
  snap    : Snap
  head    : Option Word
  issuing : Bool
  deriving DecidableEq, Repr

/-- A register or predicate that an outstanding operation will write. -/
inductive RegRef where
  | s (n : Nat)
  | c (n : Nat)
  | v (n : Nat)
  | p (n : Nat)
  deriving DecidableEq, Repr

/-- A write that lands when an operation returns: a scalar, a capability, bits of a vector register, or bits of a predicate. -/
inductive RegWrite where
  | s (n : Nat) (x : Word)
  | c (n : Nat) (x : Cap)
  | v (n lo width : Nat) (x : Nat) (tag : Bool)
  | p (n : Nat) (mask bits : VBits)
  deriving DecidableEq, Repr

/-- Where an atomic's or invocation's result goes: nowhere, a scalar (sign-extended from 32 bits or not), or bits of a vector register. -/
inductive ResDst where
  | none
  | s (n : Nat) (sx32 : Bool)
  | v (n lo width : Nat)
  deriving DecidableEq, Repr

/-- What a write does at its place: the bytes of a non-capability write, a capability with its tag, a number added to eight bytes, the bytes of a record with
    the tags of its granules. -/
inductive StallWrite where
  | put (bytes : List Byte)
  | cap (c : Cap) (tag : Bool)
  | add (n : Nat)
  | record (bytes : List Byte) (tags : List Bool)
  deriving DecidableEq, Repr

/-- A write that waits for the lock of a migrating page (R264, R378) or for an accumulator in use (R28). -/
structure Stall where
  key   : Nat
  write : StallWrite
  deriving DecidableEq, Repr

/-- One element of a fixed atomic: operand, compare value, destination (R228). -/
structure AtomElem where
  v   : Nat
  u   : Nat
  dst : ResDst
  deriving DecidableEq, Repr

/-- A request at one address: the operation of R228, and its elements in ascending lane order (R231). -/
structure AtomReq where
  key   : Nat
  op    : Nat
  elems : List AtomElem
  deriving DecidableEq, Repr

/-- One invocation: its element, the line's virtual address, operands and the places of q and the status (R240). -/
structure LineElem where
  k     : Nat
  x     : Word
  o0    : Word
  o1    : Word
  dq    : ResDst
  dst   : ResDst
  deriving DecidableEq, Repr

/-- The invocations of one `vlrc` on one line, by the line's key (R243). -/
structure LineReq where
  key   : Nat
  n     : Nat
  elems : List LineElem
  deriving DecidableEq, Repr

/-- An operation that has issued and not yet returned: counted in ld or st (R48); its atomic requests, invocations and stalled stores not yet
    performed, and what is written when it returns; the run that it stands in, if it is a lane word's (R40). `fp` marks an atomic whose flags FPSTAT reads wait for (R60), `stop` a `vlrc.stop`, whose
    nonzero statuses are noted in `ends`: element, status, line address (R240). -/
structure Pending where
  id     : Nat
  ld     : Bool
  regs   : List RegRef
  atoms  : List AtomReq
  lines  : List LineReq
  writes : List RegWrite
  flags  : BitVec 5
  fp     : Bool
  stop   : Bool
  ends   : List (Nat × Nat × Word)
  run    : Option Nat
  stores : List Stall
  deriving DecidableEq, Repr

/-- The scalar part that groups and service cores share: the registers of R58 and R59 that scalar words act on, the counters of
    R48, the operations outstanding, and those of them that a release fence orders before later writes (R251). `pc` is the cursor of
    SCODE (R59). -/
structure Hart where
  s     : Vector Word 64
  c     : Vector Cap 32
  pc    : Word
  scode : Cap
  cause : BitVec 9
  faddr : Word
  ld    : Nat
  st    : Nat
  cp    : Nat
  mx    : Nat
  pend  : List Pending
  fenced : List Nat
  deriving DecidableEq, Repr

/-! ### Groups and teams -/

/-- What a Parked group waits for (R147, R149). -/
inductive Wait where
  | bar (n : Nat)
  | recv (d : Nat) (any : Bool) (tag : BitVec 16) (cap : Cap)
  deriving DecidableEq, Repr

/-- The states of R50 in which a group is resident. Saved is an image in memory; Retired is absence. -/
inductive Life where
  | running
  | parked (w : Wait)
  | trapped
  | stopped
  | exiting
  deriving DecidableEq, Repr

/-- An arrival that waits for copies (R235): its number among the operations, its barrier and the copies. -/
structure Arrival where
  id   : Nat
  bar  : Nat
  ops  : List Nat
  deriving DecidableEq, Repr

/-- A closed matrix batch (R198), with its number among the operations and the accumulators that its operations use (R28). -/
structure Batch where
  id  : Nat
  num : BitVec 32
  ops : List Nat
  accs : List Nat
  deriving DecidableEq, Repr

/-- The lane part of a group (R58, R59), with the number of runs accepted so far, how many of them a release fence
    covers (R251), and how many one at `.clu` or wider (R259). -/
structure LaneState where
  v       : Vector VReg 64
  p       : Vector VBits 96
  vl      : Nat
  vtype   : BitVec 6
  present : Nat
  fpctl   : BitVec 5
  fpstat  : BitVec 5
  queue   : List Run
  lastRun : Option Word
  runs    : Nat
  relRuns : Nat
  fencedRuns : Nat
  deriving DecidableEq, Repr

/-- Stepping and breakpoint state of a group (R337, R339): step mode 0 none, 1 scalar, 2 lane; whether the stepped instruction has
    issued (the step-pending bit) and its address, and the first number of the operations that it starts; the stream whose next issue is exempt from a
    comparator (true the lane stream), and which. -/
structure StepState where
  mode    : Nat
  pending : Bool
  addr    : Word
  first   : Nat
  exempt  : Option (Bool × Nat)
  deriving DecidableEq, Repr

/-- A resident group (R29, R58, R59). Its place is its key. `copies` are its `tcopy` and `bcopy` commands in flight (R235), `openOps` its
    matrix operations since the last `mxfence` (R189) and `openAccs` the accumulators they use (R28). `priv` is the pool's capability with its cursor at the slot's private memory (R278). `owed` is the stop that a `vlrc.stop` left while the group
    waited, taken when it runs again (R50, R240); `stopAt` is when it stopped. -/
structure Group where
  hart     : Hart
  lane     : LaneState
  life     : Life
  index    : Nat
  role     : Nat
  team     : Nat
  ctx      : Nat
  world    : BitVec 8
  gridId   : BitVec 32
  teamId   : Word
  lcode    : Cap
  flanes   : VBits
  preempt  : BitVec 32
  vbud     : Nat
  sbud     : Nat
  tokens   : Vector (Option (BitVec 32)) 16
  arrivals : List Arrival
  copies   : List Nat
  openOps  : List Nat
  openAccs : List Nat
  batches  : List Batch
  lastClosed  : BitVec 32
  lastRetired : BitVec 32
  openGraph   : Option Nat
  stepping : StepState
  priv     : Cap
  privW    : Nat
  blocks   : List Nat
  cont     : Option (List Byte × List Bool)
  gen      : BitVec 16
  stopAt   : Nat
  owed     : Option (BitVec 8 × Word × VBits)
  deriving DecidableEq, Repr

/-- A barrier word (R234). -/
structure BarWord where
  exp  : Nat
  arr  : Nat
  pend : Nat
  gen  : BitVec 32
  deriving DecidableEq, Repr

/-- A requested save (R56, R379): destination, the time at which PREEMPTLIM expires, whether its groups are stopped yet, and
    whether it was forced; `byDisp` when the dispatcher asked for it (R277); CYCLE when its groups stopped (R381). -/
structure SaveReq where
  dest     : Word
  deadline : Nat
  started  : Bool
  forced   : Bool
  byDisp   : Bool
  rows     : Nat
  stopped  : Word
  deriving DecidableEq, Repr

/-- What a retired group leaves held for its team's heir (R282): its slot, budgets and register blocks. -/
structure Held where
  slot   : Nat
  v      : Nat
  s      : Nat
  blocks : List Nat
  deriving DecidableEq, Repr

/-- A team resident in a cluster (R29, R53, R275): its grid's number with the dispatcher, the slots of its groups, retired ones among them. `nbar` and `pair` are what it uses; `barSlots` and `pairHeld` what it holds, its parent's
    included, and `held` what its retired groups leave to its heir (R282). -/
structure Team where
  ctx      : Nat
  world    : BitVec 8
  gridId   : BitVec 32
  index    : Nat
  teamId   : Word
  cluster  : Nat
  way0     : Nat
  ways     : Nat
  nbar     : Nat
  bars     : Vector BarWord 16
  pair     : Option Nat
  issuer   : Nat
  slots    : List Nat
  live     : Nat
  ring     : Option Nat
  ringNext : Nat
  queue    : Nat
  prio     : Nat
  heir     : Option (List Byte × List Bool)
  grid     : Option Nat
  save     : Option SaveReq
  order    : Nat
  barSlots : Nat
  pairHeld : Option Nat
  held     : List Held
  deriving DecidableEq, Repr

/-! ### Engines -/

/-- A byte range of the memory map: first key and length. -/
structure Seg where
  lo  : Nat
  len : Nat
  deriving DecidableEq, Repr

/-- One entry of a cluster's range-lock table (R213): the operation that registered it, the granules of a range, and whether it is a
    destination. -/
structure Lock where
  op   : Nat
  segs : List Seg
  dst  : Bool
  deriving DecidableEq, Repr

/-- A target of a copy: where it writes, from which offset of what the operation writes on, and the allocation or register block it was issued
    against (R208, R211). -/
structure Target where
  off     : Nat
  segs    : List Seg
  cluster : Nat
  wayGens : List (Nat × BitVec 16)
  block   : Option (Nat × BitVec 16)
  alive   : Bool
  deriving DecidableEq, Repr

/-- Who issued an engine operation: a group, a service core, or a node of a graph instance (R223). -/
inductive Issuer where
  | group (slot : Nat) (gen : BitVec 16)
  | service (cluster : Nat)
  | node (die inst node : Nat)
  deriving DecidableEq, Repr

/-- A `tcopy` or `bcopy` in flight (R207 to R212): its capabilities, its shape record and storage format, the byte of the source hull that comes first, its source and
    targets, where its status words go, the cookie of a ring transfer; once started, the bytes it read and the tags of the whole granules among
    them; once its writes are done, the bytes delivered and whether any was dropped. -/
structure EngOp where
  id      : Nat
  issuer  : Issuer
  team    : Option Nat
  ctx     : Nat
  isBcopy : Bool
  src     : Cap
  dst     : Cap
  shapeCap : Cap
  len     : Nat
  fmt     : Nat
  shape   : List Byte
  lo      : Int
  srcSegs : List Seg
  targets : List Target
  status  : List Seg
  ring    : Option (BitVec 16)
  started : Bool
  bytes   : List Byte
  gtags   : List Bool
  done    : Bool
  delivered : Nat
  gone    : Bool
  deriving DecidableEq, Repr

/-- Where a matrix operation reads or writes its operand: its ranges, the 64-byte record of a tile handle, and the address that the first byte
    of the tile has, from which the tweak addresses count (R192, R201, R392). -/
structure MxSrc where
  segs   : List Seg
  handle : Option (List Byte)
  base   : Word
  deriving DecidableEq, Repr

/-- The matrix instructions (R194 to R197). -/
inductive MxKind where
  | lds (ty : Nat)
  | mm (acc ty : Nat) (z flip : Bool)
  | st (acc ty : Nat)
  | zero (acc : Nat)
  deriving DecidableEq, Repr

/-- A matrix operation in a core's queue (R189 to R191), with the register fields a and b of its word. A paired operation stands in both queues under one
    id. -/
structure MxOp where
  id      : Nat
  slot    : Nat
  team    : Nat
  ctx     : Nat
  kind    : MxKind
  pair    : Bool
  desc    : Word
  cap     : Cap
  src     : MxSrc
  started : Bool
  keyGen  : Nat
  row     : Nat
  a       : BitVec 6
  b       : BitVec 6
  deriving DecidableEq, Repr

/-- What filled a plane (R189, R200): the capability, descriptor and half of the `mxlds`, the key generation it used. -/
structure PlaneRec where
  cap    : Cap
  desc   : Word
  half   : Nat
  pair   : Bool
  ty     : Nat
  keyGen : Nat
  deriving DecidableEq, Repr

/-- A weight plane (R189). Bytes at and above the tile's length are zero. -/
structure Plane where
  ty    : Option Nat
  bytes : List Byte
  src   : Option PlaneRec
  deriving DecidableEq, Repr

/-- A compute core (R14, R40, R43, R189, R342, R343): the group that holds the lane issue slot, how many cycles of R17 are left of the word that issued there
    last, whether that group gives the slot up once they have passed, what each of them adds to the lane-cycle counts, and the cycles that the slot has waited
    since under R42; `issued` when the scalar pipeline has issued in this cycle, the slot that issued last, the groups that have issued, the latest first, by
    slot and generation (R341). -/
structure Core where
  active  : Plane
  shadow  : Plane
  mq      : List MxOp
  holder  : Option Nat
  left    : Nat
  ending  : Bool
  share   : List (Nat × Nat)
  waited  : Nat
  lastScalar : Nat
  issuers : List (Nat × BitVec 16)
  issued  : Bool
  events  : Vector Nat 15
  laneCycles : SMap Nat
  sampleAt : Nat
  deriving DecidableEq, Repr

/-! ### Clusters -/

/-- A leaf in the cluster TLB (R373, R375): context, virtual page, size code, the entry. -/
structure TlbEntry where
  ctx  : Nat
  page : Nat
  size : Nat
  pte  : Word
  deriving DecidableEq, Repr

/-- An event of the service core's queue (R353). -/
structure Event where
  kind  : BitVec 8
  cause : BitVec 8
  grp   : Word
  arg   : Word
  deriving DecidableEq, Repr

/-- A posted receive (R149): its slot, what it matches, and where its record goes. -/
structure Recv where
  slot : Nat
  any  : Bool
  tag  : BitVec 16
  key  : Nat
  deriving DecidableEq, Repr

/-- A queued message: its tag and its 16-byte record (R148). -/
structure Msg where
  tag : BitVec 16
  record : Nat
  deriving DecidableEq, Repr

/-- A message port (R148, R357). -/
structure Port where
  recvs : List Recv
  queue : List Msg
  deriving DecidableEq, Repr

/-- An entry of the Basket: its context, key and 32-byte payload, and its number in the order of deposits (R49). -/
structure BasketEntry where
  ctx   : Nat
  key   : BitVec 16
  pay   : BitVec 256
  num   : Nat
  deriving DecidableEq, Repr

/-- A launch that a bin has made and that awaits placement (R49, R284): its context, key and payloads, and the time since when. -/
structure BinLaunch where
  ctx   : Nat
  key   : BitVec 16
  pays  : List (BitVec 256)
  since : Nat
  deriving DecidableEq, Repr

/-- An entry of the Basket that has moved to its context's spill area (R49): its place there, in entries, and its number in the order of deposits. -/
structure SpillEntry where
  ctx   : Nat
  key   : BitVec 16
  place : Nat
  num   : Nat
  deriving DecidableEq, Repr

/-- The Basket of a cluster (R49): entries in deposit order, the entries it has spilled in the order of their spills, the time of each
    bin's last deposit by 65536 × context + key, and the launches that await placement. -/
structure Basket where
  entries : List BasketEntry
  spilled : List SpillEntry
  last    : SMap Nat
  ready   : List BinLaunch
  deriving DecidableEq, Repr

/-- The debug unit of a cluster (R336). -/
structure Debug where
  ctl    : BitVec 5
  sel    : BitVec 4
  bp     : Vector (Word × Word) 8
  wp     : Vector (Word × Word × Word) 4
  bins   : Vector (Word × Word) 16
  binctx : BitVec 16
  hit    : BitVec 5
  stepctl : BitVec 2
  trbase : Word
  trsize : Word
  trhead : Word
  trtail : Word
  trdrop : Word
  smpint : Word
  lcsel  : BitVec 10
  evsel  : BitVec 7
  deriving DecidableEq, Repr

/-- A revocation phase under way (R75, R356): context, phase, colours, the record's address, the operations whose end it awaits, its number. -/
structure RevPhase where
  ctx     : Nat
  release : Bool
  colours : BitVec 256
  addr    : Word
  waits   : List Nat
  id      : Nat
  deriving DecidableEq, Repr

/-- A page migration (R368, R378): SMIGSRC and SMIGDST; the page under way, its copy and its size code; being copied, locked, and the error bit. -/
structure Migration where
  src    : Word
  dst    : Word
  page   : Nat
  copy   : Nat
  size   : Nat
  busy   : Bool
  locked : Bool
  error  : Bool
  deriving DecidableEq, Repr

/-- The privileged state of a service core (R351, R352, R368, R387): its registers, events and restores in order; `timerTold` once STIMER has been
    reached, `wctl` and `kctl` the requests to the firmware under way; `held` are events that the full queue keeps at their sources. -/
structure Service where
  hart      : Hart
  released  : Bool
  sevtarg   : Word
  sevtgrp   : Word
  sepc      : Word
  inHandler : Bool
  stale     : Bool
  svec      : Word
  strapbase : Word
  ssavedst  : Word
  stimer    : Word
  events    : List Event
  held      : List Event
  restores  : List Word
  ctxctl    : Word
  mig       : Migration
  wpage     : Word
  wcount    : Word
  wresult   : Word
  ksel      : Nat
  kstatus   : BitVec 8
  kblob     : Word
  revs      : List RevPhase
  fpctl     : BitVec 5
  fpstat    : BitVec 5
  openGraph : Option Nat
  preempt   : BitVec 32
  timerTold : Bool
  wctl      : Word
  kctl      : Option Word
  deriving DecidableEq, Repr

/-- A cluster (R21, R148, R213, R375). -/
structure Cluster where
  split    : Nat
  splitCtx : Nat
  wayGens  : Vector (BitVec 16) 64
  slotGens : SMap (BitVec 16)
  tlb      : List TlbEntry
  ops      : List EngOp
  locks    : List Lock
  ports    : SMap Port
  kport    : Port
  basket   : Basket
  cores    : Vector Core 4
  svc      : Service
  dbg      : Debug
  deriving DecidableEq, Repr

/-! ### Dies, graphs, bandwidth -/

/-- A node of a graph object: 64 body bytes with their granules' tags, kind word and substitution word (R218). -/
structure GNode where
  body : List Byte
  tags : List Bool
  kind : Word
  subs : Word
  deriving DecidableEq, Repr

/-- A graph object in the walker's store (R217 to R222): its context, state, nodes, edges, the two parameter copies and which is the target. -/
structure Graph where
  ctx    : Nat
  state  : Nat
  nodes  : List GNode
  edges  : List (Nat × Nat)
  parA   : Vector Word 64
  parB   : Vector Word 64
  targetB : Bool
  deriving DecidableEq, Repr

/-- A replay of a die's walker (R222, R223): its graph, the copy it reads, per node the predecessors left, where each node stands (0 waiting, 1 started,
    2 ended, 3 skipped, 4 its packet posted), the first failure, and whether it is queued behind the live one. -/
structure Instance where
  queued : Bool
  graph  : Nat
  copyB  : Bool
  preds  : List Nat
  status : List Nat
  fail   : Option (Nat × BitVec 8)
  deriving DecidableEq, Repr

/-- A dump waiting or under way (R385): context, cause, first group's handle and FADDR, the cycle, the secondary fault. -/
structure Dump where
  ctx    : Nat
  cause  : BitVec 8
  handle : Word
  faddr  : Word
  cycle  : Word
  second : Option (BitVec 8 × Nat × Word × Word)
  deriving DecidableEq, Repr

/-- A bandwidth class of one memory kind on one die (R403 to R405): share, cap, borrow, signed count. -/
structure Bucket where
  share  : Nat
  cap    : Nat
  borrow : Bool
  count  : Int
  deriving DecidableEq, Repr

/-- A compute die (R217, R385, R403), with the number of its next refill (R405). -/
structure Die where
  graphs  : SMap Graph
  insts   : SMap Instance
  dumps   : List Dump
  fatal   : Bool
  buckets : Vector (Vector Bucket 16) 2
  pool    : Vector Nat 2
  refill  : Nat
  deriving DecidableEq, Repr

/-! ### Contexts, launches -/

/-- The states of a context (R370). -/
inductive CtxState where
  | free | live | ending | dying | dead
  deriving DecidableEq, Repr

/-- A registered range of Basket keys (R284). -/
structure BinReg where
  first : Nat
  count : Nat
  queue : Nat
  gridId : BitVec 32
  packet : List Byte
  ptags  : List Bool
  desc   : List Byte
  dtags  : List Bool
  argWords : List Byte
  atags  : List Bool
  deriving DecidableEq, Repr

/-- A context (R369, R370, R371): the copy of its record that the hardware took at activation, its colour mask and flags, and what the
    service kernel keeps for it. -/
structure Ctx where
  state   : CtxState
  hold    : Bool
  world   : BitVec 8
  home    : Nat
  ptbase  : Word
  dir     : Cap
  mask    : BitVec 256
  flags   : BitVec 5
  bins    : List BinReg
  allocs  : List (Word × Nat)
  freed   : List (Word × Nat × BitVec 8)
  pools   : Vector Nat 4
  pages   : Vector (List Word) 4
  log     : List (List Byte)
  exitCode : Option Word
  deriving DecidableEq, Repr

/-- Who posted a packet: a cluster, 192 for the host or the network, and the node of a graph instance, if it was one (R223, R279); of a tagged launch the
    buffer capability and the payload length (R285). -/
structure Post where
  cluster : Nat
  node    : Option (Nat × Nat × Nat)
  net     : Option (Cap × Word)
  deriving DecidableEq, Repr

/-- A continuation that has entered its queue (R282), behind the packets below a tail. -/
structure Cont where
  ctx     : Nat
  cluster : Nat
  queue   : Nat
  tail    : BitVec 32
  packet  : List Byte
  ptags   : List Bool
  deriving DecidableEq, Repr

/-- A grid that the dispatcher has taken (R263, R272 to R279): packet, descriptor, arguments, what is placed and what has retired. -/
structure Grid where
  ctx     : Nat
  gridId  : BitVec 32
  queue   : Nat
  prio    : Nat
  cluster : Nat
  hostArgs : Bool
  packet  : List Byte
  ptags   : List Bool
  desc    : List Byte
  dtags   : List Bool
  args    : Option (List Byte × List Bool)
  next    : Nat
  total   : Nat
  live    : Nat
  last    : Option Nat
  node    : Option (Nat × Nat × Nat)
  net     : Option (Cap × Word)
  waited  : Nat
  deriving DecidableEq, Repr

/-- A saved team (R277, R380): its image, whether the dispatcher asked for the save, since when its restore waits, and what the hardware knows beside the image: the team, its groups,
    the matrix operations held, each with the index of its group as its slot, the plane records that it names (R200), and the handles that its groups had. -/
structure Saved where
  image  : Word
  byDisp : Bool
  since  : Option Nat
  team   : Team
  groups : List Group
  mx     : List MxOp
  planes : List (Option PlaneRec)
  handles : List Word
  deriving DecidableEq, Repr

/-- The dispatcher (R272 to R282): the grids it has taken, who posted each packet it has not taken, the grid each queue is placing,
    continuations, saved teams, the count of grids, where its rounds stand, and how many packets it has copied for the kernel (R353). -/
structure Disp where
  grids    : SMap Grid
  posts    : SMap (List Post)
  heads    : SMap Nat
  conts    : List Cont
  saved    : List Saved
  nextGrid : Nat
  lastCluster : Option Nat
  lastQueue : Vector Nat 4
  copies   : Nat
  deriving DecidableEq, Repr

/-- A launch queue's descriptor words 0 to 4, and whether a doorbell broke it (R348, R349). -/
structure Queue where
  w0   : Word
  w1   : Word
  head : BitVec 32
  tail : BitVec 32
  capTable : Word
  broken : Bool
  deriving DecidableEq, Repr

/-! ### Slices -/

/-- An entry of a slice's routine table (R239): its words, or illegal. -/
structure RtEntry where
  ctx   : Nat
  n     : Nat
  legal : Bool
  words : List (BitVec 32)
  deriving DecidableEq, Repr

/-- How an invocation stands: still running, or its end (R241). -/
inductive RtEnd where
  | running | ret | retTc | fail
  deriving DecidableEq, Repr

/-- The registers of a running invocation (R96, R241): number 0 to 15 are the l registers, 16 and 17 the operands, 18 to 25 the t registers,
    26 is q. `written` has a bit per granule of the line, `word` is the index of the next word. -/
structure Routine where
  regs    : Vector Word 32
  written : BitVec 8
  flags   : BitVec 5
  word    : Nat
  fin     : RtEnd
  deriving DecidableEq, Repr

/-! ### Keys, attestation, storage, network, fleet -/

/-- A generation of a key (R394, R397). -/
structure KeyGen where
  num  : Nat
  key  : List Byte
  soft : Nat
  hard : Nat
  deriving DecidableEq, Repr

/-- A key slot (R394, R395): state 0 free, 1 allocated, 2 keyed. -/
structure KeySlot where
  state : Nat
  ctx   : Nat
  world : BitVec 8
  cur   : Option KeyGen
  prev  : Option KeyGen
  gen   : Nat
  uses  : Nat
  retire : Bool
  softTold : Bool
  hardTold : Bool
  deriving DecidableEq, Repr

/-- A challenge (R399): its record's address (none from the management path), nonce, certificate slot, context, where it answers, CYCLE and the time at its acceptance, and whether a reserved byte is set. -/
structure Challenge where
  addr  : Option Word
  nonce : List Byte
  cert  : Nat
  ctx   : Nat
  resp  : Word
  cap   : Nat
  since : Option (Nat × Nat)
  cluster : Nat
  bad   : Bool
  deriving DecidableEq, Repr

/-- Attestation and certificates (R398 to R400): next index, the two flash records that keep it, the index that is kept for a signature not yet released,
    pending challenges in order, certificate blobs, pending rewrites, the error bit of CERTCTL. -/
structure Attest where
  index  : Nat
  recs   : Vector (List Byte) 2
  signing : Option Nat
  chals  : List Challenge
  certs  : SMap (List Byte)
  rewrites : SMap (List Byte)
  certErr : Bool
  deriving DecidableEq, Repr

/-- An object of the extent store (R361), with the ranges of it that have been written, first byte and length. -/
structure Object where
  name  : List Byte
  owner : Nat
  bytes : List Byte
  time  : Word
  extents : List Extent
  written : List (Nat × Nat)
  deriving DecidableEq, Repr

/-- The NVMe commands that the shards issue at their I/O queues (R360). -/
inductive NvmeOp where
  | read | writeFua | flush | writeZeroes | deallocate
  deriving DecidableEq, Repr

/-- An NVMe command in the submission queue that a shard has at a port (R360): the namespace, the blocks, the data it moves and where to, the call that waits for
    it, by its trap record and element, and the context and colour under which the call's buffer passed its checks (R75). -/
structure NvmeCmd where
  port   : Nat
  shard  : Nat
  op     : NvmeOp
  ns     : Nat
  lba    : Nat
  blocks : Nat
  bytes  : List Byte
  segs   : List Seg
  job    : Option (Nat × Nat)
  auth   : Option (Nat × BitVec 8)
  deriving DecidableEq, Repr

/-- How a service stands at its owner (R292, R293, R331): forwarded and not begun; waiting for data since a time; waiting for so many NVMe
    commands, with the error that one has met; ended with a result and an error, to be recorded or answered. -/
inductive JobStage where
  | sent
  | waiting (since : Nat)
  | busy (left error : Nat)
  | ended (result : Word) (error : Nat)
  deriving DecidableEq, Repr

/-- A service under way (R292 to R294): its trap record and its lowest element, the call number, the object, the shard that serves it and the one that it was made at,
    its result, what a write will make of an object when its commands have completed, or a create has made, and, of a create that waits for its name, the place of the
    handle with the context and colour under which it passed its checks (R287). -/
structure Job where
  at0   : Nat
  k     : Nat
  num   : Nat
  obj   : List Nat
  owner : Nat
  asker : Nat
  stage : JobStage
  result : Word
  write : Option (Nat × Object)
  place : Option (Nat × Nat × BitVec 8)
  deriving DecidableEq, Repr

/-- A name being added to the directories (R361): the create that waits for it, by its trap record and element, the object's key, the shards to be told and
    those whose acknowledgement is due. -/
structure Naming where
  at0   : Nat
  k     : Nat
  obj   : Nat
  untold : List Nat
  due   : List Nat
  deriving DecidableEq, Repr

/-- A context's open state of an object (R418). -/
structure Open where
  ctx   : Nat
  owner : Nat
  obj   : Nat
  read  : Bool
  write : Bool
  deriving DecidableEq, Repr

/-- A socket (R290, R362): its context, owner, number, kind, local port, peer, data received and sent, whether the peer has gone, and the sequence number
    that a reliable connection expects next. -/
structure Sock where
  ctx   : Nat
  owner : Nat
  obj   : Nat
  roce  : Bool
  port  : Nat
  peer  : List Byte
  rx    : List (List Byte)
  tx    : List (List Byte)
  gone  : Bool
  psn   : Nat
  deriving DecidableEq, Repr

/-- Storage and network state of the service kernel's shards (R357 to R363): objects by owner + 256 × number, open states, sockets, services under way in
    order of arrival, NVMe commands in order of submission, the shards whose directory lacks an object's name, the name being added, frames dropped at each
    port, sequence numbers of kernel messages, datagrams for no socket, kernel messages of unknown type, and the ports at whose admin queue a command is
    outstanding (R360). -/
structure Io where
  objects : SMap Object
  opens   : List Open
  socks   : List Sock
  jobs    : List Job
  cmds    : List NvmeCmd
  dirs    : SMap (List Nat)
  naming  : Option Naming
  drops   : Vector Nat 2
  kseq    : SMap Nat
  rxq     : SMap (List (List Byte))
  unknown : Nat
  admin   : List Nat
  deriving DecidableEq, Repr

/-- A Wordo Link port (R366, R367) -/
structure WlPort where
  enabled  : Bool
  reported : Bool
  deriving DecidableEq, Repr

/-- A reply kept for a duplicate (R265): source, sequence number, the reply. -/
structure WlReply where
  src   : Nat
  seq   : Nat
  bytes : List Byte
  cause : BitVec 8
  deriving DecidableEq, Repr

/-- A request of this package to another that is not acknowledged (R265, R266): the package, its sequence number, the operation that makes it, the
    address there, the acting world, the context, what is asked. -/
structure WlSent where
  pkg   : Nat
  seq   : Nat
  op    : Nat
  addr  : Nat
  world : BitVec 8
  ctx   : Nat
  kind  : RemoteKind
  deriving DecidableEq, Repr

/-- The edge register block (R347, R348, R366), the requests sent over Wordo Link with the next number to each package, whether the PCIe
    link reports an uncorrectable fatal error (R412), what the host reads back, and the
    physical page behind each 64 KiB page of BAR2 (R364). -/
structure Edge where
  bootstat : Word
  fwver    : Word
  queues   : SMap Queue
  ethslot  : Vector Word 2
  ethlport : Word
  wltopo   : Word
  wlports  : Vector WlPort 16
  wlreplies : List WlReply
  wlSeq    : SMap Nat
  wlSent   : List WlSent
  hostDiscards : Nat
  pcieFatal : Bool
  hostData : List Byte
  bar2     : SMap Nat
  deriving DecidableEq, Repr

/-- Boot (R344 to R346): 0 at reset, 1 recovery, 2 running; the flash image, an image being received; the fused security count; how many
    package resets there have been; the tightly coupled memory of the firmware complex, whose first byte is its entry; the section digests of the image that
    was booted (R344). -/
structure Boot where
  phase   : Nat
  flash   : List Byte
  incoming : List Byte
  fused   : Nat
  resets  : Nat
  tcm     : List Byte
  digests : List Byte
  deriving DecidableEq, Repr

/-- A management alert: so many signatures remain (R414); the drives of a port are left unused (R360); a die, or the package, is fatal (R412). -/
inductive Alert where
  | signatures (left : Nat)
  | drive (port : Nat)
  | die (d : Nat)
  | package
  deriving DecidableEq, Repr

/-- The firmware's fleet state (R401 to R417): class of each world; the class command that awaits a refill, with the dies past it; power limit, clock in
    MHz; matrix rows halved at 0.8 GHz, and by a surge until a time; thermal throttle 0 to 2; hottest sensors; the last power figure; corrected errors by page since the last
    scrub; retired pages; counts by item (R413); crash record; last response, in its parts; retries in a row of each die's links, by 2^16 × die + link, and those
    that are down (R408);
    alerts on the management path; the clusters whose change of a page's world waits, in order of arrival (R391). -/
structure Fleet where
  classOf  : SMap Nat
  pending  : Option (List Byte × List Nat)
  limit    : Nat
  mhz      : Nat
  halfRows : Bool
  surge    : Option Nat
  throttle : Nat
  hot      : Vector Int 5
  power    : Nat
  pkgFatal : Bool
  errors   : SMap Nat
  retired  : List Nat
  listFull : Bool
  counts   : SMap Nat
  crash    : List Byte
  response : List (List Byte)
  linkRetry : SMap Nat
  linksDown : List Nat
  alerts   : List Alert
  worldq   : List Nat
  deriving DecidableEq, Repr

/-! ### The package -/

/-- The whole package. `time` counts what no clock scales, in units of `nsTime` (R6, R416); `stalled` are the writes of agents that wait at locked pages (R264) and at
    accumulators in use (R28), the oldest first; `damaged` the bytes of memory that an uncorrectable error has hit and nothing has written since (R409). -/
structure State where
  cycle    : Word
  time     : Nat
  turns    : List Turn
  cur      : Thread
  free     : Nat
  nextId   : Nat
  mem      : List Host.Cell
  tags     : List Nat
  stalled  : List Stall
  damaged  : List Nat
  groups   : SMap Group
  teams    : SMap Team
  clusters : Vector Cluster 192
  dies     : Vector Die 4
  ctxs     : SMap Ctx
  ctxBase  : Word
  sliceFlags : SMap (BitVec 5)
  tables   : SMap (List RtEntry)
  rt       : Routine
  worlds   : SMap (BitVec 8)
  disp     : Disp
  edge     : Edge
  boot     : Boot
  keys     : Vector KeySlot 64
  attest   : Attest
  io       : Io
  fleet    : Fleet
  deriving DecidableEq, Repr

/-- Why a run of the machine ends. -/
inductive Fault where
  /-- Raised by an access of a service core through a system capability to a physical address where no memory device and no register lies.
      The manual says nothing of such an access. Safe: the model stops. -/
  | physicalHole (addr : Nat)
  deriving DecidableEq, Repr

/-- Why an instruction has no meaning here. -/
inductive Refusal where
  /-- Raised by the dispatcher of instructions for an instruction that has no meaning yet. Safe: the model stops. -/
  | notModelled (mnemonic : String)
  deriving DecidableEq, Repr

/-! ### Reset -/

/-- Scalar registers zero, capabilities null, counters zero (R58; for the service core log entry 1). -/
def Hart.reset : Hart :=
  { s := Vector.replicate 64 0, c := Vector.replicate 32 Cap.null, pc := Config.kernelEntry, scode := Cap.null, cause := 0, faddr := 0,
    ld := 0, st := 0, cp := 0, mx := 0, pend := [], fenced := [] }

/-- No stepping. -/
def StepState.off : StepState := ⟨0, false, 0, 0, none⟩

/-- The planes of R189 at team placement. -/
def Plane.reset : Plane := ⟨none, [], none⟩

/-- A compute core with nothing placed on it. -/
def Core.reset : Core :=
  { active := .reset, shadow := .reset, mq := [], holder := none, left := 0, ending := false, share := [], waited := 0, lastScalar := 31, issuers := [],
    issued := false, events := Vector.replicate 15 0, laneCycles := [], sampleAt := 0 }

/-- The debug unit's registers at reset (R336). -/
def Debug.reset : Debug :=
  { ctl := 0, sel := 0, bp := Vector.replicate 8 (0, 0), wp := Vector.replicate 4 (0, 0, 0), bins := Vector.replicate 16 (0, 0), binctx := 0,
    hit := 0, stepctl := 0, trbase := 0, trsize := 0, trhead := 0, trtail := 0, trdrop := 0, smpint := 65536, lcsel := 0, evsel := 0 }

/-- A service core at reset (R352, R368, R387), not yet released (R346 step 4). Its SCODE is a capability over all of physical memory with the
    system permission (R347, R351; log entry 1). -/
def Service.reset : Service :=
  { hart := { Hart.reset with scode := ⟨0x8005, 0, 0, 52, 0, 1024, 0, true⟩ }, released := false, sevtarg := 0, sevtgrp := 0, sepc := 0,
    inHandler := false, stale := false, svec := Config.kernelEntry, strapbase := 0, ssavedst := 0, stimer := 0, events := [], held := [], restores := [],
    ctxctl := 0, mig := ⟨0, 0, 0, 0, 0, false, false, false⟩, wpage := 0, wcount := 0, wresult := 0, ksel := 0, kstatus := 0, kblob := 0, revs := [],
    fpctl := 0, fpstat := 0, openGraph := none, preempt := 50000, timerTold := false, wctl := 0, kctl := none }

/-- A cluster at reset: 48 scratchpad ways (R21), nothing resident. -/
def Cluster.reset : Cluster :=
  { split := 48, splitCtx := 0, wayGens := Vector.replicate 64 0, slotGens := [], tlb := [], ops := [], locks := [], ports := [], kport := ⟨[], []⟩,
    basket := ⟨[], [], [], []⟩, cores := Vector.replicate 4 .reset, svc := .reset, dbg := .reset }

/-- Rated tokens per die and period (R403). -/
def ratedTokens (kind : Nat) : Nat := if kind = 0 then 28000 else Config.ratedTier2

/-- The classes of one kind at reset: class 0 rated, with borrow; the others disabled (R403). -/
def Bucket.resetKind (kind : Nat) : Vector Bucket 16 :=
  (Vector.replicate 16 ⟨0, 0, false, 0⟩).set 0 ⟨ratedTokens kind, ratedTokens kind, true, 0⟩

/-- A die at reset. -/
def Die.reset : Die :=
  { graphs := [], insts := [], dumps := [], fatal := false, buckets := #v[Bucket.resetKind 0, Bucket.resetKind 1], pool := Vector.replicate 2 0, refill := 0 }

/-- No invocation running (log entry 1). -/
def Routine.reset : Routine := ⟨Vector.replicate 32 0, 0, 0, 0, .ret⟩

/-- The edge block at reset (R347). -/
def Edge.reset : Edge :=
  { bootstat := 0, fwver := 0, queues := [], ethslot := Vector.replicate 2 0, ethlport := 24090, wltopo := Config.wltopo,
    wlports := Vector.replicate 16 ⟨false, false⟩, wlreplies := [], wlSeq := [], wlSent := [],
    hostDiscards := 0, pcieFatal := false, hostData := [], bar2 := [] }

/-- A free key slot (R394). -/
def KeySlot.reset : KeySlot := ⟨0, 0, 0, none, none, 0, 0, false, false, false⟩

/-- The dispatcher at package reset: it has placed nothing (R275). -/
def Disp.reset : Disp :=
  { grids := [], posts := [], heads := [], conts := [], saved := [], nextGrid := 0, lastCluster := none, lastQueue := Vector.replicate 4 255, copies := 0 }

/-- The firmware's fleet state at reset: every world in class 0 (R403), the TDP of the part, 1.6 GHz (R415). -/
def Fleet.reset : Fleet :=
  { classOf := [], pending := none, limit := if Config.partM then 3600 else 3200, mhz := 1600, halfRows := false, surge := none, throttle := 0,
    hot := Vector.replicate 5 0, power := 0, pkgFatal := false, errors := [], retired := [], listFull := false, counts := [], crash := [], response := [],
    linkRetry := [], linksDown := [], alerts := [], worldq := [] }

/-- The package right after reset: Trailhead has not yet run (R345). -/
def State.reset : State :=
  { cycle := 0, time := 0, turns := [], cur := .service 0, free := 0, nextId := 1, mem := [], tags := [], stalled := [], damaged := [], groups := [], teams := [],
    clusters := Vector.replicate 192 .reset, dies := Vector.replicate 4 .reset, ctxs := [], ctxBase := 0, sliceFlags := [], tables := [],
    rt := .reset, worlds := [], disp := .reset, edge := .reset, boot := ⟨0, Config.flashImage, [], Config.fusedCount, 0, [], []⟩, keys := Vector.replicate 64 .reset,
    attest := ⟨0, Config.indexRecords.map (·.toList), none, [], [], [], false⟩, io := ⟨[], [], [], [], [], [], none, Vector.replicate 2 0, [], [], 0, []⟩, fleet := .reset }

end Sys2Proof.Machine
end

