-- ==== Sys2Proof/Machine/Maps.lean ====
section
/-! DEFINITION. Sparse maps, the byte memory and its tags, in their canonical forms; small helpers on lists and bits. -/
namespace Sys2Proof.Machine
open Sys2Proof

/-! ### Sparse maps -/

/-- The value at a key, if listed. -/
def mapGet {α : Type} : SMap α → Nat → Option α
  | [], _ => none
  | (k, v) :: m, i => if k = i then some v else if i < k then none else mapGet m i

/-- The map with a key set. -/
def mapSet {α : Type} : SMap α → Nat → α → SMap α
  | [], i, x => [(i, x)]
  | (k, v) :: m, i, x => if i < k then (i, x) :: (k, v) :: m else if i = k then (i, x) :: m else (k, v) :: mapSet m i x

/-- The map without a key. -/
def mapDel {α : Type} : SMap α → Nat → SMap α
  | [], _ => []
  | (k, v) :: m, i => if k = i then m else (k, v) :: mapDel m i

/-- The map with the value at a listed key changed. -/
def mapMod {α : Type} (f : α → α) : SMap α → Nat → SMap α
  | [], _ => []
  | (k, v) :: m, i => if k = i then (k, f v) :: m else (k, v) :: mapMod f m i

/-- The value at a key, or a default where none is listed. -/
def mapGetD {α : Type} (m : SMap α) (i : Nat) (d : α) : α := (mapGet m i).getD d

/-! ### Memory: bytes by key, an unlisted byte reads 0 (log entry 2) -/

/-- The byte at a key. -/
def memGet : List Host.Cell → Nat → Byte
  | [], _ => 0
  | (k, v) :: m, i => if k = i then v else if i < k then 0 else memGet m i

/-- Memory with one byte written; a zero byte is not listed. -/
def memPut : List Host.Cell → Nat → Byte → List Host.Cell
  | [], i, b => if b = 0 then [] else [(i, b)]
  | (k, v) :: m, i, b =>
    if i < k then (if b = 0 then (k, v) :: m else (i, b) :: (k, v) :: m)
    else if i = k then (if b = 0 then m else (i, b) :: m)
    else (k, v) :: memPut m i b

/-- The canonical form of memory: addresses strictly rising, no entry zero. -/
def Memory.wf (m : List Host.Cell) : Bool := decide (m.Pairwise fun a b => a.1 < b.1) && m.all fun c => c.2 != 0

/-- `n` bytes from a key on. -/
def memRead (m : List Host.Cell) (k n : Nat) : List Byte := (List.range n).map fun i => memGet m (k + i)

/-- Memory with a list of bytes written from a key on. -/
def memWrite : List Host.Cell → Nat → List Byte → List Host.Cell
  | m, _, [] => m
  | m, k, b :: bs => memWrite (memPut m k b) (k + 1) bs

/-- Whether the granule with this number (key / 16) is tagged. -/
def tagGet : List Nat → Nat → Bool
  | [], _ => false
  | k :: t, g => if k = g then true else if g < k then false else tagGet t g

/-- The tags with one granule's tag set or cleared. -/
def tagPut : List Nat → Nat → Bool → List Nat
  | [], g, b => if b then [g] else []
  | k :: t, g, b =>
    if g < k then (if b then g :: k :: t else k :: t)
    else if g = k then (if b then k :: t else t)
    else k :: tagPut t g b

/-- The tags with `n` granules from `g` on cleared. -/
def tagClear : List Nat → Nat → Nat → List Nat
  | t, _, 0 => t
  | t, g, n + 1 => tagClear (tagPut t g false) (g + 1) n

/-- The canonical form of the tags: granule numbers strictly rising. -/
def Tags.wf (t : List Nat) : Bool := decide (t.Pairwise (· < ·))

/-! ### Bits and lists -/

/-- Bits hi down to lo of a number (R126). -/
def bitsOf (x hi lo : Nat) : Nat := (x >>> lo) % 2 ^ (hi + 1 - lo)
/-- The low n bits as a signed integer (R126). -/
def sextNat (x n : Nat) : Int := let y := x % 2 ^ n; if 2 ^ n ≤ 2 * y then (y : Int) - 2 ^ n else y
/-- An integer modulo 2^n (R126). -/
def wrapInt (x : Int) (n : Nat) : Nat := (x % (2 ^ n : Nat)).toNat
/-- A Bool as a bit. -/
def bitNat (b : Bool) : Nat := if b then 1 else 0
/-- Bit i of a number. -/
def bitOf (x i : Nat) : Bool := x.testBit i
/-- The elements of a list of Bools as bits, the first the lowest. -/
def bitsNat : List Bool → Nat
  | [] => 0
  | b :: bs => bitNat b + 2 * bitsNat bs
/-- A list without its element at an index. -/
def dropAt {α : Type} : List α → Nat → List α
  | [], _ => []
  | _ :: xs, 0 => xs
  | x :: xs, n + 1 => x :: dropAt xs n
/-- A Bool list padded with false to n. -/
def padBools (bs : List Bool) (n : Nat) : List Bool := (List.range n).map fun i => bs.getD i false
/-- ⌈a / b⌉. -/
def ceilDiv (a b : Nat) : Nat := (a + b - 1) / b

/-- A vector's element at a number, or the default beyond its end. -/
def vget {α : Type} {n : Nat} [Inhabited α] (v : Vector α n) (i : Nat) : α := if h : i < n then v[i]'h else default
/-- A vector's element at a number, or a given value beyond its end. -/
def vgetD {α : Type} {n : Nat} (v : Vector α n) (i : Nat) (d : α) : α := if h : i < n then v[i]'h else d
/-- A vector with an element set; unchanged beyond its end. -/
def vset {α : Type} {n : Nat} (v : Vector α n) (i : Nat) (x : α) : Vector α n := if h : i < n then v.set i x h else v
/-- A vector with an element changed; unchanged beyond its end. -/
def vmod {α : Type} {n : Nat} (v : Vector α n) (i : Nat) (f : α → α) : Vector α n := if h : i < n then v.set i (f (v[i]'h)) h else v

end Sys2Proof.Machine
end

