-- ==== Sys2Proof/Machine/Caps.lean ====
section
/-! DEFINITION. Capabilities: the 128 bits, bounds decoding and encoding, permissions (R64 to R70). -/
namespace Sys2Proof.Machine
open Sys2Proof

/-- Numbers of the permission bits of R67, counted from bit 112. -/
abbrev Perm.load := 0
abbrev Perm.store := 1
abbrev Perm.execScalar := 2
abbrev Perm.execLane := 3
abbrev Perm.loadCap := 4
abbrev Perm.storeCap := 5
abbrev Perm.atomic := 6
abbrev Perm.lineRoutine := 7
abbrev Perm.engSrc := 8
abbrev Perm.engDst := 9
abbrev Perm.seal := 10
abbrev Perm.unseal := 11
abbrev Perm.message := 12
abbrev Perm.window := 13
abbrev Perm.global := 14
abbrev Perm.system := 15

/-- Whether a capability carries a permission (R67). -/
def Cap.has (c : Cap) (p : Nat) : Bool := c.perms.getLsbD p

/-- The 128 bits (R64). -/
def Cap.toBits (c : Cap) : BitVec 128 := c.perms ++ c.otype ++ c.colour ++ c.e ++ c.bf ++ c.lf ++ c.cursor
/-- The capability with these 128 bits and this tag (R64). -/
def Cap.ofBits (b : BitVec 128) (tag : Bool) : Cap :=
  ⟨b.extractLsb' 112 16, b.extractLsb' 100 12, b.extractLsb' 92 8, b.extractLsb' 86 6, b.extractLsb' 75 11, b.extractLsb' 64 11,
   b.extractLsb' 0 64, tag⟩
/-- The 16 bytes of a capability (R5, R64). -/
def Cap.bytes (c : Cap) : List Byte := leBytes 16 c.toBits.toNat
/-- The capability held in 16 bytes with a tag. -/
def Cap.ofBytes (bs : List Byte) (tag : Bool) : Cap := .ofBits (BitVec.ofNat 128 (leNat bs)) tag

/-- The exponent the decode uses: min(e, 52) (R64). -/
def Cap.exp (c : Cap) : Nat := min c.e.toNat 52
/-- The base (R65). -/
def Cap.base (c : Cap) : Nat :=
  let s := 2 ^ (c.exp + 8)
  let t := (c.cursor.toNat + 2 ^ 64 - c.bf.toNat * 2 ^ c.exp + s) % 2 ^ (c.exp + 11)
  (c.cursor.toNat + 2 ^ 64 - t + s) % 2 ^ 64
/-- The top, 65 bits (R65). -/
def Cap.top (c : Cap) : Nat := c.base + c.lf.toNat * 2 ^ c.exp
/-- Whether a cursor lies in the representable range (R65). -/
def Cap.inRepr (c : Cap) (x : Word) : Bool :=
  (x.toNat + 2 ^ 64 + 2 ^ (c.exp + 8) - c.base) % 2 ^ 64 < 2 ^ (c.exp + 11)
/-- Whether [x, x + n) lies within the bounds (R70). -/
def Cap.covers (c : Cap) (x n : Nat) : Bool := c.base ≤ x && x + n ≤ c.top

/-- The smallest exponent at which the rounded region spans at most 1024 units (R66). -/
def boundsExp (b len : Nat) : Option Nat :=
  (List.range 53).find? fun e => decide (ceilDiv (b + len) (2 ^ e) - b / 2 ^ e ≤ 1024)

/-- The capability narrowed to [b, b + len) rounded outward, cursor at the new base; whether it stays within its source and whether it is
    exact (R66, R139). -/
def Cap.setBounds (c : Cap) (b len : Nat) : Cap × Bool × Bool :=
  match boundsExp b len with
  | none => ({ c with e := 52, bf := BitVec.ofNat 11 (b / 2 ^ 52), lf := 1024, cursor := BitVec.ofNat 64 (b / 2 ^ 52 * 2 ^ 52) }, false, false)
  | some e =>
    let lo := b / 2 ^ e
    let hi := ceilDiv (b + len) (2 ^ e)
    ({ c with e := BitVec.ofNat 6 e, bf := BitVec.ofNat 11 lo, lf := BitVec.ofNat 11 (hi - lo), cursor := BitVec.ofNat 64 (lo * 2 ^ e) },
     b + len ≤ 2 ^ 64 && c.base ≤ lo * 2 ^ e && hi * 2 ^ e ≤ c.top, lo * 2 ^ e == b && hi * 2 ^ e == b + len)

/-- The smallest exponent with ⌈L / 2^e⌉ ≤ 1024 (R141). -/
def lenExp (len : Nat) : Option Nat := (List.range 53).find? fun e => decide (ceilDiv len (2 ^ e) ≤ 1024)
/-- The length that `cexlen` gives, or all ones (R141). -/
def exactLen (len : Nat) : Nat :=
  match lenExp len with
  | none => 2 ^ 64 - 1
  | some e => min (ceilDiv len (2 ^ e) * 2 ^ e) (2 ^ 64 - 1)
/-- The address that `cexalign` gives, or all ones (R141). -/
def exactAlign (x len : Nat) : Nat :=
  match lenExp len with
  | none => 2 ^ 64 - 1
  | some e => min (ceilDiv x (2 ^ e) * 2 ^ e) (2 ^ 64 - 1)

/-- A tagged, unsealed capability over [b, b + len) with these permissions and colour, cursor at `cur`, as hardware and kernel make them. -/
def mkCap (perms : Nat) (colour : BitVec 8) (b len : Nat) (cur : Word) : Cap :=
  let r := (Cap.setBounds { Cap.null with perms := BitVec.ofNat 16 perms, colour := colour } b len).1
  { r with cursor := cur, tag := true }

/-- The cursor moved as by `cset` (R139): the tag is kept only for a tagged, unsealed source and a cursor in its representable range. -/
def Cap.setCursor (c : Cap) (x : Word) : Cap := { c with cursor := x, tag := c.tag && c.otype == 0 && c.inRepr x }

/-- A code capability with the PC as its cursor, untagged where the PC lies outside its representable range (R59, R68). -/
def Cap.atPc (c : Cap) (pc : Word) : Cap := { c with cursor := pc, tag := c.tag && c.inRepr pc }

end Sys2Proof.Machine
end

