-- ==== Sys2Proof/Machine/Flags.lean ====
section
/-! DEFINITION. Floating-point formats, rounding and the flags they raise (R107 to R118, R126). -/
namespace Sys2Proof.Machine
open Sys2Proof

/-- The flags of FPSTAT (R59): [0] inexact, [1] underflow, [2] overflow, [3] divide-by-zero, [4] invalid. -/
abbrev Flags := BitVec 5
abbrev Flags.inexact : Flags := 1
abbrev Flags.underflow : Flags := 2
abbrev Flags.overflow : Flags := 4
abbrev Flags.divZero : Flags := 8
abbrev Flags.invalid : Flags := 16

/-- What the largest exponent field means (R108): infinities and NaNs, one NaN pattern, or finite values only. -/
inductive FpTop where
  | ieee | oneNan | finite
  deriving DecidableEq, Repr

/-- A floating-point format (R107, R110). -/
structure Fmt where
  ebits : Nat
  fbits : Nat
  bias  : Nat
  top   : FpTop
  deriving DecidableEq, Repr

def Fmt.f64 : Fmt := ⟨11, 52, 1023, .ieee⟩
def Fmt.f32 : Fmt := ⟨8, 23, 127, .ieee⟩
def Fmt.f16 : Fmt := ⟨5, 10, 15, .ieee⟩
def Fmt.bf16 : Fmt := ⟨8, 7, 127, .ieee⟩
def Fmt.e5m2 : Fmt := ⟨5, 2, 15, .ieee⟩
def Fmt.e4m3 : Fmt := ⟨4, 3, 7, .oneNan⟩
def Fmt.e2m1 : Fmt := ⟨2, 1, 1, .finite⟩
/-- The block scale: unsigned, three exponent bits, five mantissa bits (R110). -/
def Fmt.e3m5 : Fmt := ⟨3, 5, 3, .finite⟩

/-- Total width with the sign. -/
def Fmt.width (f : Fmt) : Nat := 1 + f.ebits + f.fbits

/-- A decoded value: NaN (signalling or not), infinity, or (−1)^neg × m × 2^e exactly. -/
inductive Fp where
  | nan (sig : Bool)
  | inf (neg : Bool)
  | fin (neg : Bool) (m : Nat) (e : Int)
  deriving DecidableEq, Repr

/-- Rounding context: mode 0 RNE, 1 RTZ, 2 RDN, 3 RUP, 4 RMM (R113), and the flushes of FPCTL [3] and [4] (R115). -/
structure FpEnv where
  mode  : Nat
  fl16  : Bool
  flb16 : Bool
  deriving DecidableEq, Repr

/-- RNE without flushing: matrix array, tensor copy engine, slices (R115, R123). -/
def FpEnv.rne : FpEnv := ⟨0, false, false⟩
/-- The context of a lane instruction: FPCTL of the snapshot, and the static code, 0 being dynamic (R81). -/
def FpEnv.of (fpctl : BitVec 5) (rm : Nat) : FpEnv :=
  ⟨if rm = 0 then bitsOf fpctl.toNat 2 0 else rm - 1, fpctl.getLsbD 3, fpctl.getLsbD 4⟩
/-- Whether subnormals of a format are flushed (R115). -/
def FpEnv.flush (v : FpEnv) (f : Fmt) : Bool := (v.fl16 && f == .f16) || (v.flb16 && f == .bf16)

/-- The largest exponent field. -/
def Fmt.emaxField (f : Fmt) : Nat := 2 ^ f.ebits - 1

/-- The value of a pattern (R107 to R111). -/
def Fmt.decode (f : Fmt) (x : Nat) : Fp :=
  let neg := bitOf x (f.ebits + f.fbits)
  let e := bitsOf x (f.ebits + f.fbits - 1) f.fbits
  let fr := x % 2 ^ f.fbits
  if e = f.emaxField ∧ f.top = .ieee then
    if fr = 0 then .inf neg else .nan (!bitOf fr (f.fbits - 1))
  else if e = f.emaxField ∧ f.top = .oneNan ∧ fr = 2 ^ f.fbits - 1 then .nan false
  else if e = 0 then .fin neg fr (1 - f.bias - f.fbits)
  else .fin neg (2 ^ f.fbits + fr) ((e : Int) - f.bias - f.fbits)

/-- Whether a pattern is a nonzero subnormal. -/
def Fmt.isSub (f : Fmt) (x : Nat) : Bool := bitsOf x (f.ebits + f.fbits - 1) f.fbits == 0 && x % 2 ^ f.fbits != 0

/-- `fp.val` with the flushes in force: a flushed subnormal is a zero of its sign (R115, R126). -/
def Fmt.val (f : Fmt) (v : FpEnv) (x : Nat) : Fp :=
  if v.flush f && f.isSub x then .fin (bitOf x (f.ebits + f.fbits)) 0 0 else f.decode x

/-- The sign bit of the format. -/
def Fmt.signBit (f : Fmt) (neg : Bool) : Nat := if neg then 2 ^ (f.ebits + f.fbits) else 0

/-- The default NaN (R108); `.e2m1` has none and takes +0 (R114). -/
def Fmt.qnan (f : Fmt) : Nat :=
  match f.top with
  | .ieee => f.emaxField * 2 ^ f.fbits + 2 ^ (f.fbits - 1)
  | .oneNan => 2 ^ (f.ebits + f.fbits) - 1
  | .finite => 0

/-- The pattern of the greatest finite magnitude (R107). -/
def Fmt.maxFinite (f : Fmt) : Nat :=
  match f.top with
  | .ieee => f.emaxField * 2 ^ f.fbits - 1
  | .oneNan => 2 ^ (f.ebits + f.fbits) - 2
  | .finite => 2 ^ (f.ebits + f.fbits) - 1

/-- The infinity of a sign where the format has one. -/
def Fmt.infinity (f : Fmt) (neg : Bool) : Nat := f.signBit neg + f.emaxField * 2 ^ f.fbits

/-- a × 2^ea < b × 2^eb. -/
def dyLt (a : Nat) (ea : Int) (b : Nat) (eb : Int) : Bool :=
  if ea ≤ eb then a < b * 2 ^ (eb - ea).toNat else a * 2 ^ (ea - eb).toNat < b

/-- The magnitude m × 2^e rounded by a mode to a multiple of 2^q: the multiple (R113). -/
def roundMul (mode : Nat) (neg : Bool) (m : Nat) (e q : Int) : Nat :=
  if q ≤ e then m * 2 ^ (e - q).toNat
  else
    let k := (q - e).toNat
    let n := m / 2 ^ k
    let r := m % 2 ^ k
    let half := 2 ^ (k - 1)
    let up := match mode with
      | 0 => half < r || (r == half && n % 2 == 1)
      | 1 => false
      | 2 => neg && r != 0
      | 3 => !neg && r != 0
      | _ => half ≤ r
    if up then n + 1 else n

/-- The result of an overflow (R114). -/
def Fmt.overflow (f : Fmt) (mode : Nat) (sat neg : Bool) : Nat :=
  let big := f.signBit neg + f.maxFinite
  if sat || f.top == .finite || mode == 1 || (mode == 2 && !neg) || (mode == 3 && neg) then big
  else match f.top with
    | .ieee => f.infinity neg
    | _ => f.qnan

/-- `round.M.T` and `round.M.T.sat` (R126): the pattern and the flags raised. -/
def Fmt.round (f : Fmt) (v : FpEnv) (sat : Bool) : Fp → Nat × Flags
  | .nan _ => (f.qnan, if f.top = .finite then Flags.invalid else 0)
  | .inf neg =>
    if sat then (f.signBit neg + f.maxFinite, Flags.invalid)
    else match f.top with
      | .ieee => (f.infinity neg, 0)
      | .oneNan => (f.qnan, Flags.invalid)
      | .finite => (f.signBit neg + f.maxFinite, Flags.invalid)
  | .fin neg m e =>
    if m = 0 then (f.signBit neg, 0)
    else
      let emin : Int := 1 - f.bias
      let qu : Int := e + m.log2 - f.fbits
      let qy : Int := max qu (emin - f.fbits)
      let u := roundMul v.mode neg m e qu
      let n := roundMul v.mode neg m e qy
      let inexact := !(!dyLt n qy m e && !dyLt m e n qy)
      let maxm := if f.top = .oneNan then 2 ^ (f.fbits + 1) - 2 else 2 ^ (f.fbits + 1) - 1
      let maxe : Int := (if f.top = .ieee then f.emaxField - 1 else f.emaxField) - f.bias - f.fbits
      if dyLt maxm maxe n qy then (f.overflow v.mode sat neg, Flags.overflow ||| Flags.inexact)
      else
        let tiny := dyLt u qu 1 emin
        if v.flush f && tiny then (f.signBit neg, Flags.underflow ||| Flags.inexact)
        else
          let pat := if n < 2 ^ f.fbits then n else (qy + f.fbits + f.bias).toNat * 2 ^ f.fbits + (n - 2 ^ f.fbits)
          (f.signBit neg + pat, (if tiny && inexact then Flags.underflow else 0) ||| (if inexact then Flags.inexact else 0))

/-- `round` of a value for the unsigned block scale (R110). -/
def roundE3m5 : Fp → Nat × Flags
  | .nan _ => (0, Flags.invalid)
  | .inf neg => if neg then (0, Flags.invalid) else (0xFF, Flags.overflow ||| Flags.inexact)
  | .fin neg m e =>
    if neg && m != 0 then (0, Flags.invalid)
    else if dyLt 63 (-1) m e then (0xFF, Flags.overflow ||| Flags.inexact)
    else Fmt.e3m5.round .rne true (.fin false m e)

/-! ### Exact operations on decoded values -/

/-- The negation. -/
def Fp.negate : Fp → Fp
  | .nan s => .nan s
  | .inf n => .inf (!n)
  | .fin n m e => .fin (!n) m e

/-- The exact sum, with the sign of an exact zero (R113); ∞ − ∞ is a NaN that raises invalid (R116). -/
def Fp.add (mode : Nat) (a b : Fp) : Fp × Flags :=
  match a, b with
  | .nan s, .nan t => (.nan false, if s || t then Flags.invalid else 0)
  | .nan s, _ => (.nan false, if s then Flags.invalid else 0)
  | _, .nan t => (.nan false, if t then Flags.invalid else 0)
  | .inf x, .inf y => if x = y then (.inf x, 0) else (.nan false, Flags.invalid)
  | .inf x, _ => (.inf x, 0)
  | _, .inf y => (.inf y, 0)
  | .fin x m e, .fin y n g =>
    let q := min e g
    let i : Int := (if x then -1 else 1) * (m * 2 ^ (e - q).toNat : Nat)
    let j : Int := (if y then -1 else 1) * (n * 2 ^ (g - q).toNat : Nat)
    let s := i + j
    if s = 0 then
      let sign := if m = 0 ∧ n = 0 ∧ x = y then x else mode == 2
      (.fin sign 0 0, 0)
    else (.fin (s < 0) s.natAbs q, 0)

/-- The exact product; 0 × ∞ is a NaN that raises invalid (R116). -/
def Fp.mul (a b : Fp) : Fp × Flags :=
  match a, b with
  | .nan s, .nan t => (.nan false, if s || t then Flags.invalid else 0)
  | .nan s, _ => (.nan false, if s then Flags.invalid else 0)
  | _, .nan t => (.nan false, if t then Flags.invalid else 0)
  | .inf x, .inf y => (.inf (x ^^ y), 0)
  | .inf x, .fin y n _ => if n = 0 then (.nan false, Flags.invalid) else (.inf (x ^^ y), 0)
  | .fin x m _, .inf y => if m = 0 then (.nan false, Flags.invalid) else (.inf (x ^^ y), 0)
  | .fin x m e, .fin y n g => (.fin (x ^^ y) (m * n) (e + g), 0)

/-- The quotient, to 128 binary places with a sticky last bit, enough for one rounding of any format (R116). -/
def Fp.div (a b : Fp) : Fp × Flags :=
  match a, b with
  | .nan s, .nan t => (.nan false, if s || t then Flags.invalid else 0)
  | .nan s, _ => (.nan false, if s then Flags.invalid else 0)
  | _, .nan t => (.nan false, if t then Flags.invalid else 0)
  | .inf _, .inf _ => (.nan false, Flags.invalid)
  | .inf x, .fin y _ _ => (.inf (x ^^ y), 0)
  | .fin x _ _, .inf y => (.fin (x ^^ y) 0 0, 0)
  | .fin x m e, .fin y n g =>
    if n = 0 then (if m = 0 then (.nan false, Flags.invalid) else (.inf (x ^^ y), Flags.divZero))
    else if m = 0 then (.fin (x ^^ y) 0 0, 0)
    else
      let a' := m * 2 ^ 128
      (.fin (x ^^ y) (2 * (a' / n) + bitNat (a' % n != 0)) (e - g - 129), 0)

/-- The integer square root, bit by bit from 2^(n−1) down. -/
def isqrt (m : Nat) : Nat → Nat → Nat
  | 0, r => r
  | n + 1, r => isqrt m n (if (r + 2 ^ n) * (r + 2 ^ n) ≤ m then r + 2 ^ n else r)

/-- The square root with a sticky last bit; invalid below −0 (R116). -/
def Fp.sqrt : Fp → Fp × Flags
  | .nan s => (.nan false, if s then Flags.invalid else 0)
  | .inf neg => if neg then (.nan false, Flags.invalid) else (.inf false, 0)
  | .fin neg m e =>
    if m = 0 then (.fin neg 0 0, 0)
    else if neg then (.nan false, Flags.invalid)
    else
      let e' := if e % 2 = 0 then e else e - 1
      let m' := (if e % 2 = 0 then m else 2 * m) * 2 ^ 256
      let r := isqrt m' 160 0
      (.fin false (2 * r + bitNat (r * r != m')) (e' / 2 - 129), 0)

/-- A < B for non-NaN values; `zeros` orders −0 below +0 (R116). -/
def Fp.lt (zeros : Bool) : Fp → Fp → Bool
  | .inf x, .inf y => x && !y
  | .inf x, _ => x
  | _, .inf y => !y
  | .fin x m e, .fin y n g =>
    if m = 0 ∧ n = 0 then zeros && x && !y
    else if x && !y then true else if !x && y then false
    else if x then dyLt n g m e else dyLt m e n g
  | _, _ => false

/-- Whether a value is a NaN. -/
def Fp.isNan : Fp → Bool
  | .nan _ => true
  | _ => false
/-- Whether a value is a signalling NaN. -/
def Fp.isSig : Fp → Bool
  | .nan s => s
  | _ => false

/-- Rounds the exact result of an operation, with the operation's flags. -/
def Fmt.finish (f : Fmt) (v : FpEnv) (r : Fp × Flags) : Nat × Flags :=
  let p := f.round v false r.1
  (p.1, r.2 ||| p.2)

/-- round.M.T(A + B) (R170). -/
def Fmt.add (f : Fmt) (v : FpEnv) (a b : Nat) : Nat × Flags := f.finish v (Fp.add v.mode (f.val v a) (f.val v b))
/-- round.M.T(A − B) (R170). -/
def Fmt.sub (f : Fmt) (v : FpEnv) (a b : Nat) : Nat × Flags := f.finish v (Fp.add v.mode (f.val v a) (f.val v b).negate)
/-- round.M.T(A × B) (R170). -/
def Fmt.mul (f : Fmt) (v : FpEnv) (a b : Nat) : Nat × Flags := f.finish v (Fp.mul (f.val v a) (f.val v b))
/-- round.M.T(A / B) (R170). -/
def Fmt.div (f : Fmt) (v : FpEnv) (a b : Nat) : Nat × Flags := f.finish v (Fp.div (f.val v a) (f.val v b))
/-- round.M.T(√A) (R170). -/
def Fmt.sqrt (f : Fmt) (v : FpEnv) (a : Nat) : Nat × Flags := f.finish v (Fp.sqrt (f.val v a))

/-- A × B + C with one rounding to a format `w`, A and B of format f (R172). `negProd` and `negC` give the signs of the four forms. -/
def Fmt.fma (f w : Fmt) (v : FpEnv) (negProd negC : Bool) (a b c : Nat) : Nat × Flags :=
  let p := Fp.mul (f.val v a) (f.val v b)
  let q := if negProd then p.1.negate else p.1
  let cv := w.val v c
  let sigC := if cv.isSig then Flags.invalid else 0
  let s := Fp.add v.mode q (if negC then cv.negate else cv)
  w.finish v (s.1, p.2 ||| s.2 ||| sigC)

/-- Min or max of R116: the other operand where one is a NaN; a flushed operand is a zero of its sign (R170). -/
def Fmt.minMax (f : Fmt) (v : FpEnv) (isMax : Bool) (a b : Nat) : Nat × Flags :=
  let x := f.val v a
  let y := f.val v b
  let pa := if v.flush f && f.isSub a then f.signBit (bitOf a (f.ebits + f.fbits)) else a
  let pb := if v.flush f && f.isSub b then f.signBit (bitOf b (f.ebits + f.fbits)) else b
  let fl := if x.isSig || y.isSig then Flags.invalid else 0
  if x.isNan then (if y.isNan then (f.qnan, fl) else (pb, fl))
  else if y.isNan then (pa, fl)
  else
    let less := Fp.lt true y x
    (if isMax then (if less then pa else pb) else (if less then pb else pa), fl)

/-- The first element of a fold or sum: round.M.T(fp.val(x)) (R126, R177). -/
def Fmt.enter (f : Fmt) (v : FpEnv) (a : Nat) : Nat × Flags :=
  let x := f.val v a
  let p := f.round v false x
  (p.1, p.2 ||| (if x.isSig then Flags.invalid else 0))

/-- The comparisons of R174: 0 eq, 1 lt, 2 le, 3 unord. -/
def Fmt.cmp (f : Fmt) (v : FpEnv) (k : Nat) (a b : Nat) : Bool × Flags :=
  let x := f.val v a
  let y := f.val v b
  let sig := if x.isSig || y.isSig then Flags.invalid else 0
  let un := x.isNan || y.isNan
  match k with
  | 0 => (!un && !Fp.lt false x y && !Fp.lt false y x, sig)
  | 1 => if un then (false, Flags.invalid) else (Fp.lt false x y, 0)
  | 2 => if un then (false, Flags.invalid) else (!Fp.lt false y x, 0)
  | _ => (un, sig)

/-- The kind and sign code of R171. -/
def Fmt.kind (f : Fmt) (x : Nat) : Nat :=
  let s := if bitOf x (f.ebits + f.fbits) then 128 else 0
  s + match f.decode x with
    | .nan sig => if sig then 32 else 16
    | .inf _ => 8
    | .fin _ m _ => if m = 0 then 1 else if f.isSub x then 2 else 4

/-- `cvt.f2i` (R126): value to a signed or unsigned n-bit integer by a mode. -/
def cvtF2i (v : Fp) (mode : Nat) (signed : Bool) (n : Nat) : Nat × Flags :=
  let hi : Int := if signed then 2 ^ (n - 1) - 1 else 2 ^ n - 1
  let lo : Int := if signed then -(2 ^ (n - 1)) else 0
  match v with
  | .nan _ => (wrapInt hi n, Flags.invalid)
  | .inf neg => (wrapInt (if neg then lo else hi) n, Flags.invalid)
  | .fin neg m e =>
    let q := roundMul mode neg m e 0
    let i : Int := if neg then -(q : Int) else q
    if i < lo then (wrapInt lo n, Flags.invalid)
    else if hi < i then (wrapInt hi n, Flags.invalid)
    else (wrapInt i n, if !(!dyLt q 0 m e && !dyLt m e q 0) then Flags.inexact else 0)

/-- An integer as an exact value. -/
def Fp.ofInt (i : Int) : Fp := .fin (i < 0) i.natAbs 0

/-! ### Integer division (R118) -/

/-- `div.s` (R118). -/
def divS (x y n : Nat) : Nat :=
  let a := sextNat x n
  let b := sextNat y n
  if b = 0 then 2 ^ n - 1 else wrapInt (Int.tdiv a b) n
/-- `div.z` (R118). -/
def divZ (x y n : Nat) : Nat := if y % 2 ^ n = 0 then 2 ^ n - 1 else (x % 2 ^ n) / (y % 2 ^ n)
/-- `rem.s` (R118). -/
def remS (x y n : Nat) : Nat :=
  let a := sextNat x n
  let b := sextNat y n
  if b = 0 then x % 2 ^ n else wrapInt (Int.tmod a b) n
/-- `rem.z` (R118). -/
def remZ (x y n : Nat) : Nat := if y % 2 ^ n = 0 then x % 2 ^ n else (x % 2 ^ n) % (y % 2 ^ n)
/-- `mulh.s` (R118). -/
def mulhS (x y n : Nat) : Nat := wrapInt ((sextNat x n * sextNat y n) / (2 ^ n : Nat)) n
/-- `mulh.z` (R118). -/
def mulhZ (x y n : Nat) : Nat := ((x % 2 ^ n) * (y % 2 ^ n)) / 2 ^ n % 2 ^ n
/-- `sat.sN` and `sat.zN` (R126). -/
def satInt (i : Int) (signed : Bool) (n : Nat) : Nat :=
  let hi : Int := if signed then 2 ^ (n - 1) - 1 else 2 ^ n - 1
  let lo : Int := if signed then -(2 ^ (n - 1)) else 0
  wrapInt (max lo (min hi i)) n
/-- The value of an n-bit pattern, signed or not (R126). -/
def extInt (x n : Nat) (signed : Bool) : Int := if signed then sextNat x n else (x % 2 ^ n : Nat)

end Sys2Proof.Machine
end

