-- ==== Sys2Proof/Machine/Operands.lean ====
section
/-! DEFINITION. Operands of lane words: vector type, elements and their classes, sources, destinations (R44 to R47, R71, R72, R89,
R162 to R165). -/
namespace Sys2Proof.Machine
open Sys2Proof

/-! ### Vector type -/

/-- The fields of VTYPE (R44, R59). -/
structure VT where
  sew   : Nat
  lmul  : Nat
  tfill : Bool
  mfill : Bool
  deriving DecidableEq, Repr

/-- VTYPE decoded (R59). -/
def VT.of (t : BitVec 6) : VT :=
  ⟨8 <<< bitsOf t.toNat 1 0, 1 <<< bitsOf t.toNat 3 2, t.getLsbD 4, t.getLsbD 5⟩

/-- VLMAX = VLEN × LMUL / SEW (R44). -/
def VT.vlmax (t : VT) : Nat := Config.vlen * t.lmul / t.sew

/-- The vector type in force. -/
def LaneState.vt (l : LaneState) : VT := .of l.vtype

/-! ### Types (R80) -/

/-- The bits of a type's elements. -/
def tyWidth (ty : BitVec 4) : Nat :=
  match ty.toNat with
  | 0 | 4 | 14 | 15 => 8
  | 1 | 5 | 10 | 11 => 16
  | 2 | 6 | 12 => 32
  | 8 => 4
  | _ => 64

/-- Whether a type is a signed integer type. -/
def tySigned (ty : BitVec 4) : Bool := 4 ≤ ty.toNat && ty.toNat < 8

/-- The format of a floating-point type. -/
def tyFmt (ty : BitVec 4) : Fmt :=
  match ty.toNat with
  | 8 => .e2m1
  | 10 => .f16
  | 11 => .bf16
  | 12 => .f32
  | 14 => .e4m3
  | 15 => .e5m2
  | _ => .f64

/-- Codes 0xA to 0xD: the types lane arithmetic accepts (R162). -/
def tyArith (ty : BitVec 4) : Bool := 10 ≤ ty.toNat && ty.toNat ≤ 13
/-- Codes 0x0 to 0x7 and 0xA to 0xF: the types moves, permutes, loads and stores accept (R162). -/
def tyElem (ty : BitVec 4) : Bool := ty.toNat ≠ 8 && ty.toNat ≠ 9

/-! ### Elements -/

/-- Bytes [i, i + n) of a vector register, as a number. -/
def VReg.read (v : VReg) (bit width : Nat) : Nat := (v.bits.toNat >>> bit) % 2 ^ width

/-- A vector register with bits written and the tag shadow of their granule cleared (R72). -/
def VReg.write (v : VReg) (bit width x : Nat) : VReg :=
  let m := (2 ^ width - 1) * 2 ^ bit
  { bits := (v.bits &&& ~~~(BitVec.ofNat 2048 m)) ||| BitVec.ofNat 2048 (x % 2 ^ width * 2 ^ bit),
    tags := v.tags &&& ~~~(BitVec.ofNat 16 (2 ^ (bit / 128))) }

/-- A vector register of the group. -/
def LaneState.vreg (l : LaneState) (n : Nat) : VReg := vgetD l.v n ⟨0, 0⟩

/-- Element k, w bits wide, of the register group at n (R163). -/
def LaneState.elem (l : LaneState) (n w k : Nat) : Nat := (l.vreg (n + k * w / 2048)).read (k * w % 2048) w

/-- Element k written; its granule's tag shadow cleared (R72). -/
def LaneState.setElem (l : LaneState) (n w k x : Nat) : LaneState :=
  { l with v := vmod l.v (n + k * w / 2048) fun r => r.write (k * w % 2048) w x }

/-- Capability element k of the LMUL-4 group at n (R71). -/
def LaneState.capElem (l : LaneState) (n k : Nat) : Cap :=
  let r := l.vreg (n + k / 16)
  Cap.ofBits (BitVec.ofNat 128 (r.read (k % 16 * 128) 128)) (r.tags.getLsbD (k % 16))

/-- Capability element k written, with its tag (R71, R72). -/
def LaneState.setCapElem (l : LaneState) (n k : Nat) (x : Cap) : LaneState :=
  { l with v := vmod l.v (n + k / 16) fun r =>
      let r' := r.write (k % 16 * 128) 128 x.toBits.toNat
      if x.tag then { r' with tags := r'.tags ||| BitVec.ofNat 16 (2 ^ (k % 16)) } else r' }

/-- Bit k of a predicate; p0 reads all ones (R58). -/
def LaneState.pbit (l : LaneState) (n k : Nat) : Bool := if n = 0 then true else (vgetD l.p n 0).getLsbD k

/-- Bit k of a predicate written; writes of p0 are discarded (R58). -/
def LaneState.setPbit (l : LaneState) (n k : Nat) (b : Bool) : LaneState :=
  if n = 0 then l else
  { l with p := vmod l.p n fun x => if b then x ||| BitVec.ofNat 2048 (2 ^ k) else x &&& ~~~(BitVec.ofNat 2048 (2 ^ k)) }

/-- The four classes of a destination element (R46). -/
inductive ElemClass where
  | active | masked | tail | absent
  deriving DecidableEq, Repr

/-- Whether element k is present at the SEW in force (R51). -/
def LaneState.isPresent (l : LaneState) (k : Nat) : Bool :=
  let s := l.vt.sew
  (k % (2048 / s) * s + s - 1) / 32 < l.present

/-- The guard of element k (R47). -/
def LaneState.guardBit (l : LaneState) (c : Ctl) (k : Nat) : Bool := l.pbit c.guard.toNat k ^^ c.neg

/-- The class of element k (R46). -/
def LaneState.cls (l : LaneState) (c : Ctl) (k : Nat) : ElemClass :=
  if !l.isPresent k then .absent
  else if l.vl ≤ k then .tail
  else if l.guardBit c k then .active else .masked

/-- Whether element k is active (R46). -/
def LaneState.isActive (l : LaneState) (c : Ctl) (k : Nat) : Bool := l.cls c k == .active

/-- The active elements, ascending. -/
def LaneState.actives (l : LaneState) (c : Ctl) : List Nat := (List.range l.vl).filter fun k => l.isActive c k

/-- The value that an element of a class that is not active is given, if it is written (R46). -/
def LaneState.fills (l : LaneState) : ElemClass → Bool
  | .masked => l.vt.mfill
  | .tail => l.vt.tfill
  | _ => false

/-- The bits of a narrow destination above VLMAX × w, which are tail bits, filled where their lane position is present (R46, R163). -/
def LaneState.fillNarrow (l : LaneState) (n w : Nat) : LaneState :=
  let bits := l.vt.vlmax * w
  if l.vt.lmul * w < l.vt.sew ∧ l.vt.tfill ∧ l.vl ≠ 0 ∧ bits < 32 * l.present then
    { l with v := vmod l.v n fun r =>
        let m := 2 ^ min 2048 (32 * l.present) - 2 ^ bits
        { bits := r.bits ||| BitVec.ofNat 2048 m,
          tags := (List.range 16).foldl (fun t i => if bits < 128 * (i + 1) ∧ 128 * i < 32 * l.present then t &&& ~~~(BitVec.ofNat 16 (2 ^ i)) else t) r.tags } }
  else l

/-- One destination element written by its class (R46): `res` where active. -/
def LaneState.putElem (old : LaneState) (c : Ctl) (n w : Nat) (res : Nat → Nat) (l : LaneState) (k : Nat) : LaneState :=
  match old.cls c k with
  | .active => l.setElem n w k (res k)
  | k' => if old.fills k' then l.setElem n w k (2 ^ w - 1) else l

/-- A destination group written by class (R46, R164). With VL = 0 nothing is written. -/
def LaneState.putGroup (l : LaneState) (c : Ctl) (n w : Nat) (res : Nat → Nat) : LaneState :=
  if l.vl = 0 then l else ((List.range l.vt.vlmax).foldl (l.putElem c n w res) l).fillNarrow n w

/-- A destination group written where an element is masked or tail only; the active elements are written later (R181). -/
def LaneState.putInactive (l : LaneState) (c : Ctl) (n w : Nat) : LaneState :=
  if l.vl = 0 then l else
    ((List.range l.vt.vlmax).foldl (fun l' k => if l.fills (l.cls c k) then l'.setElem n w k (2 ^ w - 1) else l') l)

/-- A predicate destination written by class: the result where active, 1 as the fill value (R46). -/
def LaneState.putPred (l : LaneState) (c : Ctl) (n : Nat) (res : Nat → Bool) : LaneState :=
  if l.vl = 0 then l else
    (List.range l.vt.vlmax).foldl (fun l' k => match l.cls c k with
      | .active => l'.setPbit n k (res k)
      | k' => if l.fills k' then l'.setPbit n k true else l') l

/-! ### What a lane word needs of the registers -/

/-- How an instruction's time in the issue slot is found (R17, R180): elements per cycle, a factor and an addend. -/
structure SlotTime where
  per    : Nat
  times  : Nat
  plus   : Nat
  deriving DecidableEq, Repr

/-- The registers of a lane word at a vector type: groups read and written (number, element width), predicates read and written, whole
    runs of registers read or written (first, count), the time class, and what must hold of the operands (R99 step 4). `same` is the group of word indices
    of a private access, whose time is that of the class only where they are equal (R180). -/
structure Uses where
  rd   : List (Nat × Nat) := []
  wr   : List (Nat × Nat) := []
  prd  : List Nat := []
  pwr  : List Nat := []
  rdN  : List (Nat × Nat) := []
  wrN  : List (Nat × Nat) := []
  sca  : List Nat := []
  ok   : Bool := true
  same : Option Nat := none
  time : SlotTime := ⟨2048, 1, 0⟩
  deriving DecidableEq, Repr

/-- EMUL at least 1: LMUL × w / E registers; below 1: one register (R163). -/
def VT.emul (t : VT) (w : Nat) : Nat := if t.lmul * w < t.sew then 1 else t.lmul * w / t.sew

/-- Whether a register group is legal: aligned, no more than 8 registers, within the budget (R15, R44, R163). -/
def VT.groupOk (t : VT) (vbud n w : Nat) : Bool := n % t.emul w == 0 && t.emul w ≤ 8 && n + t.emul w ≤ vbud

/-- Whether a run of registers is legal: its first number a multiple of `al`, its end within the budget. -/
def runOk (vbud : Nat) (r : Nat × Nat) : Bool := r.1 % r.2 == 0 && r.1 + r.2 ≤ vbud

/-- Whether the operands of a lane word are legal for a group's budgets (R99 step 4). -/
def Uses.legal (u : Uses) (t : VT) (vbud sbud : Nat) : Bool :=
  u.ok && u.sca.all (fun n => n < sbud) && (u.rd ++ u.wr).all (fun g => t.groupOk vbud g.1 g.2) && (u.rdN ++ u.wrN).all (runOk vbud)

/-- The registers of groups. -/
def VT.refs (t : VT) (gs rs : List (Nat × Nat)) (ps : List Nat) : List RegRef :=
  (gs.flatMap fun g => (List.range (t.emul g.2)).map fun i => RegRef.v (g.1 + i)) ++
  (rs.flatMap fun r => (List.range r.2).map fun i => RegRef.v (r.1 + i)) ++ ps.map RegRef.p

/-- The registers and predicates a lane word reads. -/
def Uses.reads (u : Uses) (t : VT) : List RegRef := t.refs u.rd u.rdN u.prd
/-- The registers and predicates a lane word writes. -/
def Uses.writes (u : Uses) (t : VT) : List RegRef := t.refs u.wr u.wrN u.pwr

/-! ### The second source (R89) -/

/-- The register group a second source reads, if it is one. -/
def src2Group (x : Src2) (w : Nat) : List (Nat × Nat) :=
  match x with
  | .vec b => [(b.toNat, w)]
  | _ => []

/-- The scalar a second source reads, if it does. -/
def src2Scalar : Src2 → List Nat
  | .sca k => [k.toNat]
  | _ => []

/-- Whether the form is legal for the type: I with a float type and L with an 8-bit float type are not; `perm` marks major 0x0E, where both
    are (R89). -/
def src2Legal (x : Src2) (ty : BitVec 4) (perm : Bool) : Bool :=
  match x with
  | .imm _ => perm || ty.toNat < 8
  | .lit _ => perm || ty.toNat < 8 || tyArith ty
  | _ => true

/-- A binary32 pattern widened exactly to binary64, NaN kind kept (R89). -/
def widenF32 (x : Nat) : Nat :=
  match Fmt.f32.decode x with
  | .nan _ => Fmt.f64.signBit (bitOf x 31) + 0x7FF * 2 ^ 52 + x % 2 ^ 23 * 2 ^ 29
  | v => (Fmt.f64.round .rne false v).1

/-- The literal's value (R89). -/
def litValue (x : BitVec 32) (ty : BitVec 4) (w : Nat) (perm : Bool) : Nat :=
  if ty.toNat < 8 ∨ perm then (if ty = 7 then wrapInt x.toInt 64 else x.toNat) % 2 ^ w
  else if ty = 13 then widenF32 x.toNat
  else x.toNat % 2 ^ w

/-- Element k of the second source at width w. -/
def src2Val (x : Src2) (l : LaneState) (snap : Snap) (ty : BitVec 4) (w : Nat) (perm : Bool) (k : Nat) : Nat :=
  match x with
  | .vec b => l.elem b.toNat w k
  | .imm i => wrapInt i.toInt w
  | .lit y => litValue y ty w perm
  | .sca r => (if r = 0 then 0 else (vgetD snap.s r.toNat 0).toNat) % 2 ^ w

/-! ### Register uses by shape -/

/-- Elements per cycle of an integer, logic, compare, move or permute word at SEW s (R17). -/
def intTime (t : VT) : SlotTime := ⟨if t.sew = 64 then 32 else 2048 / t.sew, 1, 0⟩
/-- Elements per cycle of floating arithmetic on a type (R17). -/
def floatTime (ty : BitVec 4) : SlotTime :=
  ⟨match tyWidth ty with | 64 => 16 | 32 => 64 | _ => 128, 1, 0⟩

/-- d, a and a second source, element widths given; `ok` is the type rule of R162. -/
def Uses.bin (c : Ctl) (d a : BitVec 6) (x : Src2) (dw aw w : Nat) (ok : Bool) (time : SlotTime) : Uses :=
  { rd := (a.toNat, aw) :: src2Group x w, wr := [(d.toNat, dw)], prd := [c.guard.toNat], sca := src2Scalar x, ok := ok, time := time }
/-- d and a. -/
def Uses.un (c : Ctl) (d a : BitVec 6) (dw aw : Nat) (ok : Bool) (time : SlotTime) : Uses :=
  { rd := [(a.toNat, aw)], wr := [(d.toNat, dw)], prd := [c.guard.toNat], ok := ok, time := time }

/-- The scalar that a word in the lane queue will return into (R36, R165), if it is one of the forms that do and not `s0`. -/
def laneRet (w : BitVec 96) : Option Nat :=
  let f := LaneFields.ofWord w
  let ret := match f.maj.toNat with
    | 0x01 => true
    | 0x0A => f.func == 8 || f.func == 9
    | 0x0B => f.func == 3
    | 0x0C => true
    | _ => false
  if ret && f.d != 0 then some f.d.toNat else none

/-- Whether a lane word counts in ld (some true), in st (some false) or not at all (R48). -/
def laneCount (w : BitVec 96) : Option Bool :=
  let f := LaneFields.ofWord w
  match f.maj.toNat with
  | 0x10 | 0x14 => some true
  | 0x11 => some false
  | 0x12 | 0x13 => some (!f.imm.getLsbD 0)
  | _ => none

/-- Whether a lane word makes memory accesses: majors 0x10 to 0x15 (R91). -/
def laneMem (w : BitVec 96) : Bool :=
  let m := (LaneFields.ofWord w).maj.toNat
  0x10 ≤ m && m ≤ 0x15

/-- Snapshot scalar r; `s0` is zero. -/
def Snap.x (p : Snap) (r : Nat) : Word := if r = 0 then 0 else vgetD p.s r 0
/-- Snapshot capability r. -/
def Snap.cap (p : Snap) (r : Nat) : Cap := vgetD p.c r .null

end Sys2Proof.Machine
end

