-- ==== Sys2Proof/Machine/Memory.lean ====
section
/-! DEFINITION. Physical memory, worlds, the window region, tags, translation, range locks and the checks of an access (R22 to R28, R70, R73,
R213, R214, R266, R372 to R375, R388 to R390). Bytes are named by keys: a physical address, 2^53 + a window offset, or a byte of another
package (log entry 3). -/
namespace Sys2Proof.Machine
open Sys2Proof

/-! ### Cause codes (R63) -/

abbrev Cause.transInvalid : BitVec 8 := 0x01
abbrev Cause.permRead : BitVec 8 := 0x02
abbrev Cause.permWrite : BitVec 8 := 0x03
abbrev Cause.permExec : BitVec 8 := 0x04
abbrev Cause.permAtomic : BitVec 8 := 0x05
abbrev Cause.permPriv : BitVec 8 := 0x06
abbrev Cause.worldMismatch : BitVec 8 := 0x07
abbrev Cause.capTag : BitVec 8 := 0x10
abbrev Cause.capBounds : BitVec 8 := 0x11
abbrev Cause.capPerm : BitVec 8 := 0x12
abbrev Cause.capSealed : BitVec 8 := 0x13
abbrev Cause.capRevoked : BitVec 8 := 0x14
abbrev Cause.stackLimit : BitVec 8 := 0x18
abbrev Cause.rangeLock : BitVec 8 := 0x20
abbrev Cause.tileOob : BitVec 8 := 0x21
abbrev Cause.align : BitVec 8 := 0x22
abbrev Cause.lrFail : BitVec 8 := 0x28
abbrev Cause.lrIllegal : BitVec 8 := 0x29
abbrev Cause.lrTag : BitVec 8 := 0x2A
abbrev Cause.lrMissing : BitVec 8 := 0x2C
abbrev Cause.illegalInsn : BitVec 8 := 0x30
abbrev Cause.reservedEnc : BitVec 8 := 0x31
abbrev Cause.privInsn : BitVec 8 := 0x32
abbrev Cause.runLength : BitVec 8 := 0x33
abbrev Cause.msgOverflow : BitVec 8 := 0x40
abbrev Cause.eccFatal : BitVec 8 := 0x50
abbrev Cause.breakpoint : BitVec 8 := 0xF0
abbrev Cause.step : BitVec 8 := 0xF1

/-- The codes of R63. -/
def causeCodes : List (BitVec 8) :=
  [0x01, 0x02, 0x03, 0x04, 0x05, 0x06, 0x07, 0x10, 0x11, 0x12, 0x13, 0x14, 0x18, 0x20, 0x21, 0x22, 0x28, 0x29, 0x2A, 0x2C, 0x30, 0x31, 0x32, 0x33, 0x40,
   0x50, 0xF0, 0xF1]

/-- The cause code of an event whose rule names none: any of R63 (log entry 5). -/
def freeCause (n : Nat) : BitVec 8 := causeCodes.getD (Config.freeCause n).val Cause.transInvalid

/-! ### Parts of the state -/

/-- A cluster. -/
def State.cluster (s : State) (n : Nat) : Cluster := vgetD s.clusters n .reset
/-- A cluster changed. -/
def State.modCluster (s : State) (n : Nat) (f : Cluster → Cluster) : State := { s with clusters := vmod s.clusters n f }
/-- A die. -/
def State.die (s : State) (n : Nat) : Die := vgetD s.dies n .reset
/-- A die changed. -/
def State.modDie (s : State) (n : Nat) (f : Die → Die) : State := { s with dies := vmod s.dies n f }
/-- A resident group, by slot index (R278). -/
def State.group (s : State) (k : Nat) : Option Group := mapGet s.groups k
/-- A resident group changed. -/
def State.modGroup (s : State) (k : Nat) (f : Group → Group) : State := { s with groups := mapMod f s.groups k }
/-- A resident team. -/
def State.team (s : State) (k : Nat) : Option Team := mapGet s.teams k
/-- A resident team changed. -/
def State.modTeam (s : State) (k : Nat) (f : Team → Team) : State := { s with teams := mapMod f s.teams k }
/-- A context. -/
def State.ctx (s : State) (k : Nat) : Option Ctx := mapGet s.ctxs k
/-- A context changed. -/
def State.modCtx (s : State) (k : Nat) (f : Ctx → Ctx) : State := { s with ctxs := mapMod f s.ctxs k }
/-- A compute core of a cluster. -/
def Cluster.core (c : Cluster) (n : Nat) : Core := vgetD c.cores n .reset
/-- A compute core changed. -/
def State.modCore (s : State) (cl n : Nat) (f : Core → Core) : State := s.modCluster cl fun c => { c with cores := vmod c.cores n f }
/-- The cluster of a slot index (R278). -/
def slotCluster (k : Nat) : Nat := k / 128
/-- The core of a slot index. -/
def slotCore (k : Nat) : Nat := k / 32 % 4

/-! ### The physical map (log entry 3) -/

/-- The physical address that a register or a record holds: its 52 bits (R373); bits above them are no part of it (log entry 3). -/
def physAddr (w : Word) : Nat := w.toNat % 2 ^ 52

/-- A memory device: where it lies, its raw size, its die. -/
structure Device where
  lo  : Nat
  raw : Nat
  die : Nat
  deriving DecidableEq, Repr

/-- The device that holds a physical address: 8 stacks of HBM4, two a die, and the second tier of each die. -/
def deviceOf (k : Nat) : Option Device :=
  if k < 8 * Config.hbmStride then
    let i := k / Config.hbmStride
    if k % Config.hbmStride < Config.hbmRaw then some ⟨i * Config.hbmStride, Config.hbmRaw, i / 2⟩ else none
  else if Config.tier2Base ≤ k ∧ k < Config.tier2Base + 4 * Config.tier2Stride then
    let d := (k - Config.tier2Base) / Config.tier2Stride
    if (k - Config.tier2Base) % Config.tier2Stride < Config.tier2Raw then
      some ⟨Config.tier2Base + d * Config.tier2Stride, Config.tier2Raw, d⟩ else none
  else none

/-- First physical address of a device's tag region, its top 1/128 (R73). -/
def Device.tags (d : Device) : Nat := d.lo + d.raw / 128 * 127

/-- The first of the eight granules whose tags a byte of a tag region holds (R73). -/
def tagByte (k : Nat) : Option Nat :=
  match deviceOf k with
  | some d => if d.tags ≤ k then some (d.lo / 16 + 8 * (k - d.tags)) else none
  | none => none

/-- Pages of 64 KiB of one HBM4 stack and of one die's second tier, the last of each in part. -/
abbrev stackPages : Nat := 976563
/-- See `stackPages`. -/
abbrev tier2Pages : Nat := 5859375

/-- The first address of the page whose world byte i of the page ownership table holds: the stacks in order, then the second tiers (R388, log entry 63). -/
def tablePage (i : Nat) : Option Nat :=
  if i < 8 * stackPages then some (i / stackPages * Config.hbmStride + i % stackPages * 65536)
  else
    let j := i - 8 * stackPages
    if j < 4 * tier2Pages then some (Config.tier2Base + j / tier2Pages * Config.tier2Stride + j % tier2Pages * 65536) else none

/-- The page whose world a byte of the firmware's region holds, if it is a byte of the table. -/
def worldByte (k : Nat) : Option Nat := if Config.fwBase ≤ k ∧ k < Config.fwCrash then tablePage (k - Config.fwBase) else none

/-- The home slice of a physical line: die × 256 + the XOR of four fields (R23). -/
def homeSlice (k : Nat) : Nat :=
  let x := bitsOf k 14 7 ^^^ bitsOf k 22 15 ^^^ bitsOf k 30 23 ^^^ bitsOf k 38 31
  (match deviceOf k with | some d => d.die * 256 | none => 0) + x

/-! ### The window region (R26) -/

/-- What a window offset names. -/
inductive WinPart where
  | way (cluster w : Nat)
  | file (cluster core reg byte : Nat)
  | acc (cluster core a : Nat)
  | reserved
  deriving DecidableEq, Repr

/-- What lies at a window offset (R26). -/
def winPart (x : Nat) : WinPart :=
  let c := x / 0x1000000
  let o := x % 0x1000000
  if Config.windowSize ≤ x then .reserved
  else if o < 0x200000 then .way c (o / 0x8000)
  else if o < 0xA00000 then
    let core := (o - 0x200000) / 0x200000
    let r := (o - 0x200000) % 0x200000
    if r < 0x80000 then .file c core (r / 256) (r % 256) else .acc c core ((r - 0x80000) / 0x80000)
  else .reserved

/-- The window offset of a key, if it is one. -/
def winOf (k : Nat) : Option Nat := if Config.windowKey ≤ k ∧ k < Config.remoteKey then some (k - Config.windowKey) else none

/-- The resident group that holds a physical register of a core's file, with its own number for it (R26). -/
def State.fileOwner (s : State) (cl core reg : Nat) : Option (Nat × Nat) :=
  s.groups.findSome? fun p =>
    if slotCluster p.1 = cl ∧ slotCore p.1 = core then
      match p.2.blocks.findIdx? (· == reg / 8) with
      | some i => some (p.1, i * 8 + reg % 8)
      | none => none
    else none

/-- The group register that a key lies in, with the byte: slot, register, byte. -/
def State.regOf (s : State) (k : Nat) : Option (Nat × Nat × Nat) :=
  match winOf k with
  | none => none
  | some x =>
    match winPart x with
    | .file cl core reg b => (s.fileOwner cl core reg).map fun p => (p.1, p.2, b)
    | _ => none

/-! ### Worlds (R388) -/

/-- The world of a physical page, if a memory device holds it (R388): the tag regions (R73) and the firmware's region (R346 step 2) belong to world 255. -/
def State.pageWorld (s : State) (k : Nat) : Option (BitVec 8) :=
  match deviceOf k with
  | none => none
  | some d =>
    if d.tags < (k / 65536 + 1) * 65536 ∨ (Config.fwBase ≤ k ∧ k < Config.fwBase + Config.fwSize) then some 255
    else some (mapGetD s.worlds (k / 65536) 0)

/-- The page's world set; world 0 is not listed. -/
def State.setWorld (s : State) (page : Nat) (w : BitVec 8) : State :=
  { s with worlds := if w = 0 then mapDel s.worlds page else mapSet s.worlds page w }

/-! ### Bytes and tags by key -/

/-- The byte at a key: another package's, which its own agents may have written since (R266); a group's register (R26); tags (R73); the page ownership table
    (R388); else what was written there last. The last is also what a block of a register file that no resident group holds reads as. DESIGN CHOICE (log
    entry 52): the manual does not say what such a block holds. -/
def State.keyByte (s : State) (k : Nat) : Byte :=
  if Config.remoteKey ≤ k then (Config.remoteByte s.free k).getD (memGet s.mem k)
  else match s.regOf k with
    | some (slot, r, b) =>
      match s.group slot with
      | some g => BitVec.ofNat 8 ((vgetD g.lane.v r ⟨0, 0⟩).bits.toNat >>> (8 * b))
      | none => 0
    | none =>
      match tagByte k with
      | some g => BitVec.ofNat 8 (bitsNat ((List.range 8).map fun i => tagGet s.tags (g + i)))
      | none => match worldByte k with
        | some p => (s.pageWorld p).getD 0
        | none => memGet s.mem k

/-- One byte written at a key, its tag left alone; an error there is gone with what it hit (R409). A byte of a tag region sets the tags it holds (R73, R383). A byte of the page ownership table is left as it
    is: only the firmware complex writes the table (R388, log entry 63). -/
def State.keyPut (s : State) (k : Nat) (x : Byte) : State :=
  if Config.remoteKey ≤ k then { s with mem := memPut s.mem k x }
  else match s.regOf k with
    | some (slot, r, b) =>
      s.modGroup slot fun g => { g with lane := { g.lane with v := vmod g.lane.v r fun v =>
        { v with bits := (v.bits &&& ~~~(BitVec.ofNat 2048 (255 * 2 ^ (8 * b)))) ||| BitVec.ofNat 2048 (x.toNat * 2 ^ (8 * b)) } } }
    | none =>
      match tagByte k with
      | some g => { s with tags := (List.range 8).foldl (fun t i => tagPut t (g + i) (x.getLsbD i)) s.tags }
      | none => match worldByte k with
        | some _ => s
        | none => { s with mem := memPut s.mem k x, damaged := s.damaged.filter (· != k) }

/-- Whether bits can be those of a tagged capability (R64). -/
def Cap.wellFormed (c : Cap) : Bool := c.e.toNat ≤ 52 && c.lf.toNat ≤ 1024

/-- The tag of the granule at a key. One of another package is set only over bits of a capability (R64, R266). -/
def State.keyTag (s : State) (k : Nat) : Bool :=
  if Config.remoteKey ≤ k then
    (match Config.remoteByte s.free (k + 2 ^ 60) with | some x => x.getLsbD 0 | none => tagGet s.tags (k / 16)) &&
      (Cap.ofBytes ((List.range 16).map fun i => s.keyByte (k / 16 * 16 + i)) true).wellFormed
  else match s.regOf k with
    | some (slot, r, b) =>
      match s.group slot with
      | some g => (vgetD g.lane.v r ⟨0, 0⟩).tags.getLsbD (b / 16)
      | none => false
    | none => tagGet s.tags (k / 16)

/-- The tag of the granule at a key written. -/
def State.keySetTag (s : State) (k : Nat) (t : Bool) : State :=
  if Config.remoteKey ≤ k then { s with tags := tagPut s.tags (k / 16) t }
  else match s.regOf k with
    | some (slot, r, b) =>
      s.modGroup slot fun g => { g with lane := { g.lane with v := vmod g.lane.v r fun v =>
        { v with tags := if t then v.tags ||| BitVec.ofNat 16 (2 ^ (b / 16)) else v.tags &&& ~~~(BitVec.ofNat 16 (2 ^ (b / 16))) } } }
    | none => { s with tags := tagPut s.tags (k / 16) t }

/-- Whether an error that nothing corrected has hit a byte of [k, k + n): it is not delivered (R409). -/
def State.spoilt (s : State) (k n : Nat) : Bool := s.damaged.any fun d => k ≤ d && d < k + n
/-- The same of ranges. -/
def State.segsSpoilt (s : State) (l : List Seg) : Bool := l.any fun a => s.spoilt a.lo a.len

/-- `n` bytes from a key on. -/
def State.readKeys (s : State) (k n : Nat) : List Byte := (List.range n).map fun i => s.keyByte (k + i)
/-- `n` bytes from a key on, as a number. -/
def State.readNat (s : State) (k n : Nat) : Nat := leNat (s.readKeys k n)

/-- Bytes written from a key on, tags left alone. -/
def State.putKeys (s : State) (k : Nat) : List Byte → State
  | [] => s
  | b :: bs => State.putKeys (s.keyPut k b) (k + 1) bs

/-- The tags of the granules of [k, k + n) cleared. -/
def State.clearTags (s : State) (k n : Nat) : State :=
  if n = 0 then s else (List.range ((k + n - 1) / 16 + 1 - k / 16)).foldl (fun s i => s.keySetTag ((k / 16 + i) * 16) false) s

/-- A non-capability write: the bytes, and the tags of their granules cleared (R73). -/
def State.writeKeys (s : State) (k : Nat) (bs : List Byte) : State := (s.clearTags k bs.length).putKeys k bs
/-- The first key of a way. -/
def wayKey (cl w : Nat) : Nat := Config.windowKey + cl * 0x1000000 + w * 0x8000
/-- Ways a to b - 1 of a cluster turned from cache to scratchpad (R21, R157): what they hold is open, and no granule is tagged. -/
def State.openWays (s : State) (cl a b : Nat) : State :=
  if b ≤ a then s
  else { s.writeKeys (wayKey cl a) ((List.range ((b - a) * 0x8000)).map fun i => Config.lostByte s.free i) with free := s.free + 1 }

/-- A number written little-endian in n bytes, as `writeKeys`. -/
def State.writeNat (s : State) (k n x : Nat) : State := s.writeKeys k (leBytes n x)
/-- A capability written to its granule with a tag (R134). -/
def State.writeCap (s : State) (k : Nat) (c : Cap) (t : Bool) : State := (s.putKeys k c.bytes).keySetTag k t
/-- The capability at a granule, with its tag. -/
def State.readCap (s : State) (k : Nat) : Cap := Cap.ofBytes (s.readKeys k 16) (s.keyTag k)
/-- Bytes with their granules' tags (the first key 16-aligned). -/
def State.readTags (s : State) (k n : Nat) : List Bool := (List.range (n / 16)).map fun i => s.keyTag (k + 16 * i)

/-! ### The check of worlds (R388, R389) -/

/-- Whether the acting world of a context may reach a world's pages (R389). -/
def worldMay (acting page : BitVec 8) : Bool := page == acting || page == 0

/-- The world check of a fill: every 64 KiB page of the leaf carries one world, which the acting world may reach (R388, R389). -/
def State.worldFill (s : State) (acting : BitVec 8) (base size : Nat) : Bool :=
  match s.pageWorld base with
  | some w => worldMay acting w && deviceOf base == deviceOf (base + size - 1) && (List.range (size / 65536)).all fun i => s.pageWorld (base + 65536 * i) == some w
  | none => false

/-! ### Who accesses -/

/-- Who makes an access: its cluster, context, acting world, revoked colours, team; `svc` for a service core, which takes no range lock
    (R261) and may use the system permission (R347); `priv` for an access made for the kernel, which a page's P bit lets pass (R373). -/
structure Who where
  cluster : Nat
  ctx     : Nat
  world   : BitVec 8
  mask    : BitVec 256
  team    : Option Nat
  svc     : Bool
  priv    : Bool
  deriving DecidableEq, Repr

/-- The revoked colours of a context (R74). -/
def State.colourMask (s : State) (ctx : Nat) : BitVec 256 := match s.ctx ctx with | some c => c.mask | none => 0

/-- A group as the maker of an access. -/
def State.whoGroup (s : State) (k : Nat) : Who :=
  match s.group k with
  | some g => ⟨slotCluster k, g.ctx, g.world, s.colourMask g.ctx, some g.team, false, false⟩
  | none => ⟨slotCluster k, 0, 0, 0, none, false, false⟩

/-- A service core as the maker of an access: context 0, world 255 (R369, R389). -/
def whoService (c : Nat) : Who := ⟨c, 0, 255, 0, none, true, true⟩

/-- The thread whose word executes, as the maker of its accesses. -/
def State.who (s : State) : Who := match s.cur with | .group k => s.whoGroup k | .service c => whoService c

/-- An agent of the device acting for a context, from a cluster (walker, dispatcher, calls). -/
def State.whoCtx (s : State) (ctx cluster : Nat) (priv : Bool) : Who :=
  match s.ctx ctx with
  | some c => ⟨cluster, ctx, c.world, c.mask, none, false, priv⟩
  | none => ⟨cluster, ctx, 0, 0, none, false, priv⟩

/-! ### Checks on the capability (R70) -/

/-- The first cause of R70 up to `CAP_PERM`, if any. -/
def authCause (w : Who) (c : Cap) (perms : List Nat) : Option (BitVec 8) :=
  if !c.tag then some Cause.capTag
  else if w.mask.getLsbD c.colour.toNat then some Cause.capRevoked
  else if c.otype != 0 then some Cause.capSealed
  else if !(perms.all fun p => c.has p) || (!w.svc && c.has Perm.system) then some Cause.capPerm
  else none

/-- The first cause of R70 up to `ALIGN`, if any. -/
def capCause (w : Who) (c : Cap) (perms : List Nat) (x n align : Nat) : Option (BitVec 8) :=
  match authCause w c perms with
  | some e => some e
  | none => if !c.covers x n then some Cause.capBounds else if x % align != 0 then some Cause.align else none

/-! ### Translation (R372 to R375) -/

/-- The rights of a leaf that accesses need, as bit numbers of R373, in the order of R70. -/
abbrev Need.read : List Nat := [2]
abbrev Need.write : List Nat := [3]
abbrev Need.exec : List Nat := [4]
abbrev Need.atomic : List Nat := [2, 3, 5]
/-- The rights of an atomic, asked for by a line routine, which a scratchpad way does not admit (R224, R226). -/
abbrev Need.line : List Nat := [2, 3, 5, 5]

/-- The levels of R372: shift, index bits, and the size of the table that the level's entries stand in. -/
def ptLevels : List (Nat × Nat × Nat) := [(48, 8, 2048), (39, 9, 4096), (30, 9, 4096), (21, 9, 4096), (16, 5, 256)]

/-- The result of a walk: a leaf with its page's size exponent, or a cause. -/
abbrev WalkRes := Except (BitVec 8) (Word × Nat)

/-- The walk from a table on (R373). Reading a table in a page of another world fails the world check (R389); without a world the walk is the service
    kernel's, which reaches every world. -/
def State.walk (s : State) (world : Option (BitVec 8)) (va : Nat) : List (Nat × Nat × Nat) → Nat → WalkRes
  | [], _ => .error Cause.transInvalid
  | (sh, bits, size) :: rest, base =>
    let a := base + 8 * (va / 2 ^ sh % 2 ^ bits)
    if base % size ≠ 0 then .error Cause.transInvalid
    else if !(match s.pageWorld a with | some w => world.all fun x => worldMay x w | none => false) then .error Cause.worldMismatch
    else
      let e := BitVec.ofNat 64 (s.readNat a 8)
      let addr := bitsOf e.toNat 51 8 * 256
      if !e.getLsbD 0 then .error Cause.transInvalid
      else if e.getLsbD 1 then
        if 30 < sh ∨ bitsOf e.toNat 63 59 ≠ 0 ∨ (!e.getLsbD 58 ∧ bitsOf e.toNat 57 52 ≠ 0) ∨ addr % 2 ^ sh ≠ 0 then .error Cause.transInvalid
        else .ok (e, sh)
      else if bitsOf e.toNat 63 52 ≠ 0 ∨ bitsOf e.toNat 7 2 ≠ 0 then .error Cause.transInvalid
      else State.walk s world va rest addr

/-- The first permission cause of a leaf (R70, R373). -/
def leafCause (priv : Bool) (need : List Nat) (e : Word) : Option (BitVec 8) :=
  match need.find? fun b => !e.getLsbD b with
  | some 2 => some Cause.permRead
  | some 3 => some Cause.permWrite
  | some 4 => some Cause.permExec
  | some _ => some Cause.permAtomic
  | none => if e.getLsbD 6 && !priv then some Cause.permPriv else none

/-- The number of this package and the count of packages, from `WLTOPO` (R366). -/
def State.ownPackage (s : State) : Nat := bitsOf s.edge.wltopo.toNat 21 16
/-- See `ownPackage`. -/
def State.packages (s : State) : Nat :=
  (bitsOf s.edge.wltopo.toNat 3 0 + 1) * (bitsOf s.edge.wltopo.toNat 7 4 + 1) * (bitsOf s.edge.wltopo.toNat 11 8 + 1) *
    (bitsOf s.edge.wltopo.toNat 15 12 + 1)
/-- Whether a package number names another package of the topology (R149, R266). -/
def State.otherPackage (s : State) (p : Nat) : Bool := p < s.packages && p != s.ownPackage

/-- The key of an address under a leaf (R373): a physical address, or a byte of the package that a remote leaf names. -/
def leafKey (e : Word) (size va : Nat) : Nat :=
  let a := bitsOf e.toNat 51 8 * 256 + va % 2 ^ size
  if e.getLsbD 58 then Config.remoteKey + bitsOf e.toNat 57 52 * 2 ^ 52 + a else a

/-- The TLB entry that translates an address, if one is held (R375). -/
def Cluster.tlbHit (c : Cluster) (ctx va : Nat) : Option TlbEntry := c.tlb.find? fun t => t.ctx == ctx && t.page == va / 2 ^ t.size

/-- Translation of a virtual address for a context: the key and the entry to install (R373, R375, R389). -/
def State.virt (s : State) (w : Who) (need : List Nat) (va : Nat) : Except (BitVec 8) (Nat × Option TlbEntry) :=
  if 2 ^ 56 ≤ va then .error Cause.transInvalid
  else match (s.cluster w.cluster).tlbHit w.ctx va with
    | some t =>
      match leafCause w.priv need t.pte with
      | some e => .error e
      | none => .ok (leafKey t.pte t.size va, none)
    | none =>
      match s.ctx w.ctx with
      | none => .error Cause.transInvalid
      | some c =>
        match s.walk (some w.world) va ptLevels (physAddr c.ptbase) with
        | .error e => .error e
        | .ok (e, size) =>
          match leafCause w.priv need e with
          | some x => .error x
          | none =>
            if e.getLsbD 58 then
              if s.otherPackage (bitsOf e.toNat 57 52) then .ok (leafKey e size va, some ⟨w.ctx, va / 2 ^ size, size, e⟩)
              else .error Cause.transInvalid
            else if s.worldFill w.world (leafKey e size 0) (2 ^ size) then .ok (leafKey e size va, some ⟨w.ctx, va / 2 ^ size, size, e⟩)
            else .error Cause.worldMismatch

/-- The world of the team that holds a part of the window, for its heir too, 0 where none does (R390). -/
def State.winWorld (s : State) : WinPart → BitVec 8
  | .way cl w => (s.teams.findSome? fun p => if p.2.cluster = cl ∧ p.2.way0 ≤ w ∧ w < p.2.way0 + p.2.ways then some p.2.world else none).getD 0
  | .file cl core reg _ =>
    match s.fileOwner cl core reg with
    | some (k, _) => (match s.group k with | some g => g.world | none => 0)
    | none => (s.teams.findSome? fun p =>
        if p.2.held.any fun h => h.slot / 32 == cl * 4 + core && h.blocks.contains (reg / 8) then some p.2.world else none).getD 0
  | .acc cl core _ => (s.teams.findSome? fun p => if p.2.cluster = cl ∧ p.2.pairHeld = some (core / 2) then some p.2.world else none).getD 0
  | .reserved => 0

/-- Where an access lies: its key, and the TLB entry to install. A window offset is not translated (R26, R27), and a team's world admits its own alone
    (R390); a service core's system capability names physical memory (R347), whose addresses have 52 bits (R373; log entry 3), and it has no page table of
    its own (R369). A cursor with a bit above 55 reaches nothing (R22). -/
def State.locate (s : State) (w : Who) (c : Cap) (need : List Nat) (x : Nat) : Except (BitVec 8) (Nat × Option TlbEntry) :=
  if c.has Perm.window then
    let p := winPart x
    let bad := match p with
      | .reserved => true
      | .way cl k => (s.cluster cl).split ≤ k || need == Need.line
      | _ => need == Need.atomic || need == Need.line
    if bad then .error Cause.transInvalid
    else if s.winWorld p != 0 && w.world != s.winWorld p then .error Cause.worldMismatch
    else .ok (Config.windowKey + x, none)
  else if 2 ^ 56 ≤ c.cursor.toNat then .error Cause.transInvalid
  else if w.svc then (if c.has Perm.system && x < 2 ^ 52 then .ok (x, none) else .error Cause.transInvalid)
  else s.virt w need x

/-- The refusal of another package, if it refuses the access (R266); a free value decides. -/
def State.remoteCause (s : State) (k : Nat) : Option (BitVec 8) :=
  if k < Config.remoteKey then none
  else match Config.remoteRefuses s.free k with
    | some true => some Cause.worldMismatch
    | some false => some Cause.transInvalid
    | none => none

/-- A TLB with entries installed: one entry a page; beyond 2048 the oldest leaves (R22, R375). DESIGN CHOICE of which leaves (log entry 53). -/
def Cluster.fill (c : Cluster) : List TlbEntry → Cluster
  | [] => c
  | t :: ts =>
    let kept := c.tlb.filter fun u => !(u.ctx == t.ctx && u.page == t.page && u.size == t.size)
    let new := kept ++ [t]
    Cluster.fill { c with tlb := if 2048 < new.length then new.drop 1 else new } ts

/-- The TLB of the cluster of an access filled. -/
def State.fill (s : State) (cluster : Nat) (ts : List TlbEntry) : State := if ts.isEmpty then s else s.modCluster cluster fun c => c.fill ts

/-! ### Range locks (R213, R214) -/

/-- Whether a range shares a granule with [k, k + n). -/
def Seg.touches (a : Seg) (k n : Nat) : Bool :=
  a.len != 0 && n != 0 && a.lo / 16 ≤ (k + n - 1) / 16 && k / 16 ≤ (a.lo + a.len - 1) / 16

/-- Whether two lists of ranges share a granule. -/
def segsMeet (a b : List Seg) : Bool := a.any fun x => b.any fun y => x.touches y.lo y.len

/-- Whether an access of a group hits a lock of its cluster (R214). -/
def State.locked (s : State) (w : Who) (rd wr : Bool) (k n : Nat) : Bool :=
  !w.svc && (s.cluster w.cluster).locks.any fun l => ((l.dst && (rd || wr)) || (!l.dst && wr)) && l.segs.any fun a => a.touches k n

/-- The page size of a migration or leaf code: 64 KiB, 2 MiB, 1 GiB. -/
def pageSize (code : Nat) : Nat := match code with | 0 => 2 ^ 16 | 1 => 2 ^ 21 | _ => 2 ^ 30

/-- Whether a byte of [k, k + n) lies in the page that a migration has locked (R378). -/
def Migration.covers (m : Migration) (k n : Nat) : Bool := m.locked && n != 0 && k < m.page + pageSize m.size && m.page < k + n

/-- Whether a byte of [k, k + n) lies in a page that a migration has locked, or in its copy: while both can be read, no write reaches either (R264). -/
def State.moving (s : State) (k n : Nat) : Bool :=
  s.clusters.toList.any fun c => c.svc.mig.covers k n || ({ c.svc.mig with page := c.svc.mig.copy } : Migration).covers k n

/-- Whether a byte lies in a page that a migration has locked, or in its copy. -/
def State.migrating (s : State) (k : Nat) : Bool := s.moving k 1

/-! ### Accumulators in use (R28) -/

/-- The accumulator that a matrix instruction uses, if it uses one. -/
def MxKind.acc : MxKind → Option Nat
  | .lds _ => none
  | .mm b .. | .st b _ | .zero b => some b

/-- Whether a matrix batch in flight of a group uses accumulator a: its open batch, or one that has not retired (R28). -/
def Group.usesAcc (g : Group) (a : Nat) : Bool := g.openAccs.contains a || g.batches.any fun b => b.accs.contains a

/-- Whether a key lies in an accumulator that a matrix batch in flight in its pair uses: an access to it waits (R28). -/
def State.accBusy (s : State) (k : Nat) : Bool :=
  match winOf k with
  | none => false
  | some x =>
    match winPart x with
    | .acc cl core a =>
      let used := fun (c : Core) => c.mq.any fun o => o.kind.acc == some a
      used ((s.cluster cl).core (core / 2 * 2)) || used ((s.cluster cl).core (core / 2 * 2 + 1)) ||
        s.groups.any fun p => slotCluster p.1 == cl && slotCore p.1 / 2 == core / 2 && p.2.usesAcc a
    | _ => false

/-- Whether a range lies in an accumulator in use, by its two ends: an accumulator is longer than any access but an engine's. -/
def State.accHeld (s : State) (k n : Nat) : Bool := s.accBusy k || s.accBusy (k + n - 1)

/-- Whether a write of [k, k + n) waits: for the lock of its page (R264), or for an accumulator's batch (R28). -/
def State.writeWaits (s : State) (k n : Nat) : Bool := s.moving k n || s.accHeld k n

/-- The bytes that a write covers. -/
def StallWrite.len : StallWrite → Nat
  | .put bs => bs.length
  | .cap _ _ => 16
  | .add _ => 8
  | .record bs _ => bs.length

/-- A record written with its tags. -/
def State.writeTagged (s : State) (k : Nat) (bytes : List Byte) (tags : List Bool) : State :=
  (List.range (bytes.length / 16)).foldl (fun s i => s.keySetTag (k + 16 * i) (tags.getD i false)) (s.putKeys k bytes)

/-- A write performed. -/
def State.perform (s : State) (w : Stall) : State :=
  match w.write with
  | .put bs => s.writeKeys w.key bs
  | .cap c t => s.writeCap w.key c t
  | .add n => s.writeNat w.key 8 (s.readNat w.key 8 + n)
  | .record bs ts => s.writeTagged w.key bs ts

/-- Whether a write that waits touches [k, k + n). -/
def Stall.meets (w : Stall) (k n : Nat) : Bool := w.key < k + n && k < w.key + w.write.len

/-- A write of an agent, which waits where its page is locked (R264) or its accumulator in use (R28), and behind the writes to the same bytes that do. -/
def State.agentWrite (s : State) (w : Stall) : State :=
  if s.writeWaits w.key w.write.len || s.stalled.any (fun z => z.meets w.key w.write.len) then { s with stalled := s.stalled ++ [w] } else s.perform w

/-- Writes that wait, the oldest first: each performed unless it still waits, or one that it follows at the same bytes does; with those left (R264 step 5). -/
def State.performDue (s : State) : List Stall → List Stall → State × List Stall
  | left, [] => (s, left)
  | left, w :: ws =>
    if s.writeWaits w.key w.write.len || left.any (fun z => z.meets w.key w.write.len) then State.performDue s (left ++ [w]) ws
    else State.performDue (s.perform w) left ws

/-- The writes of agents that no longer wait performed. -/
def State.performAgents (s : State) : State :=
  if s.stalled.isEmpty then s else let r := s.performDue [] s.stalled; { r.1 with stalled := r.2 }

/-- Bytes written by an agent. -/
def State.agentPut (s : State) (k : Nat) (bs : List Byte) : State := s.agentWrite ⟨k, .put bs⟩

/-! ### Requests to other packages (R265, R266, R367) -/

/-- Size of a dimension of the topology; 1 where it is unused. -/
def State.dimSize (s : State) (d : Nat) : Nat := bitsOf s.edge.wltopo.toNat (4 * d + 3) (4 * d) + 1

/-- The place value of a dimension in a package's number. -/
def State.dimStride (s : State) (d : Nat) : Nat := ((List.range d).map s.dimSize).foldl (· * ·) 1

/-- The coordinate of a package in a dimension (R366). -/
def State.dimCoord (s : State) (p d : Nat) : Nat := p / s.dimStride d % s.dimSize d

/-- The dimensions in which a package's coordinates differ from this one's, lowest first. -/
def State.dimsTo (s : State) (p : Nat) : List Nat := (List.range 4).filter fun d => s.dimCoord p d != s.dimCoord s.ownPackage d

/-- Whether a port of a dimension is enabled. -/
def State.dimUp (s : State) (d : Nat) : Bool := (List.range 4).any fun i => (vgetD s.edge.wlports (4 * d + i) ⟨false, false⟩).enabled

/-- Whether traffic to a package can leave: by an enabled port of the lowest dimension in which the coordinates differ (R367). -/
def State.wlOpen (s : State) (p : Nat) : Bool := match s.dimsTo p with | d :: _ => s.dimUp d | [] => false

/-- Whether traffic of a package can have come in: by an enabled port of the highest dimension in which the coordinates differ (R367). -/
def State.wlFrom (s : State) (p : Nat) : Bool := match (s.dimsTo p).getLast? with | some d => s.dimUp d | none => false

/-- The package of a key, and the address there. -/
def remoteOf (k : Nat) : Nat × Nat := (k / 2 ^ 52 - Config.remoteKey / 2 ^ 52, k % 2 ^ 52)

/-- Whether another request to a package can be sent: the way is open, and fewer than 64 are not acknowledged (R265, R367). -/
def State.wlRoom (s : State) (p : Nat) : Bool := s.wlOpen p && (s.edge.wlSent.countP fun x => x.pkg == p) < 64

/-- Whether an access at a key can be made, as far as Wordo Link decides. -/
def State.wlReady (s : State) (k : Nat) : Bool := k < Config.remoteKey || s.wlRoom (remoteOf k).1

/-- Whether requests at some keys can be sent: for each package, its way is open, and there is room for all of them; of an operation of more than 64 for the first
    64, the later ones going out as the earlier are acknowledged (R265, log entry 64). -/
def State.wlRoomFor (s : State) (ks : List Nat) : Bool :=
  ks.all fun k => k < Config.remoteKey ||
    let p := (remoteOf k).1
    s.wlOpen p && (s.edge.wlSent.countP fun x => x.pkg == p) + min 64 (ks.countP fun j => Config.remoteKey ≤ j && (remoteOf j).1 == p) ≤ 64

/-- A request taken out of a list once it is acknowledged: the first of an operation. -/
def ackFirst (p op : Nat) : List WlSent → List WlSent
  | [] => []
  | x :: l => if x.pkg = p ∧ x.op = op then l else x :: ackFirst p op l

/-- A request sent under the next sequence number of its target (R265). Where 64 are not acknowledged already, the first of the same operation has been by then
    (log entry 64). -/
def State.wlPost (s : State) (p op addr : Nat) (world : BitVec 8) (ctx : Nat) (kind : RemoteKind) : State :=
  let n := mapGetD s.edge.wlSeq p 0
  let sent := if (s.edge.wlSent.countP fun x => x.pkg == p) < 64 then s.edge.wlSent else ackFirst p op s.edge.wlSent
  { s with edge := { s.edge with
    wlSeq := mapSet s.edge.wlSeq p (n + 1),
    wlSent := sent ++ [⟨p, n, op, addr, world, ctx, kind⟩] } }

/-- The request that an access of an operation at a key makes, if the key is another package's (R266). -/
def State.wlSend (s : State) (w : Who) (op k : Nat) (kind : RemoteKind) : State :=
  if k < Config.remoteKey then s else s.wlPost (remoteOf k).1 op (remoteOf k).2 w.world w.ctx kind

/-- The requests of an operation acknowledged. -/
def State.wlAck (s : State) (op : Nat) : State :=
  { s with edge := { s.edge with wlSent := s.edge.wlSent.filter fun x => x.op != op } }

/-- The requests that reads of ranges make of other packages (R266). -/
def State.wlReads (s : State) (w : Who) (op : Nat) (segs : List Seg) : State := segs.foldl (fun s z => s.wlSend w op z.lo (.read z.len)) s

/-- Reads of ranges whose replies the same step takes: an instruction fetched, a record that a word names (R265, R266). -/
def State.wlReadNow (s : State) (w : Who) (segs : List Seg) : State :=
  if segs.all fun z => z.lo < Config.remoteKey then s else State.wlAck { s.wlReads w s.nextId segs with nextId := s.nextId + 1 } s.nextId

/-- A write by an agent: a request where its page is another package's (R266), whose acknowledgement the same step takes. -/
def State.agentSend (s : State) (w : Who) (k : Nat) (bs : List Byte) : State :=
  if k < Config.remoteKey then s.agentPut k bs
  else State.wlAck { (s.wlSend w s.nextId k (.write bs [])).agentPut k bs with nextId := s.nextId + 1 } s.nextId

/-- Offset of the first whole granule of a range that begins at x, and how many it holds. -/
def wholeGranules (x n : Nat) : Nat × Nat := let o := (16 - x % 16) % 16; (o, (n - o) / 16)

/-! ### One access, and a range -/

/-- An access: its capability, the permissions and leaf rights it needs, its address, size and alignment, and whether it reads and writes. -/
structure Acc where
  cap   : Cap
  perms : List Nat
  x     : Nat
  n     : Nat
  align : Nat
  need  : List Nat
  rd    : Bool
  wr    : Bool
  deriving DecidableEq, Repr

/-- A load of n bytes. -/
def Acc.load (c : Cap) (x n : Nat) : Acc := ⟨c, [Perm.load], x, n, n, Need.read, true, false⟩
/-- A store of n bytes. -/
def Acc.store (c : Cap) (x n : Nat) : Acc := ⟨c, [Perm.store], x, n, n, Need.write, false, true⟩
/-- An atomic of n bytes (R226). -/
def Acc.atomic (c : Cap) (x n : Nat) : Acc := ⟨c, [Perm.atomic], x, n, n, Need.atomic, true, true⟩

/-- The checks of R70 from translation on. -/
def State.reach (s : State) (w : Who) (a : Acc) : Except (BitVec 8) (Nat × Option TlbEntry) :=
  match s.locate w a.cap a.need a.x with
  | .error e => .error e
  | .ok (k, t) =>
    match s.remoteCause k with
    | some e => .error e
    | none => if s.locked w a.rd a.wr k a.n then .error Cause.rangeLock else .ok (k, t)

/-- Every check of R70 in its order: the key and the TLB entry to install, or the first cause. -/
def State.check (s : State) (w : Who) (a : Acc) : Except (BitVec 8) (Nat × Option TlbEntry) :=
  match capCause w a.cap a.perms a.x a.n a.align with
  | some e => .error e
  | none => s.reach w a

/-- The place of a cause in the order of R70. -/
def causeRank (e : BitVec 8) : Nat :=
  match e.toNat with
  | 0x10 => 0 | 0x14 => 1 | 0x13 => 2 | 0x12 => 3 | 0x11 => 4 | 0x18 => 4 | 0x22 => 5 | 0x01 => 6 | 0x02 => 7 | 0x03 => 8 | 0x04 => 9
  | 0x05 => 10 | 0x06 => 11 | 0x07 => 12 | _ => 13

/-- [x, x + len) cut at multiples of g: start and length of each piece. -/
def pieces (g : Nat) : Nat → Nat → Nat → List (Nat × Nat)
  | 0, _, _ => []
  | f + 1, x, len =>
    if len = 0 then []
    else
      let n := min len (g - x % g)
      (x, n) :: pieces g f (x + n) (len - n)

/-- How a range is cut to be located: into register blocks of 2 KiB in the window region (R26), into half pages elsewhere. -/
def Cap.pieceSize (c : Cap) : Nat := if c.has Perm.window then 0x800 else 0x8000

/-- A range appended to a list of ranges, joined to the last where it goes on from it. -/
def addSeg (l : List Seg) (k n : Nat) : List Seg :=
  match l.getLast? with
  | some a => if a.lo + a.len = k then l.dropLast ++ [⟨a.lo, a.len + n⟩] else l ++ [⟨k, n⟩]
  | none => [⟨k, n⟩]

/-- The pieces of a range located one by one; a failure names the first failing byte. -/
def State.locateAll (s : State) (w : Who) (c : Cap) (need : List Nat) :
    List (Nat × Nat) → List Seg → List TlbEntry → Except (BitVec 8 × Nat) (List Seg × List TlbEntry)
  | [], segs, ts => .ok (segs, ts)
  | (x, n) :: rest, segs, ts =>
    match s.locate w c need x with
    | .error e => .error (e, x)
    | .ok (k, t) =>
      match s.remoteCause k with
      | some e => .error (e, x)
      | none => State.locateAll s w c need rest (addSeg segs k n) (ts ++ t.toList)

/-- The checks of R70 on a range, without range locks: where its bytes lie and the TLB entries to install, or the cause and the first failing
    byte. For an empty range no alignment and no translation apply (R210). -/
def State.resolve (s : State) (w : Who) (c : Cap) (perms need : List Nat) (x len align : Nat) :
    Except (BitVec 8 × Nat) (List Seg × List TlbEntry) :=
  match authCause w c perms with
  | some e => .error (e, x)
  | none =>
    if !c.covers x len then .error (Cause.capBounds, if x < c.base then x else max x c.top)
    else if len = 0 then .ok ([], [])
    else if x % align ≠ 0 then .error (Cause.align, x)
    else s.locateAll w c need (pieces c.pieceSize (len / c.pieceSize + 2) x len) [] []

/-- The bytes of ranges. -/
def State.readSegs (s : State) (l : List Seg) : List Byte := l.flatMap fun a => s.readKeys a.lo a.len

/-- The keys of ranges, byte by byte. -/
def segKeys (l : List Seg) : List Nat := l.flatMap fun a => (List.range a.len).map fun i => a.lo + i

/-- Bytes written over ranges, tags of their granules cleared (R73). -/
def State.writeSegs (s : State) : List Seg → List Byte → State
  | [], _ => s
  | a :: l, bs => State.writeSegs (s.writeKeys a.lo (bs.take a.len)) l (bs.drop a.len)

/-- The total length of ranges. -/
def segLen (l : List Seg) : Nat := (l.map fun a => a.len).sum

/-- Whether every byte of a granule that a range names lies in a team's scratchpad allocation (R67, R134). -/
def State.inTeamPad (s : State) (team : Option Nat) (k : Nat) : Bool :=
  match team with
  | none => false
  | some t =>
    match s.team t, winOf k with
    | some tm, some x =>
      match winPart x with
      | .way cl w => cl == tm.cluster && tm.way0 ≤ w && w < tm.way0 + tm.ways
      | _ => false
    | _, _ => false

end Sys2Proof.Machine
end

