-- ==== Sys2Proof/Machine/Packets.lean ====
section
/-! DEFINITION. Records with tags, launch packets, queues and completion signals (R269, R348 to R350). -/
namespace Sys2Proof.Machine
open Sys2Proof

/-- Bytes with one tag a granule: a packet, a descriptor, a graph node's body. -/
structure Rec where
  bytes : List Byte
  tags  : List Bool
  deriving DecidableEq, Repr

/-- The 64-bit word at index i of a record. -/
def Rec.word (r : Rec) (i : Nat) : Word := BitVec.ofNat 64 (leNat ((r.bytes.drop (8 * i)).take 8))
/-- n bytes at an offset of a record, as a number. -/
def Rec.nat (r : Rec) (off n : Nat) : Nat := leNat ((r.bytes.drop off).take n)
/-- The capability in granule i of a record. -/
def Rec.cap (r : Rec) (i : Nat) : Cap := Cap.ofBytes ((r.bytes.drop (16 * i)).take 16) (r.tags.getD i false)
/-- A record with word i replaced. -/
def Rec.setWord (r : Rec) (i : Nat) (x : Word) : Rec := { r with bytes := r.bytes.take (8 * i) ++ leBytes 8 x.toNat ++ r.bytes.drop (8 * i + 8) }
/-- A record with the tag of granule i replaced. -/
def Rec.setTag (r : Rec) (i : Nat) (t : Bool) : Rec := { r with tags := r.tags.take i ++ [t] ++ r.tags.drop (i + 1) }
/-- A record with the capability in granule i replaced. -/
def Rec.setCap (r : Rec) (i : Nat) (c : Cap) : Rec :=
  { r with bytes := r.bytes.take (16 * i) ++ c.bytes ++ r.bytes.drop (16 * i + 16) }.setTag i c.tag

/-- A field is null: all zero and untagged (R267). -/
def Cap.isNull (c : Cap) : Bool := !c.tag && c.toBits == 0

/-- The record at ranges of the memory map, tags kept only with load-cap and for colours not revoked (R67, R74). -/
def State.readRec (s : State) (segs : List Seg) (keep : Bool) (mask : BitVec 256) : Rec :=
  { bytes := s.readSegs segs,
    tags := segs.flatMap fun a => (List.range (a.len / 16)).map fun i =>
      keep && s.keyTag (a.lo + 16 * i) && !mask.getLsbD (s.readCap (a.lo + 16 * i)).colour.toNat }

/-- The die of a cluster (R12). -/
def clusterDie (c : Nat) : Nat := c / Config.clustersPerDie

/-! ### Queues (R348) -/

/-- Depth of a queue. -/
def Queue.depth (q : Queue) : Nat := 2 ^ bitsOf q.w0.toNat 60 48
/-- Whether a queue is open. -/
def Queue.isOpen (q : Queue) : Bool := q.w0.getLsbD 63
/-- The context of a queue. -/
def Queue.ctx (q : Queue) : Nat := bitsOf q.w1.toNat 15 0
/-- Whether a queue is host-owned. -/
def Queue.hostOwned (q : Queue) : Bool := q.w1.getLsbD 16
/-- Priority of a queue. -/
def Queue.prio (q : Queue) : Nat := bitsOf q.w0.toNat 62 61
/-- Packets posted and not taken. -/
def Queue.held (q : Queue) : Nat := (q.tail - q.head).toNat
/-- Whether no entry is free. -/
def Queue.full (q : Queue) : Bool := q.held == q.depth
/-- Physical address of packet i. -/
def Queue.slot (q : Queue) (i : Nat) : Nat := bitsOf q.w0.toNat 47 0 + 64 * (i % q.depth)
/-- A closed queue. -/
def Queue.closed : Queue := ⟨0, 0, 0, 0, 0, false⟩
/-- Queue q's descriptor. -/
def State.queue (s : State) (q : Nat) : Queue := mapGetD s.edge.queues q .closed
/-- A queue's descriptor changed. -/
def State.modQueue (s : State) (q : Nat) (f : Queue → Queue) : State :=
  { s with edge := { s.edge with queues := mapSet s.edge.queues q (f (s.queue q)) } }
/-- A queue closed (R348). -/
def Queue.close (q : Queue) : Queue := { q with w0 := q.w0 &&& 0x7FFFFFFFFFFFFFFF }

/-- A capability field of a host-owned queue's packet, read through the queue's capability table (R350). -/
def State.hostCap (s : State) (q : Queue) (raw : Cap) : Cap :=
  let lo := raw.cursor
  let hi := BitVec.ofNat 64 (raw.toBits.toNat / 2 ^ 64)
  if hi.getLsbD 63 then (s.readCap (physAddr q.capTable + 16 * bitsOf hi.toNat 7 0)).setCursor lo else .null

/-- A packet of a queue, its capability fields as the dispatcher reads them (R350). -/
def State.packet (s : State) (q : Queue) (i : Nat) : Rec :=
  let r := s.readRec [⟨q.slot i, 64⟩] true 0
  if q.hostOwned then (((r.setCap 0 (s.hostCap q (r.cap 0))).setCap 1 (s.hostCap q (r.cap 1))).setCap 2 (s.hostCap q (r.cap 2))) else r

/-- The packets of a queue that nobody has taken. -/
def State.queued (s : State) (q : Queue) : List Rec := (List.range q.held).map fun i => s.packet q (q.head.toNat + i)

/-! ### Completion signals (R263, R269) -/

/-- The signal op of a packet. -/
def Rec.sigOp (p : Rec) : Nat := bitsOf (p.word 6).toNat 60 59
/-- The signal value of a packet. -/
def Rec.sigValue (p : Rec) : Nat := bitsOf (p.word 7).toNat 31 0

/-- Where a signal lies, or the cause that keeps it from being performed (R269). -/
def State.signalKey (s : State) (ctx : Nat) (p : Rec) : Except (BitVec 8) Nat :=
  let w := s.whoCtx ctx 0 false
  let c := p.cap 2
  let a := if p.sigOp = 1 then Acc.store c c.cursor.toNat 8 else Acc.atomic c c.cursor.toNat 8
  match capCause w a.cap a.perms a.x 8 8 with
  | some e => .error e
  | none =>
    match s.locate w c a.need a.x with
    | .error e => .error e
    | .ok (k, _) => .ok k

/-- The completion signal of a packet performed, or the cause for which it is not (R263, R269); it stalls while its page is being moved (R264). -/
def State.signal (s : State) (ctx : Nat) (p : Rec) : State × Option (BitVec 8) :=
  if p.sigOp = 0 then (s, none)
  else match s.signalKey ctx p with
    | .error e => (s, some e)
    | .ok k => (s.agentWrite ⟨k, if p.sigOp = 1 then .put (leBytes 8 p.sigValue) else .add p.sigValue⟩, none)

/-- The signal of a grid that is refused or discarded: op 1 stores all ones if it can, op 2 is not performed (R279, R384). -/
def State.failSignal (s : State) (ctx : Nat) (p : Rec) : State :=
  if p.sigOp ≠ 1 then s
  else match s.signalKey ctx p with
    | .error _ => s
    | .ok k => s.agentPut k (leBytes 8 (2 ^ 64 - 1))

end Sys2Proof.Machine
end

