-- ==== Sys2Proof/Machine/Ops.lean ====
section
/-! DEFINITION. Threads and their registers, events, trace records, stops, fatal faults, taking an exception and returning from it, and the
frame in which every scalar word executes (R36, R43, R48, R55, R62, R99, R337 to R340, R351, R353, R376, R384 to R386). -/
namespace Sys2Proof.Machine
open Sys2Proof

/-- What a step or a meaning answers. -/
abbrev Res := Host.Outcome State Fault Refusal

/-! ### The thread whose word executes -/

/-- The scalar part of a thread; the part after reset where no such group is resident. -/
def State.hartOf (s : State) : Thread → Hart
  | .group k => match s.group k with | some g => g.hart | none => .reset
  | .service c => (s.cluster c).svc.hart

/-- The scalar part of a thread changed. -/
def State.modHartOf (s : State) (t : Thread) (f : Hart → Hart) : State :=
  match t with
  | .group k => s.modGroup k fun g => { g with hart := f g.hart }
  | .service c => s.modCluster c fun cl => { cl with svc := { cl.svc with hart := f cl.svc.hart } }

/-- The scalar part of the current thread. -/
def State.hart (s : State) : Hart := s.hartOf s.cur
/-- The scalar part of the current thread changed. -/
def State.modHart (s : State) (f : Hart → Hart) : State := s.modHartOf s.cur f
/-- The scalar PC. -/
def State.pc (s : State) : Word := s.hart.pc

/-- Register s[r]; `s0` reads zero (R58). -/
def Hart.x (h : Hart) (r : BitVec 6) : Word := if r = 0 then 0 else h.s[r.toNat]
/-- Register s[r] written; a write of `s0` is discarded (R58). -/
def Hart.setX (h : Hart) (r : BitVec 6) (v : Word) : Hart := if r = 0 then h else { h with s := h.s.set r.toNat v }
/-- Register c[r]. -/
def Hart.cap (h : Hart) (r : BitVec 5) : Cap := h.c[r.toNat]
/-- Register c[r] written. -/
def Hart.setCap (h : Hart) (r : BitVec 5) (v : Cap) : Hart := { h with c := h.c.set r.toNat v }

/-- s[r] of the current thread. -/
def State.x (s : State) (r : BitVec 6) : Word := s.hart.x r
/-- s[r] of the current thread written. -/
def State.setX (s : State) (r : BitVec 6) (v : Word) : State := s.modHart fun h => h.setX r v
/-- c[r] of the current thread. -/
def State.c (s : State) (r : BitVec 5) : Cap := s.hart.cap r
/-- c[r] of the current thread written. -/
def State.setC (s : State) (r : BitVec 5) (v : Cap) : State := s.modHart fun h => h.setCap r v

/-- The group of the current thread. -/
def State.curGroup (s : State) : Option Group := match s.cur with | .group k => s.group k | .service _ => none
/-- The slot of the current thread, if it is a group's. -/
def State.curSlot (s : State) : Option Nat := match s.cur with | .group k => some k | .service _ => none
/-- The cluster of the current thread. -/
def State.curCluster (s : State) : Nat := match s.cur with | .group k => slotCluster k | .service c => c
/-- The current group changed. -/
def State.modCurGroup (s : State) (f : Group → Group) : State := match s.cur with | .group k => s.modGroup k f | .service _ => s
/-- Whether the current thread is a service core. -/
def State.isService (s : State) : Bool := match s.cur with | .group _ => false | .service _ => true
/-- The scalar registers that are valid: the group's budget, all 64 of a service core (R15, R159). -/
def State.sbud (s : State) : Nat := match s.curGroup with | some g => g.sbud | none => 64

/-! ### Events and trace records -/

/-- Nanoseconds in units of `time`: a unit is the part of a microsecond that the period of every clock of R415, a multiple of 50 MHz from 0.8 to 1.6 GHz, holds
    a whole number of times. -/
abbrev nsTime (ns : Nat) : Nat := ns * 7220177644680
/-- Microseconds in units of `time`, in which the limits that no clock scales are kept (R6, R416). -/
abbrev usTime (us : Nat) : Nat := nsTime (1000 * us)

/-- Physical address of word `off` of a context's record (R369). -/
def State.ctxWord (s : State) (ctx off : Nat) : Nat := s.ctxBase.toNat + 256 * ctx + off

/-- A context's atomic flags set, in the machine's copy and in the record (R369, R370). -/
def State.setCtxFlags (s : State) (ctx : Nat) (f : BitVec 5) : State :=
  (s.modCtx ctx fun c => { c with flags := f }).agentPut (s.ctxWord ctx 0x50) (leBytes 8 f.toNat)

/-- A context's revoked colours set, in the machine's copy and in the record (R75, R369). -/
def State.setCtxMask (s : State) (ctx : Nat) (m : BitVec 256) : State :=
  (s.modCtx ctx fun c => { c with mask := m }).agentPut (s.ctxWord ctx 0x30) (leBytes 32 m.toNat)

/-- `PLACE` of a slot (R59). -/
def placeOf (k : Nat) : Nat := slotCluster k + slotCore k * 256 + k % 32 * 1024

/-- The handle of the group in a slot (R354). -/
def handleOf (k : Nat) (g : Group) : Word := BitVec.ofNat 64 (placeOf k + g.gen.toNat * 65536)

/-- The slot that a handle names, if the handle is current and of this cluster (R354); bits [63:32] and [15] are ignored (R7). -/
def State.handleSlot (s : State) (cl : Nat) (h : Word) : Option Nat :=
  let k := bitsOf h.toNat 7 0 * 128 + bitsOf h.toNat 9 8 * 32 + bitsOf h.toNat 14 10
  match s.group k with
  | some g => if bitsOf h.toNat 31 16 = g.gen.toNat ∧ slotCluster k = cl then some k else none
  | none => none

/-- An event queued in arrival order, or held by its source while 256 are queued (R353). -/
def Service.tell (v : Service) (e : Event) : Service :=
  if v.events.length < 256 then { v with events := v.events ++ [e] } else { v with held := v.held ++ [e] }

/-- An event queued at a cluster's service core (R353). -/
def State.event (s : State) (cl kind : Nat) (cause : BitVec 8) (grp arg : Word) : State :=
  s.modCluster cl fun c => { c with svc := c.svc.tell ⟨BitVec.ofNat 8 kind, cause, grp, arg⟩ }

/-- The lane PC: the address of the next lane word to issue; all ones when the lane queue is empty (R340). -/
def LaneState.pc (l : LaneState) : Word := match l.queue with | r :: _ => r.addr | [] => BitVec.allOnes 64

/-- The lane positions that hold an active element of the word at the lane PC (R340). -/
def LaneState.activeMask (l : LaneState) : Nat :=
  match l.queue with
  | { words := w :: _, .. } :: _ =>
    let f := LaneFields.ofWord w
    let sew := l.vt.sew
    (l.actives ⟨f.last, f.guard, f.neg⟩).foldl (fun m k =>
      let lo := k % (2048 / sew) * sew / 32
      let hi := (k % (2048 / sew) * sew + sew - 1) / 32
      m ||| (2 ^ (hi + 1) - 2 ^ lo)) 0
  | _ => 0

/-- Whether a cluster's lane-cycle record runs (R336). -/
def Debug.recording (d : Debug) : Bool := d.ctl.getLsbD 3 && !d.ctl.getLsbD 4

/-- The first sample of a core that is due at a cycle or after it (R341). -/
def Debug.nextSample (d : Debug) (c : Core) (cycle : Nat) : Nat :=
  let n := max 1 d.smpint.toNat
  if cycle ≤ c.sampleAt then c.sampleAt else c.sampleAt + (cycle - c.sampleAt + n - 1) / n * n

/-- Whether a trace ring is set up: a power of two from 64 to 2^24 records (R336). -/
def Debug.traceOn (d : Debug) : Bool :=
  d.ctl.getLsbD 0 && 64 ≤ d.trsize.toNat && d.trsize.toNat ≤ 2 ^ 24 && 2 ^ d.trsize.toNat.log2 == d.trsize.toNat

/-- A trace record of a group written into its cluster's ring, or dropped and counted (R340). -/
def State.trace (s : State) (k kind : Nat) (cause : BitVec 8) (lane : Bool) : State :=
  let cl := slotCluster k
  let d := (s.cluster cl).dbg
  match s.group k with
  | none => s
  | some g =>
    if !d.traceOn then s
    else
      let at' := (physAddr d.trbase + 64 * (d.trhead.toNat % d.trsize.toNat)) % 2 ^ 52
      if d.trhead - d.trtail = d.trsize ∨ s.pageWorld at' ≠ some g.world then
        s.modCluster cl fun c => { c with dbg := { c.dbg with trdrop := if c.dbg.trdrop = BitVec.allOnes 64 then c.dbg.trdrop else c.dbg.trdrop + 1 } }
      else
        let hdr := kind + cl * 2 ^ 4 + slotCore k * 2 ^ 12 + k % 32 * 2 ^ 14 + g.index * 2 ^ 19 + g.role * 2 ^ 23 + g.ctx * 2 ^ 25 +
          (if kind = 2 then cause.toNat * 2 ^ 41 + bitNat lane * 2 ^ 49 else 0)
        let mask := if kind ≤ 3 then g.lane.activeMask else 0
        (s.agentPut at' (leBytes 8 hdr ++ leBytes 8 s.cycle.toNat ++ leBytes 8 g.hart.pc.toNat ++ leBytes 8 g.lane.pc.toNat ++ leBytes 32 mask)).modCluster cl
          fun c => { c with dbg := { c.dbg with trhead := c.dbg.trhead + 1 } }

/-! ### Stopping a group -/

/-- An event count raised unless the counters are frozen; 48 bits, saturating (R336, R343). -/
def State.count (s : State) (cl core ev n : Nat) : State :=
  if (s.cluster cl).dbg.ctl.getLsbD 4 then s
  else s.modCore cl core fun c => { c with events := vmod c.events ev fun x => min (2 ^ 48 - 1) (x + n) }

/-- The runs of a lane queue with none issuing: a run that was issuing is a partial run at Head (R38, R55). -/
def splitRuns (q : List Run) : List Run := q.map fun r => { r with issuing := false }

/-- Whether every present element counts as active: `vsetl`, `vsetli` and `vmvx` (R342). -/
def countsAll (w : BitVec 96) : Bool :=
  let f := LaneFields.ofWord w
  f.maj == 1 || (f.maj == 0x0B && f.func == 3)

/-- What each cycle of the word at a group's lane PC adds to the lane-cycle record of its core (R342): counts in units of 1/32 lane-cycle, by bin and class, at
    key 5 × bin + class; nothing where the record does not run. -/
def State.laneShares (s : State) (k : Nat) (g : Group) (w : BitVec 96) : List (Nat × Nat) :=
  let d := (s.cluster (slotCluster k)).dbg
  let f := LaneFields.ofWord w
  let t := g.lane.vt
  let cls := fun i => match g.lane.cls ⟨f.last, f.guard, f.neg⟩ i with
    | .absent => 3
    | .active => 0
    | .masked => if countsAll w then 0 else 1
    | .tail => if countsAll w then 0 else 2
  let bin := if g.ctx = d.binctx.toNat then
      (List.range 16).find? fun i => let b := vgetD d.bins i (0, 0); b.1.toNat ≤ g.lane.pc.toNat && g.lane.pc.toNat < b.2.toNat
    else none
  if !d.recording then []
  else (List.range t.vlmax).flatMap fun i => (80 + cls i, t.sew / t.lmul) :: (bin.toList.map fun b => (5 * b + cls i, t.sew / t.lmul))

/-- Shares of so many cycles added to the lane-cycle record of a core. -/
def Core.addShares (c : Core) (l : List (Nat × Nat)) (t : Nat) : Core :=
  if t = 0 then c else { c with laneCycles := l.foldl (fun m p => mapSet m p.1 (mapGetD m p.1 0 + p.2 * t)) c.laneCycles }

/-- The lane issue slot of a group's core freed, if the group holds it: the cycles that its word has waited are recorded as that word's, and the run that is the
    group's oldest now enters Head, if it is not there (R38, R39). -/
def State.releaseSlot (s : State) (k : Nat) : State :=
  match s.group k with
  | none => s.modCore (slotCluster k) (slotCore k) fun c => if c.holder = some k then { c with holder := none, left := 0, ending := false, share := [], waited := 0 } else c
  | some g =>
    if ((s.cluster (slotCluster k)).core (slotCore k)).holder ≠ some k then s
    else
      let share := match g.lane.queue with | { words := w :: _, .. } :: _ => s.laneShares k g w | _ => []
      (s.modCore (slotCluster k) (slotCore k) fun c => { c.addShares share c.waited with
        holder := none, left := 0, ending := false, share := [], waited := 0 }).modGroup k fun g => { g with
          lane := { g.lane with queue := match g.lane.queue with | r :: rest => { r with head := some (r.head.getD s.cycle) } :: rest | [] => [] } }

/-- The slot of a core given up by its group, if it is to be: the time of the group's last word there has passed, and no `vlrc.stop` awaits its results
    (R38, R240). -/
def State.endTurn (s : State) (cl core : Nat) : State :=
  let c := (s.cluster cl).core core
  match c.holder with
  | none => s
  | some k => if c.ending && c.left == 0 && (s.hartOf (.group k)).pend.all (fun p => !p.stop) then s.releaseSlot k else s

/-- A stop of a group (R55, R62, R376): CAUSE, FADDR and FLANES, the state Stopped, the issuing run split, a trace record, and the STOP event at
    its own shard. -/
def State.stopGroup (s : State) (k : Nat) (lane : Bool) (cause : BitVec 8) (faddr : Word) (flanes : VBits) : State :=
  match s.group k with
  | none => s
  | some g =>
    let s1 := (s.modGroup k fun g => { g with
      hart := { g.hart with cause := BitVec.ofBool lane ++ cause, faddr := faddr }, flanes := flanes, life := .stopped, stopAt := s.time,
      lane := { g.lane with queue := splitRuns g.lane.queue },
      stepping := { g.stepping with mode := 0, pending := false, exempt := none } }).releaseSlot k
    let s2 := (s1.trace k 2 cause lane).event (slotCluster k) 1 cause (handleOf k g) 0
    if cause = Cause.rangeLock then s2.count (slotCluster k) (slotCore k) 14 1 else s2

/-- A debug stop (R337, R338): DBGHIT names the comparator, bit 4 a watchpoint; the next issue of the same stream after a breakpoint is exempt from it. -/
def State.debugStop (s : State) (k : Nat) (lane : Bool) (hit : BitVec 5) (faddr : Word) (flanes : VBits) : State :=
  ((s.modCluster (slotCluster k) fun c => { c with dbg := { c.dbg with hit := hit } }).stopGroup k lane Cause.breakpoint faddr flanes).modGroup k fun g => { g with
    stepping := { g.stepping with exempt := if hit.toNat < 16 then some (lane, hit.toNat) else none } }

/-! ### Fatal faults (R384 to R386) -/

/-- A count of the telemetry record, by its offset there, raised by n; it saturates (R413). -/
def State.tallyBy (s : State) (off n : Nat) : State :=
  { s with fleet := { s.fleet with counts := mapSet s.fleet.counts off (min (2 ^ 64 - 1) (mapGetD s.fleet.counts off 0 + n)) } }

/-- The same by one. -/
def State.tally (s : State) (off : Nat) : State := s.tallyBy off 1

/-- The groups of a context stopped at once, with what they have outstanding dropped; no save of their teams goes on (R384). -/
def State.stopContext (s : State) (ctx : Nat) : State :=
  let ks := (s.groups.filter fun p => p.2.ctx == ctx).map (·.1)
  let s := { s with teams := s.teams.map fun p => if p.2.ctx = ctx then (p.1, { p.2 with save := none }) else p }
  ks.foldl (fun s k => (s.modGroup k fun g => { g with
    life := .stopped, arrivals := [], hart := { g.hart with pend := [], fenced := [], ld := 0, st := 0, cp := 0 },
    lane := { g.lane with queue := splitRuns g.lane.queue } }).releaseSlot k) s

/-- The engine and matrix operations of a context that stand in a cluster. -/
def Cluster.ctxIds (c : Cluster) (ctx : Nat) : List Nat :=
  (c.ops.filter fun o => o.ctx == ctx).map (·.id) ++ (c.cores.toList.flatMap fun k => (k.mq.filter fun o => o.ctx == ctx).map (·.id))

/-- The engine and matrix operations of a context discarded, their locks released, in whichever cluster the operation stands (R384). -/
def Cluster.dropContext (c : Cluster) (ids : List Nat) (ctx : Nat) : Cluster :=
  { c with basket := { c.basket with entries := c.basket.entries.filter (·.ctx != ctx), spilled := c.basket.spilled.filter (·.ctx != ctx),
                                     ready := c.basket.ready.filter (·.ctx != ctx) },
           ops := c.ops.filter fun o => o.ctx != ctx, locks := c.locks.filter fun l => !ids.contains l.op,
           cores := c.cores.map fun k => { k with mq := k.mq.filter fun o => o.ctx != ctx } }

/-- The engine and matrix operations of a context discarded in every cluster. -/
def State.dropOps (s : State) (ctx : Nat) : State :=
  let ids := s.clusters.toList.flatMap fun c => c.ctxIds ctx
  { s with clusters := s.clusters.map fun (c : Cluster) => c.dropContext ids ctx }

/-- The graph object whose base lies at a key, in a die's store (R217): the die and the walker's copy. -/
def State.graphAt (s : State) (key : Nat) : Option (Nat × Graph) :=
  (List.range 4).findSome? fun d => (mapGet (s.die d).graphs key).map fun g => (d, g)

/-- The graph instances of a context discarded, each with the cause in word 0x020 of its object's header (R384). -/
def State.dropInstances (s : State) (ctx : Nat) (cause : BitVec 8) : State :=
  (List.range 4).foldl (fun s d =>
    let die := s.die d
    let mine := die.insts.filter fun p => match s.graphAt p.2.graph with | some (_, g) => g.ctx == ctx | none => false
    let s1 := mine.foldl (fun s p => s.agentSend (s.whoCtx ctx 0 false) (p.2.graph + 0x20) (leBytes 8 (cause.toNat * 65536))) s
    s1.modDie d fun die => { die with insts := die.insts.filter fun p => !(mine.any fun m => m.1 == p.1) }) s

/-- The grids, queued packets and continuations of a context discarded; its queues close; each signal is handled as R384 states. -/
def State.dropGrids (s : State) (ctx : Nat) : State :=
  let qs := s.edge.queues.filter fun p => p.2.isOpen && p.2.ctx == ctx
  let pkts := ((s.disp.grids.filter fun p => p.2.ctx == ctx).map fun p => (⟨p.2.packet, p.2.ptags⟩ : Rec)) ++
    (qs.flatMap fun p => s.queued p.2) ++ ((s.disp.conts.filter fun c => c.ctx == ctx).map fun c => ⟨c.packet, c.ptags⟩) ++
    ((s.groups.filter fun p => p.2.ctx == ctx).filterMap fun p => p.2.cont.map fun c => ⟨c.1, c.2⟩) ++
    ((s.teams.filter fun p => p.2.ctx == ctx).filterMap fun p => p.2.heir.map fun c => ⟨c.1, c.2⟩) ++
    ((s.disp.saved.filter fun v => v.team.ctx == ctx).flatMap fun v => (v.team.heir :: v.groups.map (·.cont)).filterMap fun c => c.map fun c => ⟨c.1, c.2⟩)
  let s1 := pkts.foldl (fun s p => s.failSignal ctx p) s
  let s2 := qs.foldl (fun s p => s.modQueue p.1 fun q => { q.close with head := q.tail }) s1
  { s2 with
    disp := { s2.disp with grids := s2.disp.grids.filter fun p => p.2.ctx != ctx, conts := s2.disp.conts.filter fun c => c.ctx != ctx,
                           heads := s2.disp.heads.filter fun p => (match mapGet s2.disp.grids p.2 with | some g => g.ctx != ctx | none => false),
                           posts := s2.disp.posts.filter fun p => !(qs.any fun q => q.1 == p.1),
                           saved := s2.disp.saved.map fun v => if v.team.ctx = ctx then
                             { v with team := { v.team with heir := none }, groups := v.groups.map fun g => { g with cont := none } } else v },
    groups := s2.groups.map fun p => if p.2.ctx = ctx then (p.1, { p.2 with cont := none }) else p,
    teams := s2.teams.map fun p => if p.2.ctx = ctx then (p.1, { p.2 with heir := none }) else p }

/-- A fatal event of a context (R384 to R386): Dying, its work discarded, its dump queued on its home die; a further event is recorded with
    the dump. -/
def State.ctxDie (s : State) (ctx : Nat) (cause : BitVec 8) (handle faddr : Word) : State :=
  match s.ctx ctx with
  | none => s
  | some c =>
    let home := clusterDie c.home
    match c.state with
    | .live | .ending =>
      let s1 := ((((s.tally 0x158).modCtx ctx fun c => { c with state := .dying }).stopContext ctx).dropInstances ctx cause).dropGrids ctx
      let s2 := s1.dropOps ctx
      s2.modDie home fun d => { d with dumps := d.dumps ++ [⟨ctx, cause, handle, faddr, s.cycle, none⟩] }
    | .dying =>
      s.modDie home fun d => { d with dumps := d.dumps.map fun p =>
        if p.ctx = ctx then { p with second := match p.second with
          | none => some (cause, 1, handle, faddr)
          | some (c0, n, h0, f0) => some (c0, min 255 (n + 1), h0, f0) } else p }
    | _ => s

/-- Whether a page table maps a page for which a test holds: each table searched entry by entry. -/
def State.mapsPage (s : State) (test : Nat → Bool) : List (Nat × Nat × Nat) → Nat → Bool
  | [], _ => false
  | (_, bits, _) :: rest, base =>
    (List.range (2 ^ bits)).any fun i =>
      let e := BitVec.ofNat 64 (s.readNat (base + 8 * i) 8)
      let a := bitsOf e.toNat 51 8 * 256
      e.getLsbD 0 && (if e.getLsbD 1 then !e.getLsbD 58 && test a else State.mapsPage s test rest a)

/-- Whether a context has a group, team, engine operation or page on a die (R386). -/
def State.usesDie (s : State) (d : Nat) (n : Nat) (c : Ctx) : Bool :=
  (s.groups.any fun p => p.2.ctx == n && clusterDie (slotCluster p.1) == d) || (s.teams.any fun p => p.2.ctx == n && clusterDie p.2.cluster == d) ||
  ((List.range Config.clustersPerDie).any fun i => (s.cluster (d * Config.clustersPerDie + i)).ops.any fun o => o.ctx == n) ||
  s.mapsPage (fun a => match deviceOf a with | some v => v.die == d | none => false) ptLevels (physAddr c.ptbase)

/-- The 4 KiB crash record of R386. DESIGN CHOICE of its layout (log entry 12): the fields in the order R386 names them, 8 bytes each, then the
    context numbers, 2 bytes each. -/
def crashRecord (die : Nat) (cause : Nat) (faddr sepc cycle : Word) (ctxs : List Nat) : List Byte :=
  (leBytes 8 0x4D5A4352 ++ leBytes 8 die ++ leBytes 8 cause ++ leBytes 8 faddr.toNat ++ leBytes 8 sepc.toNat ++ leBytes 8 cycle.toNat ++
    ((ctxs.take 1000).flatMap fun n => leBytes 2 n) ++ List.replicate 4048 0).take 4096

/-- A service core out of service, until package reset, with what it has outstanding dropped (R409, R412). -/
def Service.halt (v : Service) : Service :=
  { v with released := false, hart := { v.hart with pend := [], fenced := [], ld := 0, st := 0 } }

/-- The service cores of a die halted. -/
def State.haltCores (s : State) (d : Nat) : State :=
  (List.range Config.clustersPerDie).foldl (fun (s : State) i => s.modCluster (d * Config.clustersPerDie + i) fun c => { c with svc := c.svc.halt }) s

/-- A die becomes die-fatal (R386, R412): the crash record, in the firmware's region of the second tier, whose die field is 0xFF where the package is fatal, the management alert, the die's service cores out of service, and every context on the
    die Dying. -/
def State.dieFatal (s : State) (d field : Nat) (cl : Nat) (cause : BitVec 8) : State :=
  let ended := (s.ctxs.filter fun p => (p.2.state == .live || p.2.state == .ending || p.2.state == .dying) && s.usesDie d p.1 p.2).map (·.1)
  let v := (s.cluster cl).svc
  let s1 := ((s.tally 0x160).modDie d fun die => { die with fatal := true }).haltCores d
  let record := crashRecord field v.hart.cause.toNat v.hart.faddr v.sepc s.cycle ended
  let s2 := { s1.writeKeys Config.fwCrash record with fleet := { s1.fleet with
    crash := record,
    alerts := if field = d then s1.fleet.alerts ++ [.die d] else s1.fleet.alerts } }
  ended.foldl (fun s n => s.ctxDie n cause 0 0) s2

/-! ### Taking an exception, and returning from one -/

/-- A fault of the current scalar word (R62, R351). A group stops before the word: CAUSE, FADDR, FLANES cleared, the STOP event. A service
    core saves CAUSE, FADDR and the PC in SEPC, sets SSTATUS [0] and goes to SVEC; in its handler already, the fault is die-fatal and the
    core halts (R386). -/
def State.raise (s : State) (cause : BitVec 8) (faddr : Word) : State :=
  match s.cur with
  | .group k => s.stopGroup k false cause faddr 0
  | .service c =>
    let s1 := s.modHart fun h => { h with cause := cause.setWidth 9, faddr := faddr }
    if (s.cluster c).svc.inHandler then
      s1.dieFatal (clusterDie c) (clusterDie c) c cause
    else
      s1.modCluster c fun cl => { cl with svc := { cl.svc with
        sepc := cl.svc.hart.pc, inHandler := true, hart := { cl.svc.hart with pc := cl.svc.svec } } }

/-- A fault of the current scalar word whose description names no address: FADDR holds its address (R62). -/
def State.raiseHere (s : State) (cause : BitVec 8) : State := s.raise cause s.pc

/-- The return from a service core's handler (R356): pc := SEPC, SSTATUS [0] := 0. -/
def State.exceptionReturn (s : State) : State :=
  match s.cur with
  | .group _ => s
  | .service c => s.modCluster c fun cl => { cl with svc := { cl.svc with inHandler := false, hart := { cl.svc.hart with pc := cl.svc.sepc } } }

/-! ### When a scalar word is ready, and its issue -/

/-- The registers and predicates that operations outstanding will write (R40, R42). -/
def Hart.pendRegs (h : Hart) : List RegRef := h.pend.flatMap fun p => p.regs

/-- The registers that operations outstanding or runs accepted will write (R36, R43). -/
def State.busy (s : State) : List RegRef :=
  s.hart.pendRegs ++
  match s.curGroup with
  | some g => g.lane.queue.flatMap fun r => r.words.filterMap fun w => (laneRet w).map RegRef.s
  | none => []

/-- The current scalar word issued: its core's rotation, cycle and count (R18, R43, R343), the step it completes (R339), the exemption of its stream that it
    uses up (R337), and the free values moved on (log entry 5). -/
def State.issue (s : State) : State :=
  let s1 := { s with free := s.free + 1 }
  match s.cur with
  | .service _ => s1
  | .group k =>
    let s2 := s1.modGroup k fun g => { g with stepping := { g.stepping with
      exempt := g.stepping.exempt.filter (·.1), pending := g.stepping.pending || g.stepping.mode == 1,
      addr := if g.stepping.mode = 1 then g.hart.pc else g.stepping.addr } }
    let gen := match s.group k with | some g => g.gen | none => 0
    (s2.modCore (slotCluster k) (slotCore k) fun c => { c with
      lastScalar := k % 32, issuers := ((k, gen) :: c.issuers.filter fun x => x.1 != k).take 32, issued := true }).count (slotCluster k) (slotCore k) 3 1

/-- Whether a group may issue: it is Running and its team's save has not stopped it (R50, R379). -/
def State.mayIssue (s : State) (g : Group) : Bool :=
  g.life == .running && !(match s.team g.team with | some t => (match t.save with | some q => q.started | none => false) | none => false)

/-- The PC of the current thread set. -/
def State.setPc (s : State) (pc : Word) : State := s.modHart fun h => { h with pc := pc }

/-- The current word done: issued, and the PC at the next word. -/
def State.advance (s : State) : State := s.issue.setPc (s.pc + 4)

/-- The current word done, with the PC elsewhere. -/
def State.jump (s : State) (pc : Word) : State := s.issue.setPc pc

/-- The frame of a scalar word: ILLEGAL_INSN where it names a scalar register beyond the budget (R15, R99 step 4); not ready while a register it
    names is return-pending or awaits a load (R36, R43), and then the step changes nothing. -/
def State.scalarOp (s : State) (xs : List (BitVec 6)) (cs : List (BitVec 5)) (body : State → Res) : Res :=
  if xs.any fun r => s.sbud ≤ r.toNat then .next (s.raiseHere Cause.illegalInsn)
  else if (xs.any fun r => s.busy.contains (.s r.toNat)) || (cs.any fun r => s.busy.contains (.c r.toNat)) then .next s
  else body s

/-- A word that writes s[d] from registers. -/
def State.aluOp (s : State) (d : BitVec 6) (srcs : List (BitVec 6)) (v : State → Word) : Res :=
  s.scalarOp (d :: srcs) [] fun s => .next (s.setX d (v s)).advance

/-- A word that a service core does not have faults ILLEGAL_INSN there (R159). -/
def State.groupOnly (s : State) (body : Nat → Group → Res) : Res :=
  match s.cur with
  | .service _ => .next (s.raiseHere Cause.illegalInsn)
  | .group k => match s.group k with | some g => body k g | none => .next s

/-- A privileged word: PRIV_INSN in a group (R99 step 1, R160). -/
def State.privOp (s : State) (body : Nat → Res) : Res :=
  match s.cur with
  | .group _ => .next (s.raiseHere Cause.privInsn)
  | .service c => body c

/-! ### Scalar memory accesses (R128, R131) -/

/-- Whether no run accepted earlier holds a memory word that has not issued (R37, R250; log entry 7). -/
def Group.laneQuiet (g : Group) : Bool := g.lane.queue.all fun r => !(r.words.any laneMem)

/-- Whether a range of addresses, taken modulo the least page size, can share a byte with [k, k + n): translation keeps an address's place in its page. -/
def Cap.pageMeets (c : Cap) (k n : Nat) : Bool :=
  65536 ≤ c.top - c.base || (List.range 2).any fun i => c.base % 65536 < k % 65536 + i * 65536 + n && k % 65536 + i * 65536 < c.base % 65536 + (c.top - c.base)

/-- The snapshot capability that a memory word goes through, where it is one: neither private memory nor a capability for each lane (R92, R93, R185). -/
def wordAuth (w : BitVec 96) : Option (BitVec 6) :=
  let f := LaneFields.ofWord w
  if f.maj == 0x15 then none
  else if f.maj == 0x10 || f.maj == 0x11 then (if f.func.getLsbD 3 || f.func.extractLsb' 0 3 == 4 then none else some f.k)
  else if f.imm.getLsbD 6 then none else some f.k

/-- Whether a memory word of a run that has not issued can touch [k, k + n): its accesses stay within the bounds of the capability that it names. -/
def wordMeets (r : Run) (w : BitVec 96) (k n : Nat) : Bool :=
  laneMem w &&
    match wordAuth w with
    | some q =>
      let c := r.snap.cap q.toNat
      c.tag && c.has Perm.window == (winOf k).isSome && c.pageMeets k n
    | none => (LaneFields.ofWord w).maj != 0x15

/-- Whether a stepped scalar access of [k, k + n) may be performed before a memory word of a run that is held (R37, R339): the word cannot touch the same bytes
    (R250) and is no acquire (R251); before a write it is a store too, which no release fence orders before it: a write ahead of a read could reach that read
    through another agent (R255). -/
def wordLets (r : Run) (relRuns : Nat) (wr : Bool) (k n : Nat) (w : BitVec 96) : Bool :=
  let f := LaneFields.ofWord w
  !laneMem w || !wordMeets r w k n && !(f.maj == 0x10 && f.func.getLsbD 7) && (!wr || f.maj == 0x11 && relRuns ≤ r.seq)

/-- Whether the runs accepted earlier let a scalar access of [k, k + n) issue (R37, R250; log entry 7): they hold no memory word, or in scalar step, where they
    are held (R339), none that the access may not pass. -/
def Group.runsLet (g : Group) (wr : Bool) (k n : Nat) : Bool :=
  if g.stepping.mode = 1 then g.lane.queue.all fun r => r.words.all (wordLets r g.lane.relRuns wr k n) else g.laneQuiet

/-- Whether an atomic, an invocation or a stalled store of a thread that is not yet performed touches [k, k + n). -/
def Hart.atomsMeet (h : Hart) (k n : Nat) : Bool :=
  h.pend.any fun p => (p.atoms.any fun a => (⟨a.key, 32⟩ : Seg).touches k n) || (p.lines.any fun l => (⟨l.key, 128⟩ : Seg).touches k n) ||
    (p.stores.any fun w => (⟨w.key, w.write.len⟩ : Seg).touches k n)

/-- Whether every operation that a release fence covers has been performed (R251). -/
def Hart.fenceDone (h : Hart) : Bool := h.fenced.all fun i => !(h.pend.any fun p => p.id == i)

/-- Whether the current thread's earlier accesses, and the link to another package, let an access of [k, k + n) issue (R266, log entry 7); a read of what an
    uncorrectable error has hit is not answered (R409). -/
def State.memReady (s : State) (wr : Bool) (k n : Nat) : Bool :=
  (match s.curGroup with | some g => g.runsLet wr k n | none => true) && !s.hart.atomsMeet k n && (!wr || s.hart.fenceDone) && !s.accHeld k n && (wr || !s.spoilt k n) && s.wlReady k

/-- Whether every earlier access of the current thread has completed (R132, R158). -/
def State.drained (s : State) : Bool := s.hart.pend.isEmpty && (match s.curGroup with | some g => g.laneQuiet | none => true)

/-- Whether every access of a thread before has been performed (log entry 7). -/
def Hart.performed (h : Hart) : Bool := h.pend.all fun p => p.atoms.isEmpty && p.lines.isEmpty && p.stores.isEmpty
/-- Whether every access a group made before has been performed, runs accepted included (R37, R147, R235). -/
def Group.released (g : Group) : Bool := g.laneQuiet && g.hart.performed
/-- The same of the current thread: what a release by it waits for (R150, R151). -/
def State.released (s : State) : Bool := s.hart.performed && (match s.curGroup with | some g => g.laneQuiet | none => true)

/-- The watchpoint that an access of a group hits, if any (R338): lowest comparator first. -/
def State.watch (s : State) (cl ctx : Nat) (rd wr : Bool) (x n : Nat) : Option Nat :=
  (List.range 4).find? fun i =>
    let w := vgetD (s.cluster cl).dbg.wp i (0, 0, 0)
    let kind := bitsOf w.1.toNat 2 1
    w.1.getLsbD 0 && bitsOf w.1.toNat 18 3 == ctx && ((kind.testBit 0 && rd) || (kind.testBit 1 && wr)) && x < w.2.2.toNat && w.2.1.toNat < x + n

/-- Whether a key is one that a service core reaches physically and where nothing lies. The edge register block is not such a place (R347). -/
def physHole (k : Nat) : Bool := k < Config.windowKey && (deviceOf k).isNone && k < Config.edgeBase

/-- A scalar access: its checks (R70), then `short`, the lack of a permission that the instruction itself asks for (R134), the watchpoints (R338), what it waits for;
    then its effect at its key. -/
def State.accessOpIf (s : State) (a : Acc) (short : Bool) (body : Nat → State → Res) : Res :=
  match s.check s.who a with
  | .error e => .next (s.raise e (BitVec.ofNat 64 a.x))
  | .ok (k, t) =>
    if short then .next (s.raise Cause.capPerm (BitVec.ofNat 64 a.x))
    else match (match s.cur with
      | .group g => if a.cap.has Perm.window then none else (s.watch (slotCluster g) s.who.ctx a.rd a.wr a.x a.n).map fun i => (g, i)
      | .service _ => none) with
    | some (g, i) => .next (s.debugStop g false (BitVec.ofNat 5 (16 + i)) (BitVec.ofNat 64 a.x) 0)
    | none =>
      if s.isService && physHole k then .fault (.physicalHole k)
      else if !s.memReady a.wr k a.n then .next s
      else body k (s.fill s.curCluster t.toList)

/-- A scalar access that asks for nothing beside R70. -/
def State.accessOp (s : State) (a : Acc) (body : Nat → State → Res) : Res := s.accessOpIf a false body

/-- An operation outstanding with nothing to do but return. -/
def Pending.blank (ld : Bool) : Pending :=
  { id := 0, ld := ld, regs := [], atoms := [], lines := [], writes := [], flags := 0, fp := false, stop := false, ends := [], run := none, stores := [] }

/-- An operation of the current thread recorded as outstanding under the next number, and counted in ld or st (R48). -/
def State.pendOp (s : State) (p : Pending) : State :=
  { s.modHart fun h => { h with ld := if p.ld then h.ld + 1 else h.ld, st := if p.ld then h.st else h.st + 1, pend := h.pend ++ [{ p with id := s.nextId }] } with
    nextId := s.nextId + 1 }

/-- The same by its parts. -/
def State.pend (s : State) (ld : Bool) (regs : List RegRef) (atoms : List AtomReq) (writes : List RegWrite) (fp : Bool) : State :=
  s.pendOp { Pending.blank ld with regs := regs, atoms := atoms, writes := writes, fp := fp }

/-- A store of the current thread (R131, R264): performed at once, or outstanding and stalled while its page is being moved; a request where the page is
    another package's (R266). -/
def State.storeOp (s : State) (w : Stall) (kind : RemoteKind) : State :=
  let s1 := s.wlSend s.who s.nextId w.key kind
  if s1.moving w.key w.write.len then s1.pendOp { Pending.blank false with stores := [w] } else (s1.perform w).pend false [] [] [] false

end Sys2Proof.Machine
end

