-- ==== Sys2Proof/Machine/Uses.lean ====
section
/-! DEFINITION. For every lane word, the registers it reads and writes, the limits its operands must keep, and its time in the issue slot
(R17, R44, R162, R163, R165, R180, R182, R230 to R233, R240). -/
namespace Sys2Proof.Machine
open Sys2Proof

/-- An integer type as wide as the elements. -/
def VT.intOk (t : VT) (ty : BitVec 4) : Bool := ty.toNat < 8 && tyWidth ty == t.sew
/-- An integer type narrower than 64 bits and as wide as the elements (R162, widening and narrowing forms). -/
def VT.narrowOk (t : VT) (ty : BitVec 4) : Bool := t.intOk ty && tyWidth ty != 64
/-- A float type of lane arithmetic as wide as the elements. -/
def VT.floatOk (t : VT) (ty : BitVec 4) : Bool := tyArith ty && tyWidth ty == t.sew
/-- Any element type as wide as the elements. -/
def VT.elemOk (t : VT) (ty : BitVec 4) : Bool := tyElem ty && tyWidth ty == t.sew
/-- VLMAX ≤ VLEN / 32, as capability groups need (R71). -/
def VT.capsOk (t : VT) : Bool := t.vlmax ≤ 64
/-- One cycle whatever VL is (R180). -/
def SlotTime.one : SlotTime := ⟨65536, 1, 0⟩

namespace Uses

/-- Major 0x02 with a second source, and compares' sources. -/
def intBin (c : Ctl) (d a : BitVec 6) (x : Src2) (ty : BitVec 4) (t : VT) : Uses :=
  .bin c d a x t.sew t.sew t.sew (t.intOk ty && src2Legal x ty false) (intTime t)
/-- The unary integer forms. -/
def intUn (c : Ctl) (d a : BitVec 6) (ty : BitVec 4) (t : VT) : Uses := .un c d a t.sew t.sew (t.intOk ty) (intTime t)
/-- The widening forms (R168). -/
def widen (c : Ctl) (d a : BitVec 6) (x : Src2) (ty : BitVec 4) (t : VT) : Uses :=
  .bin c d a x (2 * t.sew) t.sew t.sew (t.narrowOk ty && src2Legal x ty false) (intTime t)
/-- The narrowing forms (R168). -/
def narrow (c : Ctl) (d a : BitVec 6) (x : Src2) (ty : BitVec 4) (t : VT) : Uses :=
  .bin c d a x t.sew (2 * t.sew) t.sew (t.narrowOk ty && src2Legal x ty false) (intTime t)
/-- The multiply-add forms, which read d (R169). -/
def macc (c : Ctl) (d a : BitVec 6) (x : Src2) (ty : BitVec 4) (t : VT) : Uses :=
  let u := intBin c d a x ty t
  { u with rd := (d.toNat, t.sew) :: u.rd }
/-- `vwmacc` (R169). -/
def wmacc (c : Ctl) (d a : BitVec 6) (x : Src2) (ty : BitVec 4) (t : VT) : Uses :=
  let u := widen c d a x ty t
  { u with rd := (d.toNat, 2 * t.sew) :: u.rd }
/-- Major 0x05 with a second source (R170). -/
def floatBin (c : Ctl) (d a : BitVec 6) (x : Src2) (ty : BitVec 4) (times : Nat) (t : VT) : Uses :=
  .bin c d a x t.sew t.sew t.sew (t.floatOk ty && src2Legal x ty false) { floatTime ty with times := times }
/-- The unary float forms. -/
def floatUn (c : Ctl) (d a : BitVec 6) (ty : BitVec 4) (times : Nat) (t : VT) : Uses :=
  .un c d a t.sew t.sew (t.floatOk ty) { floatTime ty with times := times }
/-- The fused forms (R172). -/
def fused (c : Ctl) (d a : BitVec 6) (x : Src2) (e : BitVec 6) (ty : BitVec 4) (t : VT) : Uses :=
  let u := floatBin c d a x ty 1 t
  { u with rd := (e.toNat, t.sew) :: u.rd }
/-- `vfwma` (R162, R172). -/
def fusedWide (c : Ctl) (d a : BitVec 6) (x : Src2) (e : BitVec 6) (ty : BitVec 4) (t : VT) : Uses :=
  { Uses.bin c d a x (2 * t.sew) t.sew t.sew (t.floatOk ty && ty != 13 && src2Legal x ty false) (floatTime ty) with
    rd := (e.toNat, 2 * t.sew) :: (a.toNat, t.sew) :: src2Group x t.sew }
/-- The conversions (R162, R173, R180). Where the wider type has 8 bits, the time is that of 16-bit floating arithmetic, for R17 gives none. DESIGN CHOICE (log
    entry 56). -/
def cvt (c : Ctl) (d a : BitVec 6) (sty dty : BitVec 4) (t : VT) : Uses :=
  let wide := max (tyWidth sty) (tyWidth dty)
  .un c d a (tyWidth dty) (tyWidth sty) (sty != 9 && dty != 9 && wide == t.sew)
    (if sty.toNat < 8 ∧ dty.toNat < 8 then intTime t else ⟨match wide with | 64 => 16 | 32 => 64 | _ => 128, 1, 0⟩)
/-- The integer compares (R174). -/
def cmp (c : Ctl) (pd : BitVec 7) (a : BitVec 6) (x : Src2) (ty : BitVec 4) (t : VT) : Uses :=
  { intBin c 0 a x ty t with wr := [], pwr := [pd.toNat] }
/-- The float compares (R174). -/
def fcmp (c : Ctl) (pd : BitVec 7) (a : BitVec 6) (x : Src2) (ty : BitVec 4) (t : VT) : Uses :=
  { floatBin c 0 a x ty 1 t with wr := [], pwr := [pd.toNat] }
/-- Predicate logic (R175). -/
def pred (c : Ctl) (pd : BitVec 7) (srcs : List (BitVec 7)) (_ : VT) : Uses :=
  { prd := c.guard.toNat :: srcs.map (·.toNat), pwr := [pd.toNat], time := .one }
/-- `vpcnt` and `vpfirst` (R175). -/
def predScalar (c : Ctl) (d : BitVec 6) (pa : BitVec 7) (_ : VT) : Uses :=
  { prd := [c.guard.toNat, pa.toNat], sca := [d.toNat], time := .one }
/-- `vpfrom` (R175). -/
def predFrom (c : Ctl) (pd : BitVec 7) (a : BitVec 6) (ty : BitVec 4) (t : VT) : Uses :=
  { rd := [(a.toNat, t.sew)], prd := [c.guard.toNat], pwr := [pd.toNat], ok := t.intOk ty, time := .one }
/-- `vpto` (R175). -/
def predTo (c : Ctl) (d : BitVec 6) (pa : BitVec 7) (ty : BitVec 4) (t : VT) : Uses :=
  { wr := [(d.toNat, t.sew)], prd := [c.guard.toNat, pa.toNat], ok := t.intOk ty, time := .one }
/-- `vmv` (R176). -/
def mv (c : Ctl) (d : BitVec 6) (x : Src2) (ty : BitVec 4) (t : VT) : Uses :=
  { rd := src2Group x t.sew, wr := [(d.toNat, t.sew)], prd := [c.guard.toNat], sca := src2Scalar x,
    ok := t.elemOk ty && src2Legal x ty false, time := intTime t }
/-- `vmerge` (R176). -/
def merge (c : Ctl) (d a : BitVec 6) (x : Src2) (ty : BitVec 4) (t : VT) : Uses :=
  .bin c d a x t.sew t.sew t.sew (t.elemOk ty && src2Legal x ty false) (intTime t)
/-- `vid` (R176). -/
def vid (c : Ctl) (d : BitVec 6) (ty : BitVec 4) (t : VT) : Uses :=
  { wr := [(d.toNat, t.sew)], prd := [c.guard.toNat], ok := t.intOk ty, time := intTime t }
/-- `vmvx` (R176). -/
def mvx (d a : BitVec 6) (ty : BitVec 4) (t : VT) : Uses := { rd := [(a.toNat, t.sew)], sca := [d.toNat], ok := t.intOk ty, time := .one }
/-- The integer reductions (R177). -/
def red (c : Ctl) (d a : BitVec 6) (ty : BitVec 4) (t : VT) : Uses :=
  { rd := [(a.toNat, t.sew)], prd := [c.guard.toNat], sca := [d.toNat], ok := t.intOk ty, time := { intTime t with plus := 6 } }
/-- The float reductions; `vfredsum` has a time of its own (R177, R180). -/
def fred (c : Ctl) (d a : BitVec 6) (ty : BitVec 4) (sum : Bool) (t : VT) : Uses :=
  { rd := [(a.toNat, t.sew)], prd := [c.guard.toNat], sca := [d.toNat], ok := t.floatOk ty,
    time := if sum then ⟨8, 1, 8⟩ else { floatTime ty with plus := 6 } }
/-- The integer scans (R178). -/
def scan (c : Ctl) (d a : BitVec 6) (ty : BitVec 4) (t : VT) : Uses := .un c d a t.sew t.sew (t.intOk ty) { intTime t with plus := 6 }
/-- `vfscan.add` (R178). -/
def fscan (c : Ctl) (d a : BitVec 6) (ty : BitVec 4) (t : VT) : Uses := .un c d a t.sew t.sew (t.floatOk ty) ⟨8, 1, 8⟩
/-- The permutes; `reg` says whether a register second source is legal, `e` is the fill group (R179). -/
def perm (c : Ctl) (d a : BitVec 6) (x : Option Src2) (e : Option (BitVec 6)) (ty : BitVec 4) (reg : Bool) (t : VT) : Uses :=
  { rd := (a.toNat, t.sew) :: ((match x with | some x => src2Group x t.sew | none => []) ++ (e.toList.map fun e => (e.toNat, t.sew))),
    wr := [(d.toNat, t.sew)], prd := [c.guard.toNat], sca := (match x with | some x => src2Scalar x | none => []),
    ok := t.elemOk ty && (reg || !(match x with | some (.vec _) => true | _ => false)), time := intTime t }

/-- The per-lane capability group of an access, if it has one: a multiple of 4, four registers (R71). -/
def caps (q : Auth) : List (Nat × Nat) := if q.perLane then [(q.k.toNat, 4)] else []
/-- Whether VLMAX admits the access's capability groups (R71). -/
def capsOk (q : Auth) (t : VT) : Bool := !q.perLane || t.capsOk
/-- Unit-stride time, or strided where the access is per lane (R17, R180). -/
def unitTime (q : Auth) (t : VT) : SlotTime := if q.perLane then ⟨16, 1, 0⟩ else ⟨1024 / t.sew, 1, 0⟩

/-- Modes 0 and 3 of loads (R182). -/
def load (c : Ctl) (d : BitVec 6) (q : Auth) (ty : BitVec 4) (pd : List Nat) (t : VT) : Uses :=
  { rdN := caps q, wr := [(d.toNat, t.sew)], prd := [c.guard.toNat], pwr := pd, ok := t.elemOk ty && capsOk q t, time := unitTime q t }
/-- Mode 0 of stores. -/
def store (c : Ctl) (d : BitVec 6) (q : Auth) (ty : BitVec 4) (t : VT) : Uses :=
  { rd := [(d.toNat, t.sew)], rdN := caps q, prd := [c.guard.toNat], ok := t.elemOk ty && capsOk q t, time := unitTime q t }
/-- Mode 1 of loads. -/
def loadS (c : Ctl) (d b : BitVec 6) (ty : BitVec 4) (t : VT) : Uses :=
  { wr := [(d.toNat, t.sew)], prd := [c.guard.toNat], sca := [b.toNat], ok := t.elemOk ty, time := ⟨16, 1, 0⟩ }
/-- Mode 1 of stores. -/
def storeS (c : Ctl) (d b : BitVec 6) (ty : BitVec 4) (t : VT) : Uses :=
  { rd := [(d.toNat, t.sew)], prd := [c.guard.toNat], sca := [b.toNat], ok := t.elemOk ty, time := ⟨16, 1, 0⟩ }
/-- Mode 2 of loads. -/
def loadX (c : Ctl) (d a : BitVec 6) (q : Auth) (ty : BitVec 4) (t : VT) : Uses :=
  { rd := [(a.toNat, t.sew)], rdN := caps q, wr := [(d.toNat, t.sew)], prd := [c.guard.toNat], ok := t.elemOk ty && capsOk q t, time := ⟨16, 1, 0⟩ }
/-- Mode 2 of stores. -/
def storeX (c : Ctl) (d a : BitVec 6) (q : Auth) (ty : BitVec 4) (t : VT) : Uses :=
  { rd := [(d.toNat, t.sew), (a.toNat, t.sew)], rdN := caps q, prd := [c.guard.toNat], ok := t.elemOk ty && capsOk q t, time := ⟨16, 1, 0⟩ }
/-- A 32-bit type, E = 32 and LMUL = 1 (R162). -/
def word32 (ty : BitVec 4) (t : VT) : Bool := (ty == 2 || ty == 6 || ty == 12) && t.sew == 32 && t.lmul == 1
/-- Mode 4 of loads (R185). -/
def loadP (c : Ctl) (d a : BitVec 6) (ty : BitVec 4) (t : VT) : Uses :=
  { rd := [(a.toNat, t.sew)], wr := [(d.toNat, t.sew)], prd := [c.guard.toNat], ok := word32 ty t, same := some a.toNat, time := ⟨32, 1, 0⟩ }
/-- Mode 4 of stores (R185). -/
def storeP (c : Ctl) (d a : BitVec 6) (ty : BitVec 4) (t : VT) : Uses :=
  { rd := [(d.toNat, t.sew), (a.toNat, t.sew)], prd := [c.guard.toNat], ok := word32 ty t, same := some a.toNat, time := ⟨32, 1, 0⟩ }
/-- Mode 5 of loads (R186). -/
def loadC (c : Ctl) (d a : BitVec 6) (q : Auth) (t : VT) : Uses :=
  { rd := [(a.toNat, t.sew)], rdN := caps q, wrN := [(d.toNat, 4)], prd := [c.guard.toNat], ok := t.capsOk, time := ⟨16, 1, 0⟩ }
/-- Mode 5 of stores (R186). -/
def storeC (c : Ctl) (d a : BitVec 6) (q : Auth) (t : VT) : Uses :=
  { rd := [(a.toNat, t.sew)], rdN := (d.toNat, 4) :: caps q, prd := [c.guard.toNat], ok := t.capsOk, time := ⟨16, 1, 0⟩ }

/-- The bytes of an operation of R228. -/
def atomBytes (op : Nat) : Nat := match op with | 1 | 3 | 5 | 7 | 9 | 11 | 14 | 15 | 18 | 19 | 21 => 8 | _ => 4
/-- `vatom` (R230). -/
def atom (c : Ctl) (op : BitVec 5) (d a b e : BitVec 6) (q : Auth) (nr : Bool) (t : VT) : Uses :=
  { rd := (a.toNat, t.sew) :: (b.toNat, t.sew) :: (if isCas op then [(e.toNat, t.sew)] else []), rdN := caps q,
    wr := if nr then [] else [(d.toNat, t.sew)], prd := [c.guard.toNat], ok := t.sew == 8 * atomBytes op.toNat && capsOk q t, time := ⟨16, 1, 0⟩ }
/-- `vatom32` (R232). -/
def atom32 (c : Ctl) (d a b : BitVec 6) (q : Auth) (nr : Bool) (t : VT) : Uses :=
  { rd := [(a.toNat, t.sew)], rdN := (b.toNat, 8) :: caps q, wrN := if nr then [] else [(d.toNat, 8)], prd := [c.guard.toNat],
    ok := t.sew == 32 && t.lmul == 1 && capsOk q t, time := ⟨4, 1, 0⟩ }
/-- `vlrc` (R240). -/
def lrc (c : Ctl) (d a b e : BitVec 6) (q : Auth) (t : VT) : Uses :=
  { rd := [(a.toNat, t.sew), (b.toNat, t.sew), (e.toNat, t.sew)], rdN := caps q, wr := [(d.toNat, t.sew), (d.toNat + t.lmul, t.sew)],
    prd := [c.guard.toNat], ok := t.sew == 64 && capsOk q t, time := ⟨8, 1, 0⟩ }
/-- `vbasket` (R188). -/
def basket (c : Ctl) (a b : BitVec 6) (t : VT) : Uses :=
  { rd := [(a.toNat, t.sew)], rdN := [(b.toNat, 8)], prd := [c.guard.toNat], ok := c.last && t.sew == 32 && t.lmul == 1, time := ⟨4, 1, 0⟩ }
/-- `vsetl` and `vsetli` (R166). -/
def setl (rs : List (BitVec 6)) (_ : VT) : Uses := { sca := rs.map (·.toNat), time := .one }

end Uses

/-- What a lane word needs of the registers, at the vector type in force when it issues. -/
def laneUses : Instr → VT → Uses
  | .vsetl _ d k _ => Uses.setl [d, k]
  | .vsetli _ d _ _ => Uses.setl [d]
  | .vadd c d a x ty | .vsub c d a x ty | .vrsub c d a x ty | .vmul c d a x ty | .vmulh c d a x ty | .vdiv c d a x ty | .vrem c d a x ty
  | .vmin c d a x ty | .vmax c d a x ty | .vand c d a x ty | .vor c d a x ty | .vxor c d a x ty | .vandn c d a x ty | .vsll c d a x ty
  | .vsrl c d a x ty | .vsra c d a x ty | .vaddSat c d a x ty | .vsubSat c d a x ty => Uses.intBin c d a x ty
  | .vclz c d a ty | .vpopc c d a ty => Uses.intUn c d a ty
  | .vwadd c d a x ty | .vwsub c d a x ty | .vwmul c d a x ty => Uses.widen c d a x ty
  | .vnsrl c d a x ty | .vnsra c d a x ty | .vnclip c d a x ty => Uses.narrow c d a x ty
  | .vmacc c d a x ty | .vnmsac c d a x ty => Uses.macc c d a x ty
  | .vwmacc c d a x ty => Uses.wmacc c d a x ty
  | .vfadd c _ d a x ty | .vfsub c _ d a x ty | .vfmul c _ d a x ty => Uses.floatBin c d a x ty 1
  | .vfdiv c _ d a x ty => Uses.floatBin c d a x ty 4
  | .vfmin c d a x ty | .vfmax c d a x ty | .vfsgnj c d a x ty | .vfsgnjn c d a x ty | .vfsgnjx c d a x ty => Uses.floatBin c d a x ty 1
  | .vfsqrt c _ d a ty => Uses.floatUn c d a ty 4
  | .vfabs c d a ty | .vfneg c d a ty | .vfkind c d a ty => Uses.floatUn c d a ty 1
  | .vfma c _ d a x e ty | .vfms c _ d a x e ty | .vfnma c _ d a x e ty | .vfnms c _ d a x e ty => Uses.fused c d a x e ty
  | .vfwma c _ d a x e ty => Uses.fusedWide c d a x e ty
  | .vcvt c _ d a sty dty | .vcvtSat c _ d a sty dty => Uses.cvt c d a sty dty
  | .vcmpEq c pd a x ty | .vcmpNe c pd a x ty | .vcmpLt c pd a x ty | .vcmpLe c pd a x ty | .vcmpGt c pd a x ty | .vcmpGe c pd a x ty =>
    Uses.cmp c pd a x ty
  | .vfcmpEq c pd a x ty | .vfcmpLt c pd a x ty | .vfcmpLe c pd a x ty | .vfcmpUnord c pd a x ty => Uses.fcmp c pd a x ty
  | .vpand c pd pa pb | .vpor c pd pa pb | .vpxor c pd pa pb | .vpandn c pd pa pb => Uses.pred c pd [pa, pb]
  | .vpnot c pd pa | .vpmov c pd pa => Uses.pred c pd [pa]
  | .vpset c pd | .vpclr c pd => Uses.pred c pd []
  | .vpcnt c d pa | .vpfirst c d pa => Uses.predScalar c d pa
  | .vpfrom c pd a ty => Uses.predFrom c pd a ty
  | .vpto c d pa ty => Uses.predTo c d pa ty
  | .vmv c d x ty => Uses.mv c d x ty
  | .vmerge c d a x ty => Uses.merge c d a x ty
  | .vid c d ty => Uses.vid c d ty
  | .vmvx _ d a ty => Uses.mvx d a ty
  | .vredsum c d a ty | .vredmin c d a ty | .vredmax c d a ty | .vredand c d a ty | .vredor c d a ty | .vredxor c d a ty => Uses.red c d a ty
  | .vfredsum c _ d a ty => Uses.fred c d a ty true
  | .vfredmin c d a ty | .vfredmax c d a ty => Uses.fred c d a ty false
  | .vscanAdd c d a ty | .vscanMin c d a ty | .vscanMax c d a ty => Uses.scan c d a ty
  | .vfscanAdd c _ d a ty => Uses.fscan c d a ty
  | .vshup c d a x e ty | .vshdn c d a x e ty => Uses.perm c d a (some x) (some e) ty false
  | .vpick c d a x ty | .vxchg c d a x ty => Uses.perm c d a (some x) none ty true
  | .vbcast c d a x ty => Uses.perm c d a (some x) none ty false
  | .vpack c d a ty | .vrev c d a ty => Uses.perm c d a none none ty true
  | .vld c _ d q _ ty => Uses.load c d q ty []
  | .vldff c _ d e q _ ty => Uses.load c d q ty [e.toNat]
  | .vst c _ d q _ ty => Uses.store c d q ty
  | .vlds c _ d b _ _ ty => Uses.loadS c d b ty
  | .vsts c _ d b _ _ ty => Uses.storeS c d b ty
  | .vldx c _ d a q ty => Uses.loadX c d a q ty
  | .vstx c _ d a q ty => Uses.storeX c d a q ty
  | .vldp c _ d a _ ty => Uses.loadP c d a ty
  | .vstp c _ d a _ ty => Uses.storeP c d a ty
  | .vldc c _ d a q => Uses.loadC c d a q
  | .vstc c _ d a q => Uses.storeC c d a q
  | .vatom c _ op d a b e q nr => Uses.atom c op d a b e q nr
  | .vatom32 c _ _ d a b q nr => Uses.atom32 c d a b q nr
  | .vlrc c d a b e q _ _ => Uses.lrc c d a b e q
  | .vbasket c a b => Uses.basket c a b
  | _ => fun _ => {}

/-- The vector type that a word leaves for the words after it (R166). -/
def nextVT (i : Instr) (t : VT) : VT :=
  match i with
  | .vsetl _ _ _ vt | .vsetli _ _ vt _ => VT.of vt
  | _ => t

end Sys2Proof.Machine
end

