-- ==== Sys2Proof/Machine/LaneOps.lean ====
section
/-! DEFINITION. The frame in which every lane word executes: arbitration, readiness, issue, scalar returns, faults, the lane-cycle record
(R34 to R42, R62, R117, R164, R165, R342). -/
namespace Sys2Proof.Machine
open Sys2Proof

/-- The current group with its Head run. -/
structure View where
  slot : Nat
  g    : Group
  run  : Run
  deriving DecidableEq, Repr

/-- The lane part. -/
def View.l (v : View) : LaneState := v.g.lane
/-- The vector type in force. -/
def View.t (v : View) : VT := v.g.lane.vt
/-- E = SEW. -/
def View.e (v : View) : Nat := v.g.lane.vt.sew
/-- Element k of the second source at width w. -/
def View.b (v : View) (x : Src2) (ty : BitVec 4) (w k : Nat) : Nat := src2Val x v.l v.run.snap ty w false k
/-- The rounding context of a rounding code (R81). -/
def View.env (v : View) (rm : BitVec 3) : FpEnv := .of v.run.snap.fpctl rm.toNat

/-- A fault of the lane word at the lane PC (R55, R62): the group stops before it, CAUSE [8] set; FLANES as given. -/
def State.raiseLane (s : State) (v : View) (cause : BitVec 8) (faddr : Word) (flanes : VBits) : State :=
  s.stopGroup v.slot true cause faddr flanes

/-- A fault of the whole lane word: FLANES cleared, FADDR at the word (R62). -/
def State.raiseLaneHere (s : State) (v : View) (cause : BitVec 8) : State := s.raiseLane v cause v.run.addr 0

/-- The frame of a lane word: ILLEGAL_INSN where an operand breaks a limit (R99 step 4); it waits, holding the slot, while a register it names
    awaits a load (R42); then its effect. -/
def State.laneOp (s : State) (u : VT → Uses) (body : View → State → Res) : Res :=
  match s.cur with
  | .service _ => .next s
  | .group k =>
    match s.group k with
    | none => .next s
    | some g =>
      match g.lane.queue with
      | [] => .next s
      | r :: _ =>
        let v : View := ⟨k, g, r⟩
        let t := g.lane.vt
        if !(u t).legal t g.vbud g.sbud then .next (s.raiseLaneHere v Cause.illegalInsn)
        else if ((u t).reads t ++ (u t).writes t).any fun x => g.hart.pendRegs.contains x then .next s
        else body v s

/-- Whether the active elements of a group of 32-bit elements are all equal. -/
def LaneState.allSame (l : LaneState) (c : Ctl) (a : Nat) : Bool :=
  match l.actives c with
  | [] => true
  | k :: ks => ks.all fun j => l.elem a 32 j == l.elem a 32 k

/-- The time class of a word: indexed for a private access whose word indices differ (R180). -/
def View.timeOf (v : View) (u : Uses) (c : Ctl) : SlotTime :=
  match u.same with
  | some a => if v.l.allSame c a then u.time else ⟨16, 1, 0⟩
  | none => u.time

/-- Cycles a word holds the issue slot (R17, R180). -/
def SlotTime.cycles (m : SlotTime) (vl : Nat) : Nat := if vl = 0 then 1 else max 1 (m.times * ceilDiv vl m.per + m.plus)

/-- The lane queue when its Head run's first word has issued (R38): the run goes on, or its entry empties. -/
def popWord (q : List Run) : List Run :=
  match q with
  | [] => []
  | r :: rest =>
    match r.words with
    | _ :: (w :: ws) => { r with words := w :: ws, addr := r.addr + 12 } :: rest
    | _ => rest

/-- The word at the lane PC issued: the queue moved on, its time in the slot begun (R17), to be given up after it if it is the run's last word or a stepped
    one, whose run stays partial (R339); the waits before it recorded as its own (R342), the exemption of the lane stream used up (R337). -/
def State.laneIssued (s : State) (v : View) (u : Uses) : State :=
  let step := v.g.stepping.mode == 2
  let share := (v.run.words.head?.map fun w => s.laneShares v.slot v.g w).getD []
  let t := (v.run.words.head?.map fun w => (v.timeOf u (LaneFields.ofWord w).ctl).cycles v.l.vl).getD 0
  { (s.modCore (slotCluster v.slot) (slotCore v.slot) fun c => { c.addShares share c.waited with
        holder := some v.slot, left := t, ending := v.run.words.length ≤ 1 || step, share := share, waited := 0 }).modGroup v.slot fun g => { g with
      lane := { g.lane with queue := let q := popWord g.lane.queue; if step then splitRuns q else q },
      stepping := { g.stepping with exempt := g.stepping.exempt.filter fun x => !x.1, pending := g.stepping.pending || step,
                                    addr := if step then v.run.addr else g.stepping.addr } } with free := s.free + 1 }

/-- The lane part of the group replaced, its queue kept. -/
def State.setLane (s : State) (v : View) (l : LaneState) : State := s.modGroup v.slot fun g => { g with lane := { l with queue := g.lane.queue } }

/-- A word that changes the lane part alone. -/
def State.laneAlu (s : State) (u : VT → Uses) (f : View → LaneState) : Res :=
  s.laneOp u fun v s => .next ((s.setLane v (f v)).laneIssued v (u v.t))

/-- Flags of the active elements gathered (R117). -/
def LaneState.raised (l : LaneState) (c : Ctl) (f : Nat → Flags) : Flags := (l.actives c).foldl (fun x k => x ||| f k) 0

/-- A destination group written element by element, each active element's flags gathered into FPSTAT (R117, R164). -/
def LaneState.apply (l : LaneState) (c : Ctl) (d : BitVec 6) (w : Nat) (f : Nat → Nat × Flags) : LaneState :=
  { l.putGroup c d.toNat w fun k => (f k).1 with fpstat := l.fpstat ||| l.raised c fun k => (f k).2 }

/-- A return to scalar s[d] (R35, R36): the live register, and the snapshots of the runs accepted after the run at Head. -/
def State.laneReturn (s : State) (v : View) (d : BitVec 6) (x : Word) : State :=
  if d = 0 then s
  else s.modGroup v.slot fun g => { g with
    hart := g.hart.setX d x,
    lane := { g.lane with queue := match g.lane.queue with
      | r :: rest => r :: rest.map fun n => { n with snap := { n.snap with s := n.snap.s.set d.toNat x } }
      | [] => [] } }

/-- A word that returns a scalar (R165), with flags (R117). -/
def State.laneScalar (s : State) (u : VT → Uses) (d : BitVec 6) (f : View → Word × Flags) : Res :=
  s.laneOp u fun v s =>
    let r := f v
    .next (((s.setLane v { v.l with fpstat := v.l.fpstat ||| r.2 }).laneReturn v d r.1).laneIssued v (u v.t))

/-! ### Arbitration (R39, R40) -/

/-- The registers and predicates a run reads, word by word at the vector type each word finds (R40). A word that is no instruction reads none. -/
noncomputable def runReads : VT → List (BitVec 96) → List RegRef
  | _, [] => []
  | t, w :: ws =>
    match decodeLane w with
    | .ok i => (laneUses i t).reads t ++ runReads (nextVT i t) ws
    | .error _ => runReads t ws

/-- The registers and predicates that operations outstanding of other runs, earlier ones, will write (R40). -/
def Hart.earlierRegs (h : Hart) (seq : Nat) : List RegRef := (h.pend.filter fun p => p.run != some seq).flatMap fun p => p.regs

/-- Whether a group's lane stream may go on: the group may issue, no step holds the stream (R339), and no `vlrc.stop` awaits its results (R240). -/
def State.laneMay (s : State) (g : Group) : Bool := s.mayIssue g && g.stepping.mode != 1 && !g.stepping.pending && g.hart.pend.all fun p => !p.stop

/-- Whether a group's Head run is ready (R40): its stream may go on, and no register that the run reads awaits an earlier run. -/
noncomputable def State.runReady (s : State) (g : Group) : Bool :=
  match g.lane.queue with
  | [] => false
  | r :: _ => s.laneMay g && !((runReads g.lane.vt r.words).any fun x => (g.hart.earlierRegs r.seq).contains x)

/-- Whether slot k's Head run wins the free issue slot of its core: the earliest head time among the ready, the lower slot where equal (R40). -/
noncomputable def State.laneWinner (s : State) (k : Nat) : Bool :=
  match s.group k with
  | none => false
  | some g =>
    match g.lane.queue with
    | [] => false
    | r :: _ =>
      s.runReady g && (List.range 32).all fun i =>
        let j := k / 32 * 32 + i
        match s.group j with
        | none => true
        | some g' =>
          match g'.lane.queue with
          | [] => true
          | r' :: _ => j == k || !s.runReady g' || (r.head.getD 0).toNat < (r'.head.getD 0).toNat ||
              ((r.head.getD 0) == (r'.head.getD 0) && k < j)

/-- The issue slot given to slot k's Head run. -/
def State.takeSlot (s : State) (k : Nat) : State :=
  (s.modCore (slotCluster k) (slotCore k) fun c => { c with holder := some k, left := 0, ending := false, share := [], waited := 0 }).modGroup k fun g => { g with
    lane := { g.lane with queue := match g.lane.queue with | r :: rest => { r with issuing := true } :: rest | [] => [] } }

end Sys2Proof.Machine
end

