-- ==== Sys2Proof/Machine/LaneInt.lean ====
section
/-! DEFINITION. The vector type, integer, widening, narrowing and multiply-add lane words (R166 to R169). -/
namespace Sys2Proof.Machine
open Sys2Proof

/-- The vector type set, with the length asked for (R45, R166). -/
def State.setVector (s : State) (d : BitVec 6) (rs : List (BitVec 6)) (vt : BitVec 6) (len : View → Nat) : Res :=
  s.laneOp (Uses.setl rs) fun v s =>
    let n := min (len v) (VT.of vt).vlmax
    .next (((s.setLane v { v.l with vtype := vt, vl := n }).laneReturn v d (BitVec.ofNat 64 n)).laneIssued v (Uses.setl rs v.t))

/-- `vsetl` (R166). -/
def execVsetl (_ : Bool) (d k vt : BitVec 6) (s : State) : Res := s.setVector d [d, k] vt fun v => (v.run.snap.x k.toNat).toNat
/-- `vsetli` (R166). -/
def execVsetli (_ : Bool) (d vt : BitVec 6) (n : BitVec 16) (s : State) : Res := s.setVector d [d] vt fun _ => n.toNat

/-- Element k of the register group at a, w bits wide. -/
def View.a (v : View) (a : BitVec 6) (w k : Nat) : Nat := v.l.elem a.toNat w k

/-- An integer form: D[k] from E, signedness, A[k], B[k]. -/
def State.intOp (s : State) (c : Ctl) (d a : BitVec 6) (x : Src2) (ty : BitVec 4) (f : Nat → Bool → Nat → Nat → Nat) : Res :=
  s.laneAlu (Uses.intBin c d a x ty) fun v =>
    v.l.putGroup c d.toNat v.e fun k => f v.e (tySigned ty) (v.a a v.e k) (v.b x ty v.e k)
/-- A unary integer form. -/
def State.intUnary (s : State) (c : Ctl) (d a : BitVec 6) (ty : BitVec 4) (f : Nat → Nat → Nat) : Res :=
  s.laneAlu (Uses.intUn c d a ty) fun v => v.l.putGroup c d.toNat v.e fun k => f v.e (v.a a v.e k)
/-- A widening form: D[k], 2E wide, from the exact values of A[k] and B[k]. -/
def State.widenOp (s : State) (c : Ctl) (d a : BitVec 6) (x : Src2) (ty : BitVec 4) (f : Int → Int → Int) : Res :=
  s.laneAlu (Uses.widen c d a x ty) fun v =>
    let e := v.e
    v.l.putGroup c d.toNat (2 * e) fun k => wrapInt (f (extInt (v.a a e k) e (tySigned ty)) (extInt (v.b x ty e k) e (tySigned ty))) (2 * e)
/-- A narrowing form: D[k] from E, A[k] at 2E and the shift count. -/
def State.narrowOp (s : State) (c : Ctl) (d a : BitVec 6) (x : Src2) (ty : BitVec 4) (f : Nat → Nat → Nat → Nat) : Res :=
  s.laneAlu (Uses.narrow c d a x ty) fun v =>
    let e := v.e
    v.l.putGroup c d.toNat e fun k => f e (v.a a (2 * e) k) (v.b x ty e k % (2 * e))

/-- The lesser or greater of two patterns, by signedness. -/
def pickInt (isMax sg : Bool) (e x y : Nat) : Nat :=
  if (if isMax then extInt x e sg < extInt y e sg else extInt y e sg < extInt x e sg) then y else x
/-- An arithmetic right shift of an n-bit pattern. -/
def sraNat (x sh n : Nat) : Nat := wrapInt (sextNat x n / (2 ^ sh : Nat)) n
/-- Leading zeros of an n-bit pattern. -/
def lzNat (x n : Nat) : Nat := if x = 0 then n else n - 1 - x.log2
/-- Set bits of an n-bit pattern. -/
def onesNat (x n : Nat) : Nat := ((List.range n).filter fun i => x.testBit i).length

/-- `vadd` (R167). -/
def execVadd (c : Ctl) (d a : BitVec 6) (x : Src2) (ty : BitVec 4) (s : State) : Res := s.intOp c d a x ty fun e _ x y => wrapInt ((x : Int) + y) e
/-- `vsub` (R167). -/
def execVsub (c : Ctl) (d a : BitVec 6) (x : Src2) (ty : BitVec 4) (s : State) : Res := s.intOp c d a x ty fun e _ x y => wrapInt ((x : Int) - y) e
/-- `vrsub` (R167). -/
def execVrsub (c : Ctl) (d a : BitVec 6) (x : Src2) (ty : BitVec 4) (s : State) : Res := s.intOp c d a x ty fun e _ x y => wrapInt ((y : Int) - x) e
/-- `vmul` (R167). -/
def execVmul (c : Ctl) (d a : BitVec 6) (x : Src2) (ty : BitVec 4) (s : State) : Res := s.intOp c d a x ty fun e _ x y => x * y % 2 ^ e
/-- `vmulh` (R167). -/
def execVmulh (c : Ctl) (d a : BitVec 6) (x : Src2) (ty : BitVec 4) (s : State) : Res := s.intOp c d a x ty fun e sg x y => if sg then mulhS x y e else mulhZ x y e
/-- `vdiv` (R167). -/
def execVdiv (c : Ctl) (d a : BitVec 6) (x : Src2) (ty : BitVec 4) (s : State) : Res := s.intOp c d a x ty fun e sg x y => if sg then divS x y e else divZ x y e
/-- `vrem` (R167). -/
def execVrem (c : Ctl) (d a : BitVec 6) (x : Src2) (ty : BitVec 4) (s : State) : Res := s.intOp c d a x ty fun e sg x y => if sg then remS x y e else remZ x y e
/-- `vmin` (R167). -/
def execVmin (c : Ctl) (d a : BitVec 6) (x : Src2) (ty : BitVec 4) (s : State) : Res := s.intOp c d a x ty fun e sg x y => pickInt false sg e x y
/-- `vmax` (R167). -/
def execVmax (c : Ctl) (d a : BitVec 6) (x : Src2) (ty : BitVec 4) (s : State) : Res := s.intOp c d a x ty fun e sg x y => pickInt true sg e x y
/-- `vand` (R167). -/
def execVand (c : Ctl) (d a : BitVec 6) (x : Src2) (ty : BitVec 4) (s : State) : Res := s.intOp c d a x ty fun _ _ x y => x &&& y
/-- `vor` (R167). -/
def execVor (c : Ctl) (d a : BitVec 6) (x : Src2) (ty : BitVec 4) (s : State) : Res := s.intOp c d a x ty fun _ _ x y => x ||| y
/-- `vxor` (R167). -/
def execVxor (c : Ctl) (d a : BitVec 6) (x : Src2) (ty : BitVec 4) (s : State) : Res := s.intOp c d a x ty fun _ _ x y => x ^^^ y
/-- `vandn` (R167). -/
def execVandn (c : Ctl) (d a : BitVec 6) (x : Src2) (ty : BitVec 4) (s : State) : Res := s.intOp c d a x ty fun e _ x y => x &&& (2 ^ e - 1 - y)
/-- `vsll` (R167). -/
def execVsll (c : Ctl) (d a : BitVec 6) (x : Src2) (ty : BitVec 4) (s : State) : Res := s.intOp c d a x ty fun e _ x y => x * 2 ^ (y % e) % 2 ^ e
/-- `vsrl` (R167). -/
def execVsrl (c : Ctl) (d a : BitVec 6) (x : Src2) (ty : BitVec 4) (s : State) : Res := s.intOp c d a x ty fun e _ x y => x / 2 ^ (y % e)
/-- `vsra` (R167). -/
def execVsra (c : Ctl) (d a : BitVec 6) (x : Src2) (ty : BitVec 4) (s : State) : Res := s.intOp c d a x ty fun e _ x y => sraNat x (y % e) e
/-- `vadd.sat` (R167). -/
def execVaddSat (c : Ctl) (d a : BitVec 6) (x : Src2) (ty : BitVec 4) (s : State) : Res := s.intOp c d a x ty fun e sg x y => satInt (extInt x e sg + extInt y e sg) sg e
/-- `vsub.sat` (R167). -/
def execVsubSat (c : Ctl) (d a : BitVec 6) (x : Src2) (ty : BitVec 4) (s : State) : Res := s.intOp c d a x ty fun e sg x y => satInt (extInt x e sg - extInt y e sg) sg e
/-- `vclz` (R167). -/
def execVclz (c : Ctl) (d a : BitVec 6) (ty : BitVec 4) (s : State) : Res := s.intUnary c d a ty fun e x => lzNat x e
/-- `vpopc` (R167). -/
def execVpopc (c : Ctl) (d a : BitVec 6) (ty : BitVec 4) (s : State) : Res := s.intUnary c d a ty fun e x => onesNat x e

/-- `vwadd` (R168). -/
def execVwadd (c : Ctl) (d a : BitVec 6) (x : Src2) (ty : BitVec 4) (s : State) : Res := s.widenOp c d a x ty fun x y => x + y
/-- `vwsub` (R168). -/
def execVwsub (c : Ctl) (d a : BitVec 6) (x : Src2) (ty : BitVec 4) (s : State) : Res := s.widenOp c d a x ty fun x y => x - y
/-- `vwmul` (R168). -/
def execVwmul (c : Ctl) (d a : BitVec 6) (x : Src2) (ty : BitVec 4) (s : State) : Res := s.widenOp c d a x ty fun x y => x * y
/-- `vnsrl` (R168). -/
def execVnsrl (c : Ctl) (d a : BitVec 6) (x : Src2) (ty : BitVec 4) (s : State) : Res := s.narrowOp c d a x ty fun e x sh => x / 2 ^ sh % 2 ^ e
/-- `vnsra` (R168). -/
def execVnsra (c : Ctl) (d a : BitVec 6) (x : Src2) (ty : BitVec 4) (s : State) : Res :=
  s.narrowOp c d a x ty fun e x sh => sraNat x sh (2 * e) % 2 ^ e
/-- `vnclip` (R168): rounded half up at the shift, then saturated. -/
def execVnclip (c : Ctl) (d a : BitVec 6) (x : Src2) (ty : BitVec 4) (s : State) : Res :=
  s.narrowOp c d a x ty fun e x sh =>
    satInt ((extInt x (2 * e) (tySigned ty) + (if sh = 0 then 0 else 2 ^ (sh - 1) : Nat)) / (2 ^ sh : Nat)) (tySigned ty) e

/-- A multiply-add at E. -/
def State.maccOp (s : State) (c : Ctl) (d a : BitVec 6) (x : Src2) (ty : BitVec 4) (neg : Bool) : Res :=
  s.laneAlu (Uses.macc c d a x ty) fun v =>
    let e := v.e
    v.l.putGroup c d.toNat e fun k =>
      let p : Int := (v.a a e k : Int) * v.b x ty e k
      wrapInt (v.a d e k + (if neg then -p else p)) e

/-- `vmacc` (R169). -/
def execVmacc (c : Ctl) (d a : BitVec 6) (x : Src2) (ty : BitVec 4) (s : State) : Res := s.maccOp c d a x ty false
/-- `vnmsac` (R169). -/
def execVnmsac (c : Ctl) (d a : BitVec 6) (x : Src2) (ty : BitVec 4) (s : State) : Res := s.maccOp c d a x ty true
/-- `vwmacc` (R169). -/
def execVwmacc (c : Ctl) (d a : BitVec 6) (x : Src2) (ty : BitVec 4) (s : State) : Res :=
  s.laneAlu (Uses.wmacc c d a x ty) fun v =>
    let e := v.e
    let sg := tySigned ty
    v.l.putGroup c d.toNat (2 * e) fun k => wrapInt (v.a d (2 * e) k + extInt (v.a a e k) e sg * extInt (v.b x ty e k) e sg) (2 * e)

end Sys2Proof.Machine
end

