-- ==== Sys2Proof/Machine/LaneFloat.lean ====
section
/-! DEFINITION. Floating-point, fused and conversion lane words (R170 to R173). -/
namespace Sys2Proof.Machine
open Sys2Proof

/-- A float form with rounding code rm: D[k] and flags from A[k] and B[k]. -/
def State.floatOp (s : State) (c : Ctl) (rm : BitVec 3) (d a : BitVec 6) (x : Src2) (ty : BitVec 4) (times : Nat)
    (f : Fmt → FpEnv → Nat → Nat → Nat × Flags) : Res :=
  s.laneAlu (Uses.floatBin c d a x ty times) fun v =>
    v.l.apply c d v.e fun k => f (tyFmt ty) (v.env rm) (v.a a v.e k) (v.b x ty v.e k)
/-- A unary float form. -/
def State.floatUnary (s : State) (c : Ctl) (rm : BitVec 3) (d a : BitVec 6) (ty : BitVec 4) (times : Nat) (f : Fmt → FpEnv → Nat → Nat × Flags) : Res :=
  s.laneAlu (Uses.floatUn c d a ty times) fun v => v.l.apply c d v.e fun k => f (tyFmt ty) (v.env rm) (v.a a v.e k)

/-- `vfadd` (R170). -/
def execVfadd (c : Ctl) (rm : BitVec 3) (d a : BitVec 6) (x : Src2) (ty : BitVec 4) (s : State) : Res :=
  s.floatOp c rm d a x ty 1 fun f v x y => f.add v x y
/-- `vfsub` (R170). -/
def execVfsub (c : Ctl) (rm : BitVec 3) (d a : BitVec 6) (x : Src2) (ty : BitVec 4) (s : State) : Res :=
  s.floatOp c rm d a x ty 1 fun f v x y => f.sub v x y
/-- `vfmul` (R170). -/
def execVfmul (c : Ctl) (rm : BitVec 3) (d a : BitVec 6) (x : Src2) (ty : BitVec 4) (s : State) : Res :=
  s.floatOp c rm d a x ty 1 fun f v x y => f.mul v x y
/-- `vfdiv` (R170). -/
def execVfdiv (c : Ctl) (rm : BitVec 3) (d a : BitVec 6) (x : Src2) (ty : BitVec 4) (s : State) : Res :=
  s.floatOp c rm d a x ty 4 fun f v x y => f.div v x y
/-- `vfsqrt` (R170). -/
def execVfsqrt (c : Ctl) (rm : BitVec 3) (d a : BitVec 6) (ty : BitVec 4) (s : State) : Res := s.floatUnary c rm d a ty 4 fun f v x => f.sqrt v x
/-- `vfmin` (R170). -/
def execVfmin (c : Ctl) (d a : BitVec 6) (x : Src2) (ty : BitVec 4) (s : State) : Res := s.floatOp c 0 d a x ty 1 fun f v x y => f.minMax v false x y
/-- `vfmax` (R170). -/
def execVfmax (c : Ctl) (d a : BitVec 6) (x : Src2) (ty : BitVec 4) (s : State) : Res := s.floatOp c 0 d a x ty 1 fun f v x y => f.minMax v true x y
/-- The sign of a pattern as a number: its sign bit alone. -/
def Fmt.signOf (f : Fmt) (x : Nat) : Nat := x &&& f.signBit true
/-- A pattern without its sign. -/
def Fmt.magOf (f : Fmt) (x : Nat) : Nat := x % f.signBit true
/-- `vfsgnj` (R170). -/
def execVfsgnj (c : Ctl) (d a : BitVec 6) (x : Src2) (ty : BitVec 4) (s : State) : Res :=
  s.floatOp c 0 d a x ty 1 fun f _ x y => (f.magOf x + f.signOf y, 0)
/-- `vfsgnjn` (R170). -/
def execVfsgnjn (c : Ctl) (d a : BitVec 6) (x : Src2) (ty : BitVec 4) (s : State) : Res :=
  s.floatOp c 0 d a x ty 1 fun f _ x y => (f.magOf x + (f.signBit true - f.signOf y), 0)
/-- `vfsgnjx` (R170). -/
def execVfsgnjx (c : Ctl) (d a : BitVec 6) (x : Src2) (ty : BitVec 4) (s : State) : Res :=
  s.floatOp c 0 d a x ty 1 fun f _ x y => (x ^^^ f.signOf y, 0)
/-- `vfabs` (R170). -/
def execVfabs (c : Ctl) (d a : BitVec 6) (ty : BitVec 4) (s : State) : Res := s.floatUnary c 0 d a ty 1 fun f _ x => (f.magOf x, 0)
/-- `vfneg` (R170). -/
def execVfneg (c : Ctl) (d a : BitVec 6) (ty : BitVec 4) (s : State) : Res := s.floatUnary c 0 d a ty 1 fun f _ x => (x ^^^ f.signBit true, 0)
/-- `vfkind` (R171). -/
def execVfkind (c : Ctl) (d a : BitVec 6) (ty : BitVec 4) (s : State) : Res := s.floatUnary c 0 d a ty 1 fun f _ x => (f.kind x, 0)

/-- A fused form at one width (R172). -/
def State.fusedOp (s : State) (c : Ctl) (rm : BitVec 3) (d a : BitVec 6) (x : Src2) (e : BitVec 6) (ty : BitVec 4) (negP negC : Bool) : Res :=
  s.laneAlu (Uses.fused c d a x e ty) fun v =>
    let f := tyFmt ty
    v.l.apply c d v.e fun k => f.fma f (v.env rm) negP negC (v.a a v.e k) (v.b x ty v.e k) (v.a e v.e k)

/-- `vfma` (R172). -/
def execVfma (c : Ctl) (rm : BitVec 3) (d a : BitVec 6) (x : Src2) (e : BitVec 6) (ty : BitVec 4) (s : State) : Res :=
  s.fusedOp c rm d a x e ty false false
/-- `vfms` (R172). -/
def execVfms (c : Ctl) (rm : BitVec 3) (d a : BitVec 6) (x : Src2) (e : BitVec 6) (ty : BitVec 4) (s : State) : Res :=
  s.fusedOp c rm d a x e ty false true
/-- `vfnma` (R172). -/
def execVfnma (c : Ctl) (rm : BitVec 3) (d a : BitVec 6) (x : Src2) (e : BitVec 6) (ty : BitVec 4) (s : State) : Res :=
  s.fusedOp c rm d a x e ty true true
/-- `vfnms` (R172). -/
def execVfnms (c : Ctl) (rm : BitVec 3) (d a : BitVec 6) (x : Src2) (e : BitVec 6) (ty : BitVec 4) (s : State) : Res :=
  s.fusedOp c rm d a x e ty true false
/-- The wide type of `vfwma` (R162). -/
def wideFmt (ty : BitVec 4) : Fmt := if ty = 12 then .f64 else .f32
/-- `vfwma` (R172). -/
def execVfwma (c : Ctl) (rm : BitVec 3) (d a : BitVec 6) (x : Src2) (e : BitVec 6) (ty : BitVec 4) (s : State) : Res :=
  s.laneAlu (Uses.fusedWide c d a x e ty) fun v =>
    v.l.apply c d (2 * v.e) fun k =>
      (tyFmt ty).fma (wideFmt ty) (v.env rm) false false (v.a a v.e k) (v.b x ty v.e k) (v.a e (2 * v.e) k)

/-- One element converted (R173). -/
def convert (env : FpEnv) (sat : Bool) (sty dty : BitVec 4) (x : Nat) : Nat × Flags :=
  let sw := tyWidth sty
  let dw := tyWidth dty
  if sty.toNat < 8 then
    let i := extInt x sw (tySigned sty)
    if dty.toNat < 8 then (if sat then satInt i (tySigned dty) dw else wrapInt i dw, 0)
    else (tyFmt dty).round env sat (.ofInt i)
  else
    let y := (tyFmt sty).val env x
    if dty.toNat < 8 then cvtF2i y env.mode (tySigned dty) dw
    else
      let r := (tyFmt dty).round env sat y
      (r.1, r.2 ||| (if y.isSig then Flags.invalid else 0))

/-- A conversion (R173). -/
def State.cvtOp (s : State) (c : Ctl) (rm : BitVec 3) (d a : BitVec 6) (sty dty : BitVec 4) (sat : Bool) : Res :=
  s.laneAlu (Uses.cvt c d a sty dty) fun v => v.l.apply c d (tyWidth dty) fun k => convert (v.env rm) sat sty dty (v.a a (tyWidth sty) k)
/-- `vcvt` (R173). -/
def execVcvt (c : Ctl) (rm : BitVec 3) (d a : BitVec 6) (sty dty : BitVec 4) (s : State) : Res := s.cvtOp c rm d a sty dty false
/-- `vcvt.sat` (R173). -/
def execVcvtSat (c : Ctl) (rm : BitVec 3) (d a : BitVec 6) (sty dty : BitVec 4) (s : State) : Res := s.cvtOp c rm d a sty dty true

end Sys2Proof.Machine
end

