-- ==== Sys2Proof/Machine/LanePred.lean ====
section
/-! DEFINITION. Compares and predicate lane words (R174, R175). -/
namespace Sys2Proof.Machine
open Sys2Proof

/-- An integer compare (R174). -/
def State.cmpOp (s : State) (c : Ctl) (pd : BitVec 7) (a : BitVec 6) (x : Src2) (ty : BitVec 4) (f : Int → Int → Bool) : Res :=
  s.laneAlu (Uses.cmp c pd a x ty) fun v =>
    let e := v.e
    v.l.putPred c pd.toNat fun k => f (extInt (v.a a e k) e (tySigned ty)) (extInt (v.b x ty e k) e (tySigned ty))
/-- A float compare (R174): which of `Fmt.cmp`. -/
def State.fcmpOp (s : State) (c : Ctl) (pd : BitVec 7) (a : BitVec 6) (x : Src2) (ty : BitVec 4) (n : Nat) : Res :=
  s.laneAlu (Uses.fcmp c pd a x ty) fun v =>
    let r := fun k => (tyFmt ty).cmp (v.env 0) n (v.a a v.e k) (v.b x ty v.e k)
    { v.l.putPred c pd.toNat fun k => (r k).1 with fpstat := v.l.fpstat ||| v.l.raised c fun k => (r k).2 }

/-- `vcmp.eq` (R174). -/
def execVcmpEq (c : Ctl) (pd : BitVec 7) (a : BitVec 6) (x : Src2) (ty : BitVec 4) (s : State) : Res := s.cmpOp c pd a x ty fun x y => x == y
/-- `vcmp.ne` (R174). -/
def execVcmpNe (c : Ctl) (pd : BitVec 7) (a : BitVec 6) (x : Src2) (ty : BitVec 4) (s : State) : Res := s.cmpOp c pd a x ty fun x y => x != y
/-- `vcmp.lt` (R174). -/
def execVcmpLt (c : Ctl) (pd : BitVec 7) (a : BitVec 6) (x : Src2) (ty : BitVec 4) (s : State) : Res := s.cmpOp c pd a x ty fun x y => x < y
/-- `vcmp.le` (R174). -/
def execVcmpLe (c : Ctl) (pd : BitVec 7) (a : BitVec 6) (x : Src2) (ty : BitVec 4) (s : State) : Res := s.cmpOp c pd a x ty fun x y => x ≤ y
/-- `vcmp.gt` (R174). -/
def execVcmpGt (c : Ctl) (pd : BitVec 7) (a : BitVec 6) (x : Src2) (ty : BitVec 4) (s : State) : Res := s.cmpOp c pd a x ty fun x y => y < x
/-- `vcmp.ge` (R174). -/
def execVcmpGe (c : Ctl) (pd : BitVec 7) (a : BitVec 6) (x : Src2) (ty : BitVec 4) (s : State) : Res := s.cmpOp c pd a x ty fun x y => y ≤ x
/-- `vfcmp.eq` (R174). -/
def execVfcmpEq (c : Ctl) (pd : BitVec 7) (a : BitVec 6) (x : Src2) (ty : BitVec 4) (s : State) : Res := s.fcmpOp c pd a x ty 0
/-- `vfcmp.lt` (R174). -/
def execVfcmpLt (c : Ctl) (pd : BitVec 7) (a : BitVec 6) (x : Src2) (ty : BitVec 4) (s : State) : Res := s.fcmpOp c pd a x ty 1
/-- `vfcmp.le` (R174). -/
def execVfcmpLe (c : Ctl) (pd : BitVec 7) (a : BitVec 6) (x : Src2) (ty : BitVec 4) (s : State) : Res := s.fcmpOp c pd a x ty 2
/-- `vfcmp.unord` (R174). -/
def execVfcmpUnord (c : Ctl) (pd : BitVec 7) (a : BitVec 6) (x : Src2) (ty : BitVec 4) (s : State) : Res := s.fcmpOp c pd a x ty 3

/-- Predicate logic (R175): the bit of each active element. -/
def State.predOp (s : State) (c : Ctl) (pd : BitVec 7) (srcs : List (BitVec 7)) (f : LaneState → Nat → Bool) : Res :=
  s.laneAlu (Uses.pred c pd srcs) fun v => v.l.putPred c pd.toNat (f v.l)

/-- `vpand` (R175). -/
def execVpand (c : Ctl) (pd pa pb : BitVec 7) (s : State) : Res := s.predOp c pd [pa, pb] fun l k => l.pbit pa.toNat k && l.pbit pb.toNat k
/-- `vpor` (R175). -/
def execVpor (c : Ctl) (pd pa pb : BitVec 7) (s : State) : Res := s.predOp c pd [pa, pb] fun l k => l.pbit pa.toNat k || l.pbit pb.toNat k
/-- `vpxor` (R175). -/
def execVpxor (c : Ctl) (pd pa pb : BitVec 7) (s : State) : Res := s.predOp c pd [pa, pb] fun l k => l.pbit pa.toNat k ^^ l.pbit pb.toNat k
/-- `vpandn` (R175). -/
def execVpandn (c : Ctl) (pd pa pb : BitVec 7) (s : State) : Res := s.predOp c pd [pa, pb] fun l k => l.pbit pa.toNat k && !l.pbit pb.toNat k
/-- `vpnot` (R175). -/
def execVpnot (c : Ctl) (pd pa : BitVec 7) (s : State) : Res := s.predOp c pd [pa] fun l k => !l.pbit pa.toNat k
/-- `vpmov` (R175). -/
def execVpmov (c : Ctl) (pd pa : BitVec 7) (s : State) : Res := s.predOp c pd [pa] fun l k => l.pbit pa.toNat k
/-- `vpset` (R175). -/
def execVpset (c : Ctl) (pd : BitVec 7) (s : State) : Res := s.predOp c pd [] fun _ _ => true
/-- `vpclr` (R175). -/
def execVpclr (c : Ctl) (pd : BitVec 7) (s : State) : Res := s.predOp c pd [] fun _ _ => false
/-- The active elements whose bit of a predicate is set. -/
def View.picked (v : View) (c : Ctl) (pa : BitVec 7) : List Nat := (v.l.actives c).filter fun k => v.l.pbit pa.toNat k
/-- `vpcnt` (R175). -/
def execVpcnt (c : Ctl) (d : BitVec 6) (pa : BitVec 7) (s : State) : Res :=
  s.laneScalar (Uses.predScalar c d pa) d fun v => (BitVec.ofNat 64 (v.picked c pa).length, 0)
/-- `vpfirst` (R175). -/
def execVpfirst (c : Ctl) (d : BitVec 6) (pa : BitVec 7) (s : State) : Res :=
  s.laneScalar (Uses.predScalar c d pa) d fun v =>
    (match (v.picked c pa).head? with | some k => BitVec.ofNat 64 k | none => BitVec.allOnes 64, 0)
/-- `vpfrom` (R175). -/
def execVpfrom (c : Ctl) (pd : BitVec 7) (a : BitVec 6) (ty : BitVec 4) (s : State) : Res :=
  s.laneAlu (Uses.predFrom c pd a ty) fun v => v.l.putPred c pd.toNat fun k => v.a a v.e k != 0
/-- `vpto` (R175). -/
def execVpto (c : Ctl) (d : BitVec 6) (pa : BitVec 7) (ty : BitVec 4) (s : State) : Res :=
  s.laneAlu (Uses.predTo c d pa ty) fun v => v.l.putGroup c d.toNat v.e fun k => bitNat (v.l.pbit pa.toNat k)

end Sys2Proof.Machine
end

