-- ==== Sys2Proof/Machine/LaneMove.lean ====
section
/-! DEFINITION. Moves, reductions, scans and permutes (R176 to R179). -/
namespace Sys2Proof.Machine
open Sys2Proof

/-- `vmv` (R176). -/
def execVmv (c : Ctl) (d : BitVec 6) (x : Src2) (ty : BitVec 4) (s : State) : Res :=
  s.laneAlu (Uses.mv c d x ty) fun v => v.l.putGroup c d.toNat v.e fun k => v.b x ty v.e k
/-- `vmerge` (R176): every present element below VL is written. -/
def execVmerge (c : Ctl) (d a : BitVec 6) (x : Src2) (ty : BitVec 4) (s : State) : Res :=
  s.laneAlu (Uses.merge c d a x ty) fun v =>
    if v.l.vl = 0 then v.l
    else (List.range v.t.vlmax).foldl (fun l k => match v.l.cls c k with
      | .active => l.setElem d.toNat v.e k (v.b x ty v.e k)
      | .masked => l.setElem d.toNat v.e k (v.a a v.e k)
      | k' => if v.l.fills k' then l.setElem d.toNat v.e k (2 ^ v.e - 1) else l) v.l
/-- `vid` (R176). -/
def execVid (c : Ctl) (d : BitVec 6) (ty : BitVec 4) (s : State) : Res :=
  s.laneAlu (Uses.vid c d ty) fun v => v.l.putGroup c d.toNat v.e fun k => k % 2 ^ v.e
/-- An E-bit result widened to 64 bits by a type (R176, R177). -/
def extWord (x e : Nat) (ty : BitVec 4) : Word := BitVec.ofInt 64 (extInt x e (tySigned ty))
/-- `vmvx` (R176). -/
def execVmvx (_ : Bool) (d a : BitVec 6) (ty : BitVec 4) (s : State) : Res :=
  s.laneScalar (Uses.mvx d a ty) d fun v => (extWord (v.a a v.e 0) v.e ty, 0)

/-- An integer reduction: the fold of the active elements from a first value (R177). -/
def State.redOp (s : State) (c : Ctl) (d a : BitVec 6) (ty : BitVec 4) (start : Nat → Nat) (f : Nat → Nat → Nat → Nat) : Res :=
  s.laneScalar (Uses.red c d a ty) d fun v =>
    (extWord ((v.l.actives c).foldl (fun x k => f v.e x (v.a a v.e k)) (start v.e)) v.e ty, 0)
/-- The greatest pattern of a type at E. -/
def topInt (sg : Bool) (e : Nat) : Nat := if sg then 2 ^ (e - 1) - 1 else 2 ^ e - 1
/-- The least pattern of a type at E. -/
def lowInt (sg : Bool) (e : Nat) : Nat := if sg then 2 ^ (e - 1) else 0
/-- `vredsum` (R177). -/
def execVredsum (c : Ctl) (d a : BitVec 6) (ty : BitVec 4) (s : State) : Res := s.redOp c d a ty (fun _ => 0) fun e x y => (x + y) % 2 ^ e
/-- `vredmin` (R177). -/
def execVredmin (c : Ctl) (d a : BitVec 6) (ty : BitVec 4) (s : State) : Res := s.redOp c d a ty (fun e => topInt (tySigned ty) e) fun e x y => pickInt false (tySigned ty) e x y
/-- `vredmax` (R177). -/
def execVredmax (c : Ctl) (d a : BitVec 6) (ty : BitVec 4) (s : State) : Res := s.redOp c d a ty (fun e => lowInt (tySigned ty) e) fun e x y => pickInt true (tySigned ty) e x y
/-- `vredand` (R177). -/
def execVredand (c : Ctl) (d a : BitVec 6) (ty : BitVec 4) (s : State) : Res := s.redOp c d a ty (fun e => 2 ^ e - 1) fun _ x y => x &&& y
/-- `vredor` (R177). -/
def execVredor (c : Ctl) (d a : BitVec 6) (ty : BitVec 4) (s : State) : Res := s.redOp c d a ty (fun _ => 0) fun _ x y => x ||| y
/-- `vredxor` (R177). -/
def execVredxor (c : Ctl) (d a : BitVec 6) (ty : BitVec 4) (s : State) : Res := s.redOp c d a ty (fun _ => 0) fun _ x y => x ^^^ y

/-- The running values of a left-to-right sum (R126): the first element entered, each further one added; with the element and the flags so far. -/
def sumRuns (f : Fmt) (v : FpEnv) : List (Nat × Nat) → List (Nat × Nat × Flags) :=
  fun xs => (xs.foldl (fun (acc : Option (Nat × Flags) × List (Nat × Nat × Flags)) p =>
    let r := match acc.1 with
      | none => f.enter v p.2
      | some (y, fl) => let q := f.add v y p.2; (q.1, fl ||| q.2)
    (some r, acc.2 ++ [(p.1, r.1, r.2)])) (none, [])).2
/-- The active elements of a group with their indices. -/
def View.activeVals (v : View) (c : Ctl) (a : BitVec 6) : List (Nat × Nat) := (v.l.actives c).map fun k => (k, v.a a v.e k)
/-- `vfredsum` (R177). -/
def execVfredsum (c : Ctl) (rm : BitVec 3) (d a : BitVec 6) (ty : BitVec 4) (s : State) : Res :=
  s.laneScalar (Uses.fred c d a ty true) d fun v =>
    match (sumRuns (tyFmt ty) (v.env rm) (v.activeVals c a)).getLast? with
    | some r => (BitVec.ofNat 64 r.2.1, r.2.2)
    | none => (0, 0)
/-- A float fold by min or max (R177). -/
def State.fredOp (s : State) (c : Ctl) (d a : BitVec 6) (ty : BitVec 4) (isMax : Bool) : Res :=
  s.laneScalar (Uses.fred c d a ty false) d fun v =>
    let f := tyFmt ty
    let r := (v.activeVals c a).foldl (fun (acc : Option (Nat × Flags)) p =>
      match acc with
      | none => some (f.enter (v.env 0) p.2)
      | some (y, fl) => let q := f.minMax (v.env 0) isMax y p.2; some (q.1, fl ||| q.2)) none
    match r with
    | some (y, fl) => (BitVec.ofNat 64 y, fl)
    | none => (BitVec.ofNat 64 (f.infinity isMax), 0)
/-- `vfredmin` (R177). -/
def execVfredmin (c : Ctl) (d a : BitVec 6) (ty : BitVec 4) (s : State) : Res := s.fredOp c d a ty false
/-- `vfredmax` (R177). -/
def execVfredmax (c : Ctl) (d a : BitVec 6) (ty : BitVec 4) (s : State) : Res := s.fredOp c d a ty true

/-- The value listed for an element. -/
def valueAt (l : List (Nat × Nat)) (k : Nat) : Nat := ((l.find? fun p => p.1 == k).map (·.2)).getD 0
/-- The running values of an integer fold over the active elements. -/
def intRuns (f : Nat → Nat → Nat) (xs : List (Nat × Nat)) : List (Nat × Nat) :=
  (xs.foldl (fun (acc : Option Nat × List (Nat × Nat)) p =>
    let r := match acc.1 with | none => p.2 | some y => f y p.2
    (some r, acc.2 ++ [(p.1, r)])) (none, [])).2
/-- An integer scan (R178). -/
def State.scanOp (s : State) (c : Ctl) (d a : BitVec 6) (ty : BitVec 4) (f : Nat → Nat → Nat → Nat) : Res :=
  s.laneAlu (Uses.scan c d a ty) fun v =>
    let rs := intRuns (f v.e) (v.activeVals c a)
    v.l.putGroup c d.toNat v.e (valueAt rs)
/-- `vscan.add` (R178). -/
def execVscanAdd (c : Ctl) (d a : BitVec 6) (ty : BitVec 4) (s : State) : Res := s.scanOp c d a ty fun e x y => (x + y) % 2 ^ e
/-- `vscan.min` (R178). -/
def execVscanMin (c : Ctl) (d a : BitVec 6) (ty : BitVec 4) (s : State) : Res := s.scanOp c d a ty fun e x y => pickInt false (tySigned ty) e x y
/-- `vscan.max` (R178). -/
def execVscanMax (c : Ctl) (d a : BitVec 6) (ty : BitVec 4) (s : State) : Res := s.scanOp c d a ty fun e x y => pickInt true (tySigned ty) e x y
/-- `vfscan.add` (R178). -/
def execVfscanAdd (c : Ctl) (rm : BitVec 3) (d a : BitVec 6) (ty : BitVec 4) (s : State) : Res :=
  s.laneAlu (Uses.fscan c d a ty) fun v =>
    let rs := sumRuns (tyFmt ty) (v.env rm) (v.activeVals c a)
    let fl := match rs.getLast? with | some r => r.2.2 | none => 0
    { v.l.putGroup c d.toNat v.e (valueAt (rs.map fun r => (r.1, r.2.1))) with fpstat := v.l.fpstat ||| fl }

/-- The second source of a permute, unsigned at E (R89, R179). -/
def View.off (v : View) (x : Src2) (ty : BitVec 4) (k : Nat) : Nat := src2Val x v.l v.run.snap ty v.e true k
/-- A permute: each active element (R179). -/
def State.permOp (s : State) (c : Ctl) (d : BitVec 6) (u : VT → Uses) (f : View → Nat → Nat) : Res :=
  s.laneAlu u fun v => v.l.putGroup c d.toNat v.e (f v)
/-- Element i of a group, 0 at and above VLMAX. -/
def View.pick (v : View) (a : BitVec 6) (i : Nat) : Nat := if i < v.t.vlmax then v.a a v.e i else 0
/-- `vshup` (R179). -/
def execVshup (c : Ctl) (d a : BitVec 6) (x : Src2) (e : BitVec 6) (ty : BitVec 4) (s : State) : Res :=
  s.permOp c d (Uses.perm c d a (some x) (some e) ty false) fun v k =>
    if v.off x ty k ≤ k then v.a a v.e (k - v.off x ty k) else v.a e v.e k
/-- `vshdn` (R179). -/
def execVshdn (c : Ctl) (d a : BitVec 6) (x : Src2) (e : BitVec 6) (ty : BitVec 4) (s : State) : Res :=
  s.permOp c d (Uses.perm c d a (some x) (some e) ty false) fun v k =>
    let j := k + v.off x ty k
    if j < v.l.vl then v.a a v.e j else v.pick e (j - v.l.vl)
/-- `vpick` (R179). -/
def execVpick (c : Ctl) (d a : BitVec 6) (x : Src2) (ty : BitVec 4) (s : State) : Res :=
  s.permOp c d (Uses.perm c d a (some x) none ty true) fun v k => v.pick a (v.off x ty k)
/-- `vxchg` (R179). -/
def execVxchg (c : Ctl) (d a : BitVec 6) (x : Src2) (ty : BitVec 4) (s : State) : Res :=
  s.permOp c d (Uses.perm c d a (some x) none ty true) fun v k => v.pick a (k ^^^ v.off x ty k)
/-- `vbcast` (R179). -/
def execVbcast (c : Ctl) (d a : BitVec 6) (x : Src2) (ty : BitVec 4) (s : State) : Res :=
  s.permOp c d (Uses.perm c d a (some x) none ty false) fun v k => v.pick a (v.off x ty k)
/-- `vrev` (R179). -/
def execVrev (c : Ctl) (d a : BitVec 6) (ty : BitVec 4) (s : State) : Res :=
  s.permOp c d (Uses.perm c d a none none ty true) fun v k => v.a a v.e (v.l.vl - 1 - k)
/-- `vpack` (R179): the guard chooses sources; positions after the last one written are tail elements. -/
def execVpack (c : Ctl) (d a : BitVec 6) (ty : BitVec 4) (s : State) : Res :=
  s.laneAlu (Uses.perm c d a none none ty true) fun v =>
    if v.l.vl = 0 then v.l
    else
      let srcs := v.l.actives c
      let places := (List.range v.t.vlmax).filter v.l.isPresent
      let l1 := (places.zip srcs).foldl (fun l p => l.setElem d.toNat v.e p.1 (v.a a v.e p.2)) v.l
      if v.t.tfill then (places.drop srcs.length).foldl (fun l k => l.setElem d.toNat v.e k (2 ^ v.e - 1)) l1 else l1

end Sys2Proof.Machine
end

