-- ==== Sys2Proof/Machine/EdgeBlock.lean ====
section
/-! DEFINITION. The edge register block as the service cores and the host read and write it, and queue doorbells (R347 to R349, R366). -/
namespace Sys2Proof.Machine
open Sys2Proof

/-- The register at a queue descriptor's word (R348). -/
def Queue.reg (q : Queue) : Nat → Word
  | 0 => q.w0
  | 1 => q.w1
  | 2 => q.head.setWidth 64
  | 3 => q.tail.setWidth 64
  | 4 => q.capTable
  | _ => 0

/-- A queue descriptor's word written (R348). Words 5 to 7 are reserved. Opening a queue clears the mark that a doorbell left. -/
def Queue.setReg (q : Queue) (i : Nat) (v : Word) : Queue :=
  match i with
  | 0 => { q with w0 := v, broken := q.broken && !v.getLsbD 63 }
  | 1 => { q with w1 := v &&& 0x1FFFF }
  | 2 => { q with head := v.setWidth 32 }
  | 3 => { q with tail := v.setWidth 32 }
  | 4 => { q with capTable := v &&& 0xFFFFFFFFFFFFF000 }
  | _ => q

/-- The 64-bit register at an 8-aligned offset, as a service core reads it; an unlisted offset reads zero (R347). -/
def State.edgeReg (s : State) (off : Nat) : Word :=
  if off = 0 then s.edge.bootstat
  else if off = 8 then s.edge.fwver
  else if 0x1000 ≤ off ∧ off < 0x5000 then (s.queue ((off - 0x1000) / 64)).reg ((off - 0x1000) % 64 / 8)
  else if off = 0x6000 then vget s.edge.ethslot 0
  else if off = 0x6008 then vget s.edge.ethslot 1
  else if off = 0x6100 then s.edge.ethlport
  else if off = 0x7000 then s.edge.wltopo
  else 0

/-- The register at an offset as the host reads it over BAR0 (R347). -/
def State.edgeHostReg (s : State) (off : Nat) : Word := if off = 0 ∨ off = 8 ∨ off = 0x7000 then s.edgeReg off else 0

/-- A doorbell value written to `QDB` q (R349). A value out of order breaks the queue and tells the kernel, at cluster 0. -/
def State.doorbell (s : State) (q : Nat) (v : BitVec 32) : State :=
  let d := s.queue q
  if !d.isOpen then s
  else if d.depth < (v - d.head).toNat ∨ 2 ^ 31 ≤ (v - d.tail).toNat then
    (s.modQueue q fun d => { d.close with broken := true }).event 0 13 0 0 (BitVec.ofNat 64 q)
  else
    let s1 := s.modQueue q fun d => { d with tail := v }
    let new := mapGetD s1.disp.posts q [] ++ List.replicate (v - d.tail).toNat ⟨192, none, none⟩
    { s1 with disp := { s1.disp with posts := mapSet s1.disp.posts q new } }

/-- A service core's write of a register (R347). Of `BOOTSTAT` the kernel sets [4], running (R346 step 6); the fused
    security count is then raised, if the configuration asks for it. -/
def State.setEdgeReg (s : State) (off : Nat) (v : Word) : State :=
  if off = 0 then
    { s with edge := { s.edge with bootstat := (s.edge.bootstat &&& ~~~0x10) ||| (v &&& 0x10) },
             boot := { s.boot with fused := if v.getLsbD 4 ∧ Config.raisesFuse s.edge.fwver then max s.boot.fused (s.edge.fwver.toNat % 256) else s.boot.fused } }
  else if 0x1000 ≤ off ∧ off < 0x5000 then
    let q := (off - 0x1000) / 64
    let s1 := s.modQueue q fun d => d.setReg ((off - 0x1000) % 64 / 8) v
    if (off - 0x1000) % 64 / 8 = 0 ∧ v.getLsbD 63 ∧ !(s.queue q).isOpen then { s1 with disp := { s1.disp with posts := mapDel s1.disp.posts q } } else s1
  else if 0x5000 ≤ off ∧ off < 0x5800 then s.doorbell ((off - 0x5000) / 8) (v.setWidth 32)
  else if off = 0x6000 then { s with edge := { s.edge with ethslot := vset s.edge.ethslot 0 (v &&& 0xFFFFFFFFFFFFFF80) } }
  else if off = 0x6008 then { s with edge := { s.edge with ethslot := vset s.edge.ethslot 1 (v &&& 0xFFFFFFFFFFFFFF80) } }
  else if off = 0x6100 then { s with edge := { s.edge with ethlport := v &&& 0xFFFF } }
  else if off = 0x7000 then { s with edge := { s.edge with wltopo := v &&& 0x3FFFFF } }
  else s

/-- Whether a key lies in the edge register block. -/
def isEdge (k : Nat) : Bool := Config.edgeBase ≤ k && k < 2 ^ 52

/-- n bytes at a key as a number, the edge block's registers included; an access narrower than a register takes its bytes of it. -/
def State.loadNat (s : State) (k n : Nat) : Nat :=
  if isEdge k then ((s.edgeReg ((k - Config.edgeBase) / 8 * 8)).toNat >>> (8 * (k % 8))) % 2 ^ (8 * n) else s.readNat k n

/-- A number stored in n bytes at a key, the edge block's registers included; a store narrower than a register keeps its other bytes. -/
def State.storeNat (s : State) (k n x : Nat) : State :=
  if isEdge k then
    let off := (k - Config.edgeBase) / 8 * 8
    let sh := 8 * (k % 8)
    let m := (2 ^ (8 * n) - 1) <<< sh
    s.setEdgeReg off ((s.edgeReg off &&& ~~~(BitVec.ofNat 64 m)) ||| BitVec.ofNat 64 (x % 2 ^ (8 * n) <<< sh))
  else s.writeNat k n x

/-- A host's write discarded and counted; the count saturates (R347, R413). -/
def State.hostDiscard (s : State) : State := { s with edge := { s.edge with hostDiscards := min (2 ^ 64 - 1) (s.edge.hostDiscards + 1) } }

/-- `QUEUE_DOORBELL` (R349): from a service core, or from the host, whose doorbells of queues it does not own are discarded and counted. -/
def execQueueDoorbell (host : Bool) (queue : Nat) (v : BitVec 32) (s : State) : Res :=
  if 256 ≤ queue then .next s
  else if host && !(s.queue queue).hostOwned then .next s.hostDiscard
  else .next (s.doorbell queue v)

end Sys2Proof.Machine
end

