-- ==== Sys2Proof/Machine/ScalarAlu.lean ====
section
/-! DEFINITION. Integer arithmetic and logic, branches and jumps of the scalar stream (R129, R130, R136, R137). -/
namespace Sys2Proof.Machine
open Sys2Proof

/-- 1 or 0. -/
def flag (b : Bool) : Word := if b then 1 else 0
/-- Leading zeros of an n-bit pattern. -/
def clzNat (x n : Nat) : Nat := ((List.range n).find? fun i => x.testBit (n - 1 - i)).getD n
/-- Trailing zeros of an n-bit pattern. -/
def ctzNat (x n : Nat) : Nat := ((List.range n).find? fun i => x.testBit i).getD n
/-- Set bits of an n-bit pattern. -/
def popNat (x n : Nat) : Nat := ((List.range n).filter fun i => x.testBit i).length

/-- `add` (R129). -/
def execAdd (d a b : BitVec 6) (s : State) : Res := s.aluOp d [a, b] fun s => let x := s.x a; let y := s.x b; x + y

/-- `sub` (R129). -/
def execSub (d a b : BitVec 6) (s : State) : Res := s.aluOp d [a, b] fun s => let x := s.x a; let y := s.x b; x - y

/-- `and` (R129). -/
def execAnd (d a b : BitVec 6) (s : State) : Res := s.aluOp d [a, b] fun s => let x := s.x a; let y := s.x b; x &&& y

/-- `or` (R129). -/
def execOr (d a b : BitVec 6) (s : State) : Res := s.aluOp d [a, b] fun s => let x := s.x a; let y := s.x b; x ||| y

/-- `xor` (R129). -/
def execXor (d a b : BitVec 6) (s : State) : Res := s.aluOp d [a, b] fun s => let x := s.x a; let y := s.x b; x ^^^ y

/-- `andn` (R129). -/
def execAndn (d a b : BitVec 6) (s : State) : Res := s.aluOp d [a, b] fun s => let x := s.x a; let y := s.x b; x &&& ~~~y

/-- `sll` (R129). -/
def execSll (d a b : BitVec 6) (s : State) : Res := s.aluOp d [a, b] fun s => let x := s.x a; let y := s.x b; x <<< bitsOf y.toNat 5 0

/-- `srl` (R129). -/
def execSrl (d a b : BitVec 6) (s : State) : Res := s.aluOp d [a, b] fun s => let x := s.x a; let y := s.x b; x >>> bitsOf y.toNat 5 0

/-- `sra` (R129). -/
def execSra (d a b : BitVec 6) (s : State) : Res := s.aluOp d [a, b] fun s => let x := s.x a; let y := s.x b; x.sshiftRight (bitsOf y.toNat 5 0)

/-- `mul` (R129). -/
def execMul (d a b : BitVec 6) (s : State) : Res := s.aluOp d [a, b] fun s => let x := s.x a; let y := s.x b; x * y

/-- `mulhS64` (R129). -/
def execMulhS64 (d a b : BitVec 6) (s : State) : Res := s.aluOp d [a, b] fun s => let x := s.x a; let y := s.x b; BitVec.ofNat 64 (mulhS x.toNat y.toNat 64)

/-- `mulhZ64` (R129). -/
def execMulhZ64 (d a b : BitVec 6) (s : State) : Res := s.aluOp d [a, b] fun s => let x := s.x a; let y := s.x b; BitVec.ofNat 64 (mulhZ x.toNat y.toNat 64)

/-- `divS64` (R129). -/
def execDivS64 (d a b : BitVec 6) (s : State) : Res := s.aluOp d [a, b] fun s => let x := s.x a; let y := s.x b; BitVec.ofNat 64 (divS x.toNat y.toNat 64)

/-- `divZ64` (R129). -/
def execDivZ64 (d a b : BitVec 6) (s : State) : Res := s.aluOp d [a, b] fun s => let x := s.x a; let y := s.x b; BitVec.ofNat 64 (divZ x.toNat y.toNat 64)

/-- `remS64` (R129). -/
def execRemS64 (d a b : BitVec 6) (s : State) : Res := s.aluOp d [a, b] fun s => let x := s.x a; let y := s.x b; BitVec.ofNat 64 (remS x.toNat y.toNat 64)

/-- `remZ64` (R129). -/
def execRemZ64 (d a b : BitVec 6) (s : State) : Res := s.aluOp d [a, b] fun s => let x := s.x a; let y := s.x b; BitVec.ofNat 64 (remZ x.toNat y.toNat 64)

/-- `minS64` (R129). -/
def execMinS64 (d a b : BitVec 6) (s : State) : Res := s.aluOp d [a, b] fun s => let x := s.x a; let y := s.x b; if x.slt y then x else y

/-- `minZ64` (R129). -/
def execMinZ64 (d a b : BitVec 6) (s : State) : Res := s.aluOp d [a, b] fun s => let x := s.x a; let y := s.x b; if x.ult y then x else y

/-- `maxS64` (R129). -/
def execMaxS64 (d a b : BitVec 6) (s : State) : Res := s.aluOp d [a, b] fun s => let x := s.x a; let y := s.x b; if x.slt y then y else x

/-- `maxZ64` (R129). -/
def execMaxZ64 (d a b : BitVec 6) (s : State) : Res := s.aluOp d [a, b] fun s => let x := s.x a; let y := s.x b; if x.ult y then y else x

/-- `sltS64` (R129). -/
def execSltS64 (d a b : BitVec 6) (s : State) : Res := s.aluOp d [a, b] fun s => let x := s.x a; let y := s.x b; flag (x.slt y)

/-- `sltZ64` (R129). -/
def execSltZ64 (d a b : BitVec 6) (s : State) : Res := s.aluOp d [a, b] fun s => let x := s.x a; let y := s.x b; flag (x.ult y)

/-- `seq` (R129). -/
def execSeq (d a b : BitVec 6) (s : State) : Res := s.aluOp d [a, b] fun s => let x := s.x a; let y := s.x b; flag (x == y)

/-- `sne` (R129). -/
def execSne (d a b : BitVec 6) (s : State) : Res := s.aluOp d [a, b] fun s => let x := s.x a; let y := s.x b; flag (x != y)

/-- `clz` (R129). -/
def execClz (d a : BitVec 6) (s : State) : Res := s.aluOp d [a] fun s => let x := s.x a; BitVec.ofNat 64 (clzNat x.toNat 64)

/-- `ctz` (R129). -/
def execCtz (d a : BitVec 6) (s : State) : Res := s.aluOp d [a] fun s => let x := s.x a; BitVec.ofNat 64 (ctzNat x.toNat 64)

/-- `popc` (R129). -/
def execPopc (d a : BitVec 6) (s : State) : Res := s.aluOp d [a] fun s => let x := s.x a; BitVec.ofNat 64 (popNat x.toNat 64)

/-- `sextS8` (R129). -/
def execSextS8 (d a : BitVec 6) (s : State) : Res := s.aluOp d [a] fun s => let x := s.x a; (x.setWidth 8).signExtend 64

/-- `sextS16` (R129). -/
def execSextS16 (d a : BitVec 6) (s : State) : Res := s.aluOp d [a] fun s => let x := s.x a; (x.setWidth 16).signExtend 64

/-- `sextS32` (R129). -/
def execSextS32 (d a : BitVec 6) (s : State) : Res := s.aluOp d [a] fun s => let x := s.x a; (x.setWidth 32).signExtend 64

/-- `zextZ8` (R129). -/
def execZextZ8 (d a : BitVec 6) (s : State) : Res := s.aluOp d [a] fun s => let x := s.x a; (x.setWidth 8).setWidth 64

/-- `zextZ16` (R129). -/
def execZextZ16 (d a : BitVec 6) (s : State) : Res := s.aluOp d [a] fun s => let x := s.x a; (x.setWidth 16).setWidth 64

/-- `zextZ32` (R129). -/
def execZextZ32 (d a : BitVec 6) (s : State) : Res := s.aluOp d [a] fun s => let x := s.x a; (x.setWidth 32).setWidth 64

/-- `addi` (R130). -/
def execAddi (d a : BitVec 6) (i : BitVec 14) (s : State) : Res := s.aluOp d [a] fun s => let x := s.x a; x + i.signExtend 64

/-- `andi` (R130). -/
def execAndi (d a : BitVec 6) (i : BitVec 14) (s : State) : Res := s.aluOp d [a] fun s => let x := s.x a; x &&& i.signExtend 64

/-- `ori` (R130). -/
def execOri (d a : BitVec 6) (i : BitVec 14) (s : State) : Res := s.aluOp d [a] fun s => let x := s.x a; x ||| i.signExtend 64

/-- `xori` (R130). -/
def execXori (d a : BitVec 6) (i : BitVec 14) (s : State) : Res := s.aluOp d [a] fun s => let x := s.x a; x ^^^ i.signExtend 64

/-- `sltiS64` (R130). -/
def execSltiS64 (d a : BitVec 6) (i : BitVec 14) (s : State) : Res := s.aluOp d [a] fun s => let x := s.x a; flag (x.slt (i.signExtend 64))

/-- `sltiZ64` (R130). -/
def execSltiZ64 (d a : BitVec 6) (i : BitVec 14) (s : State) : Res := s.aluOp d [a] fun s => let x := s.x a; flag (x.ult (i.signExtend 64))

/-- `sethi` (R130). -/
def execSethi (d a : BitVec 6) (i : BitVec 14) (s : State) : Res := s.aluOp d [a] fun s => let x := s.x a; (x <<< 14) ||| i.setWidth 64

/-- `slli` (R130). -/
def execSlli (d a n : BitVec 6) (s : State) : Res := s.aluOp d [a] fun s => let x := s.x a; x <<< n.toNat

/-- `srli` (R130). -/
def execSrli (d a n : BitVec 6) (s : State) : Res := s.aluOp d [a] fun s => let x := s.x a; x >>> n.toNat

/-- `srai` (R130). -/
def execSrai (d a n : BitVec 6) (s : State) : Res := s.aluOp d [a] fun s => let x := s.x a; x.sshiftRight n.toNat

/-! ### Branches and jumps -/

/-- A branch (R136): to pc + 4 × offset where the test of s[a] and s[b] holds, to pc + 4 otherwise. -/
def State.branch (s : State) (a b : BitVec 6) (off : BitVec 14) (test : Word → Word → Bool) : Res :=
  s.scalarOp [a, b] [] fun s => .next (if test (s.x a) (s.x b) then s.jump (s.pc + 4 * off.signExtend 64) else s.advance)

/-- `beq` (R136). -/
def execBeq (a b : BitVec 6) (off : BitVec 14) (s : State) : Res := s.branch a b off fun x y => x == y
/-- `bne` (R136). -/
def execBne (a b : BitVec 6) (off : BitVec 14) (s : State) : Res := s.branch a b off fun x y => x != y
/-- `blt.s64` (R136). -/
def execBltS64 (a b : BitVec 6) (off : BitVec 14) (s : State) : Res := s.branch a b off fun x y => x.slt y
/-- `bge.s64` (R136). -/
def execBgeS64 (a b : BitVec 6) (off : BitVec 14) (s : State) : Res := s.branch a b off fun x y => !x.slt y
/-- `blt.z64` (R136). -/
def execBltZ64 (a b : BitVec 6) (off : BitVec 14) (s : State) : Res := s.branch a b off fun x y => x.ult y
/-- `bge.z64` (R136). -/
def execBgeZ64 (a b : BitVec 6) (off : BitVec 14) (s : State) : Res := s.branch a b off fun x y => !x.ult y

/-- `j` (R137). -/
def execJ (off : BitVec 26) (s : State) : Res := s.scalarOp [] [] fun s => .next (s.jump (s.pc + 4 * off.signExtend 64))
/-- `jal` (R137): s15 takes the link value. -/
def execJal (off : BitVec 26) (s : State) : Res :=
  s.scalarOp [15] [] fun s => .next ((s.setX 15 (s.pc + 4)).jump (s.pc + 4 * off.signExtend 64))
/-- `jr` (R137). -/
def execJr (a : BitVec 6) (s : State) : Res := s.scalarOp [a] [] fun s => .next (s.jump (s.x a))
/-- `jalr` (R137): the target is read before the link value is written. -/
def execJalr (d a : BitVec 6) (s : State) : Res := s.scalarOp [d, a] [] fun s => .next ((s.setX d (s.pc + 4)).jump (s.x a))

end Sys2Proof.Machine
end

