-- ==== Sys2Proof/Machine/ScalarMem.lean ====
section
/-! DEFINITION. Scalar loads, stores, capability loads and stores, atomics and fences (R128, R131 to R135, R158, R229, R252). -/
namespace Sys2Proof.Machine
open Sys2Proof

/-- A scalar load of n bytes at x into s[d] (R131): the value is taken at issue and lands when the load returns. -/
def State.loadAt (s : State) (d : BitVec 6) (c : Cap) (x n : Nat) (sx : Bool) : Res :=
  if 255 ≤ s.hart.ld then .next s
  else s.accessOp (.load c x n) fun k s =>
    let v := s.loadNat k n
    let y := BitVec.ofNat 64 (if sx then wrapInt (sextNat v (8 * n)) 64 else v)
    .next (((s.wlSend s.who s.nextId k (.read n)).pend true (if d = 0 then [] else [.s d.toNat]) [] (if d = 0 then [] else [.s d.toNat y]) false).advance)

/-- A scalar store of n bytes of s[d] at x (R131), and its tag cleared (R73). A release waits for every earlier access (R132). A register of the edge block is
    written as such (R347). -/
def State.storeAt (s : State) (d : BitVec 6) (c : Cap) (x n : Nat) (rel : Bool) : Res :=
  if 255 ≤ s.hart.st ∨ (rel ∧ !s.drained) then .next s
  else s.accessOp (.store c x n) fun k s =>
    if isEdge k then .next (((s.storeNat k n (s.x d).toNat).pend false [] [] [] false).advance)
    else
      let bs := leBytes n (s.x d).toNat
      .next (s.storeOp ⟨k, .put bs⟩ (.write bs [])).advance

/-- cursor(c[a]) + a displacement, modulo 2^64. -/
def Cap.at' (c : Cap) (disp : Word) : Nat := (c.cursor + disp).toNat

/-- The displacement loads. -/
def State.loadDisp (s : State) (d : BitVec 6) (a : BitVec 5) (imm : BitVec 14) (n : Nat) (sx : Bool) : Res :=
  s.scalarOp [d] [a] fun s => s.loadAt d (s.c a) ((s.c a).at' (imm.signExtend 64)) n sx
/-- The displacement stores. -/
def State.storeDisp (s : State) (d : BitVec 6) (a : BitVec 5) (imm : BitVec 14) (n : Nat) : Res :=
  s.scalarOp [d] [a] fun s => s.storeAt d (s.c a) ((s.c a).at' (imm.signExtend 64)) n false

/-- `ld.z8` (R131). -/
def execLdZ8 (d : BitVec 6) (a : BitVec 5) (imm : BitVec 14) (s : State) : Res := s.loadDisp d a imm 1 false
/-- `ld.z16` (R131). -/
def execLdZ16 (d : BitVec 6) (a : BitVec 5) (imm : BitVec 14) (s : State) : Res := s.loadDisp d a imm 2 false
/-- `ld.z32` (R131). -/
def execLdZ32 (d : BitVec 6) (a : BitVec 5) (imm : BitVec 14) (s : State) : Res := s.loadDisp d a imm 4 false
/-- `ld.b64` (R131). -/
def execLdB64 (d : BitVec 6) (a : BitVec 5) (imm : BitVec 14) (s : State) : Res := s.loadDisp d a imm 8 false
/-- `ld.s8` (R131). -/
def execLdS8 (d : BitVec 6) (a : BitVec 5) (imm : BitVec 14) (s : State) : Res := s.loadDisp d a imm 1 true
/-- `ld.s16` (R131). -/
def execLdS16 (d : BitVec 6) (a : BitVec 5) (imm : BitVec 14) (s : State) : Res := s.loadDisp d a imm 2 true
/-- `ld.s32` (R131). -/
def execLdS32 (d : BitVec 6) (a : BitVec 5) (imm : BitVec 14) (s : State) : Res := s.loadDisp d a imm 4 true
/-- `st.z8` (R131). -/
def execStZ8 (d : BitVec 6) (a : BitVec 5) (imm : BitVec 14) (s : State) : Res := s.storeDisp d a imm 1
/-- `st.z16` (R131). -/
def execStZ16 (d : BitVec 6) (a : BitVec 5) (imm : BitVec 14) (s : State) : Res := s.storeDisp d a imm 2
/-- `st.z32` (R131). -/
def execStZ32 (d : BitVec 6) (a : BitVec 5) (imm : BitVec 14) (s : State) : Res := s.storeDisp d a imm 4
/-- `st.b64` (R131). -/
def execStB64 (d : BitVec 6) (a : BitVec 5) (imm : BitVec 14) (s : State) : Res := s.storeDisp d a imm 8

/-- `ldx` (R132): type codes 0 to 3 zero-extend, 4 to 7 sign-extend. An acquire takes its value at issue, before every later access. -/
def execLdx (d : BitVec 6) (a : BitVec 5) (b : BitVec 6) (_ : Ord) (ty : BitVec 3) (s : State) : Res :=
  s.scalarOp [d, b] [a] fun s => s.loadAt d (s.c a) ((s.c a).at' (s.x b)) (2 ^ (ty.toNat % 4)) (4 ≤ ty.toNat)
/-- `stx` (R132). -/
def execStx (d : BitVec 6) (a : BitVec 5) (b : BitVec 6) (o : Ord) (ty : BitVec 2) (s : State) : Res :=
  s.scalarOp [d, b] [a] fun s => s.storeAt d (s.c a) ((s.c a).at' (s.x b)) (2 ^ ty.toNat) o.on

/-- The address of `lc` and `sc`: the displacement counts granules. -/
def capAddr (c : Cap) (imm : BitVec 14) : Nat := c.at' (16 * imm.signExtend 64)

/-- A capability as a load through an authority delivers it: the tag survives only load-cap and a colour not revoked (R67, R74, R133). -/
def loadedCap (auth v : Cap) (mask : BitVec 256) : Cap := { v with tag := v.tag && auth.has Perm.loadCap && !mask.getLsbD v.colour.toNat }

/-- `lc` (R133). -/
def execLc (d a : BitVec 5) (imm : BitVec 14) (s : State) : Res :=
  s.scalarOp [] [d, a] fun s =>
    if 255 ≤ s.hart.ld then .next s
    else s.accessOp (.load (s.c a) (capAddr (s.c a) imm) 16) fun k s =>
      let v := if isEdge k then Cap.ofBytes (leBytes 8 (s.loadNat k 8) ++ leBytes 8 (s.loadNat (k + 8) 8)) false else s.readCap k
      .next (((s.wlSend s.who s.nextId k (.read 16)).pend true [.c d.toNat] [] [.c d.toNat (loadedCap (s.c a) v s.who.mask)] false).advance)

/-- Whether a capability is stored with its tag: tagged, and of a colour not revoked (R74, R134). -/
def liveCap (v : Cap) (mask : BitVec 256) : Bool := v.tag && !mask.getLsbD v.colour.toNat

/-- Whether a store of a capability lacks a permission that the capability asks for (R67, R134, R186). -/
def State.capShort (s : State) (w : Who) (q auth : Cap) (x : Nat) : Bool :=
  liveCap q w.mask && (!auth.has Perm.storeCap || (!q.has Perm.global && !(auth.has Perm.window && s.inTeamPad w.team (Config.windowKey + x))))

/-- `sc` (R134). -/
def execSc (d a : BitVec 5) (imm : BitVec 14) (s : State) : Res :=
  s.scalarOp [] [d, a] fun s =>
    let x := capAddr (s.c a) imm
    if 255 ≤ s.hart.st then .next s
    else s.accessOpIf (.store (s.c a) x 16) (s.capShort s.who (s.c d) (s.c a) x) fun k s =>
      let c := s.c d
      let live := liveCap c s.who.mask
      if isEdge k then .next ((((s.storeNat k 8 c.toBits.toNat).storeNat (k + 8) 8 (c.toBits.toNat / 2 ^ 64)).pend false [] [] [] false).advance)
      else .next (s.storeOp ⟨k, .cap c live⟩ (.write c.bytes [live])).advance

/-- Whether an operation of R228 raises floating flags. -/
def atomFloat (op : Nat) : Bool := 20 ≤ op

/-- `atom` (R229): checked at issue; performed at its point by an event of its own (R224). With d = 0 no result, counted in st. -/
def execAtom (d : BitVec 6) (a : BitVec 5) (b : BitVec 6) (_ : BitVec 3) (op : BitVec 5) (s : State) : Res :=
  s.scalarOp [d, b] [a] fun s =>
    let n := Uses.atomBytes op.toNat
    let ret := d != 0
    if 255 ≤ (if ret then s.hart.ld else s.hart.st) then .next s
    else s.accessOp (.atomic (s.c a) (s.c a).cursor.toNat n) fun k s =>
      let e : AtomElem := ⟨(s.x b).toNat % 2 ^ (8 * n), (s.x d).toNat % 2 ^ (8 * n), if ret then .s d.toNat (op == 0x0C || op == 0x10) else .none⟩
      let s1 := s.wlSend s.who s.nextId k (.atomic op (BitVec.ofNat 64 e.v) (BitVec.ofNat 64 e.u) ret 0)
      .next ((s1.pend ret (if ret then [.s d.toNat] else []) [⟨k, op.toNat, [e]⟩] [] (ret && atomFloat op.toNat)).advance)

/-! ### Fences -/

/-- `fence.acq` (R158): holds until every earlier load has its data. -/
def execFenceAcq (_ : BitVec 3) (s : State) : Res := s.scalarOp [] [] fun s => .next (if s.hart.ld = 0 then s.advance else s)
/-- `fence.rel` (R37, R158, R251, R259): never holds; later writes wait for what it covers, runs accepted and not issued included, and at `.clu` or wider later
    engine commands do. -/
def execFenceRel (scope : BitVec 3) (s : State) : Res :=
  s.scalarOp [] [] fun s =>
    let s1 := s.modHart fun h => { h with fenced := h.pend.map (·.id) }
    .next (s1.modCurGroup fun g => { g with lane := { g.lane with relRuns := g.lane.runs, fencedRuns := if 2 ≤ scope.toNat then g.lane.runs else g.lane.fencedRuns } }).advance
/-- A fence that holds until every earlier access has completed. -/
def State.fullFence (s : State) : Res := s.scalarOp [] [] fun s => .next (if s.hart.ld = 0 ∧ s.hart.st = 0 then s.advance else s)
/-- `fence.ar` (R158). -/
def execFenceAr (_ : BitVec 3) (s : State) : Res := s.fullFence
/-- `fence.sc` (R158, R253). -/
def execFenceSc (_ : BitVec 3) (s : State) : Res := s.fullFence

end Sys2Proof.Machine
end

