-- ==== Sys2Proof/Machine/LaneMem.lean ====
section
/-! DEFINITION. Lane loads and stores (R70, R71, R181 to R186, R338). -/
namespace Sys2Proof.Machine
open Sys2Proof

/-! ### The elements of a lane access -/

/-- One active element's access: its index, the access, what takes the place of the bounds check if something does (private memory, R185), and
    whether the element lacks a permission that the instruction itself asks for (R186). -/
structure LaneAcc where
  k     : Nat
  acc   : Acc
  limit : Option Bool
  short : Bool
  deriving DecidableEq, Repr

/-- An element's access with nothing special about it. -/
def LaneAcc.plain (k : Nat) (a : Acc) : LaneAcc := ⟨k, a, none, false⟩

/-- Every check of R70 on one element in its order: its key and the TLB entry, or its first cause. -/
def State.laneReach (s : State) (w : Who) (e : LaneAcc) : Except (BitVec 8) (Nat × Option TlbEntry) :=
  let a := e.acc
  match authCause w a.cap a.perms with
  | some c => .error c
  | none =>
    if e.short then .error Cause.capPerm
    else match e.limit with
      | some false => .error Cause.stackLimit
      | lim =>
        if lim.isNone && !a.cap.covers a.x a.n then .error Cause.capBounds
        else if a.x % a.align ≠ 0 then .error Cause.align
        else s.reach w a

/-- The mask of a list of elements. -/
def elemMask (ks : List Nat) : VBits := BitVec.ofNat 2048 ((ks.map fun k => 2 ^ k).sum)

/-- The elements checked one by one (R70): each with its key, and the TLB entries; or the first cause in the order of R70 that any reaches, the
    address of the lowest element with it, and the elements with it. -/
def State.laneChecks (s : State) (w : Who) (es : List LaneAcc) :
    Except (BitVec 8 × Word × VBits) (List (LaneAcc × Nat) × List TlbEntry) :=
  let rs := es.map fun e => (e, s.laneReach w e)
  let bad := rs.filterMap fun r => match r.2 with | .error c => some (r.1, c) | .ok _ => none
  match bad with
  | [] => .ok (rs.filterMap fun r => match r.2 with | .ok (k, _) => some (r.1, k) | .error _ => none,
               rs.flatMap fun r => match r.2 with | .ok (_, t) => t.toList | .error _ => [])
  | b :: bs =>
    let c := bs.foldl (fun c x => if causeRank x.2 < causeRank c then x.2 else c) b.2
    let hit := bad.filter fun x => x.2 == c
    .error (c, BitVec.ofNat 64 ((hit.map fun x => x.1.acc.x).headD 0), elemMask (hit.map fun x => x.1.k))

/-- The elements that hit a watchpoint, each with its comparator (R338). Window accesses never hit. -/
def State.laneHits (s : State) (v : View) (es : List LaneAcc) : List (LaneAcc × Nat) :=
  es.filterMap fun e =>
    if e.acc.cap.has Perm.window then none
    else (s.watch (slotCluster v.slot) v.g.ctx e.acc.rd e.acc.wr e.acc.x e.acc.n).map fun i => (e, i)

/-- Whether the accesses before a lane access, and the link to another package, let it issue: as a scalar access of each element (R266, log entry 7). -/
def State.laneReady (s : State) (v : View) (ks : List (LaneAcc × Nat)) : Bool :=
  s.wlRoomFor (ks.map (·.2)) && ks.all fun p => !v.g.hart.atomsMeet p.2 p.1.acc.n && (!p.1.acc.wr || v.g.hart.fenceDone) && !s.accHeld p.2 p.1.acc.n && (p.1.acc.wr || !s.spoilt p.2 p.1.acc.n)

/-- What follows the checks of a lane access: watchpoints, what it waits for, its effect. -/
def State.laneGo (s : State) (v : View) (ks : List (LaneAcc × Nat)) (ts : List TlbEntry) (body : State → Res) : Res :=
  match s.laneHits v (ks.map (·.1)) with
  | (e, i) :: rest =>
    .next (s.debugStop v.slot true (BitVec.ofNat 5 (16 + i)) (BitVec.ofNat 64 e.acc.x) (elemMask (e.k :: rest.map fun x => x.1.k)))
  | [] => if !s.laneReady v ks then .next s else body (s.fill (slotCluster v.slot) ts)

/-- A lane access: every active element checked; then its effect at their keys. -/
def State.laneAccess (s : State) (u : VT → Uses) (elems : View → List LaneAcc) (body : View → List (LaneAcc × Nat) → State → Res) : Res :=
  s.laneOp u fun v s =>
    match s.laneChecks (s.whoGroup v.slot) (elems v) with
    | .error (c, x, fl) => .next (s.raiseLane v c x fl)
    | .ok (ks, ts) => s.laneGo v ks ts (body v ks)

/-- An operation of a word of slot k's Head run recorded as outstanding; it was counted when its run was accepted (R48). A release fence that came after the
    run covers it (R37, R251). -/
def State.pendLane (s : State) (k : Nat) (p : Pending) : State :=
  { s.modGroup k fun g =>
      let seq := g.lane.queue.head?.map (·.seq)
      { g with hart := { g.hart with
          pend := g.hart.pend ++ [{ p with id := s.nextId, run := seq }],
          fenced := if seq.any (fun n => n < g.lane.relRuns) then g.hart.fenced ++ [s.nextId] else g.hart.fenced } } with
    nextId := s.nextId + 1 }

/-- The requests that the elements of a lane access make of other packages (R266), in the name of the next operation. -/
def State.wlLane (s : State) (k : Nat) (ks : List (LaneAcc × Nat)) (kind : LaneAcc × Nat → RemoteKind) : State :=
  ks.foldl (fun s p => s.wlSend (s.whoGroup k) s.nextId p.2 (kind p)) s

/-- The count of a lane word that completes at issue withdrawn (R48). -/
def State.uncount (s : State) (k : Nat) (ld : Bool) : State :=
  s.modGroup k fun g => { g with hart := if ld then { g.hart with ld := g.hart.ld - 1 } else { g.hart with st := g.hart.st - 1 } }

/-- A lane access issued: outstanding if an element is active, complete otherwise. -/
def State.laneLaunch (s : State) (v : View) (u : VT → Uses) (any : Bool) (p : Pending) : State :=
  (if any then s.pendLane v.slot p else s.uncount v.slot p.ld).laneIssued v (u v.t)

/-- The registers that a word's results will be written to, p0 apart. -/
def Uses.pending (u : Uses) (t : VT) : List RegRef := (u.writes t).filter fun r => r != .p 0

/-! ### Addresses (R182) -/

/-- The capability of element k. -/
def View.auth (v : View) (q : Auth) (k : Nat) : Cap := if q.perLane then v.l.capElem q.k.toNat k else v.run.snap.cap q.k.toNat
/-- A sum of addresses modulo 2^64. -/
def addr64 (x : Int) : Nat := wrapInt x 64
/-- Mode 0 and 3. -/
def View.unit (v : View) (q : Auth) (disp : BitVec 32) (k : Nat) : Nat :=
  addr64 ((v.auth q k).cursor.toNat + disp.toInt + (if q.perLane then 0 else (k * v.e / 8 : Nat)))
/-- Mode 1. -/
def View.strided (v : View) (b k : BitVec 6) (disp : BitVec 32) (i : Nat) : Nat :=
  addr64 ((v.run.snap.cap k.toNat).cursor.toNat + disp.toInt + i * (v.run.snap.x b.toNat).toInt)
/-- Mode 2 and 5. -/
def View.indexed (v : View) (q : Auth) (a : BitVec 6) (k : Nat) : Nat := addr64 ((v.auth q k).cursor.toNat + v.a a v.e k)
/-- The word index of mode 4 (R185). -/
def View.privWord (v : View) (a : BitVec 6) (disp : BitVec 32) (k : Nat) : Int := (v.a a 32 k : Nat) + disp.toInt
/-- Mode 4. -/
def View.privAddr (v : View) (a : BitVec 6) (disp : BitVec 32) (k : Nat) : Nat :=
  addr64 (v.g.priv.cursor.toNat + (v.privWord a disp k * 64 + k) * 4)

/-- The element accesses of an address function, loads or stores of E / 8 bytes. -/
def View.accs (v : View) (c : Ctl) (cap : Nat → Cap) (x : Nat → Nat) (store : Bool) : List LaneAcc :=
  (v.l.actives c).map fun k => .plain k (if store then .store (cap k) (x k) (v.e / 8) else .load (cap k) (x k) (v.e / 8))

/-- The implicit private capability (R185, R278): permissions and colour of the pool's, narrowed to the slot's W × VLEN / 8 bytes; bounds that are not exactly
    representable are rounded outward (R66), and the word test of R185 bounds each access exactly (log entry 35). -/
def Group.privCap (g : Group) : Cap :=
  { mkCap g.priv.perms.toNat g.priv.colour g.priv.cursor.toNat (g.privW * 256) g.priv.cursor with tag := g.priv.tag }

/-- The element accesses of private memory (R185). -/
def View.privAccs (v : View) (c : Ctl) (a : BitVec 6) (disp : BitVec 32) (store : Bool) : List LaneAcc :=
  (v.l.actives c).map fun k =>
    let w := v.privWord a disp k
    ⟨k, if store then .store v.g.privCap (v.privAddr a disp k) 4 else .load v.g.privCap (v.privAddr a disp k) 4, some (decide (0 ≤ w) && decide (w < v.g.privW)), false⟩

/-! ### Loads and stores of elements -/

/-- The place of element k of a group of w-bit elements: register and bit. -/
def elemAt (d : BitVec 6) (w k : Nat) : Nat × Nat := (d.toNat + k * w / 2048, k * w % 2048)

/-- The write of one loaded element, when its data arrives. -/
def loadedElem (s : State) (d : BitVec 6) (p : LaneAcc × Nat) : RegWrite :=
  let w := 8 * p.1.acc.n
  .v (elemAt d w p.1.k).1 (elemAt d w p.1.k).2 w (s.readNat p.2 p.1.acc.n) false

/-- A load of elements (R181): values taken at issue, written when the load returns; masked and tail elements written at issue. -/
def State.laneLoad (s : State) (u : VT → Uses) (c : Ctl) (d : BitVec 6) (elems : View → List LaneAcc) : Res :=
  s.laneAccess u elems fun v ks s =>
    let p : Pending := { Pending.blank true with regs := (u v.t).pending v.t, writes := ks.map (loadedElem s d) }
    .next (((s.wlLane v.slot ks fun p => .read p.1.acc.n).setLane v (v.l.putInactive c d.toNat v.e)).laneLaunch v u (!ks.isEmpty) p)

/-- Writes performed one after another, but for those whose page is being moved, which are left over (R264). -/
def State.performAll (s : State) : List Stall → State × List Stall
  | [] => (s, [])
  | w :: ws =>
    if s.moving w.key w.write.len then let r := State.performAll s ws; (r.1, w :: r.2) else State.performAll (s.perform w) ws

/-- The stores of the active elements, ascending, so that the highest element that writes a byte decides it (R183). -/
def elemStores (val : Nat → Nat) (ks : List (LaneAcc × Nat)) : List Stall := ks.map fun p => ⟨p.2, .put (leBytes p.1.acc.n (val p.1.k))⟩

/-- A lane store issued: its writes performed or stalled, with the requests to other packages. -/
def State.laneStored (s : State) (v : View) (u : VT → Uses) (ks : List (LaneAcc × Nat)) (ws : List Stall) (kind : LaneAcc × Nat → RemoteKind) : State :=
  let r := (s.wlLane v.slot ks kind).performAll ws
  r.1.laneLaunch v u (!ks.isEmpty) { Pending.blank false with stores := r.2 }

/-- A store of elements (R181). A release waits for every earlier access (R132). -/
def State.laneStore (s : State) (u : VT → Uses) (o : Ord) (d : BitVec 6) (elems : View → List LaneAcc) : Res :=
  s.laneAccess u elems fun v ks s =>
    if o.on && !v.g.hart.pend.isEmpty then .next s
    else .next (s.laneStored v u ks (elemStores (v.a d v.e) ks) fun p => .write (leBytes p.1.acc.n (v.a d v.e p.1.k)) [])

/-- `vld` (R182 mode 0). -/
def execVld (c : Ctl) (_ : Ord) (d : BitVec 6) (q : Auth) (disp : BitVec 32) (ty : BitVec 4) (s : State) : Res :=
  s.laneLoad (Uses.load c d q ty []) c d fun v => v.accs c (v.auth q) (v.unit q disp) false
/-- `vlds` (mode 1). -/
def execVlds (c : Ctl) (_ : Ord) (d b k : BitVec 6) (disp : BitVec 32) (ty : BitVec 4) (s : State) : Res :=
  s.laneLoad (Uses.loadS c d b ty) c d fun v => v.accs c (fun _ => v.run.snap.cap k.toNat) (v.strided b k disp) false
/-- `vldx` (mode 2). -/
def execVldx (c : Ctl) (_ : Ord) (d a : BitVec 6) (q : Auth) (ty : BitVec 4) (s : State) : Res :=
  s.laneLoad (Uses.loadX c d a q ty) c d fun v => v.accs c (v.auth q) (v.indexed q a) false
/-- `vldp` (mode 4). -/
def execVldp (c : Ctl) (_ : Ord) (d a : BitVec 6) (disp : BitVec 32) (ty : BitVec 4) (s : State) : Res :=
  s.laneLoad (Uses.loadP c d a ty) c d fun v => v.privAccs c a disp false

/-- The elements below the cut of a first-fault load: those before the first that fails (R184). -/
def State.belowCut (s : State) (w : Who) (es : List LaneAcc) : List LaneAcc :=
  es.takeWhile fun e => match s.laneReach w e with | .ok _ => true | .error _ => false

/-- A predicate destination written where an element is masked or tail only (R46). -/
def LaneState.putPredInactive (l : LaneState) (c : Ctl) (n : Nat) : LaneState :=
  if l.vl = 0 then l else (List.range l.vt.vlmax).foldl (fun l' k => if l.fills (l.cls c k) then l'.setPbit n k true else l') l

/-- `vldff` (R184). -/
def execVldff (c : Ctl) (_ : Ord) (d e : BitVec 6) (q : Auth) (disp : BitVec 32) (ty : BitVec 4) (s : State) : Res :=
  let u := Uses.load c d q ty [e.toNat]
  s.laneOp u fun v s =>
    let w := s.whoGroup v.slot
    let es := v.accs c (v.auth q) (v.unit q disp) false
    let below := match s.belowCut w es with | [] => es.take 1 | b => b
    match s.laneChecks w below with
    | .error (c, x, fl) => .next (s.raiseLane v c x fl)
    | .ok (ks, ts) =>
      s.laneGo v ks ts fun s =>
        let l1 := (v.l.putInactive c d.toNat v.e).putPredInactive c e.toNat
        let l2 := (es.drop below.length).foldl (fun l x => if l.vt.mfill then l.setElem d.toNat v.e x.k (2 ^ v.e - 1) else l) l1
        let p : Pending := { Pending.blank true with
          regs := (u v.t).pending v.t,
          writes := .p e.toNat (elemMask (es.map (·.k))) (elemMask (ks.map fun x => x.1.k)) :: ks.map (loadedElem s d) }
        .next (((s.wlLane v.slot ks fun p => .read p.1.acc.n).setLane v l2).laneLaunch v u (!ks.isEmpty) p)

/-- `vst` (mode 0). -/
def execVst (c : Ctl) (o : Ord) (d : BitVec 6) (q : Auth) (disp : BitVec 32) (ty : BitVec 4) (s : State) : Res :=
  s.laneStore (Uses.store c d q ty) o d fun v => v.accs c (v.auth q) (v.unit q disp) true
/-- `vsts` (mode 1). -/
def execVsts (c : Ctl) (o : Ord) (d b k : BitVec 6) (disp : BitVec 32) (ty : BitVec 4) (s : State) : Res :=
  s.laneStore (Uses.storeS c d b ty) o d fun v => v.accs c (fun _ => v.run.snap.cap k.toNat) (v.strided b k disp) true
/-- `vstx` (mode 2). -/
def execVstx (c : Ctl) (o : Ord) (d a : BitVec 6) (q : Auth) (ty : BitVec 4) (s : State) : Res :=
  s.laneStore (Uses.storeX c d a q ty) o d fun v => v.accs c (v.auth q) (v.indexed q a) true
/-- `vstp` (mode 4). -/
def execVstp (c : Ctl) (o : Ord) (d a : BitVec 6) (disp : BitVec 32) (ty : BitVec 4) (s : State) : Res :=
  s.laneStore (Uses.storeP c d a ty) o d fun v => v.privAccs c a disp true

/-! ### Capabilities (R186) -/

/-- Masked and tail capability elements written at issue: all ones, tags clear (R46, R72, R186). -/
def LaneState.putCapsInactive (l : LaneState) (c : Ctl) (n : Nat) : LaneState :=
  if l.vl = 0 then l
  else (List.range l.vt.vlmax).foldl (fun l' k => if l.fills (l.cls c k) then l'.setCapElem n k (Cap.ofBits (BitVec.allOnes 128) false) else l') l

/-- `vldc` (R186). -/
def execVldc (c : Ctl) (_ : Ord) (d a : BitVec 6) (q : Auth) (s : State) : Res :=
  let u := Uses.loadC c d a q
  s.laneAccess u (fun v => (v.l.actives c).map fun k => .plain k (.load (v.auth q k) (v.indexed q a k) 16)) fun v ks s =>
    let mask := s.colourMask v.g.ctx
    let got := fun (x : LaneAcc × Nat) =>
      let cp := loadedCap x.1.acc.cap (s.readCap x.2) mask
      RegWrite.v (elemAt d 128 x.1.k).1 (elemAt d 128 x.1.k).2 128 cp.toBits.toNat cp.tag
    let p : Pending := { Pending.blank true with regs := (u v.t).pending v.t, writes := ks.map got }
    .next (((s.wlLane v.slot ks fun _ => .read 16).setLane v (v.l.putCapsInactive c d.toNat)).laneLaunch v u (!ks.isEmpty) p)

/-- `vstc` (R186). -/
def execVstc (c : Ctl) (o : Ord) (d a : BitVec 6) (q : Auth) (s : State) : Res :=
  let u := Uses.storeC c d a q
  s.laneAccess u (fun v => (v.l.actives c).map fun k =>
      let x := v.indexed q a k
      ⟨k, .store (v.auth q k) x 16, none, s.capShort (s.whoGroup v.slot) (v.l.capElem d.toNat k) (v.auth q k) x⟩) fun v ks s =>
    if o.on && !v.g.hart.pend.isEmpty then .next s
    else
      let mask := s.colourMask v.g.ctx
      let cp := fun (x : LaneAcc × Nat) => v.l.capElem d.toNat x.1.k
      .next (s.laneStored v u ks (ks.map fun x => ⟨x.2, .cap (cp x) (liveCap (cp x) mask)⟩) fun x => .write (cp x).bytes [liveCap (cp x) mask])

end Sys2Proof.Machine
end

