-- ==== Sys2Proof/Machine/Atomics.lean ====
section
/-! DEFINITION. What atomics compute, the lane atomics, and the events by which loads, stores and atomics complete (R123 to R125, R187, R224 to
R232). -/
namespace Sys2Proof.Machine
open Sys2Proof

/-! ### The operations of R228 -/

/-- Bytes that an operation reads and writes. Codes 24 and 25 stand for one `.bf16` or `.f16` sub-element of `vatom32` (R232). -/
def atomSize (op : Nat) : Nat := if op = 24 ∨ op = 25 then 2 else Uses.atomBytes op

/-- A floating-point atomic add of one element (R123). -/
def atomFadd (f : Fmt) (x y : Nat) : Nat × Flags := f.add .rne x y

/-- An add of two independent halves (R123, R228). -/
def atomFadd2 (f : Fmt) (x y : Nat) : Nat × Flags :=
  let lo := atomFadd f (x % 2 ^ 16) (y % 2 ^ 16)
  let hi := atomFadd f (x / 2 ^ 16) (y / 2 ^ 16)
  (lo.1 + 2 ^ 16 * hi.1, lo.2 ||| hi.2)

/-- The lesser or greater of two n-bit patterns. -/
def pickBits (isMax signed : Bool) (n x y : Nat) : Nat :=
  if (extInt x n signed < extInt y n signed) == isMax then y else x

/-- op(x, y) for every operation but the exchanges, n bits wide, with the flags it raises (R123, R228). -/
def atomOp (op x y : Nat) : Nat × Flags :=
  let n := 8 * atomSize op
  match op with
  | 0x00 | 0x01 => ((x + y) % 2 ^ n, 0)
  | 0x02 | 0x03 => (x &&& y, 0)
  | 0x04 | 0x05 => (x ||| y, 0)
  | 0x06 | 0x07 => (x ^^^ y, 0)
  | 0x0C | 0x0E => (pickBits false true n x y, 0)
  | 0x0D | 0x0F => (pickBits false false n x y, 0)
  | 0x10 | 0x12 => (pickBits true true n x y, 0)
  | 0x11 | 0x13 => (pickBits true false n x y, 0)
  | 0x14 => atomFadd .f32 x y
  | 0x15 => atomFadd .f64 x y
  | 0x16 => atomFadd2 .bf16 x y
  | 0x17 => atomFadd2 .f16 x y
  | 24 => atomFadd .bf16 x y
  | 25 => atomFadd .f16 x y
  | _ => (y, 0)

/-- Whether an operation is an exchange or a compare-exchange, which is never aggregated (R125, R231). -/
def isXchg (op : Nat) : Bool := 8 ≤ op && op ≤ 11

/-- What a request does to the value it finds: the value stored if one is, the results in element order, the flags. -/
structure AtomDone where
  stored  : Option Nat
  results : List Nat
  flags   : Flags
  deriving DecidableEq, Repr

/-- Exchanges element by element (R231). -/
def xchgAll (cas : Bool) : List AtomElem → Nat → AtomDone → AtomDone
  | [], _, r => r
  | e :: es, old, r =>
    let put := !cas || old == e.u
    xchgAll cas es (if put then e.v else old)
      { stored := if put then some e.v else r.stored, results := r.results ++ [old], flags := r.flags }

/-- The aggregation of R125: S, each element's Pre, the flags of forming S. -/
def aggregate (op : Nat) : List AtomElem → Option Nat × List (Option Nat) × Flags
  | es => es.foldl (fun (acc : Option Nat × List (Option Nat) × Flags) e =>
      match acc.1 with
      | none => (some e.v, acc.2.1 ++ [none], acc.2.2)
      | some x => let r := atomOp op x e.v; (some r.1, acc.2.1 ++ [some x], acc.2.2 ||| r.2)) (none, [], 0)

/-- A request performed on the old value (R125, R228, R231). -/
def atomPerform (op : Nat) (es : List AtomElem) (old : Nat) : AtomDone :=
  if isXchg op then xchgAll (op == 10 || op == 11) es old ⟨none, [], 0⟩
  else
    let a := aggregate op es
    match a.1 with
    | none => ⟨none, [], 0⟩
    | some x =>
      let r := atomOp op old x
      ⟨some r.1, a.2.1.map fun p => match p with | none => old | some y => (atomOp op old y).1, a.2.2 ||| r.2⟩

/-! ### `vatom` and `vatom32` -/

/-- Requests gathered by the address x[k] that the elements name (R231), each address's elements in ascending order: address, key, element. Two addresses that
    translation takes to one place stay two requests; so do a window offset and a virtual address of the same number, which are two addresses (R67). -/
def gatherAtoms (op : Nat) (l : List (Nat × Nat × AtomElem)) : List AtomReq :=
  (l.foldl (fun (rs : List (Nat × AtomReq)) p =>
    if rs.any fun r => r.1 == p.1 && r.2.key == p.2.1 then
      rs.map fun r => if r.1 = p.1 ∧ r.2.key = p.2.1 then (r.1, { r.2 with elems := r.2.elems ++ [p.2.2] }) else r
    else rs ++ [(p.1, ⟨p.2.1, op, [p.2.2]⟩)]) []).map (·.2)

/-- What a request asks of another package (R125, R266): each exchange by itself; of the elements of another operation S alone, with the flags of forming it
    (R124). -/
def AtomReq.remote (r : AtomReq) (ret : Bool) : List RemoteKind :=
  if isXchg r.op then r.elems.map fun e => .atomic (BitVec.ofNat 5 r.op) (BitVec.ofNat 64 e.v) (BitVec.ofNat 64 e.u) ret 0
  else
    let a := aggregate r.op r.elems
    a.1.toList.map fun x => .atomic (BitVec.ofNat 5 r.op) (BitVec.ofNat 64 x) 0 ret a.2.2

/-- The requests of an operation sent to other packages. -/
def State.wlAtoms (s : State) (w : Who) (ret : Bool) (rs : List AtomReq) : State :=
  rs.foldl (fun s r => (r.remote ret).foldl (fun s m => s.wlSend w s.nextId r.key m) s) s

/-- A lane atomic (R187, R230): each active element checked as an atomic of n bytes, then the requests that `reqs` makes of them. -/
def State.laneAtom (s : State) (u : VT → Uses) (c : Ctl) (q : Auth) (a : BitVec 6) (n : Nat) (nr fp : Bool) (fill : View → LaneState)
    (reqs : View → List (LaneAcc × Nat) → List AtomReq) : Res :=
  s.laneAccess u (fun v => (v.l.actives c).map fun k => .plain k (.atomic (v.auth q k) (v.indexed q a k) n)) fun v ks s =>
    let p : Pending := { Pending.blank (!nr) with regs := (u v.t).pending v.t, atoms := reqs v ks, fp := fp && !nr }
    .next (((s.wlAtoms (s.whoGroup v.slot) (!nr) p.atoms).setLane v (if nr then v.l else fill v)).laneLaunch v u (!ks.isEmpty) p)

/-- `vatom` (R230, R231). -/
def execVatom (c : Ctl) (_ : BitVec 3) (op : BitVec 5) (d a b e : BitVec 6) (q : Auth) (nr : Bool) (s : State) : Res :=
  let n := Uses.atomBytes op.toNat
  s.laneAtom (Uses.atom c op d a b e q nr) c q a n nr (atomFloat op.toNat) (fun v => v.l.putInactive c d.toNat v.e) fun v ks =>
    gatherAtoms op.toNat (ks.map fun p =>
      let k := p.1.k
      (p.1.acc.x, p.2, ⟨v.a b v.e k, v.a e v.e k, if nr then .none else .v (elemAt d v.e k).1 (elemAt d v.e k).2 v.e⟩))

/-- The operation and the bytes of a sub-element, by a code of R232. -/
def subOp (op : BitVec 5) : Nat × Nat :=
  match op.toNat with
  | 0 => (0x14, 4) | 1 => (0x15, 8) | 2 => (24, 2) | 3 => (25, 2) | 4 => (0x00, 4) | _ => (0x01, 8)

/-- Bits [256 k + lo, + w) of the eight registers of a packed group (R188, R232). -/
def LaneState.packed (l : LaneState) (n k lo w : Nat) : Nat := (l.vreg (n + k / 8)).read (k % 8 * 256 + lo) w

/-- Masked and tail 32-byte elements of a packed group written (R46, R232). -/
def LaneState.putPackedInactive (l : LaneState) (c : Ctl) (n : Nat) : LaneState :=
  if l.vl = 0 then l
  else (List.range l.vt.vlmax).foldl (fun l' k =>
    if l.fills (l.cls c k) then
      { l' with v := vmod l'.v (n + k / 8) fun r => (r.write (k % 8 * 256) 128 (2 ^ 128 - 1)).write (k % 8 * 256 + 128) 128 (2 ^ 128 - 1) }
    else l') l

/-- `vatom32` (R232). -/
def execVatom32 (c : Ctl) (_ : BitVec 3) (op : BitVec 5) (d a b : BitVec 6) (q : Auth) (nr : Bool) (s : State) : Res :=
  let (o, w) := subOp op
  s.laneAtom (Uses.atom32 c d a b q nr) c q a 32 nr (atomFloat o) (fun v => v.l.putPackedInactive c d.toNat) fun v ks =>
    gatherAtoms o (ks.flatMap fun p => (List.range (32 / w)).map fun j =>
      let k := p.1.k
      (p.1.acc.x + j * w, p.2 + j * w, ⟨v.l.packed b.toNat k (8 * w * j) (8 * w), 0,
        if nr then .none else .v (d.toNat + k / 8) (k % 8 * 256 + 8 * w * j) (8 * w)⟩))

/-! ### Completion of operations -/

/-- An outstanding operation of a thread. -/
def Hart.op (h : Hart) (id : Nat) : Option Pending := h.pend.find? fun p => p.id == id
/-- An outstanding operation changed. -/
def Hart.modOp (h : Hart) (id : Nat) (f : Pending → Pending) : Hart := { h with pend := h.pend.map fun p => if p.id = id then f p else p }
/-- An outstanding operation gone, its count given back (R48). -/
def Hart.dropOp (h : Hart) (p : Pending) : Hart :=
  { h with pend := h.pend.filter fun q => q.id != p.id, fenced := h.fenced.filter (· != p.id),
           ld := if p.ld then h.ld - 1 else h.ld, st := if p.ld then h.st else h.st - 1 }

/-- A result as the write that lands when its operation returns; with no destination, none. -/
def ResDst.write (d : ResDst) (x w : Nat) : List RegWrite :=
  match d with
  | .none => []
  | .s n sx => [.s n (BitVec.ofNat 64 (if sx then wrapInt (sextNat x 32) 64 else x))]
  | .v n lo width => [.v n lo width (x % 2 ^ w) false]

/-- The flags of an operation without return: at the home slice of its line, or with the context for a location in a scratchpad, which has no home
    slice (R124); for a location of another package, there (R266). -/
def State.flagsAt (s : State) (ctx k : Nat) (fl : Flags) : State :=
  if fl = 0 ∨ Config.remoteKey ≤ k then s
  else if k < Config.windowKey then
    let i := homeSlice k * 4096 + ctx
    { s with sliceFlags := mapSet s.sliceFlags i (mapGetD s.sliceFlags i 0 ||| fl) }
  else s.modCtx ctx fun c => { c with flags := c.flags ||| fl }

/-- The context of a thread. -/
def State.ctxOf (s : State) (t : Thread) : Nat := match t with | .group k => (match s.group k with | some g => g.ctx | none => 0) | .service _ => 0

/-- A request performed at its point (R224): the stored value, a non-capability write (R227); its results and flags with the operation. -/
def State.doAtom (s : State) (t : Thread) (p : Pending) (r : AtomReq) (n : Nat) : State :=
  let w := atomSize r.op
  let a := atomPerform r.op r.elems (s.readNat r.key w)
  let s1 := match a.stored with | some x => s.writeNat r.key w x | none => s
  let ws := (r.elems.zip a.results).flatMap fun e => e.1.dst.write e.2 (8 * w)
  let s2 := s1.modHartOf t fun h => h.modOp p.id fun q => { q with atoms := dropAt q.atoms n, writes := q.writes ++ ws, flags := if p.ld then q.flags ||| a.flags else q.flags }
  if p.ld then s2 else s2.flagsAt (s.ctxOf t) r.key a.flags

/-- `ATOMIC_PERFORM` (R224, R227): request n of an operation; it waits while its page is being moved. -/
def execAtomicPerform (t : Thread) (id n : Nat) (s : State) : Res :=
  match (s.hartOf t).op id with
  | none => .next s
  | some p =>
    match p.atoms[n]? with
    | none => .next s
    | some r => if s.migrating r.key || s.spoilt r.key (atomSize r.op) then .next s else .next { s.doAtom t p r n with free := s.free + 1 }

/-- A write that lands in the registers of a thread. -/
def State.land (s : State) (t : Thread) (w : RegWrite) : State :=
  match w with
  | .s n x => s.modHartOf t fun h => h.setX (BitVec.ofNat 6 n) x
  | .c n x => s.modHartOf t fun h => h.setCap (BitVec.ofNat 5 n) x
  | .v n lo width x tag =>
    match t with
    | .group k => s.modGroup k fun g => { g with lane := { g.lane with v := vmod g.lane.v n fun r =>
        let r' := r.write lo width x
        if tag then { r' with tags := r'.tags ||| BitVec.ofNat 16 (2 ^ (lo / 128)) } else r' } }
    | .service _ => s
  | .p n mask bits =>
    match t with
    | .group k => if n = 0 then s else s.modGroup k fun g => { g with lane := { g.lane with p := vmod g.lane.p n fun x => (x &&& ~~~mask) ||| (bits &&& mask) } }
    | .service _ => s

/-- The end of a `vlrc.stop` whose results are in (R240): its issue slot given up, and the stop it asks for. A group that waits is not Stopped from there (R50):
    it owes the stop until it runs again. DEDUCED (log entry 39). -/
def State.routineStop (s : State) (t : Thread) (p : Pending) : State :=
  match t with
  | .service _ => s
  | .group k =>
    if !p.stop then s
    else
      let first : Option (Nat × Nat × Word) := p.ends.foldl (fun b e => match b with | some x => if e.1 < x.1 then some e else b | none => some e) none
      match s.group k, first with
      | some g, some e =>
        let stop := (BitVec.ofNat 8 e.2.1, e.2.2, elemMask ((p.ends.filter fun x => x.2.1 == e.2.1).map fun x => x.1))
        match g.life with
        | .exiting => s.endTurn (slotCluster k) (slotCore k)
        | .parked _ | .trapped => (s.releaseSlot k).modGroup k fun g => { g with owed := some stop }
        | _ => s.stopGroup k true stop.1 stop.2.1 stop.2.2
      | _, _ => s.endTurn (slotCluster k) (slotCore k)

/-- An operation returned: its writes, its flags (R124), its count, its requests to other packages acknowledged (R265). -/
def State.returnOp (s : State) (t : Thread) (p : Pending) : State :=
  let s1 := (p.writes.foldl (fun s w => s.land t w) s).wlAck p.id
  let s2 := s1.modHartOf t fun h => h.dropOp p
  let s3 := match t with
    | .group k => s2.modGroup k fun g => { g with lane := { g.lane with fpstat := g.lane.fpstat ||| p.flags } }
    | .service c => s2.modCluster c fun cl => { cl with svc := { cl.svc with fpstat := cl.svc.fpstat ||| p.flags } }
  s3.routineStop t p

/-- Slot k's group Running again (R50), and then Stopped if it owes a stop. -/
def State.runAgain (s : State) (k : Nat) : State :=
  match s.group k with
  | none => s
  | some g =>
    let s1 := s.modGroup k fun g => { g with life := .running, owed := none }
    match g.owed with
    | some e => s1.stopGroup k true e.1 e.2.1 e.2.2
    | none => s1

/-- Whether everything an operation asks for has been performed. -/
def Pending.ready (p : Pending) : Bool := p.atoms.isEmpty && p.lines.isEmpty && p.stores.isEmpty

/-- `LOAD_RETURN` (R48): an operation counted in ld, all of its requests performed. -/
def execLoadReturn (t : Thread) (id : Nat) (s : State) : Res :=
  match (s.hartOf t).op id with
  | none => .next s
  | some p => if p.ld && p.ready then .next (s.returnOp t p) else .next s

/-- `STORE_ACCEPT` (R48): an operation counted in st. -/
def execStoreAccept (t : Thread) (id : Nat) (s : State) : Res :=
  match (s.hartOf t).op id with
  | none => .next s
  | some p => if !p.ld && p.ready then .next (s.returnOp t p) else .next s

end Sys2Proof.Machine
end

