-- ==== Sys2Proof/Machine/Barriers.lean ====
section
/-! DEFINITION. Barriers and deferred arrivals (R146, R147, R234 to R236). -/
namespace Sys2Proof.Machine
open Sys2Proof

/-- Barrier n of the team of a group. -/
def State.barOf (s : State) (g : Group) (n : Nat) : BarWord :=
  match s.team g.team with | some t => vgetD t.bars n ⟨0, 0, 0, 0⟩ | none => ⟨0, 0, 0, 0⟩

/-- Barrier n of a team changed. -/
def State.modBar (s : State) (team n : Nat) (f : BarWord → BarWord) : State := s.modTeam team fun t => { t with bars := vmod t.bars n f }

/-- One arrival counted: the generation ends when the expected count is reached (R147). -/
def BarWord.arrive (b : BarWord) : BarWord :=
  if b.arr + 1 = b.exp then { b with arr := 0, gen := b.gen + 1 } else { b with arr := b.arr + 1 }

/-- The token of the group in slot k for barrier n set (R146). -/
def State.setToken (s : State) (k n : Nat) (t : Option (BitVec 32)) : State := s.modGroup k fun g => { g with tokens := vset g.tokens n t }

/-- An arrival of slot k's group lands on barrier n (R147, R235). -/
def State.landArrival (s : State) (k : Nat) (n : Nat) : State :=
  match s.group k with
  | none => s
  | some g => (s.setToken k n (some ((s.barOf g n).gen + 1))).modBar g.team n BarWord.arrive

/-- Whether a group has a pending arrival on a barrier. -/
def Group.arriving (g : Group) (n : Nat) : Bool := g.arrivals.any fun a => a.bar == n

/-- The arrival of `bar.arrive` and `bar.sync` (R235): at once, or pending while copies are in flight. -/
def State.arrive (s : State) (k n : Nat) : State :=
  match s.group k with
  | none => s
  | some g =>
    if g.copies.isEmpty then s.landArrival k n
    else { (s.modGroup k fun g => { g with arrivals := g.arrivals ++ [⟨s.nextId, n, g.copies⟩] }).modBar g.team n fun b => { b with pend := b.pend + 1 } with
      nextId := s.nextId + 1 }

/-- Whether a generation satisfies a token: sext(gen − token, 32) ≥ 0 (R147). -/
def tokenPassed (gen tok : BitVec 32) : Bool := !(gen - tok).getLsbD 31

/-- Whether the wait of slot k's group on a barrier is over (R147, R235). -/
def State.waitOver (s : State) (g : Group) (n : Nat) : Bool :=
  !g.arriving n && (match vgetD g.tokens n none with | some t => tokenPassed (s.barOf g n).gen t | none => false)

/-- The wait of `bar.wait` and `bar.sync` (R147): the token taken if empty and none is pending; past it at once, or Parked. -/
def State.barWait (s : State) (k n : Nat) : State :=
  match s.group k with
  | none => s
  | some g =>
    let s1 := if !g.arriving n && (vgetD g.tokens n none).isNone then s.setToken k n (some ((s.barOf g n).gen + 1)) else s
    match s1.group k with
    | none => s1
    | some g1 => if s1.waitOver g1 n then s1.setToken k n none else s1.modGroup k fun g => { g with life := .parked (.bar n) }

/-- The frame of a barrier word: not on a service core (R159); ILLEGAL_INSN at or above the team's barrier count (R86). -/
def State.barOp (s : State) (n : BitVec 4) (body : Nat → Group → Team → Res) : Res :=
  s.groupOnly fun k g =>
    match s.team g.team with
    | none => .next s
    | some t => if t.nbar ≤ n.toNat then .next (s.raiseHere Cause.illegalInsn) else body k g t

/-- Whether another arrival on a barrier can be taken now: the pending count has room, and earlier accesses are performed (R235). -/
def State.canArrive (s : State) (g : Group) (n : Nat) : Bool := g.released && (g.copies.isEmpty || (s.barOf g n).pend < 255)

/-- `bar.arrive` (R147, R235). -/
def execBarArrive (n : BitVec 4) (s : State) : Res :=
  s.barOp n fun k g _ => .next (if s.canArrive g n.toNat then (s.arrive k n.toNat).advance else s)
/-- `bar.wait` (R147, R235). -/
def execBarWait (n : BitVec 4) (s : State) : Res :=
  s.barOp n fun k g _ => .next (if g.arriving n.toNat then s else (s.barWait k n.toNat).advance)
/-- `bar.sync` (R147, R235). -/
def execBarSync (n : BitVec 4) (s : State) : Res :=
  s.barOp n fun k g _ => .next (if g.arriving n.toNat || !s.canArrive g n.toNat then s else ((s.arrive k n.toNat).barWait k n.toNat).advance)
/-- `bar.init` (R147, R235). -/
def execBarInit (n : BitVec 4) (a : BitVec 6) (s : State) : Res :=
  s.barOp n fun _ g _ => s.scalarOp [a] [] fun s =>
    if g.arriving n.toNat then .next s
    else if (s.barOf g n.toNat).arr ≠ 0 ∨ s.x a = 0 ∨ 255 < (s.x a).toNat then .next (s.raiseHere Cause.illegalInsn)
    else .next (s.modBar g.team n.toNat fun b => { b with exp := (s.x a).toNat }).advance

/-- `ARRIVAL_LANDS` (R235): a pending arrival of slot k's group on a barrier, the oldest first, once the copies before it have completed; the accesses before it
    were performed when it issued. -/
def execArrivalLands (slot bar : Nat) (s : State) : Res :=
  match s.group slot with
  | none => .next s
  | some g =>
    match g.arrivals with
    | [] => .next s
    | a :: rest =>
      if a.bar ≠ bar ∨ (a.ops.any fun i => g.copies.contains i) then .next s
      else .next (((s.modGroup slot fun g => { g with arrivals := rest }).modBar g.team bar fun b => { b with pend := b.pend - 1 }).landArrival slot bar)

end Sys2Proof.Machine
end

