-- ==== Sys2Proof/Machine/LaneQueue.lean ====
section
/-! DEFINITION. The scalar words that feed and await the lane queue: `lrun`, `lqwait`, `waitc` (R33 to R38, R48, R142 to R144). -/
namespace Sys2Proof.Machine
open Sys2Proof

/-- The words of a run fetched one after another (R34): up to `n` words from address y on, each checked against LCODE and the translation; the
    words with the TLB entries to install, or the cause and the address of R34; for `ALIGN`, whose address R76 does not name, that of the `lrun` (R62). -/
def State.fetchLane (s : State) (w : Who) (code : Cap) (start pc : Word) :
    Nat → Word → List (BitVec 96) → List TlbEntry → Except (BitVec 8 × Word) (List (BitVec 96) × List TlbEntry)
  | 0, y, _, _ => .error (Cause.runLength, y)
  | n + 1, y, ws, ts =>
    match s.resolve w code [Perm.execLane] Need.exec y.toNat 12 4 with
    | .error (e, x) => .error (e, if (authCause w code [Perm.execLane]).isSome then start else if e = Cause.align then pc else BitVec.ofNat 64 x)
    | .ok (segs, t) =>
      let word := BitVec.ofNat 96 (leNat (s.readSegs segs))
      if word.getLsbD 95 then .ok (ws ++ [word], ts ++ t) else State.fetchLane s w code start pc n (y + 12) (ws ++ [word]) (ts ++ t)

/-- How many words count in ld and in st (R48). -/
def runCounts (ws : List (BitVec 96)) : Nat × Nat :=
  ((ws.filter fun w => laneCount w == some true).length, (ws.filter fun w => laneCount w == some false).length)

/-- Whether an operation outstanding will write a scalar or a capability register, which a snapshot reads (R35, R43). -/
def Hart.scalarPending (h : Hart) : Bool :=
  h.pend.any fun p => p.regs.any fun r => match r with | .s _ | .c _ => true | _ => false

/-- A run accepted into the lane queue of slot k (R34 step 4, R35, R39, R48). -/
def State.acceptRun (s : State) (k : Nat) (y : Word) (ws : List (BitVec 96)) : State :=
  s.modGroup k fun g =>
    let n := runCounts ws
    let r : Run := { seq := g.lane.runs, words := ws, addr := y, snap := ⟨g.hart.s, g.hart.c, g.lane.fpctl⟩,
                     head := if g.lane.queue.isEmpty then some s.cycle else none, issuing := false }
    { g with lane := { g.lane with queue := g.lane.queue ++ [r], runs := g.lane.runs + 1, lastRun := some y },
             hart := { g.hart with ld := g.hart.ld + n.1, st := g.hart.st + n.2 } }

/-- The lane address that `lrun` names (R142). -/
def runAddr (code : Cap) (x : Word) (off : BitVec 14) : Word := BitVec.ofNat 64 (code.base + x.toNat + 4 * off.toNat)

/-- Where the words of a fetched run lie. -/
def State.runSegs (s : State) (w : Who) (code : Cap) (y : Word) (n : Nat) : List Seg :=
  match s.resolve w code [Perm.execLane] Need.exec y.toNat (12 * n) 4 with | .ok (segs, _) => segs | .error _ => []

/-- `lrun` (R34, R142). -/
def execLrun (a : BitVec 6) (off : BitVec 14) (s : State) : Res :=
  s.groupOnly fun k g => s.scalarOp [a] [] fun s =>
    if 4 ≤ g.lane.queue.length ∨ g.hart.scalarPending then .next s
    else
      let y := runAddr g.lcode (s.x a) off
      match s.fetchLane s.who g.lcode y s.pc 24 y [] [] with
      | .error (e, x) => .next (s.raise e x)
      | .ok (ws, ts) =>
        let n := runCounts ws
        let segs := s.runSegs s.who g.lcode y ws.length
        if 255 < g.hart.ld + n.1 ∨ 255 < g.hart.st + n.2 ∨ s.wlRoomFor (segs.map (·.lo)) = false ∨ s.segsSpoilt segs then .next s
        else .next (((s.fill s.curCluster ts).wlReadNow s.who segs).acceptRun k y ws).advance

/-- `lqwait` (R143). -/
def execLqwait (s : State) : Res := s.groupOnly fun _ g => .next (if g.lane.queue.isEmpty then s.advance else s)

/-- Whether a counter is within a limit of `waitc`; 63 places none (R144). -/
def withinLimit (n : Nat) (lim : BitVec 6) : Bool := lim == 63 || n ≤ lim.toNat

/-- `waitc` (R144). A service core has no cp and no mx limit to wait for (R159). -/
def execWaitc (ld st cp mx : BitVec 6) (s : State) : Res :=
  if s.isService && (cp != 0 || mx != 0) then .next (s.raiseHere Cause.illegalInsn)
  else
    let h := s.hart
    .next (if withinLimit h.ld ld && withinLimit h.st st && withinLimit h.cp cp && withinLimit h.mx mx then s.advance else s)

end Sys2Proof.Machine
end

