-- ==== Sys2Proof/Machine/Launch.lean ====
section
/-! DEFINITION. Launch packets, kernel descriptors, queues, refusals, and the placement of teams (R16, R29 to R31, R58, R267 to R279, R284). -/
namespace Sys2Proof.Machine
open Sys2Proof

/-! ### The kernel descriptor (R267) -/

/-- Bits of the 64-bit word at a byte offset of a record. -/
def Rec.bits (r : Rec) (off hi lo : Nat) : Nat := bitsOf (r.nat off 8) hi lo

/-- Group count of role r. -/
def roleCount (d : Rec) (r : Nat) : Nat := d.bits (64 + 16 * r) 4 0
/-- Vector budget of role r. -/
def roleV (d : Rec) (r : Nat) : Nat := 8 * (d.bits (64 + 16 * r) 7 5 + 1)
/-- Scalar budget of role r. -/
def roleS (d : Rec) (r : Nat) : Nat := 16 * (d.bits (64 + 16 * r) 9 8 + 1)
/-- Entry of role r, a word offset. -/
def roleEntry (d : Rec) (r : Nat) : Nat := d.bits (64 + 16 * r) 63 32
/-- Scratchpad ways of a team. -/
def descWays (d : Rec) : Nat := d.bits 128 5 0
/-- Barriers of a team. -/
def descBars (d : Rec) : Nat := d.bits 128 10 6
/-- The pair bit. -/
def descPair (d : Rec) : Bool := d.bits 128 11 11 == 1
/-- The ring's offset in its allocation, if there is a ring. -/
def descRing (d : Rec) : Option Nat := if d.bits 128 12 12 = 1 then some (d.bits 128 21 13 * 4096) else none
/-- Private words per lane. -/
def descPriv (d : Rec) : Nat := d.bits 128 34 22
/-- First Basket key. -/
def descKey (d : Rec) : Nat := d.bits 136 15 0
/-- Count of Basket keys. -/
def descKeys (d : Rec) : Nat := d.bits 136 31 16
/-- Role of Basket groups. -/
def descKeyRole (d : Rec) : Nat := d.bits 136 33 32
/-- The groups of a team in `GRPID` order, each with its role (R31). -/
def descGroups (d : Rec) : List Nat := (List.range 4).flatMap fun r => List.replicate (roleCount d r) r

/-- The first of a list of causes that holds. -/
def firstCause (l : List (Option (BitVec 8))) : Option (BitVec 8) := l.findSome? id
/-- A cause where a condition holds. -/
def causeIf (b : Bool) (c : BitVec 8) : Option (BitVec 8) := if b then some c else none

/-- The checks of the scalar code field. -/
def scalarCause (w : Who) (d : Rec) : Option (BitVec 8) :=
  let c := d.cap 0
  firstCause [authCause w c [Perm.execScalar],
    causeIf ((List.range 4).any fun r => roleCount d r != 0 && !c.covers (c.base + 4 * roleEntry d r) 4) Cause.capBounds]

/-- The checks of a role's two words. -/
def roleCause (d : Rec) (r : Nat) : Option (BitVec 8) :=
  let n := roleCount d r
  firstCause [
    causeIf (16 < ((List.range (r + 1)).map (roleCount d)).sum || (n != 0 && (List.range r).any fun i => roleCount d i == 0) ||
      (r == 0 && n == 0)) Cause.illegalInsn,
    causeIf (d.bits (64 + 16 * r) 31 10 != 0) Cause.reservedEnc, causeIf (d.nat (72 + 16 * r) 8 != 0) Cause.reservedEnc]

/-- The checks of the team and Basket words. -/
def teamCause (d : Rec) : Option (BitVec 8) :=
  firstCause [causeIf (60 < descWays d || 16 < descBars d) Cause.illegalInsn,
    causeIf (match descRing d with | some o => descWays d * 0x8000 < o + 4096 | none => false) Cause.transInvalid,
    causeIf (4096 < descPriv d) Cause.illegalInsn, causeIf (d.bits 128 63 35 != 0) Cause.reservedEnc,
    causeIf (roleCount d (descKeyRole d) == 0) Cause.illegalInsn, causeIf (d.bits 136 63 34 != 0) Cause.reservedEnc]

/-- The first rule of R267 that a descriptor breaks, fields in byte order. -/
def descCause (w : Who) (d : Rec) : Option (BitVec 8) :=
  let pool := d.cap 2
  let data := fun i perms => if (d.cap i).isNull then none else authCause w (d.cap i) perms
  firstCause ([scalarCause w d, authCause w (d.cap 1) [Perm.execLane],
    if descPriv d = 0 then none
    else firstCause [authCause w pool [Perm.load, Perm.store], causeIf (pool.top - pool.base < Config.nSlots * descPriv d * 256) Cause.capBounds],
    if descKeys d = 0 then none else authCause w (d.cap 3) [Perm.load, Perm.store]] ++
    (List.range 4).map (roleCause d) ++
    [teamCause d, data 9 [Perm.load, Perm.store], data 10 [Perm.load], causeIf (d.bytes.drop 176 |>.any (· != 0)) Cause.reservedEnc])

/-! ### The packet (R269) -/

/-- Grid size along x, y, z. -/
def Rec.dims (p : Rec) : Nat × Nat × Nat := (p.bits 48 15 0 + 1, p.bits 48 31 16 + 1, p.bits 48 47 32 + 1)
/-- Teams of the grid. -/
def Rec.teams (p : Rec) : Nat := p.dims.1 * p.dims.2.1 * p.dims.2.2
/-- Target queue. -/
def Rec.queueNo (p : Rec) : Nat := p.bits 48 55 48
/-- The matrix issuer's index. -/
def Rec.issuer (p : Rec) : Nat := p.bits 56 35 32
/-- Whether a die may run the grid. -/
def Rec.onDie (p : Rec) (d : Nat) : Bool := p.bits 56 39 36 == 0 || (p.bits 56 39 36).testBit d

/-- The first packet field that breaks R269 or R81. -/
def packetCause (p : Rec) : Option (BitVec 8) :=
  causeIf (6 ≤ p.bits 48 58 56 || p.sigOp == 3 || p.bits 48 63 61 != 0 || p.bits 56 63 40 != 0) Cause.reservedEnc

/-- The descriptor that a packet names, read through its kernel capability, or the cause and address of R70. Capabilities of a revoked colour keep their
    tags: the checks of R267 name them. -/
def State.readDesc (s : State) (w : Who) (p : Rec) : Except (BitVec 8 × Nat) Rec :=
  let c := p.cap 0
  match s.resolve w c [Perm.load, Perm.loadCap] Need.read c.cursor.toNat 256 64 with
  | .error e => .error e
  | .ok (segs, _) => .ok (s.readRec segs true 0)

/-- The checks of R279 on a packet, up to the fit in an empty cluster, which no descriptor that passes can fail: the descriptor, or the cause. -/
def State.launchCheck (s : State) (w : Who) (p : Rec) : Except (BitVec 8) Rec :=
  match packetCause p with
  | some e => .error e
  | none =>
    match s.readDesc w p with
    | .error (e, _) => .error e
    | .ok d =>
      match firstCause [descCause w d, causeIf (descPair d && (descGroups d).length ≤ p.issuer) Cause.illegalInsn] with
      | some e => .error e
      | none => .ok d

/-- The argument block of R270, its tags kept only with load-cap and of colours that are not revoked (R133); a host's through the queue's capability table (R350). All zero where null. -/
def State.readArgs (s : State) (w : Who) (host : Option Queue) (p : Rec) : Except (BitVec 8) Rec :=
  let c := p.cap 1
  if c.isNull then .ok ⟨List.replicate 192 0, List.replicate 12 false⟩
  else match s.resolve w c [Perm.load] Need.read c.cursor.toNat 192 16 with
    | .error (e, _) => .error e
    | .ok (segs, _) =>
      let r := s.readRec segs (c.has Perm.loadCap) w.mask
      .ok (match host with
        | some q => (List.range 7).foldl (fun r i => let h := s.hostCap q (r.cap i); r.setCap i { h with tag := h.tag && c.has Perm.loadCap && !w.mask.getLsbD h.colour.toNat }) r
        | none => r)

/-! ### Posting (R151, R272, R349) -/

/-- A record written with its tags by an agent, which waits where its page is locked (R264). -/
def State.writeRec (s : State) (k : Nat) (r : Rec) : State := s.agentWrite ⟨k, .record r.bytes r.tags⟩

/-- Whether the service kernel runs: queues accept launches (R346 step 6). -/
def State.running (s : State) : Bool := s.edge.bootstat.getLsbD 4

/-- A packet posted to a queue: 0 posted, 1 FULL, 2 NO_QUEUE (R151). Before queues accept launches none is open. -/
def State.post (s : State) (ctx q : Nat) (p : Rec) (by' : Post) : State × Nat :=
  let d := s.queue q
  if !s.running || !d.isOpen || d.ctx != ctx then (s, 2)
  else if d.full then (s, 1)
  else
    let s1 := (s.writeRec (d.slot d.tail.toNat) p).modQueue q fun d => { d with tail := d.tail + 1 }
    ({ s1 with disp := { s1.disp with posts := mapSet s1.disp.posts q (mapGetD s1.disp.posts q [] ++ [by']) } }, 0)

/-- The cluster whose service core hears of a post (R279). -/
def Post.eventCluster (p : Post) : Nat := if p.cluster < 192 then p.cluster else 0

/-- An event of a cluster that tells of a packet: a copy of it, tags included, stands in the firmware's region, at the address that the event carries (R353,
    log entry 63). -/
def State.packetEvent (s : State) (cl kind : Nat) (cause : BitVec 8) (p : Rec) : State :=
  let at' := Config.fwCopies + 64 * (s.disp.copies % 1024)
  ({ s.writeRec at' p with disp := { s.disp with copies := s.disp.copies + 1 } }).event cl kind cause 0 (BitVec.ofNat 64 at')

/-- A grid refused (R279): the event with its cause, and its signal of op 1, whose failure is reported as R269 has it (log entry 48). -/
def State.refuse (s : State) (ctx : Nat) (p : Rec) (by' : Post) (cause : BitVec 8) : State :=
  let s1 := { (s.failSignal ctx p).packetEvent by'.eventCluster 5 cause p with free := s.free + 1 }
  if p.sigOp ≠ 1 then s1
  else match s.signalKey ctx p with
    | .error e => s1.packetEvent by'.eventCluster 6 e p
    | .ok _ => s1

/-! ### Where a team fits (R16, R274, R275) -/

/-- What is held on a core for heirs (R282). -/
def State.heldOn (s : State) (cl core : Nat) : List Held := s.teams.flatMap fun p => p.2.held.filter fun h => h.slot / 32 == cl * 4 + core

/-- What a core's resident groups take, and what is held there for heirs: groups, vector and scalar budgets. -/
def State.coreLoad (s : State) (cl core : Nat) : Nat × Nat × Nat :=
  let l := s.groups.foldl (fun a p => if p.1 / 32 = cl * 4 + core then (a.1 + 1, a.2.1 + p.2.vbud, a.2.2 + p.2.sbud) else a) (0, 0, 0)
  (s.heldOn cl core).foldl (fun a h => (a.1 + 1, a.2.1 + h.v, a.2.2 + h.s)) l

/-- Where an heir's groups may go, tried in this order (R282, R283, log entry 28): the slots that its parent's groups leave, with the issuer on the leader core; other
    free slots too; the parent's slots again, with the issuer on either core and the limits of R16 on a core's budgets left aside, for the heir is always placed. -/
inductive HeirTry where
  | freed | any | over
  deriving DecidableEq, Repr

/-- The load of a core as an heir finds it: what its parent leaves it is free, and where only those slots serve no other is (R282). -/
def State.heirLoad (s : State) (cl : Nat) (held : List Held) (at' : HeirTry) (core : Nat) : Nat × Nat × Nat :=
  let mine := held.filter fun h => h.slot / 32 == cl * 4 + core
  let l := s.coreLoad cl core
  match at' with
  | .freed => (32 - mine.length, l.2.1 - (mine.map (·.v)).sum, l.2.2 - (mine.map (·.s)).sum)
  | .any => (l.1 - mine.length, l.2.1 - (mine.map (·.v)).sum, l.2.2 - (mine.map (·.s)).sum)
  | .over => (32 - mine.length, 0, 0)

/-- The core that a group of these budgets takes: the most free vector registers, the lowest number where equal (R275). -/
def pickCore (loads : List (Nat × Nat × Nat)) (allowed : List Nat) (v s : Nat) : Option Nat :=
  allowed.foldl (fun best c =>
    let l := loads.getD c (32, 2048, 2048)
    if l.1 < 32 ∧ l.2.1 + v ≤ 2048 ∧ l.2.2 + s ≤ 2048 then
      match best with
      | some b => if l.2.1 < (loads.getD b (32, 2048, 2048)).2.1 then some c else best
      | none => some c
    else best) none

/-- The cores of a list of groups (index, vector and scalar budget, allowed cores) placed one after another, if all fit. -/
def pickCores : List (Nat × Nat × Nat × List Nat) → List (Nat × Nat × Nat) → Option (List (Nat × Nat))
  | [], _ => some []
  | (i, v, s, allowed) :: rest, loads =>
    match pickCore loads allowed v s with
    | none => none
    | some c =>
      let l := loads.getD c (0, 0, 0)
      match pickCores rest (loads.set c (l.1 + 1, l.2.1 + v, l.2.2 + s)) with
      | none => none
      | some r => some ((i, c) :: r)

/-- A team to place: groups in `GRPID` order as (role, vector budget, scalar budget), what it needs, and what its groups start with. -/
structure TeamSpec where
  ctx     : Nat
  world   : BitVec 8
  gridId  : BitVec 32
  grid    : Option Nat
  index   : Nat
  teamId  : Word
  queue   : Nat
  prio    : Nat
  desc    : Rec
  args    : Rec
  roles   : List Nat
  ways    : Nat
  bars    : Nat
  pair    : Bool
  issuer  : Nat
  colour  : BitVec 8
  key     : Option (BitVec 16)
  pays    : List (BitVec 256)
  deriving DecidableEq, Repr

/-- Where a team goes: its first way, pair, and the core of each group in the order of placement. -/
structure Spot where
  way0  : Nat
  pair  : Option Nat
  cores : List (Nat × Nat)
  deriving DecidableEq, Repr

/-- The resident teams of a cluster, allocations that heirs await among them. -/
def State.teamsOf (s : State) (cl : Nat) : List (Nat × Team) := s.teams.filter fun p => p.2.cluster == cl

/-- The split that a placement for a context finds: 48 again where another context takes a cluster that holds no team (R21). -/
def State.splitFor (s : State) (cl ctx : Nat) : Nat :=
  let c := s.cluster cl
  if c.splitCtx ≠ ctx ∧ (s.teamsOf cl).isEmpty then 48 else c.split

/-- The lowest run of n free ways within a split. -/
def freeWays (teams : List (Nat × Team)) (split n : Nat) : Option Nat :=
  if n = 0 then some 0
  else (List.range (split + 1 - n)).find? fun w => n ≤ split && teams.all fun p => p.2.ways == 0 || w + n ≤ p.2.way0 || p.2.way0 + p.2.ways ≤ w

/-- Groups (index, vector and scalar budget) in the order of their placement, each with its allowed cores: the issuer of a pair first, on the leader
    core (R275), or with `either` on any of the two. -/
def placeOrder (gs : List (Nat × Nat × Nat)) (issuer : Nat) (pair : Option Nat) (either : Bool) : List (Nat × Nat × Nat × List Nat) :=
  match pair with
  | some p => ((gs.filter fun g => g.1 == issuer).map fun g => (g.1, g.2.1, g.2.2, if either then [2 * p, 2 * p + 1] else [2 * p])) ++
      (gs.filter fun g => g.1 != issuer).map fun g => (g.1, g.2.1, g.2.2, [2 * p, 2 * p + 1])
  | none => gs.map fun g => (g.1, g.2.1, g.2.2, [0, 1, 2, 3])

/-- Where groups of these budgets with so many ways and barriers, and a pair or none, fit in a cluster as a team of a context, by R274 and R275; `keep`
    gives an heir its parent's ways and pair and what the parent's groups leave it (R282). -/
def State.spotFor (s : State) (ctx ways bars : Nat) (needPair : Bool) (issuer : Nat) (gs : List (Nat × Nat × Nat)) (cl : Nat)
    (keep : Option (Nat × Option Nat × List Held × HeirTry)) : Option Spot :=
  let teams := s.teamsOf cl
  let way := match keep with | some k => some k.1 | none => freeWays teams (s.splitFor cl ctx) ways
  let busy := fun p => teams.any fun q => q.2.pairHeld == some p
  let pair := match keep with
    | some k => some (if needPair then k.2.1 else none)
    | none => if !needPair then some none else if !busy 0 then some (some 0) else if !busy 1 then some (some 1) else none
  match way, pair with
  | some w, some p =>
    if keep.isNone ∧ 64 < (teams.map fun q => q.2.barSlots).sum + bars then none
    else match pickCores (placeOrder gs issuer p (keep.any fun k => k.2.2.2 == .over)) ((List.range 4).map (match keep with | some k => s.heirLoad cl k.2.2.1 k.2.2.2 | none => s.coreLoad cl)) with
      | some cores => some ⟨w, p, cores⟩
      | none => none
  | _, _ => none

/-- Index and budgets of each group of a team. -/
def TeamSpec.budgets (t : TeamSpec) : List (Nat × Nat × Nat) :=
  (List.range t.roles.length).map fun i => let r := t.roles.getD i 0; (i, roleV t.desc r, roleS t.desc r)

/-- Where a team fits in a cluster. -/
def State.spot (s : State) (t : TeamSpec) (cl : Nat) (keep : Option (Nat × Option Nat × List Held × HeirTry)) : Option Spot :=
  s.spotFor t.ctx t.ways t.bars t.pair t.issuer t.budgets cl keep

/-! ### Placing a team (R58, R59, R271, R276, R278) -/

/-- Bytes [k, k + n) zero and untagged. -/
def State.zeroRange (s : State) (k n : Nat) : State :=
  { s with mem := s.mem.filter fun c => c.1 < k || k + n ≤ c.1, tags := s.tags.filter fun g => 16 * g + 16 ≤ k || k + n ≤ 16 * g,
           damaged := s.damaged.filter fun d => d < k || k + n ≤ d }

/-- The first key of a core's accumulators, 1536 KiB. -/
def accKey (cl core : Nat) : Nat := Config.windowKey + cl * 0x1000000 + 0x280000 + core * 0x200000

/-- The accumulators of a pair's cores zeroed (R58). -/
def State.zeroAccs (s : State) (cl pair : Nat) : State :=
  (s.zeroRange (accKey cl (2 * pair)) 0x180000).zeroRange (accKey cl (2 * pair + 1)) 0x180000

/-- The lowest free resident slot of a core (R275), of those not held for an heir (R282). -/
def State.freeSlot (s : State) (cl core : Nat) : Option Nat :=
  (((List.range 32).map fun i => cl * 128 + core * 32 + i).find? fun k => (s.group k).isNone && !((s.heldOn cl core).any fun h => h.slot == k))

/-- The lowest n free blocks of a core's vector register file. DESIGN CHOICE of which (log entry 8). -/
def State.freeBlocks (s : State) (cl core n : Nat) : List Nat :=
  ((List.range 256).filter fun b => !(s.groups.any fun p => p.1 / 32 == cl * 4 + core && p.2.blocks.contains b) &&
    !((s.heldOn cl core).any fun h => h.blocks.contains b)).take n

/-- Words of `v0` or `v1` of a Basket group (R49): half h of each payload in 16-byte granules. -/
def basketReg (pays : List (BitVec 256)) (h : Nat) : VBits :=
  (List.range pays.length).foldl (fun x j => x ||| BitVec.ofNat 2048 ((((pays.getD j 0).toNat >>> (128 * h)) % 2 ^ 128) <<< (128 * j))) 0

/-- The capability c0 of R271. -/
def padCap (colour : BitVec 8) (cl way0 ways : Nat) : Cap :=
  if ways = 0 then .null
  else mkCap 0x2373 colour (cl * 0x1000000 + way0 * 0x8000) (ways * 0x8000) (BitVec.ofNat 64 (cl * 0x1000000 + way0 * 0x8000))

/-- The group of a team as it starts (R58, R59, R271). -/
def TeamSpec.group (t : TeamSpec) (cl way0 team slot i : Nat) (blocks : List Nat) (gen : BitVec 16) : Group :=
  let role := t.roles.getD i 0
  let d := t.desc
  let code := d.cap 0
  let pc := BitVec.ofNat 64 (code.base + 4 * roleEntry d role)
  let words := (List.range 8).map fun j => BitVec.ofNat 64 (t.args.nat (128 + 8 * j) 8)
  let s2 := match t.key with | some k => k.setWidth 64 | none => words.getD 0 0
  let regs : Vector Word 64 := Vector.ofFn fun r =>
    if r.val = 1 then BitVec.ofNat 64 t.index else if r.val = 2 then s2 else if 3 ≤ r.val ∧ r.val ≤ 9 then words.getD (r.val - 2) 0 else 0
  let caps : Vector Cap 32 := Vector.ofFn fun r =>
    if r.val = 0 then padCap t.colour cl way0 t.ways
    else if r.val ≤ 7 then t.args.cap (r.val - 1)
    else if r.val = 8 then d.cap 9 else if r.val = 9 then d.cap 10 else .null
  let W := descPriv d
  { hart := { Hart.reset with s := regs, c := caps, pc := pc, scode := { code with cursor := pc } },
    lane := { v := ((Vector.replicate 64 ⟨0, 0⟩).set 0 ⟨basketReg t.pays 0, 0⟩).set 1 ⟨basketReg t.pays 1, 0⟩,
              p := (Vector.replicate 96 0).set 0 (BitVec.allOnes 2048), vl := Config.lanes32, vtype := 2,
              present := if t.key.isSome then 4 * t.pays.length else Config.lanes32, fpctl := 0, fpstat := 0, queue := [], lastRun := none,
              runs := 0, relRuns := 0, fencedRuns := 0 },
    life := .running, index := i, role := role, team := team, ctx := t.ctx, world := t.world, gridId := t.gridId, teamId := t.teamId,
    lcode := d.cap 1, flanes := 0, preempt := 50000, vbud := roleV d role, sbud := roleS d role, tokens := Vector.replicate 16 none, arrivals := [],
    copies := [], openOps := [], openAccs := [], batches := [], lastClosed := 0, lastRetired := 0, openGraph := none, stepping := .off,
    priv := if W = 0 then .null else { d.cap 2 with cursor := BitVec.ofNat 64 ((d.cap 2).base + slot * W * 256) }, privW := W,
    blocks := blocks, cont := none, gen := gen, stopAt := 0, owed := none }

/-- The slot that a group takes on a core: the lowest that its parent team has freed, for an heir (R282), else the lowest free one. -/
def State.slotFor (s : State) (cl core : Nat) (freed : List Nat) : Option Nat :=
  match (List.range 32).find? fun i => freed.contains (cl * 128 + core * 32 + i) && (s.group (cl * 128 + core * 32 + i)).isNone with
  | some i => some (cl * 128 + core * 32 + i)
  | none => s.freeSlot cl core

/-- Group i of a team placed on a core. -/
def State.placeGroup (s : State) (t : TeamSpec) (cl way0 team : Nat) (freed : List Nat) (p : Nat × Nat) : State :=
  match s.slotFor cl p.2 freed with
  | none => s
  | some k =>
    let gen := mapGetD (s.cluster cl).slotGens k 0 + 1
    let blocks := s.freeBlocks cl p.2 (roleV t.desc (t.roles.getD p.1 0) / 8)
    let s1 := s.modCluster cl fun c => { c with slotGens := mapSet c.slotGens k gen }
    ({ s1 with groups := mapSet s1.groups k (t.group cl way0 team k p.1 blocks gen) }).modTeam team fun tm =>
      { tm with slots := tm.slots ++ [k], live := tm.live + 1 }

/-- A team entered under an id, which is the next number: the cluster's split, and a new generation for each way of a new allocation (R21, R275). -/
def State.allocate (s : State) (id : Nat) (team : Team) (sp : Spot) (keepGens : Bool) : State :=
  let cl := team.cluster
  let split := s.splitFor cl team.ctx
  let fresh := (s.teamsOf cl).isEmpty
  { s.openWays cl (s.cluster cl).split split with teams := mapSet s.teams id team, nextId := id + 1 }.modCluster cl fun c => { c with
    split := split, splitCtx := if fresh then team.ctx else c.splitCtx,
    wayGens := if keepGens then c.wayGens else (List.range team.ways).foldl (fun g i => vmod g (sp.way0 + i) (· + 1)) c.wayGens }

/-- A team placed at a spot of a cluster, from where the dispatcher then goes on (R275). A new allocation is cleared and takes a new generation, accumulators
    are zero, planes invalid; an heir keeps its parent's ways as they are and takes the slots, and holds the barrier slots and the pair, that its parent leaves
    it (R276, R282). -/
def State.placeTeam (s : State) (t : TeamSpec) (cl : Nat) (sp : Spot) (heirOf : Option Team) : State :=
  let id := s.nextId
  let n := t.roles.length
  let team : Team :=
    { ctx := t.ctx, world := t.world, gridId := t.gridId, index := t.index, teamId := t.teamId, cluster := cl, way0 := sp.way0, ways := t.ways,
      nbar := t.bars, bars := Vector.replicate 16 ⟨n, 0, 0, 0⟩, pair := sp.pair, issuer := t.issuer, slots := [], live := 0,
      ring := descRing t.desc, ringNext := 0, queue := t.queue, prio := t.prio, heir := none, grid := t.grid, save := none, order := id,
      barSlots := (match heirOf with | some p => p.barSlots | none => t.bars), pairHeld := (match heirOf with | some p => p.pairHeld | none => sp.pair), held := [] }
  let s1 := s.allocate id team sp heirOf.isSome
  let s2 := if heirOf.isSome then s1 else s1.zeroRange (wayKey cl sp.way0) (t.ways * 0x8000)
  let s3 := match sp.pair with
    | some p => ((s2.zeroAccs cl p).modCore cl (2 * p) fun c => { c with active := .reset, shadow := .reset }).modCore cl (2 * p + 1)
        fun c => { c with active := .reset, shadow := .reset }
    | none => s2
  let freed := match heirOf with | some p => p.held.map (·.slot) | none => []
  sp.cores.foldl (fun s p => s.placeGroup t cl sp.way0 id freed p) { s3 with disp := { s3.disp with lastCluster := some cl } }

/-! ### Basket registration (R284) -/

/-- Whether two key ranges meet. -/
def keysMeet (a n b m : Nat) : Bool := n != 0 && m != 0 && a < b + m && b < a + n

/-- The registration of a kernel's bins: nothing to do, refused, or the context changed. -/
def State.registerBins (s : State) (ctx queue : Nat) (p d a : Rec) : Option State :=
  let n := descKeys d
  if n = 0 then some s
  else match s.ctx ctx with
    | none => some s
    | some c =>
      if c.bins.any fun b => b.first == descKey d && b.count == n && b.desc == d.bytes then some s
      else if c.bins.any fun b => keysMeet b.first b.count (descKey d) n then none
      else
        let b : BinReg := ⟨descKey d, n, queue, Config.gridNumber s.disp.nextGrid, p.bytes, p.tags, d.bytes, d.tags, a.bytes, a.tags⟩
        some { s.modCtx ctx fun c => { c with bins := c.bins ++ [b] } with disp := { s.disp with nextGrid := s.disp.nextGrid + 1 } }

/-! ### The dispatcher's next team (R272, R273, R275, R279) -/

/-- The clusters in the order in which the dispatcher tries them, after a given one. -/
def clustersAfter (last : Option Nat) : List Nat :=
  match last with
  | some l => (List.range Config.nClusters).map fun i => (l + 1 + i) % Config.nClusters
  | none => List.range Config.nClusters

/-- Whether a context's teams may be placed: it is Live (R370). -/
def State.placeable (s : State) (ctx : Nat) : Bool := match s.ctx ctx with | some c => c.state == .live | none => false

/-- The first allowed cluster where a team fits, with its place there. -/
def State.findSpot (s : State) (t : TeamSpec) (p : Rec) (last : Option Nat) : Option (Nat × Spot) :=
  if !s.placeable t.ctx then none
  else (clustersAfter last).findSome? fun cl =>
    if p.onDie (clusterDie cl) && !(s.die (clusterDie cl)).fatal then (s.spot t cl none).map fun sp => (cl, sp) else none

/-- The packet of a grid. -/
def Grid.pkt (g : Grid) : Rec := ⟨g.packet, g.ptags⟩
/-- The descriptor of a grid. -/
def Grid.drec (g : Grid) : Rec := ⟨g.desc, g.dtags⟩

/-- The team of a grid with a linear index (R30). -/
def State.gridTeam (s : State) (k : Nat) (g : Grid) (args : Rec) : TeamSpec :=
  let (x, y, _) := g.pkt.dims
  let d := g.drec
  { ctx := g.ctx, world := (match s.ctx g.ctx with | some c => c.world | none => 0), gridId := g.gridId, grid := some k, index := g.next,
    teamId := BitVec.ofNat 64 (g.next % x + g.next / x % y * 2 ^ 16 + g.next / (x * y) * 2 ^ 32), queue := g.queue, prio := g.prio, desc := d,
    args := args, roles := descGroups d, ways := descWays d, bars := descBars d, pair := descPair d, issuer := g.pkt.issuer,
    colour := (g.pkt.cap 0).colour, key := none, pays := [] }

/-- A grid of the dispatcher changed. -/
def State.modGrid (s : State) (k : Nat) (f : Grid → Grid) : State := { s with disp := { s.disp with grids := mapMod f s.disp.grids k } }

/-- The argument block of a tagged launch (R285): `c7` the buffer capability, `s9` the payload's length. -/
def netArgs (net : Option (Cap × Word)) (a : Rec) : Rec := match net with | some n => (a.setCap 6 n.1).setWord 23 n.2 | none => a

/-- The next team of a grid that a queue is placing, placed if it fits anywhere. Its argument block is read, and its bins registered, when the
    first team has its place; both may still refuse the grid (R270, R279, R284). -/
def State.placeNext (s : State) (q k : Nat) (g : Grid) : Option State :=
  let blank : Rec := ⟨List.replicate 192 0, List.replicate 12 false⟩
  let t := s.gridTeam k g (match g.args with | some a => ⟨a.1, a.2⟩ | none => blank)
  match s.findSpot t g.pkt (match g.last with | some l => some l | none => s.disp.lastCluster) with
  | none => none
  | some (cl, sp) =>
    let w := s.whoCtx g.ctx cl false
    let drop := fun (s : State) => { s with disp := { s.disp with grids := mapDel s.disp.grids k, heads := mapDel s.disp.heads q } }
    match (match g.args with
      | some a => (Except.ok ⟨a.1, a.2⟩ : Except (BitVec 8) Rec)
      | none => s.readArgs w (if g.hostArgs then some (s.queue q) else none) g.pkt) with
    | .error e => some (drop (s.refuse g.ctx g.pkt ⟨g.cluster, g.node, g.net⟩ e))
    | .ok a0 =>
      let a := netArgs g.net a0
      match (if g.args.isNone then s.registerBins g.ctx q g.pkt g.drec a else some s) with
      | none => some (drop (s.refuse g.ctx g.pkt ⟨g.cluster, g.node, g.net⟩ (freeCause s.free)))
      | some s1 =>
        let s2 := (s1.placeTeam { t with args := a } cl sp none).modGrid k fun g =>
          { g with args := some (a.bytes, a.tags), next := g.next + 1, live := g.live + 1, last := some cl, waited := s.time }
        some { s2 with disp := { s2.disp with
          lastQueue := vset s2.disp.lastQueue g.prio q,
          heads := if g.next + 1 < g.pkt.teams then s2.disp.heads else mapDel s2.disp.heads q } }

/-- The next packet of a queue, in posting order: a continuation that stands before the ring's next packet, or that packet; with who posted it,
    whether the queue is open to it, whether its argument block is a host's (R350), and the state without it. A continuation whose queue is not open to its context is due at once (R282). A packet
    whose write waits for the lock of its page is not there yet (R264). -/
def State.nextPacket (s : State) (q : Nat) : Option (Nat × Rec × Post × Bool × Bool × State) :=
  let d := s.queue q
  let ring := d.isOpen && !d.broken && d.held != 0 && !s.stalled.any fun w => w.meets (d.slot d.head.toNat) 64
  match s.disp.conts.findIdx? fun c => c.queue == q && (!d.isOpen || d.ctx != c.ctx || !ring || (d.head - c.tail).toNat < 2 ^ 31) with
  | some i =>
    match s.disp.conts[i]? with
    | some c => some (c.ctx, ⟨c.packet, c.ptags⟩, ⟨c.cluster, none, none⟩, d.isOpen && d.ctx == c.ctx, false,
        { s with disp := { s.disp with conts := dropAt s.disp.conts i } })
    | none => none
  | none =>
    if !ring then none
    else
      let ps := mapGetD s.disp.posts q []
      let s1 := s.modQueue q fun d => { d with head := d.head + 1 }
      some (d.ctx, s.packet d d.head.toNat, ps.headD ⟨192, none, none⟩, true, d.hostOwned,
        { s1 with disp := { s1.disp with posts := mapSet s1.disp.posts q (ps.drop 1) } })

/-- A step of the dispatcher at one queue: a team of the grid it is placing, or the next packet taken, which is refused or becomes that grid; none
    where nothing can be done. -/
def State.tryQueue (s : State) (q : Nat) : Option State :=
  match mapGet s.disp.heads q with
  | some k => (match mapGet s.disp.grids k with | some g => s.placeNext q k g | none => none)
  | none =>
    match s.nextPacket q with
    | none => none
    | some (ctx, p, by', isOpen, host, s1) =>
      if !s.placeable ctx || !s.running then none
      else if !isOpen then some (s1.refuse ctx p by' (freeCause s1.free))
      else match s1.launchCheck (s1.whoCtx ctx by'.eventCluster false) p with
        | .error e => some (s1.refuse ctx p by' e)
        | .ok d =>
          let k := s1.disp.nextGrid
          let g : Grid :=
            { ctx := ctx, gridId := Config.gridNumber k, queue := q, prio := (s.queue q).prio, cluster := by'.cluster, hostArgs := host, packet := p.bytes, ptags := p.tags,
              desc := d.bytes, dtags := d.tags, args := none, next := 0, total := p.teams, live := 0, last := none, node := by'.node, net := by'.net,
              waited := s.time }
          let s2 := { s1 with disp := { s1.disp with nextGrid := k + 1, grids := mapSet s1.disp.grids k g, heads := mapSet s1.disp.heads q k } }
          some ((s2.placeNext q k g).getD s2)

/-- The priority at which the dispatcher serves a queue. -/
def State.servePrio (s : State) (q : Nat) : Nat :=
  match (mapGet s.disp.heads q).bind fun k => mapGet s.disp.grids k with
  | some g => g.prio
  | none => (s.queue q).prio

/-- The queues of a priority in the order of its rounds (R273). -/
def State.round (s : State) (p : Nat) : List Nat :=
  ((List.range 256).map fun i => (vgetD s.disp.lastQueue p 255 + 1 + i) % 256).filter fun q => s.servePrio q == p

end Sys2Proof.Machine
end

