-- ==== Sys2Proof/Machine/Exit.lean ====
section
/-! DEFINITION. Device enqueue, exit, continuations, heirs, the retirement of groups, teams and grids (R48, R52, R151 to R153, R263, R280 to R283,
R390). -/
namespace Sys2Proof.Machine
open Sys2Proof

/-! ### Discarded runs -/

/-- The words of a lane queue that have not issued. -/
def unissued (q : List Run) : List (BitVec 96) := q.flatMap fun r => r.words

/-- The runs of slot k's group discarded, with the counts that their words hold (R48); the issue slot is given up when the word that issued there last has had
    its time (R17). -/
def State.discardRuns (s : State) (k : Nat) : State :=
  let held := decide (((s.cluster (slotCluster k)).core (slotCore k)).holder = some k)
  (if held then (s.modCore (slotCluster k) (slotCore k) fun c => { c with ending := true }).endTurn (slotCluster k) (slotCore k) else s).modGroup k fun g =>
    let n := runCounts (unissued g.lane.queue)
    { g with lane := { g.lane with queue := [] }, hart := { g.hart with ld := g.hart.ld - n.1, st := g.hart.st - n.2 } }

/-- The open matrix operations of a group closed into a batch (R198), which takes a number among the operations. -/
def Group.closeBatch (g : Group) (id : Nat) : Group :=
  { g with lastClosed := g.lastClosed + 1, batches := g.batches ++ [⟨id, g.lastClosed + 1, g.openOps, g.openAccs⟩], openOps := [], openAccs := [],
           hart := { g.hart with mx := g.hart.mx + 1 } }

/-- The numbers of the matrix operations that a cluster's queues hold. -/
def Cluster.mxIds (c : Cluster) : List Nat := c.cores.toList.flatMap fun x => x.mq.map (·.id)

/-- The oldest batches of a group retired, in number order, as long as none of their operations is in a queue (R198). -/
def Group.retireBatches (g : Group) (ids : List Nat) : Group :=
  let n := (g.batches.takeWhile fun b => b.ops.all fun i => !ids.contains i).length
  match (g.batches.take n).getLast? with
  | some b => { g with lastRetired := b.num, batches := g.batches.drop n, hart := { g.hart with mx := g.hart.mx - n } }
  | none => g

/-- Slot k's group enters Exiting (R50): runs and tokens discarded (R152, R236), open matrix operations closed into a batch (R198). -/
def State.enterExiting (s : State) (k : Nat) : State :=
  { (s.discardRuns k).modGroup k fun g =>
      let g1 := if g.openOps.isEmpty then g else (g.closeBatch s.nextId).retireBatches (s.cluster (slotCluster k)).mxIds
      { g1 with life := .exiting, tokens := Vector.replicate 16 none, owed := none } with nextId := s.nextId + 1 }

/-- Whether a run of slot k's group is Issuing (R38): the group holds the issue slot of its core. -/
def State.issuingRun (s : State) (k : Nat) : Bool := ((s.cluster (slotCluster k)).core (slotCore k)).holder == some k

/-! ### `qpost`, `exit`, `exitc` -/

/-- The packet at cursor(c[a]), with its checks (R151); a release waits for the accesses before it. -/
def State.packetOp (s : State) (a : BitVec 5) (body : Rec → State → Res) : Res :=
  s.accessOp (.load (s.c a) (s.c a).cursor.toNat 64) fun k s =>
    if !s.released then .next s
    else body (s.readRec [⟨k, 64⟩] ((s.c a).has Perm.loadCap) s.who.mask) s

/-- `qpost` (R151). -/
def execQpost (d : BitVec 6) (a : BitVec 5) (s : State) : Res :=
  s.scalarOp [d] [a] fun s => s.packetOp a fun p s =>
    let r := s.post s.who.ctx p.queueNo p ⟨s.curCluster, none, none⟩
    .next (r.1.setX d (BitVec.ofNat 64 r.2)).advance

/-- `exit` (R152): a run already Issuing finishes first. -/
def execExit (s : State) : Res := s.groupOnly fun k _ => if s.issuingRun k then .next s else .next (s.advance.enterExiting k)

/-- What a team holds of its cores (R281): groups, vector and scalar budgets, of its resident groups and of those whose slots it keeps for its heir. -/
def State.teamHolds (s : State) (id : Nat) (t : Team) : Nat × Nat × Nat :=
  let l := ((s.groups.filter fun p => p.2.team == id).map fun p => (p.2.vbud, p.2.sbud)) ++ t.held.map fun h => (h.v, h.s)
  (l.length, (l.map (·.1)).sum, (l.map (·.2)).sum)

/-- Whether a continuation's grid and team fit what the exiting team holds (R281). -/
def State.contFits (s : State) (id : Nat) (t : Team) (p d : Rec) : Bool :=
  let rs := descGroups d
  let h := s.teamHolds id t
  p.dims == (1, 1, 1) && descWays d ≤ t.ways && descBars d ≤ t.barSlots && rs.length ≤ h.1 && (rs.map (roleV d)).sum ≤ h.2.1 &&
    (rs.map (roleS d)).sum ≤ h.2.2 && (!descPair d || t.pairHeld.isSome)

/-- `exitc` (R153, R281, R282): the first of a team makes its heir. A kernel capability that fails R70 stops the group with its cause. -/
def execExitc (a : BitVec 5) (s : State) : Res :=
  s.groupOnly fun k g => s.scalarOp [] [a] fun s => s.packetOp a fun p s =>
    if s.issuingRun k then .next s
    else match s.readDesc s.who p with
      | .error (e, x) => .next (s.raise e (BitVec.ofNat 64 x))
      | .ok d =>
        match s.team g.team with
        | none => .next s
        | some t =>
          if !s.contFits g.team t p d then .next (s.raiseHere Cause.illegalInsn)
          else
            let s1 := s.advance.enterExiting k
            .next (if t.heir.isNone then s1.modTeam g.team fun t => { t with heir := some (p.bytes, p.tags) }
                   else s1.modGroup k fun g => { g with cont := some (p.bytes, p.tags) })

/-! ### Retirement -/

/-- The first key of a block of a core's vector register file (R26). -/
def blockKey (cl core block : Nat) : Nat := Config.windowKey + cl * 0x1000000 + 0x200000 + core * 0x200000 + block * 0x800

/-- What a team of a protected world held, zeroed when it is released: ways, accumulators, and the register blocks of its retired groups (R390). -/
def State.releaseTeam (s : State) (id : Nat) (t : Team) : State :=
  let s1 := { s with teams := mapDel s.teams id }
  if t.world = 0 ∨ t.world = 255 then s1
  else
    let s2 := t.held.foldl (fun s h => h.blocks.foldl (fun s b => s.zeroRange (blockKey t.cluster (slotCore h.slot) b) 0x800) s)
      (s1.zeroRange (wayKey t.cluster t.way0) (t.ways * 0x8000))
    match t.pairHeld with
    | some p => s2.zeroAccs t.cluster p
    | none => s2

/-- A grid's completion signal (R263, R269), and its record removed. -/
def State.completeGrid (s : State) (k : Nat) (g : Grid) : State :=
  let r := s.signal g.ctx g.pkt
  let s1 := match r.2 with
    | some e => r.1.packetEvent (Post.mk g.cluster none none).eventCluster 6 e g.pkt
    | none => r.1
  { s1 with disp := { s1.disp with grids := mapDel s1.disp.grids k } }

/-- One team of a grid gone: the grid completes when it was the last (R263). -/
def State.teamGone (s : State) (grid : Option Nat) : State :=
  match grid with
  | none => s
  | some k =>
    let s1 := s.modGrid k fun g => { g with live := g.live - 1 }
    match mapGet s1.disp.grids k with
    | some g => if g.live = 0 ∧ g.next = g.total then s1.completeGrid k g else s1
    | none => s1

/-- The heir of a team placed in its resources (R282), where its parent's groups have left room, as `HeirTry` tries it (log entry 28). A refusal releases the resources. DESIGN CHOICE: the heir keeps its parent's priority, and a queue that is not open to
    the context is no reason to refuse it (log entry 62). -/
def State.placeHeir (s : State) (id : Nat) (t : Team) (p : Rec) : Option State :=
  let w := s.whoCtx t.ctx t.cluster false
  let by' : Post := ⟨t.cluster, none, none⟩
  let refuse := fun (s : State) e => some ((s.releaseTeam id t).refuse t.ctx p by' e)
  match s.launchCheck w p with
  | .error e => refuse s e
  | .ok d =>
    match s.readArgs w none p with
    | .error e => refuse s e
    | .ok a =>
      match s.registerBins t.ctx p.queueNo p d a with
      | none => refuse s (freeCause s.free)
      | some s1 =>
        let k := s1.disp.nextGrid
        let g : Grid :=
          { ctx := t.ctx, gridId := Config.gridNumber k, queue := p.queueNo, prio := t.prio, cluster := t.cluster, hostArgs := false,
            packet := p.bytes, ptags := p.tags, desc := d.bytes, dtags := d.tags, args := some (a.bytes, a.tags), next := 0, total := 1, live := 1,
            last := some t.cluster, node := none, net := none, waited := s.time }
        let spec := { s1.gridTeam k g a with ways := t.ways }
        match [HeirTry.freed, .any, .over].findSome? fun x => s1.spot spec t.cluster (some (t.way0, t.pairHeld, t.held, x)) with
        | none => none
        | some sp =>
          let s2 := { s1 with disp := { s1.disp with nextGrid := k + 1, grids := mapSet s1.disp.grids k { g with next := 1 } }, teams := mapDel s1.teams id }
          some (s2.placeTeam spec t.cluster sp (some t))

/-- The matrix operations of a slot that a cluster's queues hold. -/
def Cluster.mxOf (c : Cluster) (k : Nat) : List MxOp := (c.cores.toList.flatMap fun x => x.mq).filter fun o => o.slot == k

/-- Whether a group has nothing outstanding (R52), its last lane word's time included. -/
def State.quiet (s : State) (k : Nat) (g : Group) : Bool :=
  let h := g.hart
  h.ld == 0 && h.st == 0 && h.cp == 0 && h.mx == 0 && h.pend.isEmpty && g.arrivals.isEmpty && g.copies.isEmpty &&
    ((s.cluster (slotCluster k)).mxOf k).isEmpty && !s.issuingRun k

/-- The trap record's address of a slot (R355). -/
def State.trapRecord (s : State) (k : Nat) : Nat := physAddr ((s.cluster (slotCluster k)).svc.strapbase + BitVec.ofNat 64 (0x1000 * (k % 128)))

/-- The valid bit of a slot's trap record cleared: calls not yet delivered are discarded (R356). -/
def State.dropCalls (s : State) (k : Nat) : State :=
  let a := s.trapRecord k
  let w := s.readNat a 8
  if w.testBit 16 then s.agentPut a (leBytes 8 (w - 2 ^ 16)) else s

/-- `GROUP_RETIRE` (R52): an Exiting group with nothing outstanding retires, its slot and registers kept where its team has an heir; its team's last group
    hands over to the heir or releases the team, and may complete the grid (R263, R282). -/
def execGroupRetire (slot : Nat) (s : State) : Res :=
  match s.group slot with
  | none => .next s
  | some g =>
    if g.life != .exiting || !s.quiet slot g then .next s
    else match s.team g.team with
      | none => .next { s with groups := mapDel s.groups slot }
      | some t =>
        let s1 := (s.dropCalls slot).trace slot 8 0 false
        let s2 := { s1 with groups := mapDel s1.groups slot }
        let s3 := match g.cont with
          | some (b, tg) =>
            let p : Rec := ⟨b, tg⟩
            { s2 with disp := { s2.disp with conts := s2.disp.conts ++ [Cont.mk g.ctx t.cluster p.queueNo (s2.queue p.queueNo).tail b tg] } }
          | none => s2
        let t := if t.heir.isSome then { t with held := t.held ++ [⟨slot, g.vbud, g.sbud, g.blocks⟩] } else t
        if 1 < t.live then .next (s3.modTeam g.team fun _ => { t with live := t.live - 1 })
        else match t.heir with
          | none => .next ((s3.releaseTeam g.team t).teamGone t.grid)
          | some (b, tg) =>
            match (s3.modTeam g.team fun _ => t).placeHeir g.team t ⟨b, tg⟩ with
            | some s4 => .next (s4.teamGone t.grid)
            | none => .next s

end Sys2Proof.Machine
end

