-- ==== Sys2Proof/Machine/Basket.lean ====
section
/-! DEFINITION. The Basket: deposits, spills, launches of bins (R49, R154, R188, R284). -/
namespace Sys2Proof.Machine
open Sys2Proof

/-- The registration of a key of a context (R284). -/
def State.binReg (s : State) (ctx : Nat) (key : BitVec 16) : Option BinReg :=
  match s.ctx ctx with
  | some c => c.bins.find? fun b => b.first ≤ key.toNat && key.toNat < b.first + b.count
  | none => none

/-- Whether an entry belongs to a bin. -/
def BasketEntry.isOf (e : BasketEntry) (ctx : Nat) (key : BitVec 16) : Bool := e.ctx == ctx && e.key == key

/-- The entries that a bin holds, oldest first. -/
def Basket.bin (b : Basket) (ctx : Nat) (key : BitVec 16) : List BasketEntry := b.entries.filter fun e => e.isOf ctx key

/-- A list without its first n elements for which a test holds. -/
def dropFirst {α : Type} (p : α → Bool) : Nat → List α → List α
  | 0, l => l
  | _, [] => []
  | n + 1, x :: xs => if p x then dropFirst p n xs else x :: dropFirst p (n + 1) xs

/-- The oldest n entries of a bin launched (R49): removed, and awaiting placement from a time on. -/
def Basket.launch (b : Basket) (ctx : Nat) (key : BitVec 16) (n time : Nat) : Basket :=
  { b with entries := dropFirst (fun e => e.isOf ctx key) n b.entries, ready := b.ready ++ [⟨ctx, key, ((b.bin ctx key).take n).map (·.pay), time⟩] }

/-- Entries that one group takes, VLEN / 128 (R49). -/
abbrev binFull : Nat := Config.vlen / 128

/-- A bin launched if it is full (R49). -/
def Basket.launchFull (b : Basket) (ctx : Nat) (key : BitVec 16) (time : Nat) : Basket :=
  if binFull ≤ (b.bin ctx key).length then b.launch ctx key binFull time else b

/-- A bin emptied by launches, oldest entries first. -/
def Basket.flush (time : Nat) : Nat → Basket → Nat → BitVec 16 → Basket
  | 0, b, _, _ => b
  | f + 1, b, ctx, key =>
    let n := (b.bin ctx key).length
    if n = 0 then b else Basket.flush time f (b.launch ctx key (min n binFull) time) ctx key

/-! ### The spill area (R49, R284; log entry 40) -/

/-- The spill capability of a bin, with the first of the keys that it was registered with. -/
def State.spillCap (s : State) (ctx : Nat) (key : BitVec 16) : Option (Nat × Cap) := (s.binReg ctx key).map fun r => (r.first, (⟨r.desc, r.dtags⟩ : Rec).cap 3)

/-- The entries that a spill area holds for 64 bytes each (R284). -/
def spillRoom (c : Cap) : Nat := (c.top - c.base) / 64

/-- The places of a spill area that are taken, by the Baskets of all clusters. -/
def State.spillTaken (s : State) (ctx first : Nat) : List Nat :=
  s.clusters.toList.flatMap fun c => (c.basket.spilled.filter fun e => e.ctx == ctx && (s.spillCap ctx e.key).map (·.1) == some first).map (·.place)

/-- Where entry `place` of a spill area lies for reads or writes of its context: 64 bytes, and the TLB entries to install. -/
def State.spillAt (s : State) (cl ctx : Nat) (c : Cap) (place : Nat) (wr : Bool) : Option (List Seg × List TlbEntry) :=
  match s.resolve (s.whoCtx ctx cl false) c [if wr then Perm.store else Perm.load] (if wr then Need.write else Need.read) (c.base + 64 * place) 64 1 with
  | .ok r => some r
  | .error _ => none

/-- The bytes of an entry in its spill area: the payload, the key, zero. DESIGN CHOICE (log entry 40). -/
def BasketEntry.bytes (e : BasketEntry) : List Byte := leBytes 32 e.pay.toNat ++ leBytes 2 e.key.toNat ++ List.replicate 30 0

/-- Bytes written by an agent over ranges; a page of another package takes them by a request (R266). -/
def State.agentSegs (s : State) (w : Who) : List Seg → List Byte → State
  | [], _ => s
  | a :: l, bs =>
    State.agentSegs (s.agentSend w a.lo (bs.take a.len)) w l (bs.drop a.len)

/-- One entry moved to the lowest free place of its spill area; none where the area is full or its place is out of reach. -/
def State.spillOne (s : State) (cl : Nat) (e : BasketEntry) : Option State :=
  match s.spillCap e.ctx e.key with
  | none => none
  | some (first, c) =>
    let taken := s.spillTaken e.ctx first
    let place := ((List.range (taken.length + 1)).find? fun i => !taken.contains i).getD 0
    if spillRoom c ≤ place then none
    else match s.spillAt cl e.ctx c place true with
      | none => none
      | some (segs, ts) =>
        some (((s.fill cl ts).agentSegs (s.whoCtx e.ctx cl false) segs e.bytes).modCluster cl fun x => { x with basket := { x.basket with
          entries := x.basket.entries.filter fun y => y.num != e.num, spilled := x.basket.spilled ++ [⟨e.ctx, e.key, place, e.num⟩] } })

/-- Entries moved to their spill area one after another, if all can be. -/
def State.spillAll (s : State) (cl : Nat) : List BasketEntry → Option State
  | [] => some s
  | e :: rest => match s.spillOne cl e with | some s1 => State.spillAll s1 cl rest | none => none

/-- Room for an entry in a cluster's Basket: where it is full, the entries of the oldest bin move to the spill area; none where that would pass its capacity.
    DESIGN CHOICE (log entry 54): the oldest bin is that of the oldest entry held. -/
def State.makeRoom (s : State) (cl : Nat) : Option State :=
  let b := (s.cluster cl).basket
  if b.entries.length < 4096 then some s
  else match b.entries with
    | [] => some s
    | e :: _ => s.spillAll cl (b.bin e.ctx e.key)

/-- One entry deposited, its bin launched when full. -/
def State.depositOne (s : State) (cl : Nat) (e : BasketEntry) : Option State :=
  (s.makeRoom cl).map fun s1 => s1.modCluster cl fun c => { c with basket :=
    { c.basket with entries := c.basket.entries ++ [e], last := mapSet c.basket.last (65536 * e.ctx + e.key.toNat) s.time }.launchFull e.ctx e.key s.time }

/-- Entries deposited in ascending element order; the elements refused. -/
def State.depositAll (cl : Nat) : State → List (Nat × BasketEntry) → State × List Nat
  | s, [] => (s, [])
  | s, (k, e) :: rest =>
    match s.depositOne cl e with
    | some s1 => State.depositAll cl s1 rest
    | none => (s, k :: rest.map (·.1))

/-- The entry of element k (R188), deposits numbered from `num`. -/
def View.entry (v : View) (num : Nat) (a b : BitVec 6) (k : Nat) : BasketEntry :=
  let at' := fun i => (v.l.vreg (b.toNat + (32 * k + i) / 256)).read ((32 * k + i) % 256 * 8) 8
  ⟨v.g.ctx, BitVec.ofNat 16 (v.a a 32 k), BitVec.ofNat 256 (leNat ((List.range 32).map fun i => BitVec.ofNat 8 (at' i))), num + k⟩

/-- `vbasket` (R49, R188): a release of the group's earlier accesses. A refusal at the spill limit stops the group before the word. -/
def execVbasket (c : Ctl) (a b : BitVec 6) (s : State) : Res :=
  let u := Uses.basket c a b
  s.laneOp u fun v s =>
    let es := (v.l.actives c).map fun k => (k, v.entry s.nextId a b k)
    let bad := es.filter fun e => (s.binReg v.g.ctx e.2.key).isNone
    if !bad.isEmpty then .next (s.raiseLane v Cause.capBounds v.run.addr (elemMask (bad.map (·.1))))
    else if !v.g.hart.performed then .next s
    else
      let cl := slotCluster v.slot
      let r := State.depositAll cl { s with nextId := s.nextId + Config.lanes32 } es
      if r.2.isEmpty then .next ((r.1.laneIssued v (u v.t)).enterExiting v.slot)
      else .next (r.1.raiseLane v Cause.capBounds v.run.addr (elemMask r.2))

/-- A bin of a cluster launched whole. -/
def State.flushBin (s : State) (cl ctx : Nat) (key : BitVec 16) : State :=
  s.modCluster cl fun c => { c with basket := Basket.flush s.time (c.basket.bin ctx key).length c.basket ctx key }

/-- `bflush` (R154). -/
def execBflush (a : BitVec 6) (s : State) : Res :=
  s.groupOnly fun k g => s.scalarOp [a] [] fun s => .next (s.flushBin (slotCluster k) g.ctx ((s.x a).setWidth 16)).advance

/-- `BASKET_BIN_TIMEOUT` (R49): a bin in which nothing was deposited for 10 µs. -/
def execBasketBinTimeout (cluster ctx : Nat) (key : BitVec 16) (s : State) : Res :=
  let last := mapGetD (s.cluster cluster).basket.last (65536 * ctx + key.toNat) 0
  .next (if last + usTime 10 ≤ s.time then s.flushBin cluster ctx key else s)

/-- An entry back in its place in the order of deposits. -/
def Basket.insert (b : Basket) (e : BasketEntry) : Basket :=
  { b with entries := (b.entries.takeWhile fun x => x.num < e.num) ++ e :: b.entries.dropWhile fun x => x.num < e.num }

/-- `BASKET_SPILL_RETURN` (R49): the oldest spilled entry of a context returns to its place, its payload read back from the spill area; its bin launches if
    that fills it. An entry out of reach stays (log entry 40). -/
def execBasketSpillReturn (cluster ctx : Nat) (s : State) : Res :=
  let b := (s.cluster cluster).basket
  match b.spilled.find? fun e => e.ctx == ctx with
  | none => .next s
  | some e =>
    if 4096 ≤ b.entries.length then .next s
    else match (s.spillCap e.ctx e.key).bind fun c => s.spillAt cluster e.ctx c.2 e.place false with
      | none => .next s
      | some (segs, ts) =>
        let b1 := { b with spilled := dropFirst (fun x => x.ctx == ctx) 1 b.spilled }
        let e1 : BasketEntry := ⟨e.ctx, e.key, BitVec.ofNat 256 (leNat ((s.readSegs segs).take 32)), e.num⟩
        .next ((s.fill cluster ts).modCluster cluster fun c => { c with basket := (b1.insert e1).launchFull e.ctx e.key s.time })

/-- The team of one group that a bin launches (R284). -/
def State.binSpec (s : State) (l : BinLaunch) : Option TeamSpec :=
  match s.binReg l.ctx l.key with
  | none => none
  | some r =>
    let d : Rec := ⟨r.desc, r.dtags⟩
    some { ctx := l.ctx, world := (match s.ctx l.ctx with | some c => c.world | none => 0), gridId := r.gridId, grid := none, index := l.key.toNat,
           teamId := l.key.setWidth 64, queue := r.queue, prio := (s.queue r.queue).prio, desc := d, args := ⟨r.argWords, r.atags⟩,
           roles := [descKeyRole d], ways := descWays d, bars := descBars d, pair := descPair d, issuer := 0,
           colour := ((⟨r.packet, r.ptags⟩ : Rec).cap 0).colour, key := some l.key, pays := l.pays }

/-- A bin launch of a cluster at a priority placed, if one fits (R274, R284): the oldest first, on a die that is not die-fatal (R386). DESIGN CHOICE (log
    entry 61): the die mask of the registering grid does not bind it. -/
def State.placeBin (s : State) (cl prio : Nat) : Option State :=
  let ready := (s.cluster cl).basket.ready
  (List.range ready.length).findSome? fun i =>
    match ready[i]? with
    | none => none
    | some l =>
      match s.binSpec l with
      | none => none
      | some t =>
        if t.prio ≠ prio ∨ !s.placeable t.ctx ∨ (s.die (clusterDie cl)).fatal then none
        else (s.spot t cl none).map fun sp =>
          (s.modCluster cl fun c => { c with basket := { c.basket with ready := dropAt c.basket.ready i } }).placeTeam t cl sp none

end Sys2Proof.Machine
end

