-- ==== Sys2Proof/Machine/Crypto.lean ====
section
/-! DEFINITION. AES-256, its counter mode, the AES key unwrap, SHAKE256 and XMSS signatures, their making and their verification, which the manual names by their standards
(R344, R392, R396, R398). PRESUMED from FIPS 197, RFC 3394, FIPS 202, RFC 8391 and SP 800-208 (log entry 6). -/
namespace Sys2Proof.Machine
open Sys2Proof

/-! ### AES-256 -/

/-- Multiplication by x in the field of AES. -/
def xtime (a : Nat) : Nat := if a < 128 then 2 * a else (2 * a) % 256 ^^^ 0x1B
/-- The product of two bytes in that field; `n` bits of b are used. -/
def gmul : Nat → Nat → Nat → Nat
  | 0, _, _ => 0
  | n + 1, a, b => (if b % 2 = 1 then a else 0) ^^^ gmul n (xtime a) (b / 2)
/-- The product of two bytes. -/
def gmul8 (a b : Nat) : Nat := gmul 8 a b
/-- A byte's inverse, its 254th power; 0 for 0. -/
def ginv (a : Nat) : Nat :=
  let a2 := gmul8 a a
  let a4 := gmul8 a2 a2
  let a8 := gmul8 a4 a4
  let a16 := gmul8 a8 a8
  let a32 := gmul8 a16 a16
  let a64 := gmul8 a32 a32
  let a128 := gmul8 a64 a64
  gmul8 (gmul8 (gmul8 a2 a4) (gmul8 a8 a16)) (gmul8 (gmul8 a32 a64) a128)
/-- A byte rotated left. -/
def rotl8 (a n : Nat) : Nat := (a <<< n) % 256 ||| a >>> (8 - n)
/-- The S-box. -/
def sbox (a : Nat) : Nat := let b := ginv a; b ^^^ rotl8 b 1 ^^^ rotl8 b 2 ^^^ rotl8 b 3 ^^^ rotl8 b 4 ^^^ 0x63
/-- The inverse S-box. -/
def invSbox (a : Nat) : Nat := ginv (rotl8 a 1 ^^^ rotl8 a 3 ^^^ rotl8 a 6 ^^^ 5)

/-- Two lists combined by exclusive or. -/
def xorList (a b : List Nat) : List Nat := List.zipWith (· ^^^ ·) a b

/-- The next eight words of the key schedule. -/
def nextKeys (rcon : Nat) (w : List (List Nat)) : List (List Nat) :=
  let k := fun i => w.getD i []
  let t := match k 7 with
    | [a, b, c, d] => [sbox b ^^^ rcon, sbox c, sbox d, sbox a]
    | l => l
  let w0 := xorList (k 0) t
  let w1 := xorList (k 1) w0
  let w2 := xorList (k 2) w1
  let w3 := xorList (k 3) w2
  let w4 := xorList (k 4) (w3.map sbox)
  let w5 := xorList (k 5) w4
  let w6 := xorList (k 6) w5
  [w0, w1, w2, w3, w4, w5, w6, xorList (k 7) w6]

/-- n rounds of the key schedule from eight words. -/
def keyWords : Nat → Nat → List (List Nat) → List (List Nat)
  | 0, _, w => w
  | n + 1, rcon, w => w ++ keyWords n (xtime rcon) (nextKeys rcon w)

/-- The fifteen round keys of a 32-byte key, 16 bytes each. -/
def roundKeys (key : List Byte) : List (List Nat) :=
  let bs := key.map (·.toNat)
  let ws := keyWords 7 1 ((List.range 8).map fun i => (bs.drop (4 * i)).take 4)
  (List.range 15).map fun r => ((ws.drop (4 * r)).take 4).flatten

/-- Row shifts: byte 4c + r comes from column c + r. -/
def shiftRows (s : List Nat) : List Nat := (List.range 16).map fun i => s.getD ((i + 4 * (i % 4)) % 16) 0
/-- The inverse row shifts. -/
def invShiftRows (s : List Nat) : List Nat := (List.range 16).map fun i => s.getD ((i + 16 - 4 * (i % 4)) % 16) 0
/-- A column mix with the coefficients of its first row. -/
def mixWith (m : List Nat) (s : List Nat) : List Nat :=
  (List.range 16).map fun i => (List.range 4).foldl (fun x j => x ^^^ gmul8 (s.getD (i / 4 * 4 + (i + j) % 4) 0) (m.getD j 0)) 0

/-- The middle rounds of encryption. -/
def aesRounds (s : List Nat) (ks : List (List Nat)) : List Nat :=
  ks.foldl (fun s k => xorList (mixWith [2, 3, 1, 1] (shiftRows (s.map sbox))) k) s
/-- One block encrypted. -/
def aesEncrypt (key blk : List Byte) : List Byte :=
  let ks := roundKeys key
  let s := aesRounds (xorList (blk.map (·.toNat)) (ks.getD 0 [])) ((ks.drop 1).take 13)
  (xorList (shiftRows (s.map sbox)) (ks.getD 14 [])).map (BitVec.ofNat 8)
/-- One block decrypted. -/
def aesDecrypt (key blk : List Byte) : List Byte :=
  let ks := roundKeys key
  let s := ((ks.drop 1).take 13).reverse.foldl (fun s k => mixWith [14, 11, 13, 9] (xorList ((invShiftRows s).map invSbox) k))
    (xorList (blk.map (·.toNat)) (ks.getD 14 []))
  (xorList ((invShiftRows s).map invSbox) (ks.getD 0 [])).map (BitVec.ofNat 8)

/-- The counter block of R392 at a tweak address. -/
def counterBlock (tweak : Nat) : List Byte := leBytes 8 tweak ++ leBytes 4 0x4D5A5754 ++ leBytes 4 0

/-- Bytes deciphered from a tweak address on (R392): block b under the counter of that address + 16b. -/
def ctrDecrypt (key : List Byte) (tweak : Nat) (bytes : List Byte) : List Byte :=
  let stream := (List.range ((bytes.length + 15) / 16)).flatMap fun b => aesEncrypt key (counterBlock (tweak + 16 * b))
  List.zipWith (· ^^^ ·) bytes stream

/-- One step of the key unwrap of RFC 3394: A and R[i], at counter t. -/
def unwrapStep (key : List Byte) (t : Nat) (a r : List Byte) : List Byte × List Byte :=
  let b := aesDecrypt key (List.zipWith (· ^^^ ·) a (leBytes 8 t).reverse ++ r)
  (b.take 8, b.drop 8)
/-- The counters of the unwrap from t down, over n registers. -/
def unwrapLoop (key : List Byte) (n : Nat) : Nat → List Byte → List (List Byte) → List Byte × List (List Byte)
  | 0, a, rs => (a, rs)
  | t + 1, a, rs =>
    let i := t % n
    let (a', r') := unwrapStep key (t + 1) a (rs.getD i [])
    unwrapLoop key n t a' (rs.set i r')
/-- The AES key unwrap (RFC 3394): the plaintext, or none where the integrity check fails. -/
def keyUnwrap (kek : List Byte) (blob : List Byte) : Option (List Byte) :=
  let n := blob.length / 8 - 1
  let (a, rs) := unwrapLoop kek n (6 * n) (blob.take 8) ((List.range n).map fun i => (blob.drop (8 + 8 * i)).take 8)
  if a = List.replicate 8 0xA6 then some rs.flatten else none

/-! ### SHAKE256 -/

/-- The lane to which pi carries lane i (FIPS 202 3.2.3): with i = x + 5y, the one at (y, 2x + 3y). -/
def laneNext (i : Nat) : Nat := i / 5 + 5 * ((2 * (i % 5) + 3 * (i / 5)) % 5)

/-- The walk of rho (FIPS 202 3.2.2) from a lane, the t-th step of n: each lane met with the lane after it and its rotation, (t + 1)(t + 2) / 2. Rho turns
    the lane and pi carries it to the next of the walk. -/
def laneWalk : Nat → Nat → Nat → List (Nat × Nat × Nat)
  | 0, _, _ => []
  | n + 1, t, i => (i, laneNext i, (t + 1) * (t + 2) / 2 % 64) :: laneWalk n (t + 1) (laneNext i)

/-- The 24 steps from lane (1, 0), by the lane that each fills; lane (0, 0) stays. -/
def laneMoves : List (Nat × Nat × Nat) := (0, 0, 0) :: laneWalk 24 0 1

/-- The state of the feedback register of iota after n steps (FIPS 202 3.2.5): eight bits, x^8 + x^6 + x^5 + x^4 + 1. -/
def iotaReg : Nat → Nat
  | 0 => 1
  | n + 1 => let r := 2 * iotaReg n; if r.testBit 8 then r ^^^ 0x171 else r

/-- The constant of round r: bit 2^j - 1 of it is bit 0 of the register after j + 7r steps. -/
def roundMask (r : Nat) : Word := BitVec.ofNat 64 ((List.range 7).map fun j => iotaReg (j + 7 * r) % 2 * 2 ^ (2 ^ j - 1)).sum

/-- A state of 25 lanes. -/
abbrev Lanes := Vector Word 25

/-- Theta's term for a column: the parities of its two neighbours. -/
def Lanes.parity (a : Lanes) (x : Nat) : Word := (List.range 5).foldl (fun p y => p ^^^ vgetD a (x % 5 + 5 * y) 0) 0

/-- Theta (FIPS 202 3.2.1). -/
def Lanes.theta (a : Lanes) : Lanes := Vector.ofFn fun i => vget a i ^^^ a.parity (i.val + 4) ^^^ (a.parity (i.val + 1)).rotateLeft 1

/-- Rho and pi: each lane turned, and put where pi carries it. -/
def Lanes.rhoPi (a : Lanes) : Lanes :=
  laneMoves.foldl (fun (b : Lanes) m => vset b m.2.1 ((vgetD a m.1 0).rotateLeft m.2.2)) (Vector.replicate 25 0)

/-- Chi (FIPS 202 3.2.4): each lane and the next two of its row. -/
def Lanes.chi (a : Lanes) : Lanes :=
  Vector.ofFn fun i =>
    let row := fun d => vgetD a (i.val / 5 * 5 + (i.val + d) % 5) 0
    row 0 ^^^ (row 2 &&& ~~~row 1)

/-- Rounds r to 23 of the permutation. -/
def Lanes.rounds : Nat → Nat → Lanes → Lanes
  | 0, _, a => a
  | n + 1, r, a => Lanes.rounds n (r + 1) (vmod a.theta.rhoPi.chi 0 (· ^^^ roundMask r))

/-- A block of so many bytes, the rate, taken in before a permutation. -/
def Lanes.absorb (rate : Nat) (a : Lanes) (blk : List Byte) : Lanes :=
  Lanes.rounds 24 0 ((List.range (rate / 8)).foldl (fun a i => vmod a i (· ^^^ BitVec.ofNat 64 (leNat ((blk.drop (8 * i)).take 8)))) a)

/-- A message with its padding (FIPS 202 6.1, 6.2, 5.1): the suffix of the function and the first bit of the padding in one byte, its last bit the block's last. -/
def spongePad (rate : Nat) (suffix : Byte) (m : List Byte) : List Byte :=
  let p := m ++ [suffix]
  let q := p ++ List.replicate ((rate - p.length % rate) % rate) 0
  q.take (q.length - 1) ++ [q.getLastD 0 ||| 0x80]

/-- The blocks of a message taken in, one after another. -/
def absorbAll (rate : Nat) : Nat → Lanes → List Byte → Lanes
  | 0, a, _ => a
  | n + 1, a, p => absorbAll rate n (a.absorb rate (p.take rate)) (p.drop rate)

/-- So many blocks squeezed out (FIPS 202 4). -/
def squeeze (rate : Nat) : Nat → Lanes → List Byte
  | 0, _ => []
  | n + 1, a => (a.toList.flatMap fun w => leBytes 8 w.toNat).take rate ++ squeeze rate n (Lanes.rounds 24 0 a)

/-- So many blocks of a sponge's output on a message. -/
def sponge (rate : Nat) (suffix : Byte) (m : List Byte) (blocks : Nat) : List Byte :=
  let p := spongePad rate suffix m
  squeeze rate blocks (absorbAll rate (p.length / rate) (Vector.replicate 25 0) p)

/-- The first n bytes of SHAKE256 of a message (FIPS 202); at most one block is asked for here. -/
def shake256 (m : List Byte) (n : Nat) : List Byte := (sponge 136 0x1F m 1).take n
/-- SHA3-256 of a message. -/
def sha3_256 (m : List Byte) : List Byte := (sponge 136 0x06 m 1).take 32
/-- SHA3-512 of a message. -/
def sha3_512 (m : List Byte) : List Byte := (sponge 72 0x06 m 1).take 64

/-! ### XMSS verification, the parameter set XMSS-SHAKE256_20_256 (R344) -/

/-- Bytes of a number, most significant first. -/
def beBytes (n x : Nat) : List Byte := (leBytes n x).reverse
/-- The number of bytes, most significant first. -/
def beNat (b : List Byte) : Nat := leNat b.reverse
/-- Two byte strings combined by exclusive or. -/
def xorBytes (a b : List Byte) : List Byte := List.zipWith (· ^^^ ·) a b

/-- A keyed hash of the set: 0 F, 1 H, 2 the message hash, 3 the key derivation. -/
def xmssHash (kind : Nat) (key m : List Byte) : List Byte := shake256 (beBytes 32 kind ++ key ++ m) 32

/-- What the public seed derives for an address, whose words 3 to 7 are given: type 0 a chain, 1 the tree over a one-time key, 2 the tree of keys. -/
def xmssDerive (seed : List Byte) (w : List Nat) : List Byte := xmssHash 3 seed (List.replicate 12 0 ++ w.flatMap (beBytes 4))

/-- A one-time chain from step i on, n steps. -/
def xmssChain (seed : List Byte) (key chain : Nat) : Nat → Nat → List Byte → List Byte
  | 0, _, x => x
  | n + 1, i, x =>
    let at' := fun m => xmssDerive seed [0, key, chain, i, m]
    xmssChain seed key chain n (i + 1) (xmssHash 0 (at' 0) (xorBytes x (at' 1)))

/-- Two nodes hashed to their parent, at a height and index of a tree. -/
def xmssPair (seed : List Byte) (type at' height index : Nat) (l r : List Byte) : List Byte :=
  let d := fun m => xmssDerive seed [type, at', height, index, m]
  xmssHash 1 (d 0) (xorBytes l (d 1) ++ xorBytes r (d 2))

/-- The next level of the tree over a one-time key; a last node without a partner moves up. -/
def xmssLevel (seed : List Byte) (key height : Nat) : Nat → List (List Byte) → List (List Byte)
  | i, l :: r :: rest => xmssPair seed 1 key height i l r :: xmssLevel seed key height (i + 1) rest
  | _, l => l

/-- The root of the tree over a one-time key, within n levels. -/
def xmssTree (seed : List Byte) (key : Nat) : Nat → Nat → List (List Byte) → List Byte
  | 0, _, l => l.headD []
  | n + 1, h, l => xmssTree seed key n (h + 1) (xmssLevel seed key h 0 l)

/-- The 67 digits of a message digest: its 64 digits of 4 bits, and the 3 of their checksum. -/
def xmssDigits (m : List Byte) : List Nat :=
  let nibbles : List Byte → List Nat := fun b => b.flatMap fun x => [x.toNat / 16, x.toNat % 16]
  let d := nibbles m
  d ++ (nibbles (beBytes 2 (16 * (d.map fun x => 15 - x).sum))).take 3

/-- The root that the authentication path leads to from a node. -/
def xmssClimb (seed : List Byte) (key : Nat) : Nat → List (List Byte) → List Byte → List Byte
  | _, [], node => node
  | k, a :: path, node =>
    let up := xmssPair seed 2 0 k (key / 2 ^ (k + 1))
    xmssClimb seed key (k + 1) path (if (key / 2 ^ k) % 2 = 0 then up node a else up a node)

/-- Verification of a signature of 2,820 bytes under a public key of 68. PRESUMED from RFC 8391 and SP 800-208 (log entry 6). -/
def xmssVerify (pub m sig : List Byte) : Bool :=
  let root := (pub.drop 4).take 32
  let seed := (pub.drop 36).take 32
  let part := fun i => (sig.drop (4 + 32 * i)).take 32
  let key := beNat (sig.take 4)
  let digest := xmssHash 2 (part 0 ++ root ++ beBytes 32 key) m
  let ends := ((xmssDigits digest).zip (List.range 67)).map fun p => xmssChain seed key p.2 (15 - p.1) p.1 (part (1 + p.2))
  sig.length == 2820 && key < 2 ^ 20 &&
    xmssClimb seed key 0 ((List.range 20).map fun i => part (68 + i)) (xmssTree seed key 7 0 ends) == root

/-! ### XMSS signing (R398) -/

/-- The start of a one-time key's chain, from the secret seed (SP 800-208 7.2.1). -/
def xmssSecret (secret seed : List Byte) (key chain : Nat) : List Byte :=
  xmssHash 4 secret (seed ++ List.replicate 12 0 ++ [0, key, chain, 0, 0].flatMap (beBytes 4))

/-- A leaf of the tree of keys: the root over the ends of a one-time key's chains. -/
def xmssLeaf (secret seed : List Byte) (key : Nat) : List Byte :=
  xmssTree seed key 7 0 ((List.range 67).map fun i => xmssChain seed key i 15 0 (xmssSecret secret seed key i))

/-- A node of the tree of keys, by its height and its index there. -/
def xmssNode (secret seed : List Byte) : Nat → Nat → List Byte
  | 0, i => xmssLeaf secret seed i
  | k + 1, i => xmssPair seed 2 0 k i (xmssNode secret seed k (2 * i)) (xmssNode secret seed k (2 * i + 1))

/-- The signature of a message by the key at an index of a tree of a height: index, randomiser, the one-time signature, the authentication path. PRESUMED from
    RFC 8391 and SP 800-208 (log entry 6). -/
def xmssMake (height : Nat) (secret prf seed : List Byte) (key : Nat) (m : List Byte) : List Byte :=
  let r := xmssHash 3 prf (beBytes 32 key)
  let digest := xmssHash 2 (r ++ xmssNode secret seed height 0 ++ beBytes 32 key) m
  beBytes 4 key ++ r ++ (((xmssDigits digest).zip (List.range 67)).flatMap fun p => xmssChain seed key p.2 p.1 0 (xmssSecret secret seed key p.2)) ++
    (List.range height).flatMap fun k => xmssNode secret seed k (key / 2 ^ k ^^^ 1)

/-- The signature under the package's key at an index (R398). -/
def xmssSign (key : Nat) (m : List Byte) : List Byte :=
  xmssMake 20 Config.xmssSeeds.1.toList Config.xmssSeeds.2.1.toList Config.xmssSeeds.2.2.toList key m

end Sys2Proof.Machine
end

