-- ==== Sys2Proof/Machine/Boot.lean ====
section
/-! DEFINITION. Package reset, the verification of a firmware image, recovery (R344 to R347, R411, R412). -/
namespace Sys2Proof.Machine
open Sys2Proof

/-- n bytes of an image at an offset. -/
def imgBytes (b : List Byte) (off n : Nat) : List Byte := (b.drop off).take n
/-- n bytes of an image at an offset, as a number. -/
def imgNat (b : List Byte) (off n : Nat) : Nat := leNat (imgBytes b off n)

/-- Section i of an image: firmware complex, service kernel, configuration (R344). -/
def imgSection (b : List Byte) (i : Nat) : List Byte := imgBytes b (imgNat b (0xC0 + 16 * i) 8) (imgNat b (0xC8 + 16 * i) 8)

/-- Bytes of the tightly coupled memory of the firmware complex, 256 KiB. -/
abbrev tcmSize : Nat := 0x40000

/-- What Trailhead copies of section i before it checks its digest: the firmware complex section as the tightly coupled memory takes it, of a longer one the first
    256 KiB, the others whole. DESIGN CHOICE of the longer one (log entry 76): the manual does not say. -/
def imgLoaded (b : List Byte) (i : Nat) : List Byte := if i = 0 then (imgSection b i).take tcmSize else imgSection b i

/-- Whether an image is accepted (R344, R345), under a fused count. -/
def imageAccepted (b : List Byte) (fused : Nat) : Bool :=
  let key := imgBytes b 0x10 68
  0x1000 ≤ b.length && imgNat b 0 4 == 0x4D5A4657 && imgNat b 4 4 == 1 && imgNat b 8 8 ≤ 63 && fused ≤ imgNat b 8 8 &&
    shake256 key 32 == Config.fusedDigest && imgNat b 0x54 4 == 0 && imgNat b 0x58 8 == 0 && ((imgBytes b 0xF0 784).all (· == 0)) &&
    xmssVerify key (imgBytes b 0 0x400) (imgBytes b 0x400 2820) &&
    (List.range 3).all fun i =>
      let off := imgNat b (0xC0 + 16 * i) 8
      0x1000 ≤ off && off % 0x1000 == 0 && off + imgNat b (0xC8 + 16 * i) 8 ≤ b.length && shake256 (imgLoaded b i) 32 == imgBytes b (0x60 + 32 * i) 32

/-- A package reset: everything at its value after reset but what outlives one: the flash and what it keeps (R345, R398, R400, R411), the objects of the
    store, the crash record, memory's bytes, and the schedule of the model (log entry 19). -/
def State.warmReset (s : State) : State :=
  { State.reset with
    turns := s.turns, cur := s.cur, free := s.free, nextId := s.nextId, mem := s.mem,
    boot := { s.boot with phase := 0, incoming := [], tcm := [], digests := [], resets := s.boot.resets + 1 },
    attest := { State.reset.attest with recs := s.attest.recs, certs := s.attest.certs },
    io := { State.reset.io with objects := s.io.objects },
    fleet := { Fleet.reset with retired := s.fleet.retired, listFull := s.fleet.listFull, crash := s.fleet.crash } }

/-- A flash record of the attestation index (R398), 64 bytes: sequence number and index, 8 bytes each, the digest of both, zero. DESIGN CHOICE of the layout
    (log entry 16). -/
def indexRecord (seq index : Nat) : List Byte :=
  let b := leBytes 8 seq ++ leBytes 8 index
  b ++ shake256 b 32 ++ List.replicate 16 0

/-- The sequence number and index of a record, if it is valid (R398). -/
def readRecord (b : List Byte) : Option (Nat × Nat) :=
  let seq := leNat (b.take 8)
  let index := leNat ((b.drop 8).take 8)
  if b = indexRecord seq index ∧ index ≤ 2 ^ 20 then some (seq, index) else none

/-- Which record is the newer, and what it holds: the valid one with the higher sequence number (R398). -/
def newestRecord (recs : Vector (List Byte) 2) : Option (Nat × Nat × Nat) :=
  match readRecord recs[0], readRecord recs[1] with
  | some a, some b => if a.1 < b.1 then some (1, b) else some (0, a)
  | some a, none => some (0, a)
  | none, some b => some (1, b)
  | none, none => none

/-- `ATTIDX` at boot (R398); where neither record is valid it is not stated, and free. -/
def indexAtBoot (recs : Vector (List Byte) 2) : Nat := match newestRecord recs with | some r => r.2.2 | none => Config.indexWithout.val

/-- The records with an index written into the older one, under the next sequence number (R398). -/
def keepIndex (recs : Vector (List Byte) 2) (index : Nat) : Vector (List Byte) 2 :=
  match newestRecord recs with
  | some r => vset recs (1 - r.1) (indexRecord (r.2.1 + 1) index)
  | none => vset recs 0 (indexRecord 1 index)

/-- Boot (R345, R346): the image refused, and then recovery; or the firmware copied to the tightly coupled memory and entered, every granule untagged, every
    page of world 0 but the firmware's own, the tag regions and the retired ones, the attestation index read from flash (R398), the service kernel copied to its
    entry, and the service cores released. BOOTSTAT [3:0] stays at 4: what it shows in steps 5 and 6 is not stated. DESIGN CHOICE (log entry 75). -/
def State.bootUp (s : State) : State :=
  let img := s.boot.flash
  if !imageAccepted img s.boot.fused then
    { s with boot := { s.boot with phase := 1, incoming := [] },
             edge := { s.edge with bootstat := 0x21 ||| ((Config.refusalCode img).setWidth 64 <<< 8) } }
  else
    let retired := s.fleet.retired.foldl (fun (m : SMap (BitVec 8)) p => mapSet m p 255) []
    let s1 : State := { s with
      tags := [], worlds := retired, boot := { s.boot with phase := 2, incoming := [], tcm := imgLoaded img 0, digests := imgBytes img 0x60 96 },
      attest := { s.attest with index := indexAtBoot s.attest.recs },
      edge := { s.edge with bootstat := 4, fwver := (Config.buildNumber img).setWidth 64 <<< 8 ||| BitVec.ofNat 64 (imgNat img 8 8) } }
    let s2 := s1.writeKeys Config.kernelEntry.toNat (imgSection img 1)
    { s2 with clusters := s2.clusters.map fun (c : Cluster) => { c with svc := { c.svc with released := true } } }

/-- `PACKAGE_RESET` (R344 to R346): at reset, boot; in a package that runs or is in recovery, its reset. -/
def execPackageReset (s : State) : Res := .next (if s.boot.phase = 0 then s.bootUp else s.warmReset)

/-- `WATCHDOG_RESET` (R412). -/
def execWatchdogReset (s : State) : Res := .next s.warmReset

/-- Bytes of a replacement image placed at an offset; a gap is zero. -/
def State.receiveImage (s : State) (off : Nat) (bs : List Byte) : State :=
  let b := s.boot.incoming
  { s with boot := { s.boot with incoming := (b ++ List.replicate (off - b.length) 0).take off ++ bs ++ b.drop (off + bs.length) } }

/-- The end of a replacement image (R345): checked as at boot, written to flash and the package reset; or refused. -/
def State.finishImage (s : State) : State :=
  if imageAccepted s.boot.incoming s.boot.fused then State.warmReset { s with boot := { s.boot with flash := s.boot.incoming } }
  else { s with boot := { s.boot with incoming := [] },
                edge := { s.edge with bootstat := (s.edge.bootstat &&& 0xFF) ||| ((Config.refusalCode s.boot.incoming).setWidth 64 <<< 8) } }

/-- Bytes in parts of 64, at most n of them; none of no bytes. -/
def parts64 : Nat → List Byte → List (List Byte)
  | 0, _ => []
  | n + 1, b => if b.isEmpty then [] else b.take 64 :: parts64 n (b.drop 64)

/-- The parts of a response (R401): command, status, two zero bytes, data. -/
def responseOf (cmd status : Nat) (data : List (List Byte)) : List (List Byte) :=
  (if data.isEmpty then [[]] else data).map fun d => leBytes 1 cmd ++ leBytes 1 status ++ [0, 0] ++ d

/-- A response on the management path in one part. -/
def State.respond (s : State) (cmd status : Nat) (data : List Byte) : State := { s with fleet := { s.fleet with response := responseOf cmd status [data] } }

/-- A response in parts of 64 bytes, each under the header (R401). DESIGN CHOICE of the header in each part (log entry 20). -/
def State.respondParts (s : State) (cmd status : Nat) (data : List Byte) : State :=
  { s with fleet := { s.fleet with response := responseOf cmd status (parts64 data.length data) } }

/-- The end of a rewrite of the flash in a package that runs (R346): checked as at boot, it takes effect at the next reset. -/
def State.finishRewrite (s : State) : State :=
  { s with boot := { s.boot with flash := if imageAccepted s.boot.incoming s.boot.fused then s.boot.incoming else s.boot.flash, incoming := [] } }

/-- `RECOVERY` (R345, R346, R401): by the management command a part of a replacement image, in recovery only; which of the codes that report no
    success answers it elsewhere is not stated, and free. Without, a part of a rewrite that the firmware of a running package takes, by a path that the manual
    does not name. A message of the path that is no command of R401 comes by this step too: of an unassigned command it is answered BAD_CMD, of another enterprise
    number it is discarded. -/
def execRecovery (offset : Nat) (bytes : List Byte) (part : ImagePart) (s : State) : Res :=
  if s.boot.phase = 0 then .next s
  else
    let s1 := s.receiveImage offset bytes
    match part with
    | .foreign => .next s
    | .unassigned cmd => .next (if cmd = 0 ∨ 9 < cmd.toNat then s.respond cmd.toNat 1 [] else s)
    | .image false last => .next (if s.boot.phase ≠ 2 then s else if last then s1.finishRewrite else s1)
    | .image true last =>
      if s.boot.phase ≠ 1 then .next ({ s with free := s.free + 1 }.respond 9 (1 + Config.freePick s.free % 3) [])
      else .next (if last then (s1.respond 9 0 []).finishImage else s1.respond 9 0 [])

/-! ### The host's part of the edge block (R347) -/


/-- A host's write of the register at an offset: the recovery window in recovery takes image bytes in order, its last word ends the image. DESIGN CHOICE of
    that order and end (log entry 19). -/
def State.hostWrite (s : State) (off : Nat) (v : Word) : State :=
  if 0x8000 ≤ off ∧ off < 0x10000 ∧ s.boot.phase = 1 then
    let s1 := s.receiveImage s.boot.incoming.length (leBytes 8 v.toNat)
    if off = 0xFFF8 then s1.finishImage else s1
  else s.hostDiscard

/-- `REGISTER_WRITE` (R347): of a register without a behaviour of its own; doorbells are their own step. -/
def execRegisterWrite (host : Bool) (off : Nat) (v : Word) (s : State) : Res :=
  if 0x10000 ≤ off ∨ off % 8 ≠ 0 ∨ (0x5000 ≤ off ∧ off < 0x5800) then .next s
  else .next (if host then s.hostWrite off v else s.setEdgeReg off v)

end Sys2Proof.Machine
end

