-- ==== Sys2Proof/Machine/Tiles.lean ====
section
/-! DEFINITION. Canonical tiles, shape records, the tensor mapping, and one step of the matrix array (R119 to R122, R202 to R206). -/
namespace Sys2Proof.Machine
open Sys2Proof

/-! ### Canonical tiles (R119 to R121) -/

/-- Bits of an element of a matrix type: 0 `.e2m1`, 1 `.e4m3`, 2 `.e5m2`, 3 `.bf16`, 4 `.s8` (R87). -/
def mxBits (ty : Nat) : Nat := match ty with | 0 => 4 | 3 => 16 | _ => 8
/-- The matrix type of a type code of R80, if it is one. -/
def mxOfTy (c : Nat) : Option Nat := match c with | 8 => some 0 | 14 => some 1 | 15 => some 2 | 11 => some 3 | 4 => some 4 | _ => none
/-- C: bytes of a column's or a row's 64 elements. -/
def mxLine (ty : Nat) : Nat := 64 * mxBits ty / 8
/-- The size of a weight tile (R119). -/
def weightSize (ty : Nat) : Nat := 256 * mxLine ty + 2048 + 8
/-- The size of an activation tile of n rows (R120). -/
def activSize (ty n : Nat) : Nat := n * (8 + mxLine ty) + 2 * ((n + 63) / 64)

/-- n bytes at an offset, as a number; bytes beyond the end are zero. -/
def bytesAt (bs : List Byte) (off n : Nat) : Nat := leNat ((bs.drop off).take n)

/-- Element k of a line of 64 elements that begins at an offset. -/
def lineElem (bs : List Byte) (off ty k : Nat) : Nat :=
  match mxBits ty with
  | 4 => bytesAt bs (off + k / 2) 1 / 16 ^ (k % 2) % 16
  | 16 => bytesAt bs (off + 2 * k) 2
  | _ => bytesAt bs (off + k) 1

/-- The format of a floating matrix type. -/
def mxFmt (ty : Nat) : Fmt := match ty with | 0 => .e2m1 | 1 => .e4m3 | 2 => .e5m2 | _ => .bf16

/-! ### One step of the array (R122) -/

/-- D of R122: the exact sum of 64 terms, each the product of six factors. -/
def mxDot (ty : Nat) (x : Nat → Nat) (w : Nat → Nat) (xs ws : Nat → Nat) (xband wband : Nat) : Fp :=
  let f := mxFmt ty
  let bands := (Fp.mul (Fmt.bf16.decode xband) (Fmt.bf16.decode wband)).1
  (List.range 64).foldl (fun d k =>
    let e := (Fp.mul (f.decode (x k)) (f.decode (w k))).1
    let sc := (Fp.mul (Fmt.e3m5.decode (xs (k / 8))) (Fmt.e3m5.decode (ws (k / 8)))).1
    (Fp.add 0 d (Fp.mul (Fp.mul e sc).1 bands).1).1) (.fin false 0 0)

/-- An exact zero taken as +0. -/
def Fp.plusZero : Fp → Fp
  | .fin _ 0 e => .fin false 0 e
  | x => x

/-- The step of row n of an activation tile of N rows against column m of a weight tile (R122). -/
def mxStep (ty : Nat) (act : List Byte) (n rows : Nat) (wt : List Byte) (m : Nat) (acc : Nat) : Nat :=
  let c := mxLine ty
  let row := n * (8 + c)
  if ty = 4 then
    wrapInt (sextNat acc 32 + ((List.range 64).map fun k => sextNat (lineElem act row 4 k) 8 * sextNat (lineElem wt (m * c) 4 k) 8).sum) 32
  else
    let d := mxDot ty (lineElem act row ty) (lineElem wt (m * c) ty) (fun j => bytesAt act (row + c + j) 1) (fun j => bytesAt wt (256 * c + 8 * m + j) 1)
      (bytesAt act (rows * (8 + c) + 2 * (n / 64)) 2) (bytesAt wt (256 * c + 2048 + 2 * (m / 64)) 2)
    (Fmt.f32.add .rne acc (Fmt.f32.round .rne false d.plusZero).1).1

/-! ### Shape records (R202) -/

/-- A shape record, its format given (R202, R204). -/
structure Shape where
  code   : Nat
  ty     : Nat
  permit : Bool
  pack   : Bool
  activ  : Bool
  rows   : Nat
  fmt    : Nat
  nrows  : Nat
  ncols  : Nat
  rs     : Int
  cs     : Int
  row0   : Nat
  col0   : Nat
  scales : Int
  status : Int
  mask   : Nat
  width  : Nat
  deriving DecidableEq, Repr

/-- The fields of a record under a format; a weight tile is 256 columns wide. -/
def Shape.of (r : Rec) (fmt : Nat) : Shape :=
  let w := fun i => (r.word i).toNat
  { code := bitsOf (w 0) 3 0, ty := (mxOfTy (bitsOf (w 0) 3 0)).getD 0, permit := (w 0).testBit 4, pack := (w 0).testBit 5, activ := (w 0).testBit 6,
    rows := bitsOf (w 0) 15 7 + 1, fmt := fmt, nrows := bitsOf (w 1) 31 0, ncols := bitsOf (w 1) 63 32, rs := (r.word 2).toInt, cs := (r.word 3).toInt,
    row0 := bitsOf (w 4) 31 0, col0 := bitsOf (w 4) 63 32, scales := (r.word 5).toInt, status := (r.word 6).toInt, mask := bitsOf (w 7) 47 0, width := 256 }

/-- The record's own faults, in order (R202). -/
def shapeCause (r : Rec) (sh : Shape) (mc : Bool) : Option (BitVec 8) :=
  if bitsOf (r.word 0).toNat 63 19 ≠ 0 ∨ (mc ∧ bitsOf (r.word 7).toNat 63 48 ≠ 0) then some Cause.reservedEnc
  else if (mxOfTy sh.code).isNone ∨ (sh.fmt ≠ 0 ∧ (sh.nrows = 0 ∨ sh.ncols = 0)) ∨ (sh.ty = 0 ∧ sh.fmt = 4) ∨ (sh.fmt = 3 ∧ 3 ≤ sh.ty) ∨
    (sh.pack ∧ (sh.fmt = 3 ∨ mc)) ∨ (mc ∧ sh.mask = 0) then some Cause.illegalInsn
  else none

/-- Whether the tile's origin is even where an `.e2m1` tensor packs two elements a byte (R204). -/
def Shape.evenOk (sh : Shape) : Bool :=
  !(sh.ty == 0 && (((sh.fmt == 1 || sh.fmt == 3) && sh.col0 % 2 == 1) || (sh.fmt == 2 && sh.row0 % 2 == 1)))

/-- Whether a command packs: in format 0 the tile is copied verbatim whether pack is set or not (R204). -/
def Shape.packs (sh : Shape) : Bool := sh.pack && sh.fmt != 0

/-- The size of the canonical tile. -/
def Shape.tileSize (sh : Shape) : Nat := if sh.activ then activSize sh.ty sh.rows else weightSize sh.ty * (sh.width / 256)

/-- The tensor elements of a tile, (i, j), in tile order (R203, R205). -/
def Shape.elems (sh : Shape) : List (Nat × Nat) :=
  if sh.activ then (List.range sh.rows).flatMap fun n => (List.range 64).map fun k => (sh.row0 + n, sh.col0 + k)
  else (List.range sh.width).flatMap fun m => (List.range 64).map fun k => (sh.row0 + k, sh.col0 + m)

/-- Whether an element lies in the tensor. -/
def Shape.inside (sh : Shape) (p : Nat × Nat) : Bool := p.1 < sh.nrows && p.2 < sh.ncols

/-- The first element outside the tensor, with the permit clear: FADDR of `TILE_OOB` (R205). -/
def Shape.oob (sh : Shape) : Option Word :=
  if sh.fmt = 0 ∨ sh.permit then none
  else (sh.elems.find? fun p => !sh.inside p).map fun p => BitVec.ofNat 64 (p.1 % 2 ^ 32 + p.2 % 2 ^ 32 * 2 ^ 32)

/-- An element's byte address, from the tensor cursor (R204). -/
def Shape.addr (sh : Shape) (p : Nat × Nat) : Int :=
  let w := mxBits sh.ty
  match sh.fmt with
  | 2 => p.2 * sh.cs + (p.1 * w / 8 : Nat)
  | 4 => p.1 * sh.rs + p.2 * sh.cs
  | _ => p.1 * sh.rs + (p.2 * w / 8 : Nat)
/-- Whether an `.e2m1` element is the high nibble of its byte. -/
def Shape.high (sh : Shape) (p : Nat × Nat) : Bool := (if sh.fmt = 2 then p.1 else p.2) % 2 == 1
/-- Bytes that an element touches. -/
def Shape.elemBytes (sh : Shape) : Nat := if sh.ty = 3 then 2 else 1

/-- The address of the MX scale of an element (R206). -/
def Shape.scaleAddr (sh : Shape) (p : Nat × Nat) : Int :=
  if sh.activ then sh.scales + p.1 * sh.cs + (p.2 / 32 : Nat) else sh.scales + (p.1 / 32 : Nat) * sh.cs + p.2

/-- The lowest byte and the length of the range from the lowest to the highest of a list of byte ranges. -/
def hullOf (l : List (Int × Nat)) : Int × Nat :=
  match l with
  | [] => (0, 0)
  | (a, n) :: rest =>
    let r := rest.foldl (fun (b : Int × Int) p => (min b.1 p.1, max b.2 (p.1 + p.2))) (a, a + n)
    (r.1, (r.2 - r.1).toNat)

/-- The hull of the tensor's side of a command, from the tensor cursor: every element inside the tensor, and its scale in format 3; in format 0 the
    tile itself (R204, R205). -/
def Shape.hull (sh : Shape) : Int × Nat :=
  if sh.fmt = 0 then (0, sh.tileSize)
  else
    let ps := sh.elems.filter sh.inside
    hullOf (ps.flatMap fun p => (sh.addr p, sh.elemBytes) :: (if sh.fmt = 3 then [(sh.scaleAddr p, 1)] else []))

/-! ### Expand and pack -/

/-- The code of an element in the hull's bytes, which begin at `lo` from the cursor; zero outside the tensor (R205). -/
def Shape.code' (sh : Shape) (bs : List Byte) (lo : Int) (p : Nat × Nat) : Nat :=
  if !sh.inside p then 0
  else
    let o := (sh.addr p - lo).toNat
    if sh.ty = 0 then bytesAt bs o 1 / (if sh.high p then 16 else 1) % 16 else bytesAt bs o sh.elemBytes

/-- The MX scale of an element, if it lies in the tensor. -/
def Shape.scale (sh : Shape) (bs : List Byte) (lo : Int) (p : Nat × Nat) : Option Nat :=
  if sh.inside p then some (bytesAt bs (sh.scaleAddr p - lo).toNat 1) else none

/-- p of R206: the greatest exponent of the scales that are not NaN. -/
def bandExp (l : List Nat) : Option Int :=
  (l.filter (· != 255)).foldl (fun (b : Option Int) (n : Nat) => match b with | none => some ((n : Int) - 127) | some x => some (max x ((n : Int) - 127))) none

/-- 2^e, exactly. -/
def Fp.pow2 (e : Int) : Fp := .fin false 1 e

/-- The element at place (line, k) of a tile: a column of weights or a row of activations. -/
def Shape.at' (sh : Shape) (line k : Nat) : Nat × Nat := if sh.activ then (sh.row0 + line, sh.col0 + k) else (sh.row0 + k, sh.col0 + line)
/-- The number of lines of a tile. -/
def Shape.lines (sh : Shape) : Nat := if sh.activ then sh.rows else sh.width

/-- The scales of a band of 64 lines that lie in the tensor. -/
def Shape.bandScales (sh : Shape) (bs : List Byte) (lo : Int) (b : Nat) : List Nat :=
  (List.range 64).flatMap fun i => if 64 * b + i < sh.lines then (List.range 64).filterMap fun k => sh.scale bs lo (sh.at' (64 * b + i) k) else []

/-- The band scale of band b (R121, R206), two bytes; `free` gives what the manual leaves open. -/
def Shape.bandByte (sh : Shape) (free : Nat → Byte) (bs : List Byte) (lo : Int) (b : Nat) : List Byte :=
  if sh.fmt ≠ 3 then leBytes 2 0x3F80
  else
    let ss := sh.bandScales bs lo b
    if ss.contains 255 then leBytes 2 0x7FC0
    else match bandExp ss with
      | some p => leBytes 2 (Fmt.bf16.round .rne false (Fp.pow2 (p - 4))).1
      | none => [free (8192 + 2 * b), free (8193 + 2 * b)]

/-- The MX block, counted along K, of place k of a line (R206). -/
def Shape.mxBlock (sh : Shape) (k : Nat) : Nat := ((if sh.activ then sh.col0 else sh.row0) + k) / 32

/-- The scale of the MX block of place k of a line, if the tensor holds an element of that block that the tile has. -/
def Shape.mxScale (sh : Shape) (bs : List Byte) (lo : Int) (line k : Nat) : Option Nat :=
  (List.range 64).findSome? fun i => if sh.mxBlock i = sh.mxBlock k then sh.scale bs lo (sh.at' line i) else none

/-- The block scale j of a line (R121, R206); a free byte where no element of the block lies in the tensor, where its elements have scales of two MX blocks, or
    where every scale of the band is NaN, so that p is not defined (log entry 42). -/
def Shape.blockByte (sh : Shape) (free : Nat → Byte) (bs : List Byte) (lo : Int) (line j : Nat) : Byte :=
  if sh.fmt ≠ 3 then 0x60
  else
    let mine := (List.range 8).filterMap fun i => sh.mxScale bs lo line (8 * j + i)
    match mine, bandExp (sh.bandScales bs lo (line / 64)) with
    | s :: rest, some p =>
      if rest.all (· == s) then BitVec.ofNat 8 (roundE3m5 (Fp.pow2 ((s : Int) - 127 - p + 4))).1 else free (8 * line + j)
    | _, _ => free (8 * line + j)

/-- The element bytes of a line of a canonical tile. -/
def Shape.lineBytes (sh : Shape) (bs : List Byte) (lo : Int) (line : Nat) : List Byte :=
  let e := fun k => sh.code' bs lo (sh.at' line k)
  match mxBits sh.ty with
  | 4 => (List.range 32).map fun i => BitVec.ofNat 8 (e (2 * i) + 16 * e (2 * i + 1))
  | 16 => (List.range 64).flatMap fun k => leBytes 2 (e k)
  | _ => (List.range 64).map fun k => BitVec.ofNat 8 (e k)

/-- The weight columns from a first one on, as a canonical tile (R119). -/
def Shape.weightTile (sh : Shape) (free : Nat → Byte) (bs : List Byte) (lo : Int) (first : Nat) : List Byte :=
  ((List.range 256).flatMap fun m => sh.lineBytes bs lo (first + m)) ++
    ((List.range 256).flatMap fun m => (List.range 8).map fun j => sh.blockByte free bs lo (first + m) j) ++
    ((List.range 4).flatMap fun b => sh.bandByte free bs lo (first / 64 + b))

/-- The canonical tile that a command forms from the bytes of its source hull: expand, or verbatim in format 0 (R119, R120, R204). -/
def Shape.expand (sh : Shape) (free : Nat → Byte) (bs : List Byte) (lo : Int) : List Byte :=
  if sh.fmt = 0 then bs
  else if sh.activ then
    ((List.range sh.rows).flatMap fun n => sh.lineBytes bs lo n ++ (List.range 8).map fun j => sh.blockByte free bs lo n j) ++
      ((List.range ((sh.rows + 63) / 64)).flatMap fun b => sh.bandByte free bs lo b)
  else (List.range (sh.width / 256)).flatMap fun h => sh.weightTile free bs lo (256 * h)

/-- The code of an element of a canonical tile. -/
def Shape.tileCode (sh : Shape) (tile : List Byte) (line k : Nat) : Nat :=
  lineElem tile (line * (mxLine sh.ty + if sh.activ then 8 else 0)) sh.ty k

/-- The writes of a pack: for every element inside the tensor its offset in the hull, its code, and which nibble an `.e2m1` code replaces. -/
def Shape.packWrites (sh : Shape) (tile : List Byte) (lo : Int) : List (Nat × Nat × Bool) :=
  (List.range sh.lines).flatMap fun line => (List.range 64).filterMap fun k =>
    let p := sh.at' line k
    if sh.inside p then some ((sh.addr p - lo).toNat, sh.tileCode tile line k, sh.high p) else none

/-! ### Ranges -/

/-- The key of the byte at an offset of a list of ranges. -/
def segKey : List Seg → Nat → Option Nat
  | [], _ => none
  | a :: l, o => if o < a.len then some (a.lo + o) else segKey l (o - a.len)

/-- The part of ranges from an offset on, n bytes long. -/
def segTake : List Seg → Nat → Nat → List Seg
  | [], _, _ => []
  | a :: l, o, n =>
    if n = 0 then []
    else if a.len ≤ o then segTake l (o - a.len) n
    else ⟨a.lo + o, min n (a.len - o)⟩ :: segTake l 0 (n - min n (a.len - o))

end Sys2Proof.Machine
end

