-- ==== Sys2Proof/Machine/Matrix.lean ====
section
/-! DEFINITION. Matrix instructions, their queues and what they compute (R53, R122, R189 to R201, R213, R215, R397). -/
namespace Sys2Proof.Machine
open Sys2Proof

/-! ### Queues (R189 to R191) -/

/-- The leader core of a team's pair. -/
def Team.leader (t : Team) : Nat := 2 * t.pair.getD 0
/-- The two cores that a paired operation of a core's pair acts on. -/
def pairCores (core : Nat) : List Nat := [core / 2 * 2, core / 2 * 2 + 1]
/-- The cores that an operation acts on, leader first. -/
def mxCores (core : Nat) (pair : Bool) : List Nat := if pair then pairCores core else [core]

/-- The plane types that a core's queue leaves: active, shadow (R195). The exchange of a started operation is done already. -/
def Core.planeTypes (c : Core) : Option Nat × Option Nat :=
  c.mq.foldl (fun (p : Option Nat × Option Nat) o =>
    match o.kind with
    | .lds ty => (p.1, some ty)
    | .mm _ _ _ flip => if flip && !o.started then (p.2, p.1) else p
    | _ => p) (c.active.ty, c.shadow.ty)

/-- The frame of a matrix instruction (R190): only for a team with a pair; a paired form only from the issuer; it waits while a queue it enters is
    full, and on the follower core while a paired operation is in its queue (R53). -/
def State.mxOp (s : State) (pair : Bool) (xs : List (BitVec 6)) (cs : List (BitVec 5)) (body : Nat → Group → Team → State → Res) : Res :=
  s.groupOnly fun k g =>
    match s.team g.team with
    | none => .next s
    | some t =>
      if t.pair.isNone ∨ (pair ∧ g.index ≠ t.issuer) then .next (s.raiseHere Cause.illegalInsn)
      else s.scalarOp xs cs fun s =>
        let c := s.cluster (slotCluster k)
        let mine := c.core (slotCore k)
        if ((mxCores (slotCore k) pair).any fun i => 16 ≤ (c.core i).mq.length) || (slotCore k != t.leader && mine.mq.any fun o => o.pair) then .next s
        else body k g t s

/-- Whether a cluster's lock table has n free entries (R213). -/
def State.lockRoom (s : State) (cl n : Nat) : Bool := (s.cluster cl).locks.length + n ≤ 64
/-- Ranges registered in a cluster's lock table; an empty range takes no entry. -/
def State.addLock (s : State) (cl id : Nat) (segs : List Seg) (dst : Bool) : State :=
  if segLen segs = 0 then s else s.modCluster cl fun c => { c with locks := c.locks ++ [⟨id, segs, dst⟩] }
/-- The entries of an operation released in every table. -/
def State.dropLocks (s : State) (id : Nat) : State :=
  { s with clusters := s.clusters.map fun (c : Cluster) => { c with locks := c.locks.filter fun l => l.op != id } }

/-- The frame of a matrix instruction that enters its queues: it waits until the accesses before it, and what a release fence covers, have been performed
    (R192, R259). -/
def State.mxIssue (s : State) (pair : Bool) (xs : List (BitVec 6)) (cs : List (BitVec 5)) (body : Nat → Group → Team → State → Res) : Res :=
  s.mxOp pair xs cs fun k g t s => if !g.released || !g.hart.fenceDone then .next s else body k g t s

/-- Where the tile handle that an operation was issued with lies. -/
def State.handleSegs (s : State) (w : Who) (c : Cap) (src : MxSrc) : List Seg :=
  if src.handle.isNone then []
  else match s.resolve w c [Perm.load] Need.read c.cursor.toNat 80 64 with | .ok (segs, _) => segs | .error _ => []

/-- A matrix operation entered into its queues, its lock registered (R191, R213). -/
def State.enqueueMx (s : State) (k : Nat) (g : Group) (kind : MxKind) (pair : Bool) (a b : BitVec 6) (desc : Word) (cap : Cap) (src : MxSrc)
    (ts : List TlbEntry) : Res :=
  let cl := slotCluster k
  let dst := match kind with | .st _ _ => true | _ => false
  let handle := s.handleSegs s.who cap src
  if !s.lockRoom cl (if segLen src.segs = 0 then 0 else 1) || !s.wlRoomFor (handle.map (·.lo)) then .next s
  else
    let s := s.wlReadNow s.who handle
    let op : MxOp := { id := s.nextId, slot := k, team := g.team, ctx := g.ctx, kind := kind, pair := pair, desc := desc, cap := cap, src := src,
                       started := false, keyGen := 0, row := 0, a := a, b := b }
    let s1 := ((s.fill cl ts).addLock cl s.nextId src.segs dst)
    let s2 := (mxCores (slotCore k) pair).foldl (fun s i => s.modCore cl i fun c => { c with mq := c.mq ++ [op] }) s1
    .next ({ s2.modGroup k fun g => { g with openOps := g.openOps ++ [op.id], openAccs := g.openAccs ++ kind.acc.toList } with nextId := s2.nextId + 1 }.advance)

/-! ### Operand checks (R192, R193, R201) -/

/-- A cause, its FADDR and nothing else. -/
abbrev Flt := BitVec 8 × Word

/-- A fault raised with its address. -/
def State.raiseF (s : State) (f : Flt) : State := s.raise f.1 f.2

/-- The first byte of a window range outside a team's allocation, if one is. -/
def outsideTeam (t : Team) (c : Cap) (x len : Nat) : Option Nat :=
  let lo := t.cluster * 0x1000000 + t.way0 * 0x8000
  let hi := lo + t.ways * 0x8000
  if !c.has Perm.window || x < lo || hi ≤ x then some x else if hi < x + len then some hi else none

/-- A range of the team's scratchpad that a matrix instruction names (R192 steps 4 and 5). -/
def State.mxRange (s : State) (w : Who) (t : Team) (c : Cap) (perm : Nat) (need : List Nat) (len align : Nat) : Except Flt (MxSrc × List TlbEntry) :=
  let x := c.cursor.toNat
  match s.resolve w c [perm] need x len align with
  | .error (e, y) => .error (e, BitVec.ofNat 64 y)
  | .ok (segs, ts) =>
    match outsideTeam t c x len with
    | some y => .error (Cause.transInvalid, BitVec.ofNat 64 y)
    | none => .ok (⟨segs, none, c.cursor⟩, ts)

/-- The step fields of a descriptor: tile steps i and j. -/
def mxSteps (kind : MxKind) (x : Word) : Nat × Nat :=
  match kind with
  | .lds _ => (bitsOf x.toNat 31 16, bitsOf x.toNat 47 32)
  | _ => (bitsOf x.toNat 35 20, bitsOf x.toNat 51 36)
/-- N of `mxmm` and `mxst`. -/
def mxRows (x : Word) : Nat := bitsOf x.toNat 8 0 + 1
/-- n0 of `mxmm` and `mxst`. -/
def mxCol (x : Word) : Nat := bitsOf x.toNat 17 9

/-- The shape with which the operand fetcher reads a handle's tensor for an instruction (R201): the origin of the handle moved by the descriptor. Every check of
    the shape, the evenness of R204 among them, is of the moved origin. DEDUCED (log entry 59). -/
def mxShape (kind : MxKind) (pair : Bool) (x : Word) (hd : List Byte) : Shape :=
  let r : Rec := ⟨hd, []⟩
  let sh := Shape.of r (bitsOf (r.word 0).toNat 18 16)
  let (di, dj) := mxSteps kind x
  let mtot := if pair then 512 else 256
  match kind with
  | .lds _ => { sh with activ := false, width := mtot, row0 := sh.row0 + 64 * di, col0 := sh.col0 + mtot * dj }
  | _ => { sh with activ := true, rows := mxRows x, row0 := sh.row0 + mxRows x * di, col0 := sh.col0 + 64 * dj }

/-- A tile handle and its tensor checked by a thread at a pc (R192 step 3, R201). The record's own checks of R202 come before the test of the type, and the
    evenness of R204 and the hull limit after the authority of the tensor capability and before `TILE_OOB`. DESIGN CHOICE (log entry 73): R192 and R201 do not
    place them. -/
def State.mxHandle (s : State) (w : Who) (pc : Word) (c : Cap) (kind : MxKind) (ty : Nat) (pair decrypt : Bool) (x : Word) : Except Flt (MxSrc × List TlbEntry) :=
  let h := c.cursor
  match s.resolve w c [Perm.load] Need.read h.toNat 80 64 with
  | .error (e, y) => .error (e, BitVec.ofNat 64 y)
  | .ok (segs, ts) =>
    let r := s.readRec segs (c.has Perm.loadCap) 0
    let hd := r.bytes.take 64
    let sh := mxShape kind pair x hd
    let tc := r.cap 4
    match shapeCause r { sh with pack := false } false with
    | some e => .error (e, h)
    | none =>
      if sh.ty ≠ ty then .error (Cause.illegalInsn, pc)
      else if sh.pack ∨ 4 < sh.fmt then .error (Cause.illegalInsn, h)
      else if decrypt ∧ sh.fmt ≠ 0 then .error (Cause.illegalInsn, pc)
      else match authCause w tc [Perm.engSrc] with
        | some e => .error (e, h)
        | none =>
          if !sh.evenOk then .error (Cause.align, h)
          else if 2 ^ 24 < sh.hull.2 then .error (Cause.illegalInsn, pc)
          else match sh.oob with
            | some f => .error (Cause.tileOob, f)
            | none =>
              match s.resolve w tc [Perm.engSrc] Need.read (wrapInt (tc.cursor.toNat + sh.hull.1) 64) sh.hull.2 1 with
              | .error (e, y) => .error (e, BitVec.ofNat 64 y)
              | .ok (src, ts') => .ok (⟨src, some hd, tc.cursor⟩, ts ++ ts')

/-- The operand of `mxlds` or `mxmm`: under a handle, or a canonical tile of n bytes in the scratchpad. -/
def State.mxOperand (s : State) (w : Who) (pc : Word) (t : Team) (c : Cap) (kind : MxKind) (ty : Nat) (pair handle decrypt : Bool) (x : Word) (n : Nat) :
    Except Flt (MxSrc × List TlbEntry) :=
  if handle then s.mxHandle w pc c kind ty pair decrypt x else s.mxRange w t c Perm.load Need.read n 128

/-! ### The instructions -/

/-- A cause of a descriptor's limits in the order of R193: where a reserved bit is set, then each broken limit. -/
def limitCause (reserved : Bool) (limits : List (Option Flt)) (pc : Word) : Option Flt :=
  if reserved then some (Cause.reservedEnc, pc) else limits.findSome? id

/-- `mxlds` (R194). -/
def execMxlds (a : BitVec 5) (b : BitVec 6) (pair : Bool) (ty : BitVec 3) (s : State) : Res :=
  s.mxIssue pair [b] [a] fun k g t s =>
    let x := s.x b
    let n := x.toNat
    let d := n.testBit 6
    let h := n.testBit 7
    let reserved := bitsOf n 15 8 != 0 || bitsOf n 63 48 != 0 || (!h && bitsOf n 47 16 != 0) || (!d && bitsOf n 5 0 != 0)
    match limitCause reserved [] s.pc with
    | some f => .next (s.raiseF f)
    | none =>
      match s.mxOperand s.who s.pc t (s.c a) (.lds ty.toNat) ty.toNat pair h d x ((if pair then 2 else 1) * weightSize ty.toNat) with
      | .error f => .next (s.raiseF f)
      | .ok (src, ts) =>
        let key := vgetD s.keys (n % 64) .reset
        if d && !(key.state != 0 && key.ctx == g.ctx) then .next (s.raise Cause.worldMismatch (BitVec.ofNat 64 (n % 64)))
        else s.enqueueMx k g (.lds ty.toNat) pair (ofCap a) b x (s.c a) src ts

/-- `mxmm` (R195). -/
def execMxmm (acc : BitVec 2) (z : Bool) (a : BitVec 5) (b : BitVec 6) (flip pair : Bool) (ty : BitVec 3) (s : State) : Res :=
  s.mxIssue pair [b] [a] fun k g t s =>
    let x := s.x b
    let n := x.toNat
    let h := n.testBit 18
    let reserved := n.testBit 19 || bitsOf n 63 52 != 0 || (!h && bitsOf n 51 20 != 0)
    let kind : MxKind := .mm acc.toNat ty.toNat z flip
    let wrong := (mxCores (slotCore k) pair).any fun i =>
      let p := ((s.cluster (slotCluster k)).core i).planeTypes
      (if flip then p.2 else p.1) != some ty.toNat
    match limitCause reserved [if 512 < mxCol x + mxRows x ∨ wrong then some (Cause.illegalInsn, s.pc) else none] s.pc with
    | some f => .next (s.raiseF f)
    | none =>
      match s.mxOperand s.who s.pc t (s.c a) kind ty.toNat pair h false x (activSize ty.toNat (mxRows x)) with
      | .error f => .next (s.raiseF f)
      | .ok (src, ts) => s.enqueueMx k g kind pair (ofCap a) b x (s.c a) src ts

/-- Bytes of an element that `mxst` writes: 0 `.f32`, 1 `.bf16`, 2 `.f16`, 3 `.s32` (R193). -/
def mxstBytes (ty : Nat) : Nat := if ty = 1 ∨ ty = 2 then 2 else 4
/-- The row stride of `mxst`. -/
def mxStride (x : Word) : Nat := bitsOf x.toNat 51 20

/-- `mxst` (R196). -/
def execMxst (acc : BitVec 2) (a : BitVec 5) (b : BitVec 6) (pair : Bool) (ty : BitVec 3) (s : State) : Res :=
  s.mxIssue pair [b] [a] fun k g t s =>
    let x := s.x b
    let n := x.toNat
    let line := (if pair then 512 else 256) * mxstBytes ty.toNat
    let reserved := n.testBit 19 || bitsOf n 63 52 != 0
    let limits := [if 512 < mxCol x + mxRows x then some (Cause.illegalInsn, s.pc) else none,
      if mxStride x % 16 ≠ 0 ∨ mxStride x < line then some (Cause.align, (s.c a).cursor) else none]
    match limitCause reserved limits s.pc with
    | some f => .next (s.raiseF f)
    | none =>
      match s.mxRange s.who t (s.c a) Perm.store Need.write ((mxRows x - 1) * mxStride x + line) 16 with
      | .error f => .next (s.raiseF f)
      | .ok (src, ts) => s.enqueueMx k g (.st acc.toNat ty.toNat) pair (ofCap a) b x (s.c a) src ts

/-- `mxzero` (R197). -/
def execMxzero (acc : BitVec 2) (pair : Bool) (s : State) : Res :=
  s.mxIssue pair [] [] fun k g _ s => s.enqueueMx k g (.zero acc.toNat) pair 0 0 0 .null ⟨[], none, 0⟩ []

/-- `mxfence` (R198). -/
def execMxfence (d : BitVec 6) (s : State) : Res :=
  s.mxOp false [d] [] fun k g _ s =>
    if 255 ≤ g.hart.mx then .next s
    else
      let ids := (s.cluster (slotCluster k)).mxIds
      .next ({ s.modGroup k fun g => (g.closeBatch s.nextId).retireBatches ids with nextId := s.nextId + 1 }.setX d ((g.lastClosed + 1).setWidth 64)).advance

/-- min′ of R199: the number waited for, no later than the last closed batch. -/
def waitNumber (x : Word) (last : BitVec 32) : BitVec 32 := let n := x.setWidth 32; if (n - last).toInt ≤ 0 then n else last

/-- `mxwait` (R199). -/
def execMxwait (a : BitVec 6) (s : State) : Res :=
  s.mxOp false [a] [] fun _ g _ s => .next (if (g.lastRetired - waitNumber (s.x a) g.lastClosed).getLsbD 31 then s else s.advance)

/-! ### What the arrays do (R122, R191, R194 to R197) -/

/-- Whether every operation in the tables that an operation's entries must wait for is gone (R215): in each table, no entry before one of its own
    meets it where either is a destination. -/
def State.lockClear (s : State) (id : Nat) : Bool :=
  s.clusters.toList.all fun c =>
    (List.range c.locks.length).all fun i =>
      match c.locks[i]? with
      | some l => l.op != id || (c.locks.take i).all fun e => e.op == id || !(e.dst || l.dst) || !segsMeet e.segs l.segs
      | none => true

/-- The key of accumulator element (m, n) of accumulator a of a core (R26). -/
def accElem (cl core a m n : Nat) : Nat := accKey cl core + a * 0x80000 + m * 2048 + n * 4

/-- The tile that an operation reads: bytes of its source, or formed by the fetcher (R201). -/
def State.mxTile (s : State) (o : MxOp) : List Byte :=
  let bs := s.readSegs o.src.segs
  match o.src.handle with
  | some h => let sh := mxShape o.kind o.pair o.desc h; sh.expand (Config.freeScale s.free) bs sh.hull.1
  | none => bs

/-- The key of a generation of a slot, if the slot still holds it. -/
def KeySlot.keyOf (k : KeySlot) (gen : Nat) : Option (List Byte) :=
  match k.cur, k.prev with
  | some c, p => if c.num = gen then some c.key else (match p with | some q => if q.num = gen then some q.key else none | none => none)
  | none, some q => if q.num = gen then some q.key else none
  | none, none => none

/-- The tile of an `mxlds`, deciphered where D is set (R194, R392). -/
def State.mxWeights (s : State) (o : MxOp) : List Byte :=
  let bs := s.mxTile o
  if o.desc.getLsbD 6 then
    match (vgetD s.keys (o.desc.toNat % 64) .reset).keyOf o.keyGen with
    | some key => ctrDecrypt key o.src.base.toNat bs
    | none => bs
  else bs

/-- The shadow plane of a core filled (R194). -/
def State.fillPlane (s : State) (cl core half ty : Nat) (o : MxOp) (bs : List Byte) : State :=
  s.modCore cl core fun c => { c with shadow := ⟨some ty, (bs.drop (half * weightSize ty)).take (weightSize ty), some ⟨o.cap, o.desc, half, o.pair, ty, o.keyGen⟩⟩ }

/-- Row n of an `mxmm` accumulated on one core (R195). -/
def State.mmRow (s : State) (cl core acc ty : Nat) (z : Bool) (tile : List Byte) (rows n0 n : Nat) : State :=
  let w := ((s.cluster cl).core core).active.bytes
  (List.range 256).foldl (fun s m =>
    let k := accElem cl core acc m (n0 + n)
    s.writeKeys k (leBytes 4 (mxStep ty tile n rows w m (if z then 0 else s.readNat k 4)))) s

/-- Rows [from, to) of an `mxmm` on all of its cores. -/
def State.mmRows (s : State) (cl : Nat) (cores : List Nat) (o : MxOp) (lo hi : Nat) : State :=
  match o.kind with
  | .mm acc ty z _ =>
    let tile := s.mxTile o
    (List.range (hi - lo)).foldl (fun s i => cores.foldl (fun s c => s.mmRow cl c acc ty z tile (mxRows o.desc) (mxCol o.desc) (lo + i)) s) s
  | _ => s

/-- An accumulator element as `mxst` writes it (R196). -/
def mxstValue (ty e : Nat) : Nat :=
  match ty with
  | 1 => (Fmt.bf16.round .rne false (Fmt.f32.decode e)).1
  | 2 => (Fmt.f16.round .rne false (Fmt.f32.decode e)).1
  | _ => e

/-- One element stored by `mxst`, and cleared where C is set. -/
def State.stElem (s : State) (cl core acc ty : Nat) (o : MxOp) (half n m : Nat) : State :=
  let w := mxstBytes ty
  let k := accElem cl core acc m (mxCol o.desc + n)
  match segKey o.src.segs (n * mxStride o.desc + (256 * half + m) * w) with
  | none => s
  | some out =>
    let s1 := s.writeNat out w (mxstValue ty (s.readNat k 4))
    if o.desc.getLsbD 18 then s1.writeKeys k (leBytes 4 0) else s1

/-- The effect of an operation on its cores, leader first; an `mxmm` from the first row not yet accumulated. -/
def State.mxEffect (s : State) (cl : Nat) (cores : List Nat) (o : MxOp) : State :=
  match o.kind with
  | .lds ty =>
    let bs := s.mxWeights o
    (cores.zip (List.range cores.length)).foldl (fun s p => s.fillPlane cl p.1 p.2 ty o bs) s
  | .mm .. => s.mmRows cl cores o o.row (mxRows o.desc)
  | .st acc ty =>
    (List.range (mxRows o.desc)).foldl (fun s n => (cores.zip (List.range cores.length)).foldl (fun s p =>
      (List.range 256).foldl (fun s m => s.stElem cl p.1 acc ty o p.2 n m) s) s) s
  | .zero acc => cores.foldl (fun s c => s.zeroRange (accKey cl c + acc * 0x80000) 0x80000) s

/-- The operation at the head of a core's queue, if it is at the head of every queue it stands in. A queue's operations run one at a time: an `mxlds` does not run
    while an `mxmm` before it still streams, as R191 would let it. DESIGN CHOICE (log entry 74); no result changes. -/
def State.mxHead (s : State) (cl core : Nat) : Option (MxOp × List Nat) :=
  match ((s.cluster cl).core core).mq with
  | [] => none
  | o :: _ =>
    let cores := mxCores core o.pair
    if cores.all fun i => (match ((s.cluster cl).core i).mq with | p :: _ => p.id == o.id | [] => false) then some (o, cores) else none

/-- The first operation of the queues of some cores changed. -/
def State.modHeads (s : State) (cl : Nat) (cores : List Nat) (f : MxOp → MxOp) : State :=
  cores.foldl (fun s i => s.modCore cl i fun c => { c with mq := match c.mq with | o :: r => f o :: r | [] => [] }) s

/-- The home cluster of a context. -/
def State.home (s : State) (ctx : Nat) : Nat := match s.ctx ctx with | some c => c.home | none => 0

/-- A key slot changed. -/
def State.modKey (s : State) (n : Nat) (f : KeySlot → KeySlot) : State := { s with keys := vmod s.keys n f }

/-- A use of a key slot counted, and its thresholds told to the home shard, once a generation each (R397). -/
def State.useKey (s : State) (n : Nat) : State :=
  let k := vgetD s.keys n .reset
  match k.cur with
  | none => s
  | some g =>
    let u := k.uses + 1
    let s1 := s.modKey n fun k => { k with uses := u, softTold := k.softTold || decide (g.soft ≤ u), hardTold := k.hardTold || decide (g.hard ≤ u) }
    let s2 := if g.soft ≤ u ∧ !k.softTold then s1.event (s.home k.ctx) 12 0 0 (BitVec.ofNat 64 (1 + n * 256)) else s1
    if g.hard ≤ u ∧ !k.hardTold then s2.event (s.home k.ctx) 12 0 0 (BitVec.ofNat 64 (2 + n * 256)) else s2

/-- Whether a decrypting load may begin: its slot is keyed, and below the hard limit (R397). -/
def KeySlot.open' (k : KeySlot) : Bool := match k.cur with | some g => k.state == 2 && k.uses < g.hard | none => false

/-- Whether an operation is held by a forced save of its team: a paired one is (R56, R200). -/
def State.heldOp (s : State) (o : MxOp) : Bool :=
  o.pair && (match (s.team o.team).bind fun t => t.save with | some q => q.forced && q.started | none => false)

/-- `MATRIX_OP_START` (R191, R195, R215, R397), by the core's number in the package: the head of its queue begins, once the copies it must follow
    are done; `.flip` exchanges the planes. -/
def execMatrixOpStart (core : Nat) (s : State) : Res :=
  let cl := core / 4
  match s.mxHead cl (core % 4) with
  | none => .next s
  | some (o, cores) =>
    if o.started || s.heldOp o || !s.lockClear o.id || s.segsSpoilt o.src.segs || !s.wlRoomFor (o.src.segs.map (·.lo)) then .next s
    else
      let s1 := (s.modHeads cl cores fun o => { o with started := true }).wlReads (s.whoGroup o.slot) o.id o.src.segs
      match o.kind with
      | .lds _ =>
        if !o.desc.getLsbD 6 then .next s1
        else
          let n := o.desc.toNat % 64
          let key := vgetD s.keys n .reset
          if !key.open' then .next s
          else .next ((s1.modHeads cl cores fun o => { o with keyGen := (key.cur.map (·.num)).getD 0 }).useKey n)
      | .mm _ _ _ true => .next (cores.foldl (fun s i => s.modCore cl i fun c => { c with active := c.shadow, shadow := c.active }) s1)
      | _ => .next s1

/-- `MATRIX_OP_RETIRE` (R191, R198, R213): the started head of a core's queue takes its effect and leaves; its locks and its batch follow. -/
def execMatrixOpRetire (core : Nat) (s : State) : Res :=
  let cl := core / 4
  match s.mxHead cl (core % 4) with
  | none => .next s
  | some (o, cores) =>
    if !o.started || s.heldOp o then .next s
    else
      let s1 := ((s.mxEffect cl cores o).dropLocks o.id).wlAck o.id
      let s2 := cores.foldl (fun s i => s.modCore cl i fun c => { c with mq := c.mq.drop 1 }) s1
      .next { s2.modGroup o.slot fun g => g.retireBatches (s2.cluster cl).mxIds with free := s2.free + 1 }

end Sys2Proof.Machine
end

