-- ==== Sys2Proof/Machine/Engines.lean ====
section
/-! DEFINITION. The tensor copy engine and the block transfer engine (R207 to R215, R259, R262). -/
namespace Sys2Proof.Machine
open Sys2Proof

/-! ### Targets (R208, R211, R262) -/

/-- The ways of a cluster that window ranges touch. -/
def segWays (l : List Seg) : List Nat :=
  (l.flatMap fun a => match winOf a.lo with
    | some x => if x % 0x1000000 < 0x200000 ∧ a.len ≠ 0 then
        (List.range ((x % 0x8000 + a.len + 0x7FFF) / 0x8000)).map fun i => x % 0x1000000 / 0x8000 + i else []
    | none => []).eraseDups

/-- Whether a way belongs to the allocation of a resident team. -/
def State.wayHeld (s : State) (cl w : Nat) : Bool := s.teams.any fun p => p.2.cluster == cl && p.2.way0 ≤ w && w < p.2.way0 + p.2.ways

/-- A target as it stands at issue, with the generations it is issued against. -/
def State.target (s : State) (off : Nat) (segs : List Seg) : Target :=
  let x := ((segs.head?.bind fun a => winOf a.lo)).getD 0
  let cl := x / 0x1000000
  let ways := segWays segs
  let file := match segs.head?.bind fun a => (winOf a.lo).map winPart with
    | some (.file c core r _) => some (s.fileOwner c core r)
    | _ => none
  { off := off, segs := segs, cluster := cl, wayGens := ways.map fun w => (w, vgetD (s.cluster cl).wayGens w 0),
    block := match file with | some (some (k, _)) => (s.group k).map fun g => (k, g.gen) | _ => none,
    alive := (ways.all fun w => s.wayHeld cl w) && (match file with | some none => false | _ => true) }

/-- Whether what a target was issued against is still there (R262). -/
def State.targetLive (s : State) (t : Target) : Bool :=
  t.alive && (t.wayGens.all fun p => s.wayHeld t.cluster p.1 && vgetD (s.cluster t.cluster).wayGens p.1 0 == p.2) &&
    (match t.block with | some (k, gen) => (match s.group k with | some g => g.gen == gen | none => false) | none => true)

/-- [k, k + n) cut at multiples of 2 KiB, the size of a block of the register file. -/
def cutBlocks : Nat → Nat → Nat → List Seg
  | 0, _, _ => []
  | f + 1, k, n => if n = 0 then [] else let m := min n (0x800 - k % 0x800); ⟨k, m⟩ :: cutBlocks f (k + m) (n - m)

/-- The targets of a copy that is no multicast: window ranges block by block, others whole. -/
def State.targets (s : State) (segs : List Seg) : List Target :=
  let cut := segs.flatMap fun a => if (winOf a.lo).isSome then cutBlocks (a.len / 0x800 + 2) a.lo a.len else [a]
  (cut.foldl (fun (p : Nat × List Target) a => (p.1 + a.len, p.2 ++ [s.target p.1 [a]])) (0, [])).2

/-! ### Commands checked at issue -/

/-- A command as it is issued, but for its number. -/
abbrev Plan := EngOp × List TlbEntry

/-- A command with nothing in it. -/
def EngOp.blank (issuer : Issuer) (team : Option Nat) (ctx : Nat) : EngOp :=
  { id := 0, issuer := issuer, team := team, ctx := ctx, isBcopy := false, src := .null, dst := .null, shapeCap := .null, len := 0, fmt := 0, shape := [], lo := 0, srcSegs := [],
    targets := [], status := [], ring := none, started := false, bytes := [], gtags := [], done := false, delivered := 0, gone := false }

/-- A range resolved, its failure with the byte as FADDR. -/
def State.rangeF (s : State) (w : Who) (c : Cap) (perms need : List Nat) (x len align : Nat) : Except Flt (List Seg × List TlbEntry) :=
  match s.resolve w c perms need x len align with
  | .error (e, y) => .error (e, BitVec.ofNat 64 y)
  | .ok r => .ok r

/-- The first of a list of faults that holds. -/
def firstFlt (l : List (Option Flt)) : Option Flt := l.findSome? id

/-- The faults that a shape record and the canonical side's alignment decide, in the order of R207 steps 2 to 6. -/
def tcopyFault (r : Rec) (sh : Shape) (src dst b : Cap) (mc : Bool) (pc : Word) : Option Flt :=
  let skew := fun (c : Cap) => if c.cursor.toNat % 128 ≠ 0 then some (Cause.align, c.cursor) else none
  firstFlt [(shapeCause r sh mc).map fun e => (e, b.cursor), if sh.evenOk then none else some (Cause.align, b.cursor),
    if !sh.pack && 2 ^ 24 < sh.hull.2 then some (Cause.illegalInsn, pc) else none, sh.oob.map fun f => (Cause.tileOob, f),
    if sh.fmt = 0 ∨ sh.pack then skew src else none, if sh.fmt = 0 ∨ !sh.pack then skew dst else none]

/-- The targets of a multicast, in ascending mask bit (R208), with their checks. -/
def State.mcTargets (s : State) (w : Who) (dst : Cap) (n : Nat) : List Nat → List Target → List TlbEntry → Except Flt (List Target × List TlbEntry)
  | [], out, ts => .ok (out, ts)
  | i :: rest, out, ts =>
    let x := dst.cursor.toNat
    let y := (clusterDie (x / 0x1000000) * Config.clustersPerDie + i) * 0x1000000 + x % 0x1000000
    match s.rangeF w dst [Perm.engDst, Perm.window] Need.write y n 1 with
    | .error f => .error f
    | .ok (segs, t) => State.mcTargets s w dst n rest (out ++ [s.target 0 segs]) (ts ++ t)

/-- The mask bits of a multicast. -/
def Shape.mcBits (sh : Shape) : List Nat := (List.range 48).filter fun i => sh.mask.testBit i

/-- `tcopy` checked (R207): the operation, or the first fault. With permit set and every element outside the tensor the hull is empty: no address is formed, and
    the capability's authority and its cursor's place within its bounds are checked all the same. DESIGN CHOICE (log entry 71): R205 does not say. -/
def State.tcopyPlan (s : State) (w : Who) (blank : EngOp) (src dst b : Cap) (mc : Bool) (fmt : Nat) (pc : Word) : Except Flt Plan :=
  let own := if mc then [Perm.load, Perm.store] else [Perm.load]
  match s.rangeF w b own Need.read b.cursor.toNat 64 64 with
  | .error f => .error f
  | .ok (rsegs, t0) =>
    let r : Rec := ⟨s.readSegs rsegs, []⟩
    let sh := Shape.of r fmt
    match tcopyFault r sh src dst b mc pc with
    | some f => .error f
    | none =>
      match (if mc then s.rangeF w b own Need.write (wrapInt (b.cursor.toNat + sh.status) 64) (8 * sh.mcBits.length) 1 else .ok ([], [])) with
      | .error f => .error f
      | .ok (status, t1) =>
        let far := sh.hull
        let at' := fun (c : Cap) (o : Int) => wrapInt (c.cursor.toNat + o) 64
        match s.rangeF w src [Perm.engSrc] Need.read (if sh.packs then src.cursor.toNat else at' src far.1) (if sh.packs then sh.tileSize else far.2) 1 with
        | .error f => .error f
        | .ok (ssegs, t2) =>
          let op := { blank with src := src, dst := dst, shapeCap := b, fmt := fmt, shape := r.bytes, lo := far.1, srcSegs := ssegs, status := status }
          if mc then
            match s.mcTargets w dst sh.tileSize sh.mcBits [] [] with
            | .error f => .error f
            | .ok (tg, t3) => .ok ({ op with targets := tg }, t0 ++ t1 ++ t2 ++ t3)
          else
            match s.rangeF w dst [Perm.engDst] Need.write (if sh.packs then at' dst far.1 else dst.cursor.toNat) (if sh.packs then far.2 else sh.tileSize) 1 with
            | .error f => .error f
            | .ok (dsegs, t3) => .ok ({ op with targets := s.targets dsegs }, t0 ++ t1 ++ t2 ++ t3)

/-- Where the shape record of a command lies. -/
def State.shapeSegs (s : State) (w : Who) (b : Cap) : List Seg :=
  match s.resolve w b [Perm.load] Need.read b.cursor.toNat 64 64 with | .ok (segs, _) => segs | .error _ => []

/-- `bcopy` checked (R210, R212): the operation, or the first fault. -/
def State.bcopyPlan (s : State) (w : Who) (blank : EngOp) (src dst : Cap) (x : Word) (ring : Bool) (pc : Word) : Except Flt Plan :=
  let n := x.toNat
  let len := bitsOf n 39 0
  let hasRing := match blank.team.bind s.team with | some t => t.ring.isSome | none => false
  if bitsOf n 47 40 ≠ 0 ∨ (!ring ∧ bitsOf n 63 48 ≠ 0) then .error (Cause.reservedEnc, pc)
  else if 2 ^ 24 < len ∨ (ring ∧ !hasRing) then .error (Cause.illegalInsn, pc)
  else
    match s.rangeF w src [Perm.engSrc] Need.read src.cursor.toNat len 1 with
    | .error f => .error f
    | .ok (ssegs, t1) =>
      match s.rangeF w dst [Perm.engDst] Need.write dst.cursor.toNat len 1 with
      | .error f => .error f
      | .ok (dsegs, t2) =>
        .ok ({ blank with isBcopy := true, src := src, dst := dst, len := len, srcSegs := ssegs, targets := s.targets dsegs,
                          ring := if ring then some (BitVec.ofNat 16 (n / 2 ^ 48)) else none }, t1 ++ t2)

/-! ### Issue -/

/-- The lock entries that an operation needs in each cluster's table (R213): cluster, ranges, whether a destination. -/
def EngOp.entries (o : EngOp) (cl : Nat) : List (Nat × List Seg × Bool) :=
  let dst := o.targets.flatMap (·.segs)
  let others := ((o.targets.filter fun t => (t.segs.any fun a => (winOf a.lo).isSome) && t.cluster != cl).map (·.cluster)).eraseDups
  ([(cl, o.srcSegs, false), (cl, dst, true)] ++ others.map fun c => (c, (o.targets.filter fun t => t.cluster == c).flatMap (·.segs), true)).filter
    fun e => segLen e.2.1 != 0

/-- Whether the tables have room for an operation's entries. -/
def State.entriesFit (s : State) (o : EngOp) (cl : Nat) : Bool :=
  let es := o.entries cl
  es.all fun e => s.lockRoom e.1 (es.filter fun f => f.1 == e.1).length

/-- An operation registered in its cluster (R213). -/
def State.register (s : State) (cl : Nat) (p : Plan) : State :=
  let id := s.nextId
  let s1 := (p.1.entries cl).foldl (fun s e => s.addLock e.1 id e.2.1 e.2.2) (s.fill cl p.2)
  { s1.modCluster cl fun c => { c with ops := c.ops ++ [{ p.1 with id := id }] } with nextId := id + 1 }

/-- Whether the runs that a fence before the command covers have issued, and its accesses have been performed (R259). -/
def State.fencePassed (s : State) : Bool :=
  s.hart.fenceDone && (match s.curGroup with | some g => g.lane.queue.all fun r => g.lane.fencedRuns ≤ r.seq | none => true)

/-- Whether no run accepted earlier holds a word that reads memory: the load could return what the command writes (R259 point 3). -/
def Group.readsIssued (g : Group) : Bool :=
  g.lane.queue.all fun r => r.words.all fun w => !([0x10, 0x12, 0x13, 0x14] : List (BitVec 7)).contains (LaneFields.ofWord w).maj

/-- Whether a copy command of the current thread is ready: the fences before it have passed, and its earlier loads have their values (R259). -/
def State.copyReady (s : State) : Bool :=
  s.fencePassed && s.hart.performed && (match s.curGroup with | some g => g.readsIssued | none => true)

/-- The ranges that an operation reads or writes. -/
def EngOp.ranges (o : EngOp) : List Seg := o.srcSegs ++ o.targets.flatMap (·.segs) ++ o.status

/-- A command of the current thread issued: counted in cp (R48), among the group's copies (R235). It waits for lock entries, and for the links to other
    packages that it needs (R367). -/
def State.issueCopy (s : State) (p : Plan) : Res :=
  let cl := s.curCluster
  if 255 ≤ s.hart.cp ∨ !s.entriesFit p.1 cl ∨ !s.wlRoomFor (p.1.ranges.map (·.lo)) then .next s
  else
    let id := s.nextId
    let s1 := ((s.register cl p).modHart fun h => { h with cp := h.cp + 1 }).modCurGroup fun g => { g with copies := g.copies ++ [id] }
    .next s1.advance

/-- The blank command of the current thread. -/
def State.myCommand (s : State) : EngOp :=
  match s.cur with
  | .group k => (match s.group k with | some g => .blank (.group k g.gen) (some g.team) g.ctx | none => .blank (.group k 0) none 0)
  | .service c => .blank (.service c) none 0

/-- `tcopy` (R207, R208). -/
def execTcopy (d a b : BitVec 5) (mc : Bool) (fmt : BitVec 3) (s : State) : Res :=
  s.scalarOp [] [d, a, b] fun s =>
    if !s.copyReady then .next s
    else match s.tcopyPlan s.who s.myCommand (s.c a) (s.c d) (s.c b) mc fmt.toNat s.pc with
    | .error f => .next (s.raiseF f)
    | .ok p =>
      let record := s.shapeSegs s.who (s.c b)
      if !s.wlRoomFor (record.map (·.lo)) then .next s else (s.wlReadNow s.who record).issueCopy p

/-- `bcopy` (R210): an empty one without a ring completes at issue. -/
def execBcopy (d a : BitVec 5) (b : BitVec 6) (ring : Bool) (s : State) : Res :=
  s.scalarOp [b] [d, a] fun s =>
    if !s.copyReady then .next s
    else match s.bcopyPlan s.who s.myCommand (s.c a) (s.c d) (s.x b) ring s.pc with
    | .error f => .next (s.raiseF f)
    | .ok p => if p.1.len = 0 ∧ !ring then .next s.advance else s.issueCopy p

/-! ### Start and completion -/

/-- An engine operation of a cluster. -/
def Cluster.op (c : Cluster) (id : Nat) : Option EngOp := c.ops.find? fun o => o.id == id
/-- An engine operation changed. -/
def State.modOp (s : State) (cl id : Nat) (f : EngOp → EngOp) : State :=
  s.modCluster cl fun c => { c with ops := c.ops.map fun o => if o.id = id then f o else o }

/-- Whether ranges touch an accumulator that waits for matrix operations (R28). -/
def State.segsBusy (s : State) (l : List Seg) : Bool :=
  l.any fun a => a.len != 0 && Config.windowKey ≤ a.lo && (List.range (a.len / 0x80000 + 2)).any fun i => s.accBusy (min (a.lo + i * 0x80000) (a.lo + a.len - 1))

/-- The tags that a block transfer may move: those of the whole source granules, in order (R210). -/
def State.sourceTags (s : State) (o : EngOp) : List Bool :=
  let (o0, n) := wholeGranules o.src.cursor.toNat o.len
  (List.range n).map fun i => match segKey o.srcSegs (o0 + 16 * i) with | some k => s.keyTag k | none => false

/-- `ENGINE_OP_START` (R215): the source is read as if in full, once the operations it must follow are done. -/
def execEngineOpStart (cluster id : Nat) (s : State) : Res :=
  match (s.cluster cluster).op id with
  | none => .next s
  | some o =>
    if o.started || !s.lockClear id || s.segsBusy o.srcSegs || s.segsSpoilt o.srcSegs || !s.wlRoomFor (o.srcSegs.map (·.lo)) then .next s
    else
      let bs := s.readSegs o.srcSegs
      let ts := if o.isBcopy then s.sourceTags o else []
      let s1 := s.wlReads (s.whoCtx o.ctx cluster false) id o.srcSegs
      .next { s1.modOp cluster id fun o => { o with started := true, bytes := bs, gtags := ts } with free := s.free + 1 }

/-- Bytes written by an operation, tags cleared; a request where the page is another package's, with the tags that travel beside its whole granules (R73, R266). -/
def State.engWrite (s : State) (w : Who) (id k : Nat) (bs : List Byte) (tags : List Bool) : State := (s.wlSend w id k (.write bs tags)).writeKeys k bs

/-- The same over ranges; `tag` says which granules travel tagged, by their offset in what the operation writes, of which these bytes begin at `off`. -/
def State.engSegs (s : State) (w : Who) (id : Nat) (tag : Nat → Bool) : Nat → List Seg → List Byte → State
  | _, [], _ => s
  | off, a :: l, bs =>
    let g := wholeGranules a.lo a.len
    State.engSegs (s.engWrite w id a.lo (bs.take a.len) ((List.range g.2).map fun i => tag (off + g.1 + 16 * i))) w id tag (off + a.len) l (bs.drop a.len)

/-- The bytes of a list written at a target, if it is live; its tags cleared. -/
def State.writeTarget (s : State) (w : Who) (id : Nat) (tag : Nat → Bool) (data : List Byte) (t : Target) : State :=
  if s.targetLive t then s.engSegs w id tag t.off t.segs ((data.drop t.off).take (segLen t.segs)) else s

/-- Whether a copy's writes must wait: for an accumulator in use, a page being moved, or the links to other packages (R28, R264, R265). -/
def State.targetsWait (s : State) (o : EngOp) : Bool :=
  (o.targets.any fun t => s.segsBusy t.segs) || ((o.status ++ o.targets.flatMap (·.segs)).any fun a => s.moving a.lo a.len) || s.segsBusy o.status ||
    !s.wlRoomFor ((o.status ++ o.targets.flatMap (·.segs)).map (·.lo))

/-- The count of the issuer's copies lowered, and the operation gone from its cluster and the tables (R209, R213). -/
def State.copyGone (s : State) (cl : Nat) (o : EngOp) : State :=
  let s1 := ((s.modCluster cl fun c => { c with ops := c.ops.filter fun p => p.id != o.id }).dropLocks o.id).wlAck o.id
  match o.issuer with
  | .group k gen =>
    (match s1.group k with
      | some g => if g.gen = gen then s1.modGroup k fun g => { g with copies := g.copies.filter (· != o.id), hart := { g.hart with cp := g.hart.cp - 1 } } else s1
      | none => s1)
  | .service c => s1.modCluster c fun x => { x with svc := { x.svc with hart := { x.svc.hart with cp := x.svc.hart.cp - 1 } } }
  | .node .. => s1

/-- The target and the key of an offset of what a copy writes. -/
def State.targetKey (s : State) (ts : List Target) (o : Nat) : Option Nat :=
  match ts.find? fun t => t.off ≤ o && o < t.off + segLen t.segs with
  | some t => if s.targetLive t then segKey t.segs (o - t.off) else none
  | none => none

/-- One code of a pack written (R204, R207). -/
def State.packOne (s : State) (w : Who) (id : Nat) (sh : Shape) (ts : List Target) (p : Nat × Nat × Bool) : State :=
  let put := fun (s : State) (o : Nat) (b : Byte → Byte) => match s.targetKey ts o with | some k => s.engWrite w id k [b (s.keyByte k)] [] | none => s
  match mxBits sh.ty with
  | 4 => put s p.1 fun old => if p.2.2 then (old &&& 0x0F) ||| BitVec.ofNat 8 (16 * p.2.1) else (old &&& 0xF0) ||| BitVec.ofNat 8 p.2.1
  | 16 => put (put s p.1 fun _ => BitVec.ofNat 8 p.2.1) (p.1 + 1) fun _ => BitVec.ofNat 8 (p.2.1 / 256)
  | _ => put s p.1 fun _ => BitVec.ofNat 8 p.2.1

/-- The status words of a multicast (R208). DESIGN CHOICE (log entry 60): a target whose allocation has ended takes none of the tile, so that DEST_GONE
    stands beside 0 bytes. -/
def State.writeStatus (s : State) (w : Who) (o : EngOp) (live : List Bool) : State :=
  let word := fun (p : Target × Bool) => if p.2 then segLen p.1.segs else 2 ^ 32
  s.engSegs w o.id (fun _ => false) 0 o.status ((o.targets.zip live).flatMap fun p => leBytes 8 (word p))

/-- `TCOPY_COMPLETE` (R207 to R209, R262): the tile, or the codes, written; the status words; locks and count released. -/
def execTcopyComplete (cluster id : Nat) (s : State) : Res :=
  match (s.cluster cluster).op id with
  | none => .next s
  | some o =>
    if o.isBcopy || !o.started || s.targetsWait o then .next s
    else
      let sh := Shape.of ⟨o.shape, []⟩ o.fmt
      let live := o.targets.map s.targetLive
      let w := s.whoCtx o.ctx cluster false
      let s1 := if sh.packs then (sh.packWrites o.bytes o.lo).foldl (fun s p => s.packOne w id sh o.targets p) s
                else o.targets.foldl (fun s t => s.writeTarget w id (fun _ => false) (sh.expand (Config.freeScale s.free) o.bytes o.lo) t) s
      let s2 := s1.writeStatus w o (if o.status.isEmpty then [] else live)
      .next { s2.copyGone cluster o with free := s2.free + 1 }

/-- Whether a block transfer leaves the granule at an offset tagged: one that it moves whole, whose tag it may move (R67, R74, R210). -/
def State.movedTag (s : State) (o : EngOp) (off : Nat) : Bool :=
  let x := o.src.cursor.toNat
  let (o0, n) := wholeGranules x o.len
  let c := Cap.ofBytes ((o.bytes.drop off).take 16) true
  x % 16 == o.dst.cursor.toNat % 16 && o.src.has Perm.loadCap && o.dst.has Perm.storeCap && o0 ≤ off && off < o0 + 16 * n && (off - o0) % 16 == 0 &&
    o.gtags.getD ((off - o0) / 16) false && !(s.colourMask o.ctx).getLsbD c.colour.toNat &&
    match s.targetKey o.targets off with | some k => c.has Perm.global || s.inTeamPad o.team k | none => false

/-- The tags of a block transfer set on the granules that it wrote whole. -/
def State.moveTags (s : State) (o : EngOp) : State :=
  let (o0, n) := wholeGranules o.src.cursor.toNat o.len
  (List.range n).foldl (fun s i =>
    match s.targetKey o.targets (o0 + 16 * i) with
    | some k => if s.movedTag o (o0 + 16 * i) then s.keySetTag k true else s
    | none => s) s

/-- `BCOPY_COMPLETE` (R210, R211, R262): the writes land or are dropped; without a ring the command is done. -/
def execBcopyComplete (cluster id : Nat) (s : State) : Res :=
  match (s.cluster cluster).op id with
  | none => .next s
  | some o =>
    if !o.isBcopy || !o.started || o.done || s.targetsWait o then .next s
    else
      let got := ((o.targets.filter s.targetLive).map fun t => segLen t.segs).sum
      let gone := o.targets.any fun t => !s.targetLive t
      let s1 := (o.targets.foldl (fun s t => s.writeTarget (s.whoCtx o.ctx cluster false) id (s.movedTag o) o.bytes t) s).moveTags o
      if o.ring.isNone then .next (s1.copyGone cluster o)
      else .next (s1.modCluster cluster fun c => { c with
        ops := (c.ops.filter fun p => p.id != id) ++ [{ o with done := true, delivered := got, gone := gone }] })

/-- The completion record of a ring transfer (R212). -/
def EngOp.record (o : EngOp) (index role : Nat) : Nat :=
  o.delivered + bitNat o.gone * 2 ^ 40 + (o.ring.getD 0).toNat * 2 ^ 48 + index * 2 ^ 64 + role * 2 ^ 68 + 2 ^ 127

/-- `RING_RECORD_WRITE` (R212): the oldest completed ring transfer of its team, once its slot is free. -/
def execRingRecordWrite (cluster id : Nat) (s : State) : Res :=
  match (s.cluster cluster).op id with
  | none => .next s
  | some o =>
    let first := (s.cluster cluster).ops.find? fun p => p.done && p.team == o.team
    match o.team.bind s.team with
    | none => .next s
    | some t =>
      let key := wayKey t.cluster t.way0 + t.ring.getD 0 + 16 * t.ringNext
      if !o.done || (first.map (·.id)) != some id || (s.keyByte (key + 15)).getLsbD 7 then .next s
      else
        let (index, role) := match o.issuer with
          | .group k _ => (match s.group k with | some g => (g.index, g.role) | none => (0, 0))
          | _ => (0, 0)
        let s1 := s.writeKeys key (leBytes 16 (o.record index role))
        let s2 := match o.team with | some id => s1.modTeam id fun t => { t with ringNext := (t.ringNext + 1) % 256 } | none => s1
        .next (s2.copyGone cluster o)

end Sys2Proof.Machine
end

