-- ==== Sys2Proof/Machine/Graphs.lean ====
section
/-! DEFINITION. Dependence graphs: building, closing, patching, replaying, and the walk of an instance (R217 to R223). -/
namespace Sys2Proof.Machine
open Sys2Proof

/-! ### The walker's store -/

/-- A graph of a die's store replaced. -/
def State.setGraph (s : State) (d key : Nat) (g : Graph) : State := s.modDie d fun die => { die with graphs := mapSet die.graphs key g }
/-- A graph of a die's store removed. -/
def State.delGraph (s : State) (d key : Nat) : State := s.modDie d fun die => { die with graphs := mapDel die.graphs key }
/-- A live instance of a die. -/
def State.inst (s : State) (d i : Nat) : Option Instance := mapGet (s.die d).insts i
/-- A live instance changed. -/
def State.modInst (s : State) (d i : Nat) (f : Instance → Instance) : State := s.modDie d fun die => { die with insts := mapMod f die.insts i }

/-- Every copy of an object gone from the stores: the object is created anew. -/
def State.dropCopies (s : State) (key : Nat) : State := (List.range 4).foldl (fun s d => s.delGraph d key) s

/-- A graph with nothing in it. -/
def Graph.fresh (ctx : Nat) : Graph := ⟨ctx, 0, [], [], Vector.replicate 64 0, Vector.replicate 64 0, false⟩

/-- The walker as the maker of a node's accesses (R217, R389): the kernel's, for a graph of context 0. -/
def State.walker (s : State) (ctx cl : Nat) : Who := if ctx = 0 then whoService cl else s.whoCtx ctx cl false

/-- Whether the walker may write an object's header for the graph's context (R389, R390): the object's page, or its way, is of a world that it reaches. The
    check is of every write, made by the key kept since the form that named the object: a page whose world has changed is not written. DESIGN CHOICE (log
    entry 72): R217 does not say what becomes of the write. -/
def State.headerMay (s : State) (ctx key : Nat) : Bool :=
  let w := (s.walker ctx 0).world
  ctx == 0 || Config.remoteKey ≤ key || match winOf key with
    | some x => s.winWorld (winPart x) == 0 || s.winWorld (winPart x) == w
    | none => match s.pageWorld key with | some p => worldMay w p | none => false

/-- A write of an object's header by the walker, which waits while its page is being moved (R217, R264); a request where the object is another package's. -/
def State.setHeader (s : State) (ctx key off x : Nat) : State :=
  if s.headerMay ctx key then s.agentSend (s.walker ctx 0) (key + off) (leBytes 8 x) else s

/-- The count of replays in an object's header raised by the walker (R222). -/
def State.countReplay (s : State) (ctx key : Nat) : State :=
  if Config.remoteKey ≤ key then s.setHeader ctx key 0x18 (s.readNat (key + 0x18) 8 + 1)
  else if s.headerMay ctx key then s.agentWrite ⟨key + 0x18, .add 1⟩ else s

/-- Whether the links have room for the requests of a form on an object of another package. -/
def State.objectRoom (s : State) (key : Nat) : Bool := s.wlRoomFor (List.replicate 16 key)

/-- The state by which the graph forms act, with the walker's copy and its die: the state word of the object, which software writes 0 only to create
    an object anew. 4 stands for a state word that agrees with no copy. DESIGN CHOICE (log entry 13). -/
def State.graphState (s : State) (key : Nat) : Nat × Option (Nat × Graph) :=
  let w := s.readNat (key + 0x10) 8
  match s.graphAt key with
  | some (d, g) => if 2 ≤ g.state ∨ w = g.state then (g.state, some (d, g)) else if w = 0 then (0, none) else (4, none)
  | none => (if w = 0 then 0 else 4, none)

/-- The open graph of the current thread. -/
def State.openGraph (s : State) : Option Nat :=
  match s.cur with
  | .group k => (s.group k).bind fun g => g.openGraph
  | .service c => (s.cluster c).svc.openGraph

/-- The open graph of the current thread set. -/
def State.setOpenGraph (s : State) (x : Option Nat) : State :=
  match s.cur with
  | .group k => s.modGroup k fun g => { g with openGraph := x }
  | .service c => s.modCluster c fun cl => { cl with svc := { cl.svc with openGraph := x } }

/-- The frame of a form that names an object by c[a] (R217): the base is the object's, 128-aligned with the header within the bounds, else CAP_BOUNDS;
    then the effect at the object's key. -/
def State.graphOp (s : State) (a : BitVec 5) (body : Nat → State → Res) : Res :=
  let c := s.c a
  match authCause s.who c [Perm.load, Perm.store] with
  | some e => .next (s.raise e (BitVec.ofNat 64 c.base))
  | none =>
    if c.base % 128 ≠ 0 ∨ !c.covers c.base 0x280 then .next (s.raise Cause.capBounds (BitVec.ofNat 64 c.base))
    else match s.reach s.who ⟨c, [Perm.load, Perm.store], c.base, 0x280, 128, [2, 3], true, true⟩ with
      | .error e => .next (s.raise e (BitVec.ofNat 64 c.base))
      | .ok (k, t) => if !s.memReady true k 0x280 || s.moving k 0x280 || !s.objectRoom k then .next s else body k (s.fill s.curCluster t.toList)

/-! ### Building (R219 to R221) -/

/-- `gnode` (R219). -/
def execGnode (d : BitVec 6) (a : BitVec 5) (s : State) : Res :=
  s.scalarOp [d] [a] fun s => s.graphOp a fun key s =>
    let c := s.c a
    let (st, old) := s.graphState key
    let die := clusterDie s.curCluster
    let (home, g) := match old with | some p => p | none => (die, Graph.fresh s.who.ctx)
    let n := g.nodes.length
    if s.openGraph.any fun k => k != key then .next (s.raiseHere Cause.illegalInsn)
    else if st ≠ 0 ∨ c.cursor.toNat ≠ c.base + 0x280 + 128 * n ∨ 1024 ≤ n then .next (s.raise Cause.illegalInsn c.cursor)
    else match s.resolve s.who c [Perm.load, Perm.store] Need.read c.cursor.toNat 128 128 with
      | .error (e, x) => .next (s.raise e (BitVec.ofNat 64 x))
      | .ok (segs, ts) =>
        let r := s.readRec segs (c.has Perm.loadCap) s.who.mask
        if 3 < bitsOf (r.word 8).toNat 3 0 then .next (s.raise Cause.illegalInsn c.cursor)
        else
          let g1 := { g with nodes := g.nodes ++ [⟨r.bytes.take 64, r.tags.take 4, r.word 8, r.word 9⟩] }
          let s0 := ((if old.isSome then s else s.dropCopies key).fill s.curCluster ts).wlReadNow s.who segs
          let s1 := ((s0.setGraph home key g1).setHeader g.ctx key 0 (n + 1)).setHeader g.ctx key 8 g.edges.length
          .next ((s1.setOpenGraph (some key)).setX d (BitVec.ofNat 64 n)).advance

/-- `gedge` (R220). -/
def execGedge (a b : BitVec 6) (s : State) : Res :=
  s.scalarOp [a, b] [] fun s =>
    match s.openGraph.bind fun key => (s.graphAt key).map fun p => (key, p) with
    | none => .next (s.raiseHere Cause.illegalInsn)
    | some (key, home, g) =>
      let n := g.nodes.length
      let e := ((s.x a).toNat, (s.x b).toNat)
      if n ≤ e.1 ∨ n ≤ e.2 ∨ e.1 = e.2 then .next (s.raiseHere Cause.illegalInsn)
      else if g.edges.contains e then .next s.advance
      else if 8192 ≤ g.edges.length then .next (s.raiseHere Cause.illegalInsn)
      else .next ((s.setGraph home key { g with edges := g.edges ++ [e] }).setHeader g.ctx key 8 (g.edges.length + 1)).advance

/-- The nodes left after those without a predecessor left are taken away, as often as a fuel says. -/
def peelNodes : Nat → List Nat → List (Nat × Nat) → List Nat
  | 0, ns, _ => ns
  | f + 1, ns, es =>
    let rest := ns.filter fun n => es.any fun e => e.2 == n
    if rest.length = ns.length then ns else peelNodes f rest (es.filter fun e => rest.contains e.1)

/-- Whether the edges form a cycle (R221). -/
def Graph.cyclic (g : Graph) : Bool := !(peelNodes (g.nodes.length + 1) (List.range g.nodes.length) g.edges).isEmpty

/-- Whether a die's store can hold one more closed graph (R221). DESIGN CHOICE (log entry 57): the graphs still open take no room. -/
def Die.holds (d : Die) (g : Graph) : Bool :=
  let closed := d.graphs.filter fun p => p.2.state != 0
  (closed.map fun p => p.2.nodes.length).sum + g.nodes.length ≤ 4096 && (closed.map fun p => p.2.edges.length).sum + g.edges.length ≤ 16384

/-- `gclose` (R221). -/
def execGclose (a : BitVec 5) (s : State) : Res :=
  s.scalarOp [] [a] fun s => s.graphOp a fun key s =>
    let c := s.c a
    match s.graphState key with
    | (0, some (home, g)) =>
      if s.openGraph ≠ some key then .next (s.raiseHere Cause.illegalInsn)
      else if g.cyclic || !(s.die home).holds g then .next (s.raise Cause.illegalInsn (BitVec.ofNat 64 c.base))
      else match s.resolve s.who c [Perm.load, Perm.store] Need.read (c.base + 0x80) 512 128 with
        | .error (e, x) => .next (s.raise e (BitVec.ofNat 64 x))
        | .ok (segs, ts) =>
          let r : Rec := ⟨s.readSegs segs, []⟩
          let par : Vector Word 64 := Vector.ofFn fun i => r.word i.val
          let s1 := ((s.fill s.curCluster ts).wlReadNow s.who segs).setGraph home key { g with state := 1, parA := par, parB := par, targetB := false }
          .next ((s1.setHeader g.ctx key 0x10 1).setOpenGraph none).advance
    | (1, some (home, g)) => .next ((((s.delGraph home key).setHeader g.ctx key 0x10 0).setHeader g.ctx key 0 0).setHeader g.ctx key 8 0).advance
    | _ => .next (s.raiseHere Cause.illegalInsn)

/-! ### The walk of an instance (R218, R223) -/

/-- The parameter copy that an instance reads. -/
def Graph.par (g : Graph) (copyB : Bool) : Vector Word 64 := if copyB then g.parB else g.parA

/-- One substitution on a node's body (R218): field s of its substitution word. -/
def substOne (subs : Word) (par : Vector Word 64) (r : Rec) (i : Nat) : Rec :=
  let f := bitsOf subs.toNat (16 * i + 15) (16 * i)
  let t := bitsOf f 2 0
  let x := vgetD par (bitsOf f 13 8) 0
  if !f.testBit 15 then r
  else if 6 ≤ t then r.setWord t x
  else if t % 2 = 0 then r.setCap (t / 2) ((r.cap (t / 2)).setCursor x)
  else (r.setWord t x).setTag (t / 2) false

/-- The body of a node as it starts. -/
def GNode.start (n : GNode) (par : Vector Word 64) : Rec := (List.range 4).foldl (substOne n.subs par) ⟨n.body, n.tags⟩

/-- Kind of a node. -/
def GNode.sort (n : GNode) : Nat := bitsOf n.kind.toNat 3 0
/-- The copy func byte of a node. -/
def GNode.func (n : GNode) : Nat := bitsOf n.kind.toNat 11 4
/-- The local index of the cluster that runs a copy node. -/
def GNode.local' (n : GNode) : Nat := bitsOf n.kind.toNat 17 12

/-- How a node that starts stands. -/
inductive NodeStart where
  | waits | ended | runs (s : State) | fails (cause : BitVec 8)
  deriving DecidableEq, Repr

/-- A copy node that starts (R223 step 2): its command on its cluster's engines, once the lock table and the links have room. DESIGN CHOICE (log entry 58): a
    node that names no cluster of the die, or whose func byte is no form of its kind, fails by `ILLEGAL_INSN`, or by `RESERVED_ENC` for a reserved form. -/
def State.startCopy (s : State) (d inst node : Nat) (g : Graph) (n : GNode) (r : Rec) : NodeStart :=
  let cl := d * Config.clustersPerDie + n.local'
  let w := s.walker g.ctx cl
  let blank := EngOp.blank (.node d inst node) none g.ctx
  let f := n.func
  if Config.clustersPerDie ≤ n.local' ∨ f / 16 ≠ n.sort then .fails Cause.illegalInsn
  else if (n.sort = 0 ∧ 5 ≤ f % 8) ∨ (n.sort = 1 ∧ f % 8 ≠ 0) then .fails Cause.reservedEnc
  else match (if n.sort = 0 then s.tcopyPlan w blank (r.cap 0) (r.cap 1) (r.cap 2) (f.testBit 3) (f % 8) 0
              else s.bcopyPlan w blank (r.cap 0) (r.cap 1) (r.word 6) (f.testBit 3) 0) with
    | .error e => .fails e.1
    | .ok p =>
      let record := if n.sort = 0 then s.shapeSegs w (r.cap 2) else []
      if n.sort = 1 ∧ p.1.len = 0 then .ended
      else if s.entriesFit p.1 cl && s.wlRoomFor ((p.1.ranges ++ record).map (·.lo)) then .runs ((s.wlReadNow w record).register cl p) else .waits

/-- A node that starts (R223). -/
def State.startNode (s : State) (d inst node : Nat) (g : Graph) (i : Instance) (n : GNode) : NodeStart :=
  match n.sort with
  | 3 => .ended
  | 2 => .runs s
  | _ => s.startCopy d inst node g n (n.start (g.par i.copyB))

/-- The nodes that follow a list of nodes, directly or not. -/
def successors : Nat → List Nat → List (Nat × Nat) → List Nat
  | 0, ns, _ => ns
  | f + 1, ns, es =>
    let more := ((es.filter fun e => ns.contains e.1 && !ns.contains e.2).map (·.2)).eraseDups
    if more.isEmpty then ns else successors f (ns ++ more) es

/-- A node's status set. -/
def Instance.setStatus (i : Instance) (n x : Nat) : Instance := { i with status := i.status.set n x }

/-- A node ended (R223 steps 4 and 5): its successors' counts lowered; where it failed, those that follow it are skipped. -/
def Instance.endNode (i : Instance) (g : Graph) (n : Nat) (fail : Option (BitVec 8)) : Instance :=
  let i1 := i.setStatus n 2
  match fail with
  | none => { i1 with preds := (g.edges.filter fun e => e.1 == n).foldl (fun p e => p.set e.2 (p.getD e.2 0 - 1)) i1.preds }
  | some c =>
    let skip := (successors g.nodes.length [n] g.edges).filter (· != n)
    { skip.foldl (fun i m => i.setStatus m 3) i1 with fail := match i.fail with | some f => some f | none => some (n, c) }

/-- The lowest node of an instance that may start and is not among those tried. -/
def Instance.readyNode (i : Instance) (tried : List Nat) : Option Nat :=
  (List.range i.status.length).find? fun n => i.status.getD n 2 == 0 && i.preds.getD n 1 == 0 && !tried.contains n

/-- The nodes of an instance that may start, started. -/
def State.startReady : Nat → State → Nat → Nat → Graph → List Nat → State
  | 0, s, _, _, _, _ => s
  | f + 1, s, d, inst, g, tried =>
    match s.inst d inst with
    | none => s
    | some i =>
      match i.readyNode tried with
      | none => s
      | some n =>
        match g.nodes[n]? with
        | none => s
        | some node =>
          match s.startNode d inst n g i node with
          | .waits => State.startReady f s d inst g (n :: tried)
          | .ended => State.startReady f (s.modInst d inst fun i => i.endNode g n none) d inst g tried
          | .runs s1 => State.startReady f (s1.modInst d inst fun i => i.setStatus n 1) d inst g tried
          | .fails c => State.startReady f (s.modInst d inst fun i => i.endNode g n (some c)) d inst g tried

/-- Whether every node has ended or been skipped. -/
def Instance.over (i : Instance) : Bool := i.status.all fun x => x == 2 || x == 3

/-- A new instance of a graph on a parameter copy (R223 step 1). -/
def Graph.newInst (g : Graph) (key : Nat) (copyB : Bool) : Instance :=
  { queued := false, graph := key, copyB := copyB, preds := (List.range g.nodes.length).map fun n => (g.edges.filter fun e => e.2 == n).length,
    status := List.replicate g.nodes.length 0, fail := none }

/-- The other parameter copy filled from one, and made the target (R222). -/
def Graph.fillFrom (g : Graph) (copyB : Bool) : Graph :=
  if copyB then { g with parA := g.parB, targetB := false } else { g with parB := g.parA, targetB := true }

/-- A graph's state, in the store and in the object. -/
def State.setGraphState (s : State) (home key : Nat) (g : Graph) (st : Nat) : State :=
  (s.setGraph home key { g with state := st }).setHeader g.ctx key 0x10 st

/-- An instance started on a copy by a die's walker (R222, R223). -/
def State.startInstance (s : State) (d home key : Nat) (g : Graph) (copyB : Bool) : State × Nat :=
  let id := s.nextId
  let s1 := { s.modDie d fun die => { die with insts := mapSet die.insts id (g.newInst key copyB) } with nextId := id + 1 }
  (s1.setGraphState home key (g.fillFrom copyB) 2, id)

/-- The replay of a graph that is queued: its die and number. -/
def State.queuedFor (s : State) (key : Nat) : Option (Nat × Nat) :=
  (List.range 4).findSome? fun d => ((s.die d).insts.find? fun p => p.2.queued && p.2.graph == key).map fun p => (d, p.1)

/-- A replay queued with a die's walker, in one of its slots (R222). -/
def State.queueInstance (s : State) (d home key : Nat) (g : Graph) : State :=
  let s1 := s.modDie d fun die => { die with insts := mapSet die.insts s.nextId { g.newInst key g.targetB with queued := true } }
  { s1 with nextId := s.nextId + 1 }.setGraphState home key g 3

/-- The queued replay started on its copy by the walker that was asked for it; the freed copy is filled and becomes the target (R222). -/
def State.startQueued (s : State) (home key : Nat) (g : Graph) (d i : Nat) : State :=
  (s.modInst d i fun x => { x with queued := false }).setGraphState home key (g.fillFrom g.targetB) 2

/-- What follows when an instance may have ended (R222, R223 step 6): the ready nodes start; an ended instance is counted and gone; a queued one
    takes its place. -/
def State.pump : Nat → State → Nat → Nat → State
  | 0, s, _, _ => s
  | f + 1, s, d, inst =>
    match s.inst d inst with
    | none => s
    | some i =>
      match s.graphAt i.graph with
      | none => s
      | some (home, g) =>
        let s1 := s.startReady (2 * g.nodes.length + 1) d inst g []
        match s1.inst d inst with
        | none => s1
        | some i1 =>
          if !i1.over then s1
          else
            let key := i.graph
            let status := match i1.fail with | some (n, c) => n + 1 + c.toNat * 65536 | none => 0
            let s2 := ((s1.modDie d fun die => { die with insts := mapDel die.insts inst }).setHeader g.ctx key 0x20 status).countReplay g.ctx key
            match s2.queuedFor key with
            | some (d', j) => State.pump f (s2.startQueued home key g d' j) d' j
            | none => s2.setGraphState home key g 1

/-! ### Replaying and patching (R222) -/

/-- `grplay` (R222): a release of the earlier accesses. -/
def execGrplay (d : BitVec 6) (a : BitVec 5) (s : State) : Res :=
  s.scalarOp [d] [a] fun s => s.graphOp a fun key s =>
    let die := clusterDie s.curCluster
    if !s.released then .next s
    else if 64 ≤ (s.die die).insts.length then .next (s.setX d 3).advance
    else match s.graphState key with
      | (1, some (home, g)) =>
        let p := s.startInstance die home key g g.targetB
        .next ((p.1.pump 2 die p.2).setX d 0).advance
      | (2, some (home, g)) => .next ((s.queueInstance die home key g).setX d 1).advance
      | (3, some _) => .next (s.setX d 2).advance
      | _ => .next (s.setX d 4).advance

/-- `gpatch` (R222). -/
def execGpatch (d : BitVec 6) (a : BitVec 5) (b : BitVec 6) (s : State) : Res :=
  s.scalarOp [d, b] [a] fun s => s.graphOp a fun key s =>
    let n := (s.x b).toNat
    match s.graphState key with
    | (_, some (home, g)) =>
      if 64 ≤ n ∨ g.state = 0 then .next (s.raiseHere Cause.illegalInsn)
      else
        let g1 := if g.targetB then { g with parB := vset g.parB n (s.x d) } else { g with parA := vset g.parA n (s.x d) }
        .next (s.setGraph home key g1).advance
    | _ => .next (s.raiseHere Cause.illegalInsn)

/-! ### Events (R223) -/

/-- Whether a copy of a node is still in an engine. -/
def State.nodeCopying (s : State) (w : Issuer) : Bool := s.clusters.toList.any fun c => c.ops.any fun o => o.issuer == w

/-- Whether a node's packet or grid is still with the dispatcher (R279: a refused grid counts as ended). -/
def State.nodeLaunched (s : State) (w : Nat × Nat × Nat) : Bool :=
  (s.disp.grids.any fun p => p.2.node == some w) || s.disp.posts.any fun p => p.2.any fun x => x.node == some w

/-- `GRAPH_NODE_END` (R223): a copy node whose command is done, or a launch node whose grid has completed, ends; nodes that may start, start. -/
def execGraphNodeEnd (die inst node : Nat) (s : State) : Res :=
  match s.inst die inst with
  | none => .next s
  | some i =>
    match s.graphAt i.graph with
    | none => .next s
    | some (_, g) =>
      let st := if i.queued then 2 else i.status.getD node 2
      let sort := match g.nodes[node]? with | some n => n.sort | none => 3
      let done := (st == 1 && sort != 2 && !s.nodeCopying (.node die inst node)) || (st == 4 && !s.nodeLaunched (die, inst, node))
      .next (if i.queued || !s.objectRoom i.graph then s else (if done then s.modInst die inst fun i => i.endNode g node none else s).pump 2 die inst)

/-- `GRAPH_LAUNCH_POST` (R223 steps 3 and 5): a launch node's packet posted, unless its queue is full; a post to no queue fails the node. Its events
    are for the die's first cluster (log entry 13). The spec gives NO_QUEUE no cause code, so that in word 0x020 is a free one (log entry 5). -/
def execGraphLaunchPost (die inst node : Nat) (s : State) : Res :=
  match s.inst die inst with
  | none => .next s
  | some i =>
    match (s.graphAt i.graph).bind fun p => (p.2.nodes[node]?).map fun n => (p.2, n) with
    | none => .next s
    | some (g, n) =>
      if i.status.getD node 2 ≠ 1 ∨ n.sort ≠ 2 ∨ s.objectRoom i.graph = false then .next s
      else
        let p := n.start (g.par i.copyB)
        match s.post g.ctx p.queueNo p ⟨die * Config.clustersPerDie, some (die, inst, node), none⟩ with
        | (s1, 0) => .next (s1.modInst die inst fun i => i.setStatus node 4)
        | (_, 1) => .next s
        | _ =>
          let s1 := { s with free := s.free + 1 }.modInst die inst fun i => i.endNode g node (some (freeCause s.free))
          .next (s1.pump 2 die inst)

end Sys2Proof.Machine
end

