-- ==== Sys2Proof/Machine/Traps.lean ====
section
/-! DEFINITION. The trap forms, trap records and the delivery of results (R155, R156, R286, R355, R356). -/
namespace Sys2Proof.Machine
open Sys2Proof

/-! ### The trap record (R355) -/

/-- The element mask of a record. -/
def State.trapElems (s : State) (a : Nat) : Nat := s.readNat (a + 0x08) 16
/-- The done mask. -/
def State.trapDone (s : State) (a : Nat) : Nat := s.readNat (a + 0x18) 16
/-- The delivered mask. -/
def State.trapDelivered (s : State) (a : Nat) : Nat := s.readNat (a + 0x28) 16
/-- Whether a record is valid and holds calls whose results are not delivered. -/
def State.trapOutstanding (s : State) (a : Nat) : Bool := s.keyByte (a + 2) &&& 1 != 0 && s.trapElems a &&& s.trapDelivered a != s.trapElems a

/-- A key moved with the n bytes from a on to b. -/
def moveKey (a b n k : Nat) : Nat := if a ≤ k ∧ k < a + n then k - a + b else k
/-- The keys of ranges moved so. -/
def moveSegs (a b n : Nat) (l : List Seg) : List Seg := l.map fun x => { x with lo := moveKey a b n x.lo }

/-- No trap record: the address that the services under way of none have. -/
abbrev noRecord : Nat := 2 ^ 64

/-- The services under way of a record's calls, gone or at another record (R294). A command of theirs that a drive has goes on, and one that was forwarded has still
    to be answered (R293, R295). -/
def State.moveJobs (s : State) (src : Nat) (dst : Option Nat) : State :=
  let at' := fun (a : Nat) => if a = src then dst.getD noRecord else a
  let jobs := if dst.isSome then s.io.jobs else s.io.jobs.filter fun j => j.at0 != src || j.owner != j.asker
  { s with io := { s.io with
    jobs := jobs.map fun j => { j with at0 := at' j.at0 },
    cmds := s.io.cmds.map fun c => { c with job := c.job.map fun j => (at' j.1, j.2) },
    naming := s.io.naming.map fun n => { n with at0 := at' n.at0 } } }

/-- Bytes of a record written (R355), tags of their granules cleared (R73) but for that of `c15`, whose granule other fields share (log entry 9). -/
def State.recordPut (s : State) (a off : Nat) (bs : List Byte) : State := (s.writeKeys (a + off) bs).keySetTag (a + 0x30) (s.keyTag (a + 0x30))

/-- A record written by hardware (R355): number, kind, predicate, elements, `c15`, arguments. The 16 bytes of `c15` stand at 0x38, which is no
    granule: their tag is that of the granule their first byte lies in. DESIGN CHOICE (log entry 9). -/
def State.writeTrap (s : State) (a : Nat) (num : Nat) (any : Bool) (pred : Nat) (ks : List Nat) (c15 : Cap) (l : LaneState) : State :=
  let w := num + bitNat any * 2 ^ 8 + pred * 2 ^ 9 + 2 ^ 16
  let mask := (ks.map fun k => 2 ^ k).sum
  let s1 := (s.moveJobs a none).writeKeys a (leBytes 8 w ++ leBytes 16 mask ++ leBytes 16 0 ++ leBytes 16 0 ++ c15.bytes)
  let s2 := s1.keySetTag (a + 0x30) c15.tag
  ks.foldl (fun s k => s.writeKeys (a + 0x80 + 48 * k) ((List.range 6).flatMap fun i => leBytes 8 (l.elem (8 + i) 64 k))) s2

/-- The capability that a record has captured, with its tag (log entry 9). -/
def State.trapCap (s : State) (a : Nat) : Cap := Cap.ofBytes (s.readKeys (a + 0x38) 16) (s.keyTag (a + 0x30))

/-- Whether a slot's trap record lies in a page being moved: hardware's writes of it wait (R264). -/
def State.trapHeld (s : State) (k : Nat) : Bool := s.moving (s.trapRecord k) 0x1000

/-- Results of a list of elements written into `v8` and `v9`. -/
def State.putResults (s : State) (k : Nat) (rs : List (Nat × Nat × Nat)) : State :=
  s.modGroup k fun g => { g with lane := rs.foldl (fun l r => (l.setElem 8 64 r.1 r.2.1).setElem 9 64 r.1 r.2.2) g.lane }

/-- A predicate of a group set to exactly the bits of a number. -/
def State.putPred (s : State) (k n bits : Nat) : State :=
  if n = 0 then s else s.modGroup k fun g => { g with lane := { g.lane with p := vset g.lane.p n (BitVec.ofNat 2048 bits) } }

/-- The delivery of `gresume` (R356) to slot k's group: the results of calls done and not delivered; then, if the trap's condition holds, the
    predicate of `trap.any`, and whether the group resumes. -/
def State.deliverCalls (s : State) (k : Nat) : State × Bool :=
  let a := s.trapRecord k
  let w := s.readNat a 8
  let new := (List.range 32).filter fun i => (s.trapDone a).testBit i && !(s.trapDelivered a).testBit i
  let rs := new.map fun i => (i, s.readNat (a + 0x680 + 16 * i) 8, s.readNat (a + 0x688 + 16 * i) 8)
  let got := s.trapDelivered a ||| (new.map fun i => 2 ^ i).sum
  let s1 := (s.putResults k rs).recordPut a 0x28 (leBytes 16 got)
  if (w.testBit 8 && got != 0) || got = s.trapElems a then
    (if w.testBit 8 then s1.putPred k (bitsOf w 15 9) got else s1, true)
  else (s1, false)

/-! ### The forms -/

/-- Slot k's group Trapped. -/
def State.enterTrapped (s : State) (k : Nat) : State := s.modGroup k fun g => { g with life := .trapped }

/-- The wait of `trapwait` (R156): the record collects every call from now on, without a predicate. True: it completes at once. -/
def State.collectCalls (s : State) (k : Nat) : State × Bool :=
  let a := s.trapRecord k
  if !s.trapOutstanding a then (s, true)
  else
    let w := s.readNat a 8
    (s.recordPut a 0 (leBytes 8 (if w.testBit 8 then w - 2 ^ 8 else w))).deliverCalls k

/-- Whether a trap form is ready: every run issued, its writes landed, earlier accesses performed (R155, R257). -/
def Group.trapReady (g : Group) : Bool :=
  g.lane.queue.isEmpty && g.released && !(g.hart.pendRegs.any fun r => match r with | .v _ | .p _ => true | _ => false)

/-- The call numbers that are assigned (R290). -/
def callNumbers : List Nat := [0x01, 0x02, 0x03, 0x10, 0x11, 0x12, 0x13, 0x14, 0x20, 0x21, 0x22, 0x23, 0x30, 0x31, 0x32, 0x33]

/-- A trap that makes calls (R155, R286): `pd` is none for `trap.all`. A number that is not assigned answers BAD_CALL to each. A trace record of kind 4 is
    written where the group enters Trapped with calls of this word: not by `trapwait`, by a trap that first waits for earlier calls, or by one that makes none.
    DESIGN CHOICE (log entry 68): R340 does not say which forms count. -/
def State.trapOp (s : State) (pd : Option Nat) (guard : BitVec 7) (neg : Bool) : Res :=
  s.groupOnly fun k g =>
    if g.vbud < 14 then .next (s.raiseHere Cause.illegalInsn)
    else s.scalarOp [1] [15] fun s =>
      if !g.trapReady || s.trapHeld k then .next s
      else if g.lane.vt.sew ≠ 64 ∨ g.lane.vt.lmul ≠ 1 then .next (s.raiseHere Cause.illegalInsn)
      else
        let (s1, past) := s.collectCalls k
        if !past then .next (s1.enterTrapped k)
        else match s1.group k with
          | none => .next s1
          | some g =>
            let ks := g.lane.actives ⟨false, guard, neg⟩
            let mask := (ks.map fun i => 2 ^ i).sum
            let finish := fun (s : State) bits => (match pd with | some p => s.putPred k p bits | none => s).advance
            if ks.isEmpty then .next (finish s1 0)
            else if !callNumbers.contains (s1.x 1).toNat then .next (finish (s1.putResults k (ks.map fun i => (i, 0, 1))) mask)
            else
              let a := s1.trapRecord k
              let s2 := s1.writeTrap a (s1.x 1).toNat pd.isSome (pd.getD 0) ks (s1.c 15) g.lane
              .next (((s2.advance.enterTrapped k).trace k 4 0 false).event (slotCluster k) 2 0 (handleOf k g) (BitVec.ofNat 64 a))

/-- `trap.all` (R155). -/
def execTrapAll (guard : BitVec 7) (neg : Bool) (s : State) : Res := s.trapOp none guard neg
/-- `trap.any` (R155). -/
def execTrapAny (d : BitVec 6) (guard : BitVec 7) (neg : Bool) (s : State) : Res := s.trapOp (some d.toNat) guard neg
/-- `trapwait` (R156). -/
def execTrapwait (s : State) : Res :=
  s.groupOnly fun k g =>
    if !s.trapOutstanding (s.trapRecord k) then .next s.advance
    else if !g.trapReady || s.trapHeld k then .next s
    else
      let (s1, past) := s.collectCalls k
      .next (if past then s1.advance else s1.advance.enterTrapped k)

end Sys2Proof.Machine
end

