-- ==== Sys2Proof/Machine/Saves.lean ====
section
/-! DEFINITION. Saves of teams, their images and restores (R56, R57, R200, R234, R236, R277, R294, R354, R379 to R382). -/
namespace Sys2Proof.Machine
open Sys2Proof

/-! ### Requesting and starting a save (R56, R379) -/

/-- The resident groups of a team, in `GRPID` order: slot and group. -/
def State.teamGroups (s : State) (id : Nat) : List (Nat × Group) :=
  let mine := s.groups.filter fun p => p.2.team == id
  (List.range 16).flatMap fun i => mine.filter fun p => p.2.index == i

/-- A save of a team requested: to a destination, bounded by the least PREEMPTLIM among its groups (R379). -/
def State.requestSave (s : State) (id : Nat) (dest : Word) (byDisp : Bool) : State :=
  let lim := (s.teamGroups id).foldl (fun m p => min m p.2.preempt.toNat) 10000000
  s.modTeam id fun t => { t with save := some ⟨dest, s.time + nsTime lim, false, false, byDisp, 0, 0⟩ }

/-- Two queues of a pair in one list that keeps the order of each: the paired operations, which stand in both, once. -/
def mergeMx : List MxOp → List MxOp → List MxOp
  | [], f => f
  | o :: l, f =>
    if o.pair then (f.takeWhile fun p => p.id != o.id) ++ o :: mergeMx l ((f.dropWhile fun p => p.id != o.id).drop 1) else o :: mergeMx l f

/-- The operations of a team in the queue of a core. -/
def State.coreMx (s : State) (id : Nat) (t : Team) (core : Nat) : List MxOp := ((s.cluster t.cluster).core core).mq.filter fun o => o.team == id

/-- The matrix operations of a team in its pair's queues, in their order. -/
def State.teamMx (s : State) (id : Nat) (t : Team) : List MxOp :=
  if t.pair.isNone then [] else mergeMx (s.coreMx id t t.leader) (s.coreMx id t (t.leader + 1))

/-- Whether a save is deferred (R56): a barrier partly arrived, or a paired operation in flight. -/
def State.deferred (s : State) (id : Nat) (t : Team) : Bool :=
  ((List.range t.nbar).any fun n => (vgetD t.bars n ⟨0, 0, 0, 0⟩).arr != 0) || (s.teamMx id t).any fun o => o.pair

/-- A requested save begun: every group of the team stops issuing at its stop point, its issuing run split (R55, R379 step 2, R381). -/
def State.beginSave (s : State) (id : Nat) (f : SaveReq → SaveReq) : State :=
  let s1 := s.modTeam id fun t => { t with save := t.save.map fun q => { f q with stopped := s.cycle } }
  (s.teamGroups id).foldl (fun s p => (s.modGroup p.1 fun g => { g with lane := { g.lane with queue := splitRuns g.lane.queue } }).releaseSlot p.1) s1

/-- A save of a team asked for: it begins at once where no deferral holds (R56). -/
def State.askSave (s : State) (id : Nat) (dest : Word) (byDisp : Bool) : State :=
  let s1 := s.requestSave id dest byDisp
  match s1.team id with
  | some t => if s1.deferred id t then s1 else s1.beginSave id fun q => { q with started := true }
  | none => s1

/-- Whether a save that the dispatcher asked for falls away: a group of the team has trapped since (R277). -/
def State.saveVoid (s : State) (id : Nat) (q : SaveReq) : Bool := q.byDisp && (s.teamGroups id).any fun g => g.2.life == .trapped

/-- `TEAM_SAVE_START` (R56): a requested save that was deferred begins once no deferral holds; one of the dispatcher's falls away instead where a group has
    trapped meanwhile. -/
def execTeamSaveStart (team : Nat) (s : State) : Res :=
  match s.team team with
  | none => .next s
  | some t =>
    match t.save with
    | some q =>
      .next (if q.started || s.deferred team t then s
        else if s.saveVoid team q then s.modTeam team fun t => { t with save := none }
        else s.beginSave team fun q => { q with started := true })
    | none => .next s

/-- `FORCED_SAVE` (R56): PREEMPTLIM has expired with a deferral still holding. The paired `mxmm` at the head has accumulated `rows` more whole rows,
    as far as it has any left. A request of the dispatcher's falls away where a group has trapped meanwhile (R277). -/
def execForcedSave (team rows : Nat) (s : State) : Res :=
  match s.team team with
  | none => .next s
  | some t =>
    match t.save with
    | none => .next s
    | some q =>
      if q.started || s.time < q.deadline || !s.deferred team t then .next s
      else if s.saveVoid team q then .next (s.modTeam team fun t => { t with save := none })
      else
        let s1 := s.beginSave team fun q => { q with started := true, forced := true, rows := rows }
        match s.mxHead t.cluster t.leader with
        | some (o, cores) =>
          match o.kind with
          | .mm .. =>
            if !(o.pair && o.started && o.team == team) then .next s1
            else
              let hi := min (o.row + rows) (mxRows o.desc)
              let s2 := s1.mmRows t.cluster cores o o.row hi
              .next { s2.modHeads t.cluster cores fun o => { o with row := hi } with free := s2.free + 1 }
          | _ => .next s1
        | none => .next s1

/-! ### Writing the image (R381, R382) -/

/-- Trap record size S (R355). -/
abbrev trapSize : Nat := 0x1000
/-- Stride of group sections. -/
abbrev secStride : Nat := 0xE000

/-- Where the parts of an image of so many ways lie: tags, accumulators, group sections. -/
def imageParts (ways : Nat) (matrix : Bool) : Nat × Nat × Nat :=
  let tags := 0x1000 + ways * 0x8000
  let accs := tags + ceilDiv (ways * 256) 4096 * 4096
  (tags, accs, if matrix then accs + 0x300000 else accs)

/-- A capability's tag as a save writes it: clear for a colour that is revoked (R74, R383). -/
def Cap.savedTag (mask : BitVec 256) (c : Cap) : Bool := c.tag && !mask.getLsbD c.colour.toNat

/-- Capabilities, then their tags as bits. -/
def capsBytes (mask : BitVec 256) (cs : List Cap) : List Byte := cs.flatMap Cap.bytes ++ leBytes 8 (bitsNat (cs.map (Cap.savedTag mask)))

/-- The words of a snapshot as the image holds them, from +0x40 of an entry. -/
def Snap.bytes (mask : BitVec 256) (p : Snap) : List Byte :=
  (p.s.toList.flatMap fun x => leBytes 8 x.toNat) ++ capsBytes mask p.c.toList ++ leBytes 8 p.fpctl.toNat

/-- A lane queue entry of 2,048 bytes. DESIGN CHOICE of the state's codes (log entry 12): 1 Queued, 2 Head. -/
def Run.bytes (mask : BitVec 256) (r : Run) : List Byte :=
  let b := leBytes 8 ((if r.head.isSome then 2 else 1) + 4 * r.words.length) ++ leBytes 8 (r.head.getD 0).toNat ++ leBytes 8 r.addr.toNat ++
    List.replicate 40 0 ++ r.snap.bytes mask
  b ++ List.replicate (2048 - b.length) 0

/-- The state code of a group in its image. -/
def Life.code : Life → Nat
  | .running => 0 | .parked _ => 1 | .trapped => 2 | .stopped => 3 | .exiting => 0

/-- A group as its section is written: a stop that it owes stands in its code, 5 and 6 for a group that waits and owes, and in CAUSE, FADDR and FLANES. DESIGN
    CHOICE (log entry 12). -/
def Group.owing (g : Group) : Nat × Group :=
  match g.owed with
  | some (e, x, fl) => (g.life.code + 4, { g with hart := { g.hart with cause := e.setWidth 9, faddr := x }, flanes := fl })
  | none => (g.life.code, g)

/-- The first 0x3000 bytes of a group section. -/
def Group.section' (g0 : Group) (mask : BitVec 256) : List Byte :=
  let (code, g) := g0.owing
  let h := g.hart
  let w := fun (l : List Nat) => l.flatMap fun x => leBytes 8 x
  let pad := fun (n : Nat) (b : List Byte) => b ++ List.replicate (n - b.length) (0 : Byte)
  let head := w [code + g.index * 2 ^ 3 + g.role * 2 ^ 7 + (g.vbud / 8 - 1) * 2 ^ 9 + (g.sbud / 16 - 1) * 2 ^ 12 + bitNat g.stepping.pending * 2 ^ 14] ++
    capsBytes mask [h.scode.atPc h.pc, g.lcode] ++
    w [g.lane.vl, g.lane.vtype.toNat, g.lane.fpctl.toNat, g.lane.fpstat.toNat, h.cause.toNat, h.faddr.toNat, g.lane.present, g.preempt.toNat,
       h.mx * 2 ^ 24, g.lastClosed.toNat + g.lastRetired.toNat * 2 ^ 32]
  pad 0x1000 (pad 0xA00 (pad 0x600 (pad 0x300 (pad 0x100 head ++ w (h.s.toList.map (·.toNat))) ++ capsBytes mask h.c.toList) ++ leBytes 256 g.flanes.toNat) ++
      w (g.lane.v.toList.map fun v => v.tags.toNat)) ++
    pad 0x2000 (g.lane.queue.flatMap (Run.bytes mask))

/-- The tag shadow of a vector register without the tags of revoked colours (R383). -/
def VReg.cleanTags (mask : BitVec 256) (v : VReg) : VReg :=
  { v with tags := (List.range 16).foldl (fun t i =>
      if mask.getLsbD (bitsOf v.bits.toNat (128 * i + 99) (128 * i + 92)) then t &&& ~~~(BitVec.ofNat 16 (2 ^ i)) else t) v.tags }

/-- Bytes copied from one place to another, tags not. -/
def State.copyBytes (s : State) (src dst n : Nat) : State := s.writeKeys dst (s.readKeys src n)

/-- A trap record copied with the tag of its captured `c15`, but for a revoked colour (R383); the services under way go with it. -/
def State.copyTrap (s : State) (mask : BitVec 256) (src dst : Nat) : State :=
  ((s.moveJobs src (some dst)).copyBytes src dst trapSize).keySetTag (dst + 0x30) ((s.trapCap src).savedTag mask)

/-- A group section written at a physical address. -/
def State.saveGroup (s : State) (mask : BitVec 256) (at' k : Nat) (g : Group) : State :=
  let l := { g.lane with v := g.lane.v.map (VReg.cleanTags mask) }
  let s1 := s.writeKeys at' ({ g with lane := l }.section' mask)
  let s2 := s1.copyTrap mask (s.trapRecord k) (at' + 0x3000)
  s2.writeKeys (at' + 0x3000 + trapSize) ((l.p.toList.flatMap fun p => leBytes 256 p.toNat) ++ l.v.toList.flatMap fun v => leBytes 256 v.bits.toNat)

/-- A barrier word in the layout of R234. -/
def BarWord.toNat (b : BarWord) : Nat := b.exp + b.arr * 2 ^ 8 + b.pend * 2 ^ 16 + b.gen.toNat * 2 ^ 32
/-- A token in the layout of R234. -/
def tokenNat (t : Option (BitVec 32)) : Nat := match t with | some g => 2 ^ 32 + g.toNat | none => 0

/-- The instruction word of a matrix operation (R381). -/
def MxOp.word (o : MxOp) : BitVec 32 :=
  let f := fun (op : BitVec 3) (flip : Bool) (ty : Nat) => op ++ BitVec.ofBool flip ++ BitVec.ofBool o.pair ++ BitVec.ofNat 3 ty
  match o.kind with
  | .lds ty => (regWord 0x34 0 o.a o.b (f 0 false ty)).toWord
  | .mm acc ty z flip => (regWord 0x34 (BitVec.ofNat 6 (acc + 4 * bitNat z)) o.a o.b (f 1 flip ty)).toWord
  | .st acc ty => (regWord 0x34 (BitVec.ofNat 6 acc) o.a o.b (f 2 false ty)).toWord
  | .zero acc => (regWord 0x34 (BitVec.ofNat 6 acc) 0 0 (f 3 false 0)).toWord

/-- A matrix operation as an image holds it: instruction word, descriptor, capability, its tag, the next row; then [3:0] the index of its group, [4] whether it
    has started, [63:32] the key's generation. DESIGN CHOICE of the last (log entry 12). -/
def MxOp.bytes (mask : BitVec 256) (index : Nat → Nat) (o : MxOp) : List Byte :=
  leBytes 8 o.word.toNat ++ leBytes 8 o.desc.toNat ++ o.cap.bytes ++ leBytes 8 (bitNat (o.cap.savedTag mask)) ++ leBytes 8 o.row ++
    leBytes 8 (index o.slot + bitNat o.started * 16 + o.keyGen * 2 ^ 32) ++ List.replicate 8 0

/-- A plane record as an image holds it, 32 bytes: capability, descriptor, then [0] valid, [1] tag, [2] half, [3] pair, [6:4] type, [63:32] the
    key's generation (log entry 12). -/
def planeBytes (mask : BitVec 256) (p : Option PlaneRec) : List Byte :=
  match p with
  | none => List.replicate 32 0
  | some r => r.cap.bytes ++ leBytes 8 r.desc.toNat ++
      leBytes 8 (1 + bitNat (r.cap.savedTag mask) * 2 + r.half * 4 + bitNat r.pair * 8 + r.ty * 16 + r.keyGen * 2 ^ 32)

/-- The plane records of a team's pair: leader active, leader shadow, follower active, follower shadow. -/
def State.planeRecs (s : State) (t : Team) : List (Option PlaneRec) :=
  if t.pair.isNone then [none, none, none, none]
  else [t.leader, t.leader + 1].flatMap fun c => let k := (s.cluster t.cluster).core c; [k.active.src, k.shadow.src]

/-- The tokens of the group with an index, as words. -/
def tokenWords (gs : List (Nat × Group)) (i : Nat) : List Nat :=
  match gs.find? fun p => p.2.index == i with
  | some p => p.2.tokens.toList.map tokenNat
  | none => List.replicate 16 0

/-- The words of an image before its scratchpad. -/
def State.imageHead (s : State) (id : Nat) (t : Team) (gs : List (Nat × Group)) (forced : Bool) (stopped : Word) (mask : BitVec 256) : List Byte :=
  let w := fun (l : List Nat) => l.flatMap fun x => leBytes 8 x
  let ops := s.teamMx id t
  let index := fun k => match s.group k with | some g => g.index | none => 0
  let m := t.pair.isSome
  let (tags, accs, secs) := imageParts t.ways m
  let place0 := match gs with | p :: _ => placeOf p.1 | [] => 0
  w [0x4D5A5356, t.ctx + bitNat forced * 2 ^ 16 + bitNat m * 2 ^ 17 + gs.length * 2 ^ 18 + t.ways * 2 ^ 23 + t.nbar * 2 ^ 29 + bitNat (!ops.isEmpty) * 2 ^ 34,
     t.teamId.toNat, t.gridId.toNat + t.queue * 2 ^ 32 + t.prio * 2 ^ 40, place0, stopped.toNat, 0x1000, tags, if m then accs else 0, secs, secStride] ++
    List.replicate 40 (0 : Byte) ++ w (t.bars.toList.map BarWord.toNat) ++
    w ((List.range 16).flatMap (tokenWords gs)) ++
    (match ops with | [] => List.replicate 64 (0 : Byte) | o :: _ => o.bytes mask index) ++ (s.planeRecs t).flatMap (planeBytes mask) ++
    ((ops.drop 1).take 16).flatMap (MxOp.bytes mask index)

/-- The tags of n ways, one bit per granule, without those of revoked colours. -/
def State.wayTags (s : State) (cl way0 ways : Nat) (mask : BitVec 256) : List Byte :=
  let k := wayKey cl way0
  (List.range (ways * 256)).map fun b => BitVec.ofNat 8 (bitsNat ((List.range 8).map fun i =>
    let g := k + 16 * (8 * b + i)
    s.keyTag g && !mask.getLsbD (s.readCap g).colour.toNat))

/-- The image of a team that stopped at a cycle written at a physical address. -/
def State.writeImage (s : State) (id : Nat) (t : Team) (dest : Nat) (forced : Bool) (stopped : Word) : State :=
  let gs := s.teamGroups id
  let mask := s.colourMask t.ctx
  let (tags, accs, secs) := imageParts t.ways t.pair.isSome
  let s1 := ((s.writeKeys dest (s.imageHead id t gs forced stopped mask)).copyBytes (wayKey t.cluster t.way0) (dest + 0x1000) (t.ways * 0x8000)).writeKeys
    (dest + tags) (s.wayTags t.cluster t.way0 t.ways mask)
  let s2 := match t.pair with
    | some p => (s1.copyBytes (accKey t.cluster (2 * p)) (dest + accs) 0x180000).copyBytes (accKey t.cluster (2 * p + 1)) (dest + accs + 0x180000) 0x180000
    | none => s1
  (gs.zip (List.range gs.length)).foldl (fun s p => s.saveGroup mask (dest + secs + secStride * p.2) p.1.1 p.1.2) s2

/-! ### Completing a save (R379) -/

/-- Whether an operation is a decrypting `mxlds` that waits under a hard limit for an install (R397). -/
def State.keyWaits (s : State) (o : MxOp) : Bool :=
  !o.started && o.desc.getLsbD 6 && !(vgetD s.keys (o.desc.toNat % 64) .reset).open' && match o.kind with | .lds _ => true | _ => false

/-- Whether the groups and operations of a team are drained (R379 step 3): nothing outstanding, no arrival pending, no matrix operation left but, in a forced
    save, a paired one and those behind it (R200); one that waits for an install is waited for, whatever PREEMPTLIM (R397). -/
def State.saveDrained (s : State) (id : Nat) (t : Team) (q : SaveReq) : Bool :=
  (s.teamGroups id).all (fun p => p.2.life != .exiting && p.2.hart.pend.isEmpty && p.2.arrivals.isEmpty && p.2.copies.isEmpty) &&
    (t.pair.isNone || [t.leader, t.leader + 1].all fun i => match s.coreMx id t i with | [] => true | o :: _ => q.forced && o.pair && !s.keyWaits o)

/-- The flags of a context at the slices moved into its record (R379 step 4). -/
def State.gatherFlags (s : State) (ctx : Nat) : State :=
  let mine := s.sliceFlags.filter fun p => p.1 % 4096 == ctx
  let f := mine.foldl (fun f p => f ||| p.2) (match s.ctx ctx with | some c => c.flags | none => 0)
  State.setCtxFlags { s with sliceFlags := s.sliceFlags.filter fun p => p.1 % 4096 != ctx } ctx f

/-- The size of a team's image (R381, R382). -/
def State.imageSize (s : State) (id : Nat) (t : Team) : Nat := (imageParts t.ways t.pair.isSome).2.2 + (s.teamGroups id).length * secStride

/-- Whether the trap records of a cluster lie in a page that is being moved: hardware's writes of them wait (R264). -/
def State.trapsHeld (s : State) (cl : Nat) : Bool := s.moving (s.trapRecord (128 * cl)) (128 * 0x1000)

/-- The place of a create's handle, moved with its page. -/
def Job.move (a b n : Nat) (j : Job) : Job := { j with place := j.place.map fun p => (moveKey a b n p.1, p.2) }

/-- What the drives read into [a, a + n), and the handle of a create, goes to the same offset from b (R294). -/
def State.moveCmds (s : State) (a b n : Nat) : State :=
  { s with io := { s.io with cmds := s.io.cmds.map (fun c => { c with segs := moveSegs a b n c.segs }), jobs := s.io.jobs.map (Job.move a b n) } }

/-- A saved team's ways, barriers, pair and slots freed (R379 step 5). -/
def State.freeTeam (s : State) (id : Nat) (t : Team) (gs : List (Nat × Group)) : State :=
  let s1 := gs.foldl (fun s p => (s.trace p.1 6 0 false).dropCalls p.1) s
  let s2 := { s1 with groups := s1.groups.filter fun p => p.2.team != id }.modCluster t.cluster fun (c : Cluster) => { c with
    cores := c.cores.map fun (k : Core) => { k with mq := k.mq.filter fun o => o.team != id },
    locks := c.locks.filter fun l => !((s.teamMx id t).any fun o => o.id == l.op) }
  s2.releaseTeam id t

/-- `TEAM_SAVE_COMPLETE` (R379 steps 3 to 5). The image waits while a page of its place is being moved (R264). -/
def execTeamSaveComplete (team : Nat) (s : State) : Res :=
  match s.team team with
  | none => .next s
  | some t =>
    match t.save with
    | none => .next s
    | some q =>
      let dest := physAddr q.dest
      if !q.started || !s.saveDrained team t q || s.moving dest (s.imageSize team t) then .next s
      else
        let s0 := s.gatherFlags t.ctx
        let gs := s0.teamGroups team
        let index := fun k => match s0.group k with | some g => g.index | none => 0
        let saved : Saved :=
          { image := q.dest, byDisp := q.byDisp, since := if q.byDisp then some s.time else none, team := { t with save := none, slots := [], live := gs.length }, groups := gs.map (·.2),
            mx := (s0.teamMx team t).map fun o => { o with slot := index o.slot }, planes := s0.planeRecs t, handles := gs.map fun p => handleOf p.1 p.2 }
        let first := match gs with | p :: _ => (handleOf p.1 p.2) | [] => 0
        let s1 := ((s0.writeImage team t dest q.forced q.stopped).moveCmds (wayKey t.cluster t.way0) (dest + 0x1000) (t.ways * 0x8000)).freeTeam team t gs
        .next ({ s1 with disp := { s1.disp with saved := (s1.disp.saved.filter fun (v : Saved) => v.image != q.dest) ++ [saved] } }.event t.cluster 3 0 first q.dest)

/-! ### Reading an image (R380 to R382) -/

/-- The capability at index i of capabilities followed, at `tags`, by their tag bits. -/
def Rec.savedCap (r : Rec) (off tags i : Nat) : Cap := Cap.ofBytes ((r.bytes.drop (off + 16 * i)).take 16) ((r.nat tags 8).testBit i)

/-- The words of a run fetched again, for an image that no save of this machine left: as many as the entry says, from its address. -/
def State.refetch (s : State) (w : Who) (code : Cap) (a : Word) (n : Nat) : List (BitVec 96) :=
  match s.resolve w code [Perm.execLane] Need.exec a.toNat (12 * n) 4 with
  | .error _ => []
  | .ok (segs, _) =>
    let bs := s.readSegs segs
    (List.range n).map fun i => BitVec.ofNat 96 (leNat ((bs.drop (12 * i)).take 12))

/-- Lane queue entry i of a section. -/
def State.readRun (s : State) (w : Who) (lcode : Cap) (r : Rec) (i : Nat) (old : Option Run) : Option Run :=
  let o := 0x1000 + 2048 * i
  let x := r.nat o 8
  if x % 4 = 0 then none
  else
    let a := BitVec.ofNat 64 (r.nat (o + 16) 8)
    let n := bitsOf x 6 2
    some { seq := match old with | some q => q.seq | none => i, words := match old with | some q => q.words | none => s.refetch w lcode a n, addr := a,
           snap := ⟨Vector.ofFn fun j => BitVec.ofNat 64 (r.nat (o + 0x40 + 8 * j.val) 8), Vector.ofFn fun j => r.savedCap (o + 0x240) (o + 0x440) j.val,
                    BitVec.ofNat 5 (r.nat (o + 0x448) 8)⟩,
           head := if x % 4 = 2 then some (BitVec.ofNat 64 (r.nat (o + 8) 8)) else none, issuing := false }

/-- A group as its section gives it, over what the machine knows of it. -/
def State.readGroup (s : State) (w : Who) (r : Rec) (old : Group) (known : Bool) : Group :=
  let x := r.nat 0 8
  let n := fun o => r.nat o 8
  let lcode := r.savedCap 8 0x28 1
  let scode := r.savedCap 8 0x28 0
  let q := (List.range 4).filterMap fun i => s.readRun w lcode r i (if known then old.lane.queue[i]? else none)
  let cnt := runCounts (unissued q)
  let pv := 0x3000 + trapSize
  let tokens := old.tokens
  let life := match x % 8 with
    | 0 => .running
    | 1 => (match old.life with
      | .parked w => .parked w
      | _ => match (List.range 16).find? fun i => (vgetD tokens i none).isSome with | some i => .parked (.bar i) | none => .running)
    | 5 => (match old.life with | .parked w => .parked w | _ => .running)
    | 2 | 6 => .trapped
    | _ => .stopped
  let owes := 5 ≤ x % 8
  { old with
    owed := if owes then some (BitVec.ofNat 8 (n 0x50), BitVec.ofNat 64 (n 0x58), BitVec.ofNat 2048 (r.nat 0x600 256)) else none,
    hart := { old.hart with
      s := Vector.ofFn fun j => BitVec.ofNat 64 (n (0x100 + 8 * j.val)), c := Vector.ofFn fun j => r.savedCap 0x300 0x500 j.val, pc := scode.cursor,
      scode := scode, cause := if owes then old.hart.cause else BitVec.ofNat 9 (n 0x50),
      faddr := if owes then old.hart.faddr else BitVec.ofNat 64 (n 0x58), ld := cnt.1, st := cnt.2, cp := 0,
      mx := bitsOf (n 0x70) 31 24, pend := [], fenced := [] },
    lane := { old.lane with
      v := Vector.ofFn fun j => ⟨BitVec.ofNat 2048 (r.nat (pv + 96 * 256 + 256 * j.val) 256), BitVec.ofNat 16 (n (0xA00 + 8 * j.val))⟩,
      p := Vector.ofFn fun j => BitVec.ofNat 2048 (r.nat (pv + 256 * j.val) 256), vl := n 0x30, vtype := BitVec.ofNat 6 (n 0x38),
      fpctl := BitVec.ofNat 5 (n 0x40), fpstat := BitVec.ofNat 5 (n 0x48), present := n 0x60, queue := q },
    life := life, index := bitsOf x 6 3, role := bitsOf x 8 7, lcode := lcode, flanes := if owes then old.flanes else BitVec.ofNat 2048 (r.nat 0x600 256),
    preempt := BitVec.ofNat 32 (n 0x68), vbud := 8 * (bitsOf x 11 9 + 1), sbud := 16 * (bitsOf x 13 12 + 1), lastClosed := BitVec.ofNat 32 (n 0x78),
    lastRetired := BitVec.ofNat 32 (n 0x78 / 2 ^ 32), stepping := { old.stepping with pending := x.testBit 14 } }

/-- A group of which the machine knows nothing. -/
def Group.unknown (ctx : Nat) (world : BitVec 8) : Group :=
  { hart := .reset, lane := { v := Vector.replicate 64 ⟨0, 0⟩, p := Vector.replicate 96 0, vl := 64, vtype := 2, present := 64, fpctl := 0, fpstat := 0,
                              queue := [], lastRun := none, runs := 4, relRuns := 0, fencedRuns := 0 },
    life := .running, index := 0, role := 0, team := 0, ctx := ctx, world := world, gridId := 0, teamId := 0, lcode := .null, flanes := 0, preempt := 50000,
    vbud := 8, sbud := 16, tokens := Vector.replicate 16 none, arrivals := [], copies := [], openOps := [], openAccs := [], batches := [], lastClosed := 0, lastRetired := 0,
    openGraph := none, stepping := .off, priv := .null, privW := 0, blocks := [], cont := none, gen := 0, stopAt := 0, owed := none }

/-- A team as the head of its image gives it, over what the machine knows of it. -/
def readTeam (r : Rec) (old : Option Team) (world : BitVec 8) : Team :=
  let x := r.nat 8 8
  let y := r.nat 0x18 8
  let bar := fun i => let b := r.nat (0x80 + 8 * i) 8; (⟨bitsOf b 7 0, bitsOf b 15 8, bitsOf b 23 16, BitVec.ofNat 32 (b / 2 ^ 32)⟩ : BarWord)
  let ways := bitsOf x 28 23
  let t : Team := match old with
    | some t => t
    | none =>
      { ctx := x % 65536, world := world, gridId := 0, index := 0, teamId := 0, cluster := 0, way0 := 0, ways := ways, nbar := 0,
        bars := Vector.replicate 16 ⟨1, 0, 0, 0⟩, pair := none, issuer := 0, slots := [], live := 0, ring := none, ringNext := 0, queue := 0, prio := 0,
        heir := none, grid := none, save := none, order := 0, barSlots := 0, pairHeld := none, held := [] }
  { t with gridId := BitVec.ofNat 32 y, teamId := BitVec.ofNat 64 (r.nat 0x10 8), ways := ways, nbar := bitsOf x 33 29, bars := Vector.ofFn fun i => bar i.val,
           queue := bitsOf y 39 32, prio := bitsOf y 41 40 }

/-- The save that left an image, if one is known: by its place, or, for an image that has been moved, by its context, grid and team. -/
def State.savedAt (s : State) (image : Word) (head : Rec) : Option Saved :=
  match s.disp.saved.find? fun v => v.image == image with
  | some v => some v
  | none => s.disp.saved.find? fun v => v.team.ctx == bitsOf (head.nat 8 8) 15 0 && v.team.teamId.toNat == head.nat 0x10 8 && v.team.gridId.toNat == bitsOf (head.nat 0x18 8) 31 0

/-- The records of an image's group sections, in order. -/
def State.sections (s : State) (image : Nat) (head : Rec) : List Rec :=
  (List.range (bitsOf (head.nat 8 8) 22 18)).map fun i => ⟨s.readKeys (image + head.nat 0x48 8 + head.nat 0x50 8 * i) secStride, []⟩

/-- Index and budgets of the groups of an image, and, from 16 on, of what the team's retired groups had left for its heir (R282). -/
def imageBudgets (l : List Rec) (held : List Held) : List (Nat × Nat × Nat) :=
  (l.map fun r => let x := r.nat 0 8; (bitsOf x 6 3, 8 * (bitsOf x 11 9 + 1), 16 * (bitsOf x 13 12 + 1))) ++
    (held.zip (List.range held.length)).map fun h => (16 + h.2, h.1.v, h.1.s)

/-! ### Restoring elsewhere

What runs depends on no place (R294, R335): the capabilities over the team's scratchpad that it holds move with the scratchpad. DEDUCED (log entry 44). -/

/-- Where a team's scratchpad was in the window, its length, and where it is. -/
abbrev Moved := Nat × Nat × Nat

/-- A capability over bytes of the scratchpad, moved with it. -/
def Cap.relocate (m : Moved) (c : Cap) : Cap :=
  if c.tag && c.has Perm.window && m.1 ≤ c.base && c.top ≤ m.1 + m.2.1 then
    { c with cursor := c.cursor - BitVec.ofNat 64 m.1 + BitVec.ofNat 64 m.2.2,
             bf := c.bf - BitVec.ofNat 11 (m.1 / 2 ^ c.exp) + BitVec.ofNat 11 (m.2.2 / 2 ^ c.exp) }
  else c

/-- The tagged granules of a vector register. -/
def VReg.relocate (m : Moved) (v : VReg) : VReg :=
  { v with bits := (List.range 16).foldl (fun b i =>
      if v.tags.getLsbD i then
        let old := BitVec.ofNat 128 (bitsOf v.bits.toNat (128 * i + 127) (128 * i))
        b ^^^ (((old ^^^ (Cap.relocate m (.ofBits old true)).toBits).setWidth 2048) <<< (128 * i))
      else b) v.bits }

/-- The capabilities of a group. -/
def Group.relocate (m : Moved) (g : Group) : Group :=
  { g with
    hart := { g.hart with c := g.hart.c.map (Cap.relocate m) },
    lane := { g.lane with v := g.lane.v.map (VReg.relocate m),
                          queue := g.lane.queue.map fun r => { r with snap := { r.snap with c := r.snap.c.map (Cap.relocate m) } } },
    life := (match g.life with | .parked (.recv d any tag c) => .parked (.recv d any tag (c.relocate m)) | l => l) }

/-- The capabilities in the scratchpad itself, which is at its new place. -/
def State.relocatePad (s : State) (m : Moved) : State :=
  let k := Config.windowKey + m.2.2
  (s.tags.filter fun g => k ≤ 16 * g && 16 * g < k + m.2.1).foldl (fun s g => s.writeCap (16 * g) ((s.readCap (16 * g)).relocate m) true) s

/-- The `c15` of a trap record. -/
def State.relocateTrap (s : State) (m : Moved) (a : Nat) : State :=
  s.recordPut a 0x38 ((s.trapCap a).relocate m).bytes

/-- Where the scratchpad of an image was, if it is known: from the save, or from the `c0` of its first group. -/
def imagePad (v : Option Saved) (secs : List Rec) (ways : Nat) : Option Nat :=
  match v with
  | some v => some (v.team.cluster * 0x1000000 + v.team.way0 * 0x8000)
  | none => (secs.head?.map fun r => r.savedCap 0x300 0x500 0).bind fun c => if c.tag && c.has Perm.window && c.top == c.base + ways * 0x8000 then some c.base else none

/-! ### Restoring (R380) -/

/-- What a held operation, or the reload of a plane, of a team reads from: its checks repeated (R192, R200). -/
def State.mxAgain (s : State) (w : Who) (t : Team) (kind : MxKind) (pair : Bool) (cap : Cap) (desc : Word) : Except Flt MxSrc :=
  let n := desc.toNat
  let src := match kind with
    | .lds ty => s.mxOperand w 0 t cap kind ty pair (n.testBit 7) (n.testBit 6) desc ((if pair then 2 else 1) * weightSize ty)
    | .mm _ ty _ _ => s.mxOperand w 0 t cap kind ty pair (n.testBit 18) false desc (activSize ty (mxRows desc))
    | .st _ ty => s.mxRange w t cap Perm.store Need.write ((mxRows desc - 1) * mxStride desc + (if pair then 512 else 256) * mxstBytes ty) 16
    | .zero _ => .ok (⟨[], none, 0⟩, [])
  src.map (·.1)

/-- A team as the maker of the accesses of its matrix operations. -/
def State.whoTeam (s : State) (id : Nat) (t : Team) : Who := { s.whoCtx t.ctx t.cluster false with team := some id }

/-- The matrix operation that reloads a plane of a team from its record, with the checks of R192; or the failing cause. The group that issued it may have retired
    since. -/
def State.reloadOp (s : State) (t : Team) (team : Nat) (r : PlaneRec) : Except Flt MxOp :=
  let n := r.desc.toNat
  match s.mxAgain (s.whoTeam team t) t (.lds r.ty) r.pair r.cap r.desc with
  | .error f => .error f
  | .ok src =>
    let key := vgetD s.keys (n % 64) .reset
    if n.testBit 6 && !(key.state != 0 && key.ctx == t.ctx && (key.keyOf r.keyGen).isSome) then .error (Cause.worldMismatch, BitVec.ofNat 64 (n % 64))
    else .ok { id := 0, slot := 0, team := team, ctx := t.ctx, kind := .lds r.ty, pair := r.pair, desc := r.desc, cap := r.cap, src := src, started := true,
               keyGen := r.keyGen, row := 0, a := 0, b := 0 }

/-- One plane of a restored team reloaded; a check that fails is fatal to the context (R200). -/
def State.reloadPlane (s : State) (t : Team) (id core : Nat) (active : Bool) (p : Option PlaneRec) : State :=
  match p with
  | none => s
  | some r =>
    match s.reloadOp t id r with
    | .error f => s.ctxDie t.ctx f.1 0 f.2
    | .ok o =>
      let pl : Plane := ⟨some r.ty, ((s.mxWeights o).drop (r.half * weightSize r.ty)).take (weightSize r.ty), some r⟩
      s.modCore t.cluster core fun c => if active then { c with active := pl } else { c with shadow := pl }

/-- The plane record at index i of an image. -/
def Rec.plane (r : Rec) (i : Nat) : Option PlaneRec :=
  let o := 0x940 + 32 * i
  let x := r.nat (o + 24) 8
  if !x.testBit 0 then none
  else some ⟨Cap.ofBytes ((r.bytes.drop o).take 16) (x.testBit 1), BitVec.ofNat 64 (r.nat (o + 16) 8), bitsOf x 2 2, x.testBit 3, bitsOf x 6 4, x / 2 ^ 32⟩

/-- The matrix instruction of a word. -/
def MxKind.ofWord (w : BitVec 32) : MxKind :=
  let f := ScalarFields.ofWord w
  let ty := (f.func.extractLsb' 0 3).toNat
  let acc := (f.d.extractLsb' 0 2).toNat
  match (f.func.extractLsb' 5 3).toNat with
  | 0 => .lds ty
  | 1 => .mm acc ty (f.d.getLsbD 2) (f.func.getLsbD 4)
  | 2 => .st acc ty
  | _ => .zero acc

/-- A held operation as its 64-byte record in the image gives it; its slot is the index of its group. -/
def Rec.mxOp (r : Rec) (off : Nat) : Option MxOp :=
  let n := fun o => r.nat (off + o) 8
  let w := BitVec.ofNat 32 (n 0)
  let f := ScalarFields.ofWord w
  if n 0 = 0 then none
  else some { id := 0, slot := n 48 % 16, team := 0, ctx := 0, kind := MxKind.ofWord w, pair := f.func.getLsbD 3, desc := BitVec.ofNat 64 (n 8),
              cap := Cap.ofBytes ((r.bytes.drop (off + 16)).take 16) ((n 32).testBit 0), src := ⟨[], none, 0⟩, started := (n 48).testBit 4, keyGen := n 48 / 2 ^ 32,
              row := n 40, a := f.a, b := f.b }

/-- The operations that an image holds, in queue order. -/
def Rec.mxOps (r : Rec) : List MxOp := (0x900 :: (List.range 16).map fun i => 0x9C0 + 64 * i).filterMap r.mxOp

/-- The private capability of a group in a slot (R278). -/
def privAt (priv : Cap) (W slot : Nat) : Cap := if W = 0 then priv else { priv with cursor := BitVec.ofNat 64 (priv.base + slot * W * 256) }

/-- A restored group in a free slot of its core: a new generation, new blocks, the slot's private memory, its trap record, and the trap's results
    (R278, R294, R340, R354). -/
def State.restoreGroup (s : State) (id cl core at' : Nat) (m : Moved) (g : Group) : State :=
  match s.freeSlot cl core with
  | none => s
  | some k =>
    let gen := mapGetD (s.cluster cl).slotGens k 0 + 1
    let g1 := { g.relocate m with team := id, gen := gen, blocks := s.freeBlocks cl core (g.vbud / 8), priv := privAt g.priv g.privW k }
    let s1 := (s.modCluster cl fun c => { c with slotGens := mapSet c.slotGens k gen })
    let s2 := (({ s1 with groups := mapSet s1.groups k g1 }.modTeam id fun t => { t with slots := t.slots ++ [k], live := t.live + 1 }).copyTrap (s.colourMask g.ctx) (at' + 0x3000)
      (s.trapRecord k)).relocateTrap m (s.trapRecord k)
    let s3 := s2.trace k 7 0 false
    if g.life != .trapped then s3
    else
      let r := s3.deliverCalls k
      if r.2 then (r.1.trace k 5 0 false).runAgain k else r.1

/-- What a retired group had left for its team's heir, held again on its core (R282). -/
def State.restoreHeld (s : State) (id cl core : Nat) (h : Held) : State :=
  match s.freeSlot cl core with
  | none => s
  | some k => s.modTeam id fun t => { t with held := t.held ++ [⟨k, h.v, h.s, s.freeBlocks cl core (h.v / 8)⟩] }

/-- The base of a restored group: what the machine knows of the group with an index, or nothing, with the tokens of the image. -/
def savedGroup (v : Option Saved) (head : Rec) (ctx : Nat) (world : BitVec 8) (t : Team) (i : Nat) : Group × Bool :=
  let known := v.bind fun v => v.groups.find? fun g => g.index == i
  let g := known.getD (.unknown ctx world)
  let token := fun n => let x := head.nat (0x100 + 128 * i + 8 * n) 8; if x.testBit 32 then some (BitVec.ofNat 32 x) else none
  ({ g with tokens := Vector.ofFn fun n => token n.val, ctx := ctx, world := world, gridId := t.gridId, teamId := t.teamId }, known.isSome)

/-- The ways, their tags and the accumulators of a restored team loaded from its image. -/
def State.loadImage (s : State) (image : Nat) (head : Rec) (t : Team) : State :=
  let k := wayKey t.cluster t.way0
  let s1 := s.copyBytes (image + head.nat 0x30 8) k (t.ways * 0x8000)
  let tags := head.nat 0x38 8
  let s2 := (List.range (t.ways * 2048)).foldl (fun s g =>
    if (s.keyByte (image + tags + g / 8)).getLsbD (g % 8) then s.keySetTag (k + 16 * g) true else s) s1
  match t.pair with
  | some p => (s2.copyBytes (image + head.nat 0x40 8) (accKey t.cluster (2 * p)) 0x180000).copyBytes (image + head.nat 0x40 8 + 0x180000)
      (accKey t.cluster (2 * p + 1)) 0x180000
  | none => s2

/-- The batches of a group of which nothing but its counts is known: so many end with the last closed one, and each holds the group's held operations; with
    none closed the operations are of the open one. -/
def Group.rebatch (g : Group) (ids : List Nat) (accs : List Nat) (nextId : Nat) : Group :=
  if g.hart.mx = 0 then { g with openOps := ids, openAccs := accs }
  else { g with batches := (List.range g.hart.mx).map fun i => ⟨nextId + i, g.lastClosed - BitVec.ofNat 32 (g.hart.mx - 1 - i), ids, accs⟩ }

/-- The matrix operations that an image holds, back in the queues that they stood in, with their checks repeated and their locks registered; a check that fails
    is fatal to the context, as of a plane (log entry 12). -/
def State.restoreMx (s : State) (id : Nat) (t : Team) (m : Moved) (old : List MxOp) : List (MxOp × Nat) → State
  | [] => s
  | (o, i) :: rest =>
    match (s.teamGroups id).find? fun g => g.2.index == o.slot with
    | none => State.restoreMx s id t m old rest
    | some (k, _) =>
      let cap := o.cap.relocate m
      match s.mxAgain (s.whoTeam id t) t o.kind o.pair cap o.desc with
      | .error f => s.ctxDie t.ctx f.1 0 f.2
      | .ok src =>
        let known := old[i]?
        let n := match known with | some p => p.id | none => s.nextId
        let o1 := { o with id := n, slot := k, team := id, ctx := t.ctx, cap := cap, src := src }
        let dst := match o.kind with | .st _ _ => true | _ => false
        let s1 := (mxCores (slotCore k) o.pair).foldl (fun s c => s.modCore t.cluster c fun c => { c with mq := c.mq ++ [o1] }) (s.addLock t.cluster n src.segs dst)
        let s2 := if known.isSome then s1
          else { s1.modGroup k fun g => { g with openOps := g.openOps ++ [n], openAccs := g.openAccs ++ o.kind.acc.toList } with nextId := s1.nextId + 1 }
        State.restoreMx s2 id t m old rest

/-- The planes of a restored team reloaded: each that has a record. -/
def State.reloadPlanes (s : State) (id : Nat) (t : Team) (m : Moved) (head : Rec) : State :=
  if t.pair.isNone then s
  else (List.range 4).foldl (fun s i =>
    s.reloadPlane t id (t.leader + i / 2) (i % 2 == 0) ((head.plane i).map fun r => { r with cap := r.cap.relocate m })) s

/-- The batches of the groups of a team that were not known, from the operations put back. -/
def State.rebatchAll (s : State) (id : Nat) : State :=
  (s.teamGroups id).foldl (fun s p =>
    { s.modGroup p.1 fun g => g.rebatch g.openOps g.openAccs s.nextId with nextId := s.nextId + p.2.hart.mx }) s

/-- A team restored from a valid image at a spot of a cluster. Where the reload of a plane is fatal to its context, nothing is put into the queues (R200, R384). -/
def State.restoreAt (s : State) (image : Word) (head : Rec) (v : Option Saved) (t0 : Team) (cl : Nat) (sp : Spot) : State :=
  let id := s.nextId
  let t : Team := { t0 with cluster := cl, way0 := sp.way0, pair := sp.pair, slots := [], live := 0, save := none, order := id, barSlots := t0.nbar,
                            pairHeld := sp.pair, held := [] }
  let from' := physAddr image
  let secs := s.sections from' head
  let w := s.whoCtx t.ctx cl false
  let new := cl * 0x1000000 + sp.way0 * 0x8000
  let m : Moved := match imagePad v secs t.ways with | some old => (old, t.ways * 0x8000, new) | none => (new, 0, new)
  let s1 := (((s.allocate id t sp false).loadImage from' head t).relocatePad m).moveCmds (from' + head.nat 0x30 8) (wayKey cl sp.way0) (t.ways * 0x8000)
  let s2 := match sp.pair with
    | some p => [2 * p, 2 * p + 1].foldl (fun (s : State) c => s.modCore cl c fun c => { c with active := .reset, shadow := .reset }) s1
    | none => s1
  let core := fun i => (sp.cores.find? fun c => c.1 == i).map (·.2)
  let s3 := (secs.zip (List.range secs.length)).foldl (fun (s : State) p =>
    let i := bitsOf (p.1.nat 0 8) 6 3
    let (g, known) := savedGroup v head t.ctx t.world t i
    match core i with
    | some c => s.restoreGroup id cl c (from' + head.nat 0x48 8 + head.nat 0x50 8 * p.2) m (s.readGroup w p.1 g known)
    | none => s) s2
  let s4 := (t0.held.zip (List.range t0.held.length)).foldl (fun (s : State) h => match core (16 + h.2) with | some c => s.restoreHeld id cl c h.1 | none => s) s3
  let ops := head.mxOps
  let lives := fun (s : State) => match s.ctx t.ctx with | some c => c.state == .live | none => false
  let s5 := s4.reloadPlanes id t m head
  let s6 := if lives s5 then s5.restoreMx id t m (match v with | some v => v.mx | none => []) (ops.zip (List.range ops.length)) else s5
  let s7 := if v.isSome || !lives s6 then s6 else s6.rebatchAll id
  let first := match s7.teamGroups id with | p :: _ => handleOf p.1 p.2 | [] => 0
  let kept := s7.disp.saved.filter fun x => match v with | some v => x.image != v.image | none => x.image != image
  let grids := match t.grid with | some g => mapMod (fun (x : Grid) => { x with last := some cl }) s7.disp.grids g | none => s7.disp.grids
  { s7 with disp := { s7.disp with saved := kept, lastCluster := some cl, grids := grids } }.event cl 4 0 first image

/-- Whether an image can be restored: its magic, and a context that is Live (R380). -/
def State.imageValid (s : State) (head : Rec) : Bool := head.nat 0 8 == 0x4D5A5356 && s.placeable (bitsOf (head.nat 8 8) 15 0)

/-- The first of some clusters where the team of a valid image fits, its place there, the team, and what is known of its save (R274); not one whose trap records
    wait for a page being moved. -/
def State.restoreSpot (s : State) (image : Word) (head : Rec) (clusters : List Nat) : Option (Nat × Spot × Team × Option Saved) :=
  let ctx := bitsOf (head.nat 8 8) 15 0
  let world := match s.ctx ctx with | some c => c.world | none => 0
  let v := s.savedAt image head
  let t := { readTeam head (v.map (·.team)) world with ctx := ctx }
  let gs := imageBudgets (s.sections (physAddr image) head) t.held
  (clusters.filter fun cl => !(s.die (clusterDie cl)).fatal && !s.trapsHeld cl).findSome? fun cl =>
    (s.spotFor ctx t.ways t.nbar ((head.nat 8 8).testBit 17) t.issuer gs cl none).map fun sp => (cl, sp, t, v)

/-- The restore of an image into the first of some clusters where R274 holds, none of a die that is die-fatal (R386); none where it holds in none. An image that
    is not valid ends the restore, at the shard of a given cluster (R380). -/
def State.restore (s : State) (image : Word) (clusters : List Nat) (shard : Nat) : Option State :=
  let head : Rec := ⟨s.readKeys (physAddr image) 0x1000, []⟩
  if !s.imageValid head then
    some ({ s with disp := { s.disp with saved := s.disp.saved.filter fun v => v.image != image } }.event shard 4 Cause.transInvalid 0 image)
  else (s.restoreSpot image head clusters).map fun p => s.restoreAt image head p.2.2.2 p.2.2.1 p.1 p.2.1

/-- `SRESTORE_WRITE` (R352, R380): a restore into the writing shard's own cluster is asked for. -/
def execSrestoreWrite (cluster : Nat) (image : Word) (s : State) : Res :=
  .next (s.modCluster cluster fun c => { c with svc := { c.svc with restores := c.svc.restores ++ [image] } })

end Sys2Proof.Machine
end

