-- ==== Sys2Proof/Machine/Placement.lean ====
section
/-! DEFINITION. The dispatcher's own steps: placing teams, asking for pre-emption, restoring what it had saved (R273 to R279, R284, R380). -/
namespace Sys2Proof.Machine
open Sys2Proof

/-- The clusters on which a saved team may be restored, in the order of R275. -/
def State.restoreClusters (s : State) (v : Saved) : List Nat :=
  let g := v.team.grid.bind fun k => mapGet s.disp.grids k
  let last := match g with | some g => (match g.last with | some l => some l | none => s.disp.lastCluster) | none => s.disp.lastCluster
  (clustersAfter last).filter fun cl => (match g with | some g => g.pkt.onDie (clusterDie cl) | none => true) && !(s.die (clusterDie cl)).fatal

/-- A team of a priority that the dispatcher had saved, restored if one can be: the oldest save first (R277). -/
def State.restoreOne (s : State) (prio : Nat) : Option State :=
  (s.disp.saved.filter fun v => v.byDisp && v.team.prio == prio).findSome? fun v => s.restore v.image (s.restoreClusters v) v.team.cluster

/-- A step of the dispatcher at its queues and the bins, for teams of a priority not placed before: a bin that fits, else the first queue of the round
    where something can be done (R273, R284). -/
def State.placeOne (s : State) (prio : Nat) : Option State :=
  match (List.range Config.nClusters).findSome? fun cl => s.placeBin cl prio with
  | some s1 => some s1
  | none => (s.round prio).findSome? fun q => s.tryQueue q

/-- `TEAM_PLACEMENT` (R272 to R275): priorities in their order; a team that awaits its restore goes first at its own, by its own step. -/
def execTeamPlacement (s : State) : Res :=
  let at' := fun p => match s.restoreOne p with | some _ => some s | none => s.placeOne p
  .next (((List.range 4).findSome? at').getD s)

/-- What waits for a place (R277): its context and priority, since when, the clusters that it may take, in order, and whether it fits in one. -/
structure Waiting where
  ctx      : Nat
  prio     : Nat
  since    : Nat
  clusters : List Nat
  fits     : State → Nat → Bool

/-- The team of a specification as it waits. -/
def waitingSpec (t : TeamSpec) (since : Nat) (clusters : List Nat) : Waiting := ⟨t.ctx, t.prio, since, clusters, fun s cl => (s.spot t cl none).isSome⟩

/-- A saved team as it waits in some clusters. -/
def waitingImage (image : Word) (ctx prio since : Nat) (s : State) (clusters : List Nat) : Waiting :=
  let head : Rec := ⟨s.readKeys (physAddr image) 0x1000, []⟩
  ⟨ctx, prio, since, clusters, fun s cl => s.imageValid head && (s.restoreSpot image head [cl]).isSome⟩

/-- What waits by its asker: the next team of the grid that a queue is placing, a launch that a bin has made, a team that the dispatcher had saved. -/
def State.waiting (s : State) (a : Asker) : Option Waiting :=
  match a with
  | .queue q => (mapGet s.disp.heads q).bind fun k => (mapGet s.disp.grids k).map fun g =>
      waitingSpec (s.gridTeam k g ⟨[], []⟩) g.waited ((List.range Config.nClusters).filter fun cl => g.pkt.onDie (clusterDie cl))
  | .bin cl i => ((s.cluster cl).basket.ready[i]?).bind fun l => (s.binSpec l).map fun t => waitingSpec t l.since [cl]
  | .saved i => (s.disp.saved[i]?).bind fun v => v.since.map fun t => waitingImage v.image v.team.ctx v.team.prio t s (s.restoreClusters v)

/-- Whether what waits fits in a cluster now. -/
def Waiting.fitsNow (w : Waiting) (s : State) (cl : Nat) : Bool := !(s.die (clusterDie cl)).fatal && w.fits s cl

/-- The state without a team and its groups, as its save would leave the cluster's resources. -/
def State.without (s : State) (id : Nat) : State := { s with teams := mapDel s.teams id, groups := s.groups.filter fun g => g.2.team != id }

/-- Whether what waits would fit in a team's cluster once that team is saved. -/
def State.fitsWithout (s : State) (w : Waiting) (id : Nat) (v : Team) : Bool := w.clusters.contains v.cluster && w.fitsNow (s.without id) v.cluster

/-- Whether a save that the dispatcher has asked for is to make room for what waits: no second team is asked for meanwhile (R277). -/
def State.saveDue (s : State) (w : Waiting) : Bool :=
  s.teams.any fun p => (match p.2.save with | some q => q.byDisp | none => false) && s.fitsWithout w p.1 p.2

/-- The team that the dispatcher asks to pre-empt for what waits (R277): of the lowest priority, and of those the most recently placed. -/
def State.victim (s : State) (w : Waiting) : Option Nat :=
  let cand := s.teams.filter fun v => w.prio < v.2.prio && v.2.save.isNone && v.2.live != 0 &&
    !((s.teamGroups v.1).any fun g => g.2.life == .trapped) && s.fitsWithout w v.1 v.2
  (cand.foldl (fun (b : Option (Nat × Team)) v => match b with
    | some w => if w.2.prio < v.2.prio ∨ (w.2.prio = v.2.prio ∧ w.2.order < v.2.order) then some v else b
    | none => some v) none).map (·.1)

/-- `DISPATCH_PREEMPT_REQUEST` (R277): a team has waited 10 µs and fits nowhere. The image goes where SSAVEDST of the victim's shard says. DESIGN CHOICE of the
    destination (log entry 12). -/
def execDispatchPreemptRequest (asker : Asker) (s : State) : Res :=
  match s.waiting asker with
  | none => .next s
  | some w =>
    if s.time < w.since + usTime 10 ∨ !s.placeable w.ctx ∨ (w.clusters.any fun cl => w.fitsNow s cl) ∨ s.saveDue w then .next s
    else match s.victim w with
      | some id => .next (match s.team id with | some v => s.askSave id (s.cluster v.cluster).svc.ssavedst true | none => s)
      | none => .next s

/-- `TEAM_RESTORE` (R277, R380): of a team that the dispatcher had saved, unless a team of higher priority can be placed; or of the oldest image that a
    shard asked for, which holds until its team fits in the shard's cluster. -/
def execTeamRestore (src : Option Nat) (s : State) : Res :=
  match src with
  | none =>
    let at' := fun p => match s.restoreOne p with | some s1 => some s1 | none => (s.placeOne p).map fun _ => s
    .next (((List.range 4).findSome? at').getD s)
  | some cl =>
    match (s.cluster cl).svc.restores with
    | [] => .next s
    | image :: rest =>
      match s.restore image [cl] cl with
      | some s1 => .next (s1.modCluster cl fun c => { c with svc := { c.svc with restores := rest } })
      | none => .next s

end Sys2Proof.Machine
end

