-- ==== Sys2Proof/Machine/Routines.lean ====
section
/-! DEFINITION. Line routines: the words of a slice, routine tables, `vlrc`, invocations, `lrinst` (R95 to R98, R123, R237 to R244). -/
namespace Sys2Proof.Machine
open Sys2Proof

/-! ### The words (R242) -/

/-- A register of an invocation. -/
def Routine.reg (r : Routine) (n : BitVec 5) : Word := vgetD r.regs n.toNat 0
/-- A register written; an l register puts its granule in W even where its value stays (R241). -/
def Routine.set (r : Routine) (n : BitVec 5) (x : Word) : Routine :=
  { r with regs := vset r.regs n.toNat x, written := if n.toNat < 16 then r.written ||| BitVec.ofNat 8 (2 ^ (n.toNat / 2)) else r.written }

/-- A float word on the low n bits of both operands. -/
def rtFloat (n : Nat) (f : Nat → Nat → Nat × Flags) (x y : Word) : Word × Flags :=
  let r := f (x.toNat % 2 ^ n) (y.toNat % 2 ^ n)
  (BitVec.ofNat 64 r.1, r.2)

/-- The value of an RR word from its code, a, b and the old d, with the flags it raises. -/
def rrValue (op : Nat) (x y old : Word) : Word × Flags :=
  match op with
  | 0x01 => (x + y, 0)
  | 0x02 => (x - y, 0)
  | 0x03 => (x &&& y, 0)
  | 0x04 => (x ||| y, 0)
  | 0x05 => (x ^^^ y, 0)
  | 0x06 => (x <<< (y.toNat % 64), 0)
  | 0x07 => (x >>> (y.toNat % 64), 0)
  | 0x08 => (x.sshiftRight (y.toNat % 64), 0)
  | 0x09 => (if x.toInt ≤ y.toInt then x else y, 0)
  | 0x0A => (if x.toNat ≤ y.toNat then x else y, 0)
  | 0x0B => (if x.toInt ≤ y.toInt then y else x, 0)
  | 0x0C => (if x.toNat ≤ y.toNat then y else x, 0)
  | 0x0D => (flag (x.toInt < y.toInt), 0)
  | 0x0E => (flag (x.toNat < y.toNat), 0)
  | 0x0F => (flag (x == y), 0)
  | 0x10 => (if old ≠ 0 then x else y, 0)
  | 0x11 => (BitVec.ofNat 64 (x.toNat % 2 ^ 32 * (y.toNat % 2 ^ 32)), 0)
  | 0x12 => rtFloat 32 (Fmt.f32.add .rne) x y
  | 0x13 => rtFloat 64 (Fmt.f64.add .rne) x y
  | 0x14 => rtFloat 32 (Fmt.f32.minMax .rne false) x y
  | 0x15 => rtFloat 64 (Fmt.f64.minMax .rne false) x y
  | 0x16 => rtFloat 32 (Fmt.f32.minMax .rne true) x y
  | 0x17 => rtFloat 64 (Fmt.f64.minMax .rne true) x y
  | _ => (old, 0)

/-- An RR word. -/
def Routine.rr (r : Routine) (op : Nat) (d a b : BitVec 5) : Routine :=
  let x := rrValue op (r.reg a) (r.reg b) (r.reg d)
  { r.set d x.1 with flags := r.flags ||| x.2, word := r.word + 1 }
/-- A word that writes a value to d. -/
def Routine.put (r : Routine) (d : BitVec 5) (x : Word) : Routine := { r.set d x with word := r.word + 1 }
/-- `ext`: len is the field, one less than the length (R95). -/
def rtExt (x : Word) (pos len : BitVec 6) : Word := BitVec.ofNat 64 (bitsOf x.toNat (pos.toNat + len.toNat) pos.toNat)
/-- `ins`. -/
def rtIns (old x : Word) (pos len : BitVec 6) : Word :=
  let m := BitVec.ofNat 64 ((2 ^ (len.toNat + 1) - 1) <<< pos.toNat)
  (old &&& ~~~m) ||| ((x <<< pos.toNat) &&& m)
/-- A skip of n words where its test holds. -/
def Routine.skip (r : Routine) (b : Bool) (n : BitVec 5) : Routine := { r with word := r.word + 1 + (if b then n.toNat else 0) }
/-- The end of an invocation. -/
def Routine.stop (r : Routine) (e : RtEnd) : Routine := { r with fin := e }

/-- The word with these fields executed (R242). -/
def Routine.exec (r : Routine) (f : RoutineFields) : Routine :=
  let pos : BitVec 6 := f.imm.extractLsb' 6 6
  let len : BitVec 6 := f.imm.extractLsb' 0 6
  let n : BitVec 5 := f.imm.extractLsb' 0 5
  match f.op.toNat with
  | 0x18 => r.put f.d (r.reg f.a + f.imm.signExtend 64)
  | 0x19 => r.put f.d (f.imm.signExtend 64)
  | 0x1A => r.put f.d (rtExt (r.reg f.a) pos len)
  | 0x1B => r.put f.d (rtIns (r.reg f.d) (r.reg f.a) pos len)
  | 0x1C => r.skip (r.reg f.a == r.reg f.b) n
  | 0x1D => r.skip (r.reg f.a != r.reg f.b) n
  | 0x1E => r.skip (decide ((r.reg f.a).toInt < (r.reg f.b).toInt)) n
  | 0x1F => r.skip (decide ((r.reg f.a).toNat < (r.reg f.b).toNat)) n
  | 0x20 => r.stop (if f.imm = 1 then .retTc else .ret)
  | 0x21 => r.stop .fail
  | op => r.rr op f.d f.a f.b

/-- A routine word's effect on the invocation that runs. -/
def State.rtOp (s : State) (f : Routine → Routine) : Res := .next { s with rt := f s.rt }

/-- `add` (R242). -/
def execRoutineAdd (d a b : BitVec 5) (s : State) : Res := s.rtOp fun r => r.rr 0x01 d a b
/-- `sub` (R242). -/
def execRoutineSub (d a b : BitVec 5) (s : State) : Res := s.rtOp fun r => r.rr 0x02 d a b
/-- `and` (R242). -/
def execRoutineAnd (d a b : BitVec 5) (s : State) : Res := s.rtOp fun r => r.rr 0x03 d a b
/-- `or` (R242). -/
def execRoutineOr (d a b : BitVec 5) (s : State) : Res := s.rtOp fun r => r.rr 0x04 d a b
/-- `xor` (R242). -/
def execRoutineXor (d a b : BitVec 5) (s : State) : Res := s.rtOp fun r => r.rr 0x05 d a b
/-- `sll` (R242). -/
def execRoutineSll (d a b : BitVec 5) (s : State) : Res := s.rtOp fun r => r.rr 0x06 d a b
/-- `srl` (R242). -/
def execRoutineSrl (d a b : BitVec 5) (s : State) : Res := s.rtOp fun r => r.rr 0x07 d a b
/-- `sra` (R242). -/
def execRoutineSra (d a b : BitVec 5) (s : State) : Res := s.rtOp fun r => r.rr 0x08 d a b
/-- `min.s64` (R242). -/
def execRoutineMinS64 (d a b : BitVec 5) (s : State) : Res := s.rtOp fun r => r.rr 0x09 d a b
/-- `min.z64` (R242). -/
def execRoutineMinZ64 (d a b : BitVec 5) (s : State) : Res := s.rtOp fun r => r.rr 0x0A d a b
/-- `max.s64` (R242). -/
def execRoutineMaxS64 (d a b : BitVec 5) (s : State) : Res := s.rtOp fun r => r.rr 0x0B d a b
/-- `max.z64` (R242). -/
def execRoutineMaxZ64 (d a b : BitVec 5) (s : State) : Res := s.rtOp fun r => r.rr 0x0C d a b
/-- `slt.s64` (R242). -/
def execRoutineSltS64 (d a b : BitVec 5) (s : State) : Res := s.rtOp fun r => r.rr 0x0D d a b
/-- `slt.z64` (R242). -/
def execRoutineSltZ64 (d a b : BitVec 5) (s : State) : Res := s.rtOp fun r => r.rr 0x0E d a b
/-- `seq` (R242). -/
def execRoutineSeq (d a b : BitVec 5) (s : State) : Res := s.rtOp fun r => r.rr 0x0F d a b
/-- `csel` (R242). -/
def execRoutineCsel (d a b : BitVec 5) (s : State) : Res := s.rtOp fun r => r.rr 0x10 d a b
/-- `mul` (R242). -/
def execRoutineMul (d a b : BitVec 5) (s : State) : Res := s.rtOp fun r => r.rr 0x11 d a b
/-- `fadd.f32` (R242). -/
def execRoutineFaddF32 (d a b : BitVec 5) (s : State) : Res := s.rtOp fun r => r.rr 0x12 d a b
/-- `fadd.f64` (R242). -/
def execRoutineFaddF64 (d a b : BitVec 5) (s : State) : Res := s.rtOp fun r => r.rr 0x13 d a b
/-- `fmin.f32` (R242). -/
def execRoutineFminF32 (d a b : BitVec 5) (s : State) : Res := s.rtOp fun r => r.rr 0x14 d a b
/-- `fmin.f64` (R242). -/
def execRoutineFminF64 (d a b : BitVec 5) (s : State) : Res := s.rtOp fun r => r.rr 0x15 d a b
/-- `fmax.f32` (R242). -/
def execRoutineFmaxF32 (d a b : BitVec 5) (s : State) : Res := s.rtOp fun r => r.rr 0x16 d a b
/-- `fmax.f64` (R242). -/
def execRoutineFmaxF64 (d a b : BitVec 5) (s : State) : Res := s.rtOp fun r => r.rr 0x17 d a b
/-- `addi` (R242). -/
def execRoutineAddi (d a : BitVec 5) (imm : BitVec 16) (s : State) : Res := s.rtOp fun r => r.put d (r.reg a + imm.signExtend 64)
/-- `li` (R242). -/
def execRoutineLi (d : BitVec 5) (imm : BitVec 16) (s : State) : Res := s.rtOp fun r => r.put d (imm.signExtend 64)
/-- `ext` (R242). -/
def execRoutineExt (d a : BitVec 5) (pos len : BitVec 6) (s : State) : Res := s.rtOp fun r => r.put d (rtExt (r.reg a) pos len)
/-- `ins` (R242). -/
def execRoutineIns (d a : BitVec 5) (pos len : BitVec 6) (s : State) : Res := s.rtOp fun r => r.put d (rtIns (r.reg d) (r.reg a) pos len)
/-- `skip.eq` (R242). -/
def execRoutineSkipEq (a b n : BitVec 5) (s : State) : Res := s.rtOp fun r => r.skip (r.reg a == r.reg b) n
/-- `skip.ne` (R242). -/
def execRoutineSkipNe (a b n : BitVec 5) (s : State) : Res := s.rtOp fun r => r.skip (r.reg a != r.reg b) n
/-- `skip.lt.s64` (R242). -/
def execRoutineSkipLtS64 (a b n : BitVec 5) (s : State) : Res := s.rtOp fun r => r.skip (decide ((r.reg a).toInt < (r.reg b).toInt)) n
/-- `skip.lt.z64` (R242). -/
def execRoutineSkipLtZ64 (a b n : BitVec 5) (s : State) : Res := s.rtOp fun r => r.skip (decide ((r.reg a).toNat < (r.reg b).toNat)) n
/-- `ret` (R242). -/
def execRoutineRet (s : State) : Res := s.rtOp fun r => r.stop .ret
/-- `ret.tc` (R242). -/
def execRoutineRetTc (s : State) : Res := s.rtOp fun r => r.stop .retTc
/-- `fail` (R242). -/
def execRoutineFail (s : State) : Res := s.rtOp fun r => r.stop .fail

/-! ### The check of R98 -/

/-- Whether one word is legal (R98), found without building the instruction. -/
def wordLegal (f : RoutineFields) : Bool :=
  let op := f.op.toNat
  if op = 0 ∨ 0x22 ≤ op then false
  else if op ≤ 0x17 then routineDst f.d && routineSrc f.a && routineSrc f.b && f.imm.extractLsb' 0 11 == 0
  else if op = 0x18 then routineDst f.d && routineSrc f.a
  else if op = 0x19 then routineDst f.d && f.a == 0
  else if op ≤ 0x1B then routineDst f.d && routineSrc f.a && f.imm.extractLsb' 12 4 == 0 && (f.imm.extractLsb' 6 6).toNat + (f.imm.extractLsb' 0 6).toNat < 64
  else if op ≤ 0x1F then f.d == 0 && routineSrc f.a && routineSrc f.b && f.imm.extractLsb' 5 6 == 0 && f.imm.extractLsb' 0 5 != 0
  else f.d == 0 && f.a == 0 && (f.imm == 0 || (op == 0x20 && f.imm == 1))

/-- Whether a skip at word i lands within the routine. -/
def skipLands (f : RoutineFields) (i n : Nat) : Bool :=
  !(0x1C ≤ f.op.toNat && f.op.toNat ≤ 0x1F) || i + 1 + (f.imm.extractLsb' 0 5).toNat < n

/-- Whether a routine is legal (R98). -/
def routineLegal (ws : List (BitVec 32)) : Bool :=
  let fs := ws.map RoutineFields.ofWord
  fs.all wordLegal && ((List.range fs.length).all fun i => match fs[i]? with | some f => skipLands f i fs.length | none => true) &&
    (match fs.getLast? with | some f => f.op == 0x20 || f.op == 0x21 | none => false)

/-! ### Routine directory and tables (R237 to R239) -/

/-- Where entry n of a context's directory lies, if its page can be reached with these rights. -/
def State.dirEntry (s : State) (ctx n : Nat) (perm : Nat) (need : List Nat) : Option (List Seg) :=
  match s.ctx ctx with
  | none => none
  | some c =>
    match s.resolve (s.whoCtx ctx c.home true) c.dir [perm] need (c.dir.base + 256 * n) 256 1 with
    | .ok (segs, _) => some segs
    | .error _ => none

/-- The words of an installed routine. -/
def State.readRoutine (s : State) (ctx n : Nat) : Option (List (BitVec 32)) :=
  match s.dirEntry ctx n Perm.load Need.read with
  | none => none
  | some segs =>
    let bs := s.readSegs segs
    let h := leNat ((bs.drop 128).take 8)
    if h.testBit 63 then some ((List.range (h % 32 + 1)).map fun i => BitVec.ofNat 32 (leNat ((bs.drop (4 * i)).take 4))) else none

/-- A routine looked up in a slice's table, filled on a miss, the entry used least recently replaced (R239); the table then has the entry in
    front. None where it is not installed. -/
def State.lookupRoutine (s : State) (slice ctx n : Nat) : Option (RtEntry × State) :=
  let tab := mapGetD s.tables slice []
  let front := fun (e : RtEntry) =>
    (e, { s with tables := mapSet s.tables slice ((e :: tab.filter fun x => !(x.ctx == ctx && x.n == n)).take 128) })
  match tab.find? fun x => x.ctx == ctx && x.n == n with
  | some e => some (front e)
  | none => (s.readRoutine ctx n).map fun ws => front ⟨ctx, n, routineLegal ws, ws⟩

/-- The entries of a context, or of one routine of it, discarded at every slice (R238, R239, R370). -/
def State.dropRoutines (s : State) (ctx : Nat) (n : Option Nat) : State :=
  { s with tables := s.tables.map fun p => (p.1, p.2.filter fun e => !(e.ctx == ctx && (match n with | some i => e.n == i | none => true))) }

/-- Routine n of a context installed: its directory's entry, if it can be reached, and the tables' (R238). -/
def State.installRoutine (s : State) (ctx n : Nat) (words : List Byte) (len : Nat) : State :=
  let s1 := match s.dirEntry ctx n Perm.store Need.write with
    | some out => s.writeSegs out (words ++ List.replicate (128 - words.length) 0 ++ leBytes 8 (len - 1 + 2 ^ 63) ++ List.replicate 120 0)
    | none => s
  s1.dropRoutines ctx (some n)

/-- `lrinst` (R238), a release; its words are one scalar access (R128, R338). A directory that cannot be written is left as it is; while its page is being
    moved, the word waits (R264). -/
def execLrinst (d : BitVec 6) (a : BitVec 5) (b : BitVec 6) (s : State) : Res :=
  s.groupOnly fun k g => s.scalarOp [d, b] [a] fun s =>
    let x := (s.x b).toNat
    if x / 2 ^ 13 ≠ 0 ∨ bitsOf x 7 6 ≠ 0 then .next (s.setX d 1).advance
    else
      let len := bitsOf x 12 8 + 1
      match s.resolve s.who (s.c a) [Perm.load] Need.read (s.c a).cursor.toNat (4 * len) 4 with
      | .error (e, y) => .next (s.raise e (BitVec.ofNat 64 y))
      | .ok (segs, ts) =>
        let n := x % 64
        let dir := s.dirEntry g.ctx n Perm.store Need.write
        if segs.any fun z => s.locked s.who true false z.lo z.len then .next (s.raise Cause.rangeLock (s.c a).cursor)
        else match (if (s.c a).has Perm.window then none else s.watch (slotCluster k) g.ctx true false (s.c a).cursor.toNat (4 * len)) with
        | some i => .next (s.debugStop k false (BitVec.ofNat 5 (16 + i)) (s.c a).cursor 0)
        | none =>
        if !s.released || (dir.getD []).any (fun z => s.moving z.lo z.len) || s.segsSpoilt segs || !s.wlRoomFor (segs.map (·.lo)) then .next s
        else
          let words := s.readSegs segs
          let s1 := (s.fill s.curCluster ts).wlReadNow s.who segs
          .next ((s1.installRoutine g.ctx n words len).setX d 0).advance

/-! ### Invocations (R240, R241, R243) -/

/-- An invocation as it starts on the line at a key (R241). -/
def State.startRoutine (s : State) (k : Nat) (o0 o1 : Word) : Routine :=
  { regs := Vector.ofFn fun (i : Fin 32) =>
      if i.val < 16 then BitVec.ofNat 64 (s.readNat (k + 8 * i.val) 8) else if i.val = 16 then o0 else if i.val = 17 then o1 else 0,
    written := 0, flags := 0, word := 0, fin := .running }

/-- Words executed until one ends the invocation; skips go forward only, so as many as there are words suffice. -/
def Routine.run (ws : List (BitVec 32)) : Nat → Routine → Routine
  | 0, r => r
  | n + 1, r =>
    match r.fin with
    | .running =>
      match ws[r.word]? with
      | some w => Routine.run ws n (r.exec (.ofWord w))
      | none => r
    | _ => r

/-- The granules that an invocation wrote. -/
def Routine.granules (r : Routine) : List Nat := (List.range 8).filter fun g => r.written.getLsbD g

/-- The end of an invocation on the line at a key (R241): the status, and the state with the line committed if it is. -/
def State.endRoutine (s : State) (k : Nat) (r : Routine) : Nat × State :=
  if r.fin = .fail then (0x28, s)
  else if r.fin = .ret ∧ (r.granules.any fun g => s.keyTag (k + 16 * g)) then (0x2A, s)
  else (0, r.granules.foldl (fun s g =>
    s.writeKeys (k + 16 * g) (leBytes 8 (vgetD r.regs (2 * g) 0).toNat ++ leBytes 8 (vgetD r.regs (2 * g + 1) 0).toNat)) s)

/-- One result of an invocation: the writes of q and of the status, and the stop it asks for. -/
def LineElem.done (e : LineElem) (q : Nat) (st : Nat) : List RegWrite × List (Nat × Nat × Word) :=
  (e.dq.write q 64 ++ e.dst.write st 64, if st = 0 then [] else [(e.k, st, e.x)])

/-- The invocations of one line, back to back in ascending order (R243): the state, the writes, the stops, the flags of those that commit. -/
def State.runLine (s : State) (ws : List (BitVec 32)) (k : Nat) :
    List LineElem → State × List RegWrite × List (Nat × Nat × Word) × Flags
  | [] => (s, [], [], 0)
  | e :: es =>
    let r := Routine.run ws 32 (s.startRoutine k e.o0 e.o1)
    let (st, s1) := s.endRoutine k r
    let d := e.done (vgetD r.regs 26 0).toNat st
    let rest := State.runLine { s1 with rt := r } ws k es
    (rest.1, d.1 ++ rest.2.1, d.2 ++ rest.2.2.1, (if st = 0 then r.flags else 0) ||| rest.2.2.2)

/-- Every invocation of a line answered with one status and no effect. -/
def LineReq.answer (r : LineReq) (q st : Nat) : List RegWrite × List (Nat × Nat × Word) :=
  ((r.elems.flatMap fun e => (e.done q st).1), (r.elems.flatMap fun e => (e.done q st).2))

/-- The status of R240 at a place of its table. -/
def remoteStatus (i : Fin 5) : Nat := match i.val with | 0 => 0 | 1 => 0x28 | 2 => 0x29 | 3 => 0x2A | _ => 0x2C

/-- The invocations of a line of another package, each with a free answer (R241, R243, R266). -/
def remoteLine (free : Nat) : List (LineElem × Nat) → List RegWrite × List (Nat × Nat × Word) × Flags
  | [] => ([], [], 0)
  | (e, i) :: es =>
    let a := Config.remoteRoutine free i
    let st := remoteStatus a.2.1
    let d := e.done (if st = 0x29 ∨ st = 0x2C then 0 else a.1.toNat) st
    let rest := remoteLine free es
    (d.1 ++ rest.1, d.2 ++ rest.2.1, (if st = 0 then a.2.2 else 0) ||| rest.2.2)

/-- A line request performed at its home slice, or at another package (R239, R240, R266). -/
def State.doLine (s : State) (ctx : Nat) (r : LineReq) : State × List RegWrite × List (Nat × Nat × Word) × Flags :=
  if Config.remoteKey ≤ r.key then
    (s, remoteLine s.free r.elems.zipIdx)
  else match s.lookupRoutine (homeSlice r.key) ctx r.n with
    | none => let d := r.answer 0 0x2C; (s, d.1, d.2, 0)
    | some (e, s1) => if e.legal then s1.runLine e.words r.key r.elems else let d := r.answer 0 0x29; (s1, d.1, d.2, 0)

/-- A miss in a slice's routine table counted for the core of the group that invokes (R239, R343). -/
def State.countMiss (s : State) (t : Thread) (r : LineReq) : State :=
  match t with
  | .service _ => s
  | .group k =>
    if Config.remoteKey ≤ r.key ∨ (mapGetD s.tables (homeSlice r.key) []).any fun x => x.ctx == s.ctxOf t && x.n == r.n then s
    else s.count (slotCluster k) (slotCore k) 12 1

/-- `LINE_ROUTINE_INVOCATION` (R224, R227, R239 to R243): line n of an operation; it waits while its page is being moved. -/
def execLineRoutineInvocation (t : Thread) (id n : Nat) (s : State) : Res :=
  match (s.hartOf t).op id with
  | none => .next s
  | some p =>
    match p.lines[n]? with
    | none => .next s
    | some r =>
      if s.migrating r.key || s.spoilt r.key 128 then .next s
      else
        let (s1, ws, ends, fl) := (s.countMiss t r).doLine (s.ctxOf t) r
        .next { s1.modHartOf t fun h => h.modOp id fun q => { q with
          lines := dropAt q.lines n, writes := q.writes ++ ws, ends := q.ends ++ ends, flags := q.flags ||| fl } with free := s1.free + 1 }

/-- Elements gathered by line, ascending (R243). -/
def gatherLines (n : Nat) (l : List (Nat × LineElem)) : List LineReq :=
  l.foldl (fun rs p =>
    if rs.any fun r => r.key == p.1 then rs.map fun r => if r.key = p.1 then { r with elems := r.elems ++ [p.2] } else r
    else rs ++ [⟨p.1, n, [p.2]⟩]) []

/-- `vlrc` (R187, R240). With `.stop` the issue slot stays held until the results are in. -/
def execVlrc (c : Ctl) (d a b e : BitVec 6) (q : Auth) (n : BitVec 6) (stop : Bool) (s : State) : Res :=
  let u := Uses.lrc c d a b e q
  s.laneAccess u (fun v => (v.l.actives c).map fun k =>
      .plain k ⟨v.auth q k, [Perm.lineRoutine], v.indexed q a k, 128, 128, Need.line, true, true⟩) fun v ks s =>
    let elems := ks.map fun p =>
      let k := p.1.k
      let at' := elemAt d 64 k
      (p.2, (⟨k, BitVec.ofNat 64 p.1.acc.x, BitVec.ofNat 64 (v.a b 64 k), BitVec.ofNat 64 (v.a e 64 k), .v at'.1 at'.2 64, .v (at'.1 + v.t.lmul) at'.2 64⟩ : LineElem))
    let p : Pending := { Pending.blank true with regs := (u v.t).pending v.t, lines := gatherLines n.toNat elems, stop := stop }
    let l := (v.l.putInactive c d.toNat 64).putInactive c (d.toNat + v.t.lmul) 64
    let sent := ks.zip elems |>.foldl (fun s e => s.wlSend (s.whoGroup v.slot) s.nextId e.1.2 (.routine n e.2.2.o0 e.2.2.o1)) s
    .next ((sent.setLane v l).laneLaunch v u (!ks.isEmpty) p)

end Sys2Proof.Machine
end

