-- ==== Sys2Proof/Machine/Contexts.lean ====
section
/-! DEFINITION. Contexts, dumps, page migration, changes of a page's world, revocation phases (R73 to R75, R264, R368 to R371, R378, R384 to R386,
R391). -/
namespace Sys2Proof.Machine
open Sys2Proof

/-! ### Contexts (R369, R370) -/

/-- The service state of a cluster. -/
def State.svc (s : State) (cl : Nat) : Service := (s.cluster cl).svc
/-- The service state of a cluster changed. -/
def State.modSvc (s : State) (cl : Nat) (f : Service → Service) : State := s.modCluster cl fun c => { c with svc := f c.svc }

/-- State of a context; one without a record in the machine is Free. -/
def State.ctxState (s : State) (ctx : Nat) : CtxState := match s.ctx ctx with | some c => c.state | none => .free

/-- The entries of a context taken out of every cluster's TLB. -/
def State.flushTlb (s : State) (ctx : Nat) : State :=
  { s with clusters := s.clusters.map fun (c : Cluster) => { c with tlb := c.tlb.filter fun t => t.ctx != ctx } }

/-- Whether a context owns a key slot (R395). -/
def State.ownsKey (s : State) (ctx : Nat) : Bool := s.keys.toList.any fun k => k.state != 0 && k.ctx == ctx

/-- Activation (R370 op 0): a Free context whose record is valid; a context of world 1 to 254 must own a key slot (R395). None: refused. World, home, table
    base, directory and hold bit are taken from the record here, and a later write of those words is not seen. DESIGN CHOICE (log entry 69): R369 does not say
    when they are read. -/
def State.activate (s : State) (ctx : Nat) : Option State :=
  let at' := s.ctxWord ctx
  let w0 := s.readNat (at' 0) 8
  let world := BitVec.ofNat 8 (bitsOf w0 15 8)
  if ctx = 0 ∨ 4096 ≤ ctx ∨ s.ctxState ctx ≠ .free ∨ !w0.testBit 0 ∨ (world ≠ 0 ∧ world ≠ 255 ∧ !s.ownsKey ctx) then none
  else
    let c : Ctx :=
      { state := .live, hold := w0.testBit 1, world := world, home := bitsOf w0 23 16, ptbase := BitVec.ofNat 64 (s.readNat (at' 8) 8),
        dir := s.readCap (at' 0x10), mask := BitVec.ofNat 256 (s.readNat (at' 0x30) 32), flags := BitVec.ofNat 5 (s.readNat (at' 0x50) 8), bins := [],
        allocs := [], freed := [], pools := Vector.replicate 4 0, pages := Vector.replicate 4 [], log := [], exitCode := none }
    let s1 := (s.flushTlb ctx).dropRoutines ctx none
    some { s1 with ctxs := mapSet s1.ctxs ctx c }

/-- The end of a context (R370 op 2, `ctx.exit`): Ending; every group as under `gend`, saved teams gone; nothing of it completes any more. -/
def State.endContext (s : State) (ctx : Nat) : State :=
  let s1 := (s.modCtx ctx fun c => { c with state := .ending }).dropGrids ctx
  let ks := (s1.groups.filter fun p => p.2.ctx == ctx && p.2.life != .exiting).map (·.1)
  let s2 := ks.foldl (fun s k => (s.dropCalls k).enterExiting k) s1
  { s2 with disp := { s2.disp with saved := s2.disp.saved.filter fun v => v.team.ctx != ctx } }

/-- Whether an Ending context may be released: every group has retired, and its queues are closed (R370). -/
def State.emptied (s : State) (ctx : Nat) : Bool :=
  !(s.groups.any fun p => p.2.ctx == ctx) && !(s.teams.any fun p => p.2.ctx == ctx) && !(s.edge.queues.any fun p => p.2.isOpen && p.2.ctx == ctx)

/-- What is left of a context removed (R370 op 3, R394). -/
def State.release (s : State) (ctx : Nat) : State :=
  let s1 := ((s.dropRoutines ctx none).dropInstances ctx 0).dropOps ctx
  { s1 with
    ctxs := mapDel s1.ctxs ctx, sliceFlags := s1.sliceFlags.filter fun p => p.1 % 4096 != ctx,
    clusters := s1.clusters.map fun (c : Cluster) => { c with ports := mapDel c.ports ctx },
    dies := s1.dies.map fun (d : Die) => { d with graphs := d.graphs.filter fun p => p.2.ctx != ctx },
    keys := s1.keys.map fun (k : KeySlot) => if k.state ≠ 0 ∧ k.ctx = ctx then .reset else k,
    disp := { s1.disp with saved := s1.disp.saved.filter fun v => v.team.ctx != ctx },
    io := { s1.io with opens := s1.io.opens.filter fun o => o.ctx != ctx, socks := s1.io.socks.filter fun o => o.ctx != ctx } }

/-- Whether no-return floating-point atomics of a context have still to land their flags (R370 op 4). -/
def State.flagsDue (s : State) (ctx : Nat) : Bool :=
  s.groups.any fun p => p.2.ctx == ctx && p.2.hart.pend.any fun q => !q.ld && !q.atoms.isEmpty

/-- A context's atomic flags cleared everywhere (R370 op 4). -/
def State.clearFlags (s : State) (ctx : Nat) : State :=
  { s with sliceFlags := s.sliceFlags.filter fun p => p.1 % 4096 != ctx }.setCtxFlags ctx 0

/-- A write of SCTXCTL (R368): the op is under way until its step completes it. -/
def State.writeCtxctl (s : State) (cl : Nat) (x : Word) : State :=
  s.modSvc cl fun v =>
    if v.ctxctl.getLsbD 63 ∨ 5 ≤ bitsOf x.toNat 18 16 then { v with ctxctl := v.ctxctl ||| 0x4000000000000000 }
    else { v with ctxctl := (x &&& 0xFF07FFFF) ||| 0x8000000000000000 }

/-- Whether a cluster's SCTXCTL has this op under way for a context. -/
def State.ctxOp (s : State) (cl op ctx : Nat) : Bool :=
  let x := (s.svc cl).ctxctl
  x.getLsbD 63 && bitsOf x.toNat 18 16 == op && bitsOf x.toNat 15 0 == ctx

/-- The op under way at a cluster completed, its error bit set where it was refused, and clear otherwise: a write while busy that set it is told of only until
    then. DESIGN CHOICE (log entry 70): R368 does not say how long the bit stands. -/
def State.ctxDone (s : State) (cl : Nat) (refused : Bool) : State :=
  s.modSvc cl fun v => { v with ctxctl := (v.ctxctl &&& 0x3FFFFFFFFFFFFFFF) ||| (if refused then 0x4000000000000000 else 0) }

/-- `CTX_ACTIVATE` (R370, R371, R395). -/
def execCtxActivate (cluster ctx : Nat) (s : State) : Res :=
  if !s.ctxOp cluster 0 ctx then .next s
  else match s.activate ctx with
    | some s1 => .next (s1.ctxDone cluster false)
    | none => .next (s.ctxDone cluster true)

/-- The group of a context that faulted first, with what the head of a dump says of it: its handle and FADDR (R376, R385); zeros where none has. A stop for
    BREAKPOINT, STEP or MSG_OVERFLOW is no fault of the group. -/
def State.firstStopped (s : State) (ctx : Nat) : Word × Word :=
  let held := [Cause.breakpoint, Cause.step, Cause.msgOverflow]
  let stopped := s.groups.filter fun p => p.2.ctx == ctx && p.2.life == .stopped && !held.contains (p.2.hart.cause.setWidth 8)
  match stopped.find? fun p => stopped.all fun q => p.2.stopAt ≤ q.2.stopAt with
  | some (k, g) => (handleOf k g, g.hart.faddr)
  | none => (0, 0)

/-- `CTX_FATAL` (R370, R384): SCTXCTL op 1. The hardware's causes act within the steps that meet them. -/
def execCtxFatal (cluster ctx : Nat) (cause : BitVec 8) (s : State) : Res :=
  if !s.ctxOp cluster 1 ctx || bitsOf (s.svc cluster).ctxctl.toNat 31 24 != cause.toNat then .next s
  else match s.ctxState ctx with
    | .live | .ending => .next ((s.ctxDie ctx cause (s.firstStopped ctx).1 (s.firstStopped ctx).2).ctxDone cluster false)
    | _ => .next (s.ctxDone cluster true)

/-- `CTX_END` (R370): SCTXCTL op 2. -/
def execCtxEnd (cluster ctx : Nat) (s : State) : Res :=
  if !s.ctxOp cluster 2 ctx then .next s
  else if s.ctxState ctx = .live then .next ((s.endContext ctx).ctxDone cluster false)
  else .next (s.ctxDone cluster true)

/-- `CTX_RELEASE` (R370): SCTXCTL op 3. -/
def execCtxRelease (cluster ctx : Nat) (s : State) : Res :=
  if !s.ctxOp cluster 3 ctx then .next s
  else if s.ctxState ctx = .dead ∨ (s.ctxState ctx = .ending ∧ s.emptied ctx) then .next ((s.release ctx).ctxDone cluster false)
  else .next (s.ctxDone cluster true)

/-- `CTX_CLEAR_ATOMIC_FLAGS` (R370): SCTXCTL op 4. -/
def execCtxClearAtomicFlags (cluster ctx : Nat) (s : State) : Res :=
  if !s.ctxOp cluster 4 ctx then .next s
  else if s.ctxState ctx = .live ∨ s.ctxState ctx = .ending then
    .next (if s.flagsDue ctx then s else (s.clearFlags ctx).ctxDone cluster false)
  else .next (s.ctxDone cluster true)

/-! ### Dumps (R385, R386) -/

/-- The teams of a context that are resident, oldest first. -/
def State.ctxTeams (s : State) (ctx : Nat) : List (Nat × Team) := s.teams.filter fun p => p.2.ctx == ctx

/-- The teams of a dump with the offset of each image, as far as they fit in the area, and whether any is left out: one that does not fit, or one on
    a die that is die-fatal. -/
def State.dumpPlan (s : State) (len : Nat) : Nat → List (Nat × Team) → List (Nat × Nat × Team) × Bool
  | _, [] => ([], false)
  | off, (id, t) :: rest =>
    let n := s.imageSize id t
    if len < off + n ∨ (s.die (clusterDie t.cluster)).fatal then ((State.dumpPlan s len off rest).1, true)
    else let r := State.dumpPlan s len (off + n) rest; ((off, id, t) :: r.1, r.2)

/-- The first 0x1000 bytes of a dump. -/
def Dump.head (d : Dump) (offs : List Nat) (truncated : Bool) (len : Nat) : List Byte :=
  let (c2, n2, h2, f2) := d.second.getD (0, 0, 0, 0)
  let b := leBytes 8 0x4D5A4450 ++ leBytes 8 (d.ctx + d.cause.toNat * 2 ^ 16 + bitNat truncated * 2 ^ 24 + bitNat d.second.isSome * 2 ^ 25 + offs.length * 2 ^ 32) ++
    leBytes 8 d.handle.toNat ++ leBytes 8 d.faddr.toNat ++ leBytes 8 d.cycle.toNat ++ leBytes 8 (c2.toNat + n2 * 256) ++ leBytes 8 h2.toNat ++
    leBytes 8 f2.toNat ++ leBytes 8 len ++ List.replicate 184 (0 : Byte) ++ offs.flatMap fun o => leBytes 8 o
  (b ++ List.replicate (0x1000 - b.length) 0).take 0x1000

/-- The groups and teams of a dead context freed, its pages left. -/
def State.freeContext (s : State) (ctx : Nat) : State :=
  (s.ctxTeams ctx).foldl (fun s p => s.freeTeam p.1 p.2 (s.teamGroups p.1)) s

/-- `DUMP_WRITE` (R385, R386): the first dump of a die's queue, written and its context Dead. It fails where the die is die-fatal or the area cannot hold
    its head; it waits while a page of the area is being moved (R264). -/
def execDumpWrite (die : Nat) (s : State) : Res :=
  match (s.die die).dumps with
  | [] => .next s
  | d :: rest =>
    let base := s.readNat (s.ctxWord d.ctx 0x58) 8 % 2 ^ 52
    let len := s.readNat (s.ctxWord d.ctx 0x60) 8
    let written :=
      if (s.die die).fatal ∨ len < 0x1000 then s
      else
        let (plan, cut) := s.dumpPlan len 0x1000 (s.ctxTeams d.ctx)
        let total := match plan.getLast? with | some (off, id, t) => off + s.imageSize id t | none => 0x1000
        let s1 := plan.foldl (fun s p => s.writeImage p.2.1 p.2.2 (base + p.1) true d.cycle) s
        s1.writeKeys base (d.head (plan.map (·.1)) cut total)
    let s2 := (written.freeContext d.ctx).modCtx d.ctx fun c => { c with state := .dead }
    .next (if s.moving base len then s else s2.modDie die fun x => { x with dumps := rest })

/-! ### Operations that hold a translation -/

/-- Whether an engine or matrix operation has still to read from [k, k + n). Its writes wait while the page is locked, and move with it (R264). -/
def State.readsIn (s : State) (k n : Nat) : Bool :=
  s.clusters.toList.any fun c => (c.ops.any fun o => !o.started && o.srcSegs.any fun a => a.touches k n) ||
    c.cores.toList.any fun x => x.mq.any fun o => o.src.segs.any fun a => a.touches k n

/-- Whether a port has a receive posted whose record lies in [k, k + n). -/
def Port.postsIn (p : Port) (k n : Nat) : Bool := p.recvs.any fun r => (⟨r.key, 16⟩ : Seg).touches k n

/-- Whether an operation outstanding still has to touch [k, k + n): of the engines, the arrays and the drives, atomics, invocations, writes that wait, receives
    posted, the handle of a create. -/
def State.heldIn (s : State) (k n : Nat) : Bool :=
  s.readsIn k n ||
  (s.clusters.toList.any fun c =>
    (c.ops.any fun o => o.status.any (fun a => a.touches k n) || o.targets.any fun t => t.segs.any fun a => a.touches k n) ||
    c.svc.hart.atomsMeet k n || c.kport.postsIn k n || c.ports.any fun p => p.2.postsIn k n) ||
  (s.groups.any fun p => p.2.hart.atomsMeet k n) || (s.stalled.any fun w => (⟨w.key, w.write.len⟩ : Seg).touches k n) ||
  (s.io.cmds.any fun c => c.segs.any fun a => a.touches k n) || s.io.jobs.any fun j => match j.place with | some p => (⟨p.1, 16⟩ : Seg).touches k n | none => false

/-! ### Page tables (R372, R373, R377) -/

/-- The leaf of this package over a physical address in tables from a base on, if there is one. -/
def State.leafOf (s : State) (k : Nat) : List (Nat × Nat × Nat) → Nat → Option Word
  | [], _ => none
  | (sh, bits, _) :: rest, base =>
    (List.range (2 ^ bits)).findSome? fun i =>
      let e := BitVec.ofNat 64 (s.readNat (base + 8 * i) 8)
      let a := bitsOf e.toNat 51 8 * 256
      if !e.getLsbD 0 then none
      else if e.getLsbD 1 then (if !e.getLsbD 58 && a ≤ k && k < a + 2 ^ sh then some e else none) else State.leafOf s k rest a

/-- The leaf that a context has over a physical address. -/
def State.ctxLeaf (s : State) (ctx k : Nat) : Option Word := (s.ctx ctx).bind fun c => s.leafOf k ptLevels (physAddr c.ptbase)

/-- Whether an entry of the last level is a leaf that a walk accepts (R373), of this package or of another that there is (R266). -/
def State.leafOk (s : State) (e : Nat) : Bool :=
  e % 4 == 3 && bitsOf e 63 59 == 0 && bitsOf e 51 8 % 256 == 0 && if e.testBit 58 then s.otherPackage (bitsOf e 57 52) else bitsOf e 57 52 == 0

/-- Whether an entry names a table of so many bytes that a walk accepts (R373). -/
def tableOk (e size : Nat) : Bool := e % 4 == 1 && bitsOf e 63 52 == 0 && bitsOf e 7 2 == 0 && bitsOf e 51 8 * 256 % size == 0

/-- A page zeroed and entered for a virtual address in tables from a base on, with the bits of a leaf; each table that is missing is a zeroed page of a pool, in
    order (R377 steps 2 and 3). An entry that is set is kept, and the page left over. None where the tables cannot take it, an entry that is set is none that a
    walk accepts, or the pool has no page left. -/
def State.mapPage (s : State) (va bits : Nat) : List (Nat × Nat × Nat) → Nat → List Word → Option (State × List Word)
  | [], _, _ => none
  | (sh, n, width) :: rest, base, pool =>
    let at' := base + 8 * (va / 2 ^ sh % 2 ^ n)
    let e := s.readNat at' 8
    if base % width ≠ 0 then none
    else match rest, pool with
    | [], p :: pool' => if e ≠ 0 then (if s.leafOk e then some (s, pool) else none) else some ((s.zeroRange p.toNat 65536).writeNat at' 8 (p.toNat / 65536 * 65536 + bits), pool')
    | [], [] => if s.leafOk e then some (s, []) else none
    | (_, _, size) :: _, p :: pool' =>
      if e = 0 then State.mapPage ((s.zeroRange p.toNat 65536).writeNat at' 8 (p.toNat / 65536 * 65536 + 1)) va bits rest (p.toNat / 65536 * 65536) pool'
      else if tableOk e size then State.mapPage s va bits rest (bitsOf e 51 8 * 256) pool else none
    | (_, _, size) :: _, [] => if tableOk e size then State.mapPage s va bits rest (bitsOf e 51 8 * 256) [] else none

/-- The bits of a leaf for a first-touch page: V, L, R, W, A and F (R377). -/
abbrev leafTouch : Nat := 0xAF
/-- The bits of a leaf for data: V, L, R, W and A. -/
abbrev leafData : Nat := 0x2F

/-- Pages given a context's world (R377). -/
def State.givePages (s : State) (ctx : Nat) (ps : List Word) : State :=
  let w := match s.ctx ctx with | some c => c.world | none => 0
  ps.foldl (fun s p => s.setWorld (p.toNat / 65536) w) s

/-- A first-touch fault of a context resolved at a virtual address with pages of its pool on a die (R377); none where the pool cannot. -/
def State.touchPage (s : State) (ctx die va : Nat) : Option State :=
  match s.ctx ctx with
  | none => none
  | some c =>
    let pool := vgetD c.pages die []
    (s.mapPage va leafTouch ptLevels (physAddr c.ptbase) pool).map fun p =>
      (p.1.givePages ctx (pool.take (pool.length - p.2.length))).modCtx ctx fun c => { c with pages := vset c.pages die p.2 }

/-- Whether pages may be taken for a context on a die: different whole pages of its HBM4, of world 0 or the context's, over which no context has a leaf, and in
    no pool. -/
def State.pagesFree (s : State) (ctx die : Nat) (ps : List Word) : Bool :=
  let w := match s.ctx ctx with | some c => c.world | none => 0
  decide ps.Nodup && ps.all fun p =>
    p.toNat % 65536 == 0 && p.toNat < 8 * Config.hbmStride && (match deviceOf p.toNat with | some d => d.die == die && p.toNat + 65536 ≤ d.tags | none => false) &&
      (match s.pageWorld p.toNat with | some x => x == 0 || x == w | none => false) &&
      s.ctxs.all fun c => (s.leafOf p.toNat ptLevels (physAddr c.2.ptbase)).isNone && c.2.pages.toList.all fun l => !l.contains p

/-! ### Migration (R264, R378) -/

/-- Whether two pages carry the same world, 64 KiB by 64 KiB, and lie in memory. -/
def State.sameWorlds (s : State) (a b size : Nat) : Bool :=
  (List.range (size / 65536)).all fun i => (s.pageWorld (a + 65536 * i)).isSome && s.pageWorld (a + 65536 * i) == s.pageWorld (b + 65536 * i)

/-- The start of a migration at a cluster: the page that SMIGSRC names locked, or the error bit (R368, R378). What SMIGSRC and SMIGDST take later is another
    migration's. -/
def State.startMigration (s : State) (cl : Nat) (code : Nat) : State :=
  let m := (s.svc cl).mig
  let n := pageSize code
  let a := physAddr m.src / n * n
  let b := physAddr m.dst / n * n
  if code = 3 ∨ m.locked ∨ a = b ∨ !s.sameWorlds a b n then s.modSvc cl fun v => { v with mig := { v.mig with error := true } }
  else s.modSvc cl fun v => { v with mig := { v.mig with page := a, copy := b, size := code, busy := true, locked := true, error := false } }

/-- `MIGRATION_START` (R378 step 1). -/
def execMigrationStart (cluster : Nat) (size : BitVec 2) (s : State) : Res := .next (s.startMigration cluster size.toNat)

/-- A page copied, tags included; what an uncorrectable error has hit stays so (R409). -/
def State.copyPage (s : State) (a b n : Nat) : State :=
  let s1 := s.zeroRange b n
  let mem := s1.mem.filter fun c => a ≤ c.1 && c.1 < a + n
  let tags := s1.tags.filter fun g => a ≤ 16 * g && 16 * g < a + n
  let s2 := mem.foldl (fun s c => s.keyPut (c.1 - a + b) c.2) s1
  let s3 := tags.foldl (fun s g => s.keySetTag (16 * g - a + b) true) s2
  { s3 with damaged := s3.damaged ++ (s3.damaged.filter fun d => a ≤ d && d < a + n).map fun d => d - a + b }

/-- `MIGRATION_COPY_DONE` (R264 step 3, R378 step 1): the copy ends once no operation holds a translation of the page. -/
def execMigrationCopyDone (cluster : Nat) (s : State) : Res :=
  let m := (s.svc cluster).mig
  if !m.busy || s.readsIn m.page (pageSize m.size) then .next s
  else .next ((s.copyPage m.page m.copy (pageSize m.size)).modSvc cluster fun v => { v with mig := { v.mig with busy := false } })

/-- Operations of a thread that wait at a locked line, moved with the page. -/
def Hart.move (h : Hart) (a b n : Nat) : Hart :=
  { h with pend := h.pend.map fun p => { p with atoms := p.atoms.map fun x => { x with key := moveKey a b n x.key },
                                                lines := p.lines.map fun x => { x with key := moveKey a b n x.key },
                                                stores := p.stores.map fun x => { x with key := moveKey a b n x.key } } }
/-- Receives posted in a page, moved with it. -/
def Port.move (p : Port) (a b n : Nat) : Port := { p with recvs := p.recvs.map fun r => { r with key := moveKey a b n r.key } }

/-- Whatever is stalled at a page's lines is performed at the same offset of its copy, with the checks it has passed (R264 step 5, R378 step 4). -/
def State.moveStalled (s : State) (a b n : Nat) : State :=
  { s with
    stalled := s.stalled.map fun w => { w with key := moveKey a b n w.key },
    io := { s.io with cmds := s.io.cmds.map (fun c => { c with segs := moveSegs a b n c.segs }), jobs := s.io.jobs.map (Job.move a b n) },
    groups := s.groups.map (fun p => (p.1, { p.2 with hart := p.2.hart.move a b n })),
    clusters := s.clusters.map fun (c : Cluster) => { c with
      svc := { c.svc with hart := c.svc.hart.move a b n }, kport := c.kport.move a b n, ports := c.ports.map fun p => (p.1, p.2.move a b n),
      cores := c.cores.map fun (k : Core) => { k with mq := k.mq.map fun o => { o with src := { o.src with segs := moveSegs a b n o.src.segs } } },
      ops := c.ops.map fun o => { o with srcSegs := moveSegs a b n o.srcSegs, status := moveSegs a b n o.status,
                                         targets := o.targets.map fun t => { t with segs := moveSegs a b n t.segs } } } }

/-- The writes of a thread's operations that wait and whose pages are not locked, performed in order. -/
def State.performStores (s : State) (t : Thread) : State :=
  let h := s.hartOf t
  if h.pend.all fun p => p.stores.isEmpty then s
  else
    let waits := fun (w : Stall) => s.writeWaits w.key w.write.len
    let due := h.pend.flatMap fun p => p.stores.filter fun w => !waits w
    (due.foldl State.perform s).modHartOf t fun h => { h with pend := h.pend.map fun p => { p with stores := p.stores.filter waits } }

/-- Every write that waits and whose page is not locked performed: those of operations, then those of agents (R264 step 5). -/
def State.performStalled (s : State) : State :=
  (((s.groups.map fun p => Thread.group p.1) ++ (List.range Config.nClusters).map Thread.service).foldl State.performStores s).performAgents

/-- The source of a migrated first-touch page back in the pool of the context that has the copy, on its die (R378). -/
def State.poolBack (s : State) (m : Migration) : State :=
  match s.ctxs.find? fun p => (match s.leafOf m.copy ptLevels (physAddr p.2.ptbase) with | some e => e.getLsbD 7 | none => false), deviceOf m.page with
  | some (ctx, _), some d => s.modCtx ctx fun c => { c with pages := vmod c.pages d.die (· ++ [BitVec.ofNat 64 m.page]) }
  | _, _ => s

/-- The release of a migration (R378 step 4). While the copy is under way it sets the error bit. DESIGN CHOICE of that (log entry 15). -/
def State.releaseMigration (s : State) (cl : Nat) : State :=
  let m := (s.svc cl).mig
  if m.busy then s.modSvc cl fun v => { v with mig := { v.mig with error := true } }
  else if !m.locked then s
  else
    let s1 := (s.moveStalled m.page m.copy (pageSize m.size)).modSvc cl fun v => { v with mig := { v.mig with locked := false } }
    s1.performStalled.poolBack m

/-- `MIGRATION_RELEASE` (R378 step 4). -/
def execMigrationRelease (cluster : Nat) (s : State) : Res := .next (s.releaseMigration cluster)

/-! ### A page's world (R391) -/

/-- Whether a change of n pages from `base` is refused (R387, R391). -/
def State.worldRefused (s : State) (base n : Nat) (new old : BitVec 8) : Bool :=
  n == 0 || 16384 < n || new == 255 || old == 255 || new == old || (new != 0 && old != 0) ||
    (List.range n).any fun i => s.pageWorld (base + 65536 * i) != some old ||
      s.clusters.toList.any fun c => c.svc.mig.covers (base + 65536 * i) 65536

/-- The TLB entries of every cluster that translate to [k, k + n) invalidated. -/
def State.flushPage (s : State) (k n : Nat) : State :=
  let apart := fun (t : TlbEntry) => t.pte.getLsbD 58 || k + n ≤ leafKey t.pte t.size 0 || leafKey t.pte t.size 0 + 2 ^ t.size ≤ k
  { s with clusters := s.clusters.map fun (c : Cluster) => { c with tlb := c.tlb.filter apart } }

/-- A write of WCTL; with start the request joins the others in order of arrival (R387, R391). -/
def State.writeWctl (s : State) (cl : Nat) (x : Word) : State :=
  let v := s.svc cl
  if v.wresult.getLsbD 63 then s.modSvc cl fun v => { v with wresult := v.wresult ||| 0x4000000000000000 }
  else if !x.getLsbD 16 then s
  else { s.modSvc cl fun v => { v with wctl := x &&& 0x1FFFF, wresult := 0x8000000000000000 } with
    fleet := { s.fleet with worldq := s.fleet.worldq ++ [cl] } }

/-- The oldest request for a change of worlds answered. -/
def State.worldDone (s : State) (cl : Nat) (result : Word) : State :=
  { s.modSvc cl fun v => { v with wresult := result } with fleet := { s.fleet with worldq := s.fleet.worldq.drop 1 } }

/-- `WORLD_CHANGE` (R391): the request of a cluster's WCTL, once it is the oldest: refused as a whole or done page by page, once no operation holds a
    translation of the pages. -/
def execWorldChange (cluster : Nat) (value : Word) (s : State) : Res :=
  let v := s.svc cluster
  if !v.wresult.getLsbD 63 || v.wctl != value || s.fleet.worldq.head? != some cluster then .next s
  else
    let base := v.wpage.toNat
    let n := v.wcount.toNat
    let new := value.setWidth 8
    if s.worldRefused base n new (BitVec.ofNat 8 (value.toNat / 256)) then .next (s.worldDone cluster 0x4000000000000000)
    else if s.heldIn base (65536 * n) then .next (s.flushPage base (65536 * n))
    else
      let s1 := (List.range n).foldl (fun s i =>
        let s1 := s.setWorld (base / 65536 + i) new
        if new = 0 then s1.zeroRange (base + 65536 * i) 65536 else s1) (s.flushPage base (65536 * n))
      .next (s1.worldDone cluster (BitVec.ofNat 64 n))

/-! ### Revocation (R75, R356, R383) -/

/-- The operations of a context that a broadcast waits for (R75): copies and matrix operations under capabilities of the colours, and every access that has passed its
    checks and is still to be performed. -/
def State.colourOps (s : State) (ctx : Nat) (colours : BitVec 256) : List Nat :=
  let hit := fun (c : Cap) => colours.getLsbD c.colour.toNat
  (s.clusters.toList.flatMap fun c => ((c.ops.filter fun o => o.ctx == ctx && (hit o.src || hit o.dst || hit o.shapeCap)).map (·.id)) ++
    c.cores.toList.flatMap fun k => (k.mq.filter fun o => o.ctx == ctx && hit o.cap).map (·.id)) ++
  s.groups.flatMap fun p => if p.2.ctx = ctx then (p.2.hart.pend.filter fun q => !q.ready).map (·.id) else []

/-- Whether a drive has a command for a buffer, or a create a place for its handle, that a call of a context reached under a capability of the colours (R75): none is
    added under a revoked colour. -/
def State.colourCmds (s : State) (ctx : Nat) (colours : BitVec 256) : Bool :=
  let hit := fun (a : Option (Nat × BitVec 8)) => match a with | some (n, q) => n == ctx && colours.getLsbD q.toNat | none => false
  (s.io.cmds.any fun c => hit c.auth) || s.io.jobs.any fun j => hit (j.place.map (·.2))

/-- Whether an operation is still outstanding. -/
def State.outstanding (s : State) (id : Nat) : Bool :=
  (s.clusters.toList.any fun c => (c.ops.any fun o => o.id == id) || c.mxIds.contains id) || s.groups.any fun p => p.2.hart.pend.any fun q => q.id == id

/-- A revocation phase begun by the record at a physical address (R356): a broadcast sets the colours' bits at once. -/
def State.startRevoke (s : State) (cl at' : Nat) : State :=
  let w := s.readNat at' 8
  let ctx := bitsOf w 15 0
  let colours := BitVec.ofNat 256 (s.readNat (at' + 32) 32)
  let rel := w.testBit 16
  let phase : RevPhase := ⟨ctx, rel, colours, BitVec.ofNat 64 at', if rel then [] else s.colourOps ctx colours, s.nextId⟩
  let s1 := { s.modSvc cl fun v => { v with revs := v.revs ++ [phase] } with nextId := s.nextId + 1 }
  if rel then s1 else s1.setCtxMask ctx (s1.colourMask ctx ||| colours)

/-- A capability's tag cleared where its colour is in a set. -/
def Cap.strip (colours : BitVec 256) (c : Cap) : Cap := if colours.getLsbD c.colour.toNat then { c with tag := false } else c

/-- A load's write without the tag of a released colour. -/
def RegWrite.strip (colours : BitVec 256) : RegWrite → RegWrite
  | .c n x => .c n (x.strip colours)
  | .v n lo w x tag => .v n lo w x (tag && !colours.getLsbD (bitsOf x 99 92))
  | r => r

/-- A write that waits, without the tag of a released colour. -/
def Stall.strip (colours : BitVec 256) (w : Stall) : Stall :=
  { w with write := match w.write with | .cap c t => .cap c (t && !colours.getLsbD c.colour.toNat) | x => x }

/-- The tags of a record's granules without those of released colours. -/
def stripTags (colours : BitVec 256) (bytes : List Byte) (tags : List Bool) : List Bool :=
  tags.zipIdx.map fun t => t.1 && !colours.getLsbD (Cap.ofBytes ((bytes.drop (16 * t.2)).take 16) true).colour.toNat

/-- A record copied with its tags, stripped. -/
def stripRec (colours : BitVec 256) (r : List Byte × List Bool) : List Byte × List Bool := (r.1, stripTags colours r.1 r.2)

/-- The capabilities of a group's registers, tag shadows, snapshots, loads and writes under way and posted continuation stripped of released colours (R75
    step 3). -/
def Group.strip (colours : BitVec 256) (g : Group) : Group :=
  { g with
    hart := { g.hart with c := g.hart.c.map (Cap.strip colours), scode := g.hart.scode.strip colours,
                          pend := g.hart.pend.map fun p => { p with writes := p.writes.map (RegWrite.strip colours), stores := p.stores.map (Stall.strip colours) } },
    lcode := g.lcode.strip colours, priv := g.priv.strip colours, cont := g.cont.map (stripRec colours),
    life := (match g.life with | .parked (.recv d any tag c) => .parked (.recv d any tag (c.strip colours)) | l => l),
    lane := { g.lane with v := g.lane.v.map (VReg.cleanTags colours),
                          queue := g.lane.queue.map fun r => { r with snap := { r.snap with c := r.snap.c.map (Cap.strip colours) } } } }

/-- A tag cleared at a key, and in the copy of its page where a migration has locked it (R264, R383). -/
def State.dropTag (s : State) (k : Nat) : State :=
  s.clusters.toList.foldl (fun s c => let m := c.svc.mig; if m.covers k 1 then s.keySetTag (k - m.page + m.copy) false else s) (s.keySetTag k false)

/-- A trap record without the tag of a `c15` of a released colour. -/
def State.stripTrap (s : State) (colours : BitVec 256) (a : Nat) : State :=
  if (s.trapCap a).tag && colours.getLsbD (s.trapCap a).colour.toNat then s.dropTag (a + 0x30) else s

/-- A plane's record stripped. -/
def Plane.strip (colours : BitVec 256) (p : Plane) : Plane := { p with src := p.src.map fun r => { r with cap := r.cap.strip colours } }

/-- What the machine keeps of a saved team stripped. -/
def Saved.strip (colours : BitVec 256) (v : Saved) : Saved :=
  { v with team := { v.team with heir := v.team.heir.map (stripRec colours) }, groups := v.groups.map (Group.strip colours),
           mx := v.mx.map fun o => { o with cap := o.cap.strip colours }, planes := v.planes.map fun p => p.map fun r => { r with cap := r.cap.strip colours } }

/-- What the dispatcher, the engines, the planes, the trap records and the teams of a context keep of capabilities, stripped of released colours: no tag of them can
    be written again (R75). -/
def State.stripRecords (s : State) (ctx : Nat) (colours : BitVec 256) : State :=
  let t := stripTags colours
  let s := (s.groups.filter fun p => p.2.ctx == ctx).foldl (fun s p => s.stripTrap colours (s.trapRecord p.1)) s
  let pairs := (s.teams.filter fun p => p.2.ctx == ctx).filterMap fun p => p.2.pairHeld.map fun n => (p.2.cluster, n)
  let s := pairs.foldl (fun s p => [2 * p.2, 2 * p.2 + 1].foldl (fun s n => s.modCore p.1 n fun c =>
    { c with active := c.active.strip colours, shadow := c.shadow.strip colours }) s) s
  let s1 : State := { s with
    teams := s.teams.map fun p => if p.2.ctx = ctx then (p.1, { p.2 with heir := p.2.heir.map (stripRec colours) }) else p,
    clusters := s.clusters.map fun (c : Cluster) => { c with ops := c.ops.map fun o => if o.ctx = ctx then { o with gtags :=
      (o.gtags.zipIdx.map fun g => g.1 && !colours.getLsbD
        (Cap.ofBytes ((o.bytes.drop ((wholeGranules o.src.cursor.toNat o.len).1 + 16 * g.2)).take 16) true).colour.toNat) } else o },
    disp := { s.disp with
      grids := s.disp.grids.map fun p => if p.2.ctx = ctx then
        (p.1, { p.2 with ptags := t p.2.packet p.2.ptags, dtags := t p.2.desc p.2.dtags, args := p.2.args.map (stripRec colours),
                         net := p.2.net.map fun n => (n.1.strip colours, n.2) }) else p,
      posts := s.disp.posts.map fun p => if (s.queue p.1).ctx = ctx then (p.1, p.2.map fun x => { x with net := x.net.map fun n => (n.1.strip colours, n.2) }) else p,
      conts := s.disp.conts.map fun c => if c.ctx = ctx then { c with ptags := t c.packet c.ptags } else c,
      saved := s.disp.saved.map fun v => if v.team.ctx = ctx then v.strip colours else v } }
  s1.modCtx ctx fun c => { c with
    bins := c.bins.map fun b => { b with ptags := t b.packet b.ptags, dtags := t b.desc b.dtags, atags := t b.argWords b.atags } }

/-- `REVBCAST_COMPLETE` (R75, R356): the oldest phase of a cluster completes once what it waits for has ended and no earlier phase of its context is under
    way anywhere; a release clears the tags in registers, then the colours' bits. -/
def execRevbcastComplete (cluster : Nat) (s : State) : Res :=
  match (s.svc cluster).revs with
  | [] => .next s
  | p :: rest =>
    if (p.waits.any fun i => s.outstanding i) || (!p.release && s.colourCmds p.ctx p.colours) || (s.clusters.toList.any fun c => c.svc.revs.any fun q => q.ctx == p.ctx && q.id < p.id) then .next s
    else
      let s1 := s.modSvc cluster fun v => { v with revs := rest }
      let s2 := if !p.release then s1
        else (State.setCtxMask { s1.stripRecords p.ctx p.colours with groups := s1.groups.map fun q => if q.2.ctx = p.ctx then (q.1, q.2.strip p.colours) else q } p.ctx
          (s1.colourMask p.ctx &&& ~~~p.colours)).modCtx p.ctx fun c => { c with freed := c.freed.filter fun f => !p.colours.getLsbD f.2.2.toNat }
      .next (s2.event cluster 10 0 0 p.addr)

end Sys2Proof.Machine
end

