-- ==== Sys2Proof/Machine/Calls.lean ====
section
/-! DEFINITION. System calls: their convention, ranges and handles, and each call of R290 (R286 to R295, R360, R361, R362, R418 to R420). -/
namespace Sys2Proof.Machine
open Sys2Proof

/-! ### A call (R286, R291, R294) -/

/-- The calls of one trap that are served together (R291): their trap record, the call number, who called, the elements, the arguments, the captured `c15`; the
    resident team, or of a saved one where its scratchpad lay, its bytes there, and where the image has them and their tags (R294). -/
structure Call where
  at0     : Nat
  num     : Nat
  ctx     : Nat
  cluster : Nat
  team    : Option Nat
  pad     : Option (Nat × Nat × Nat × Nat)
  elems   : List Nat
  args    : List Word
  c15     : Cap
  deriving DecidableEq, Repr

/-- Argument i. -/
def Call.arg (c : Call) (i : Nat) : Nat := (c.args.getD i 0).toNat

/-- The element that stands for the service: the lowest. -/
def Call.first (c : Call) : Nat := c.elems.headD 0

/-- How a step of a call stops short: the call waits; it ends with an error code; a page has to be mapped at an address by first touch. -/
inductive CallStop where
  | wait
  | fail (error : Nat)
  | touch (va : Nat)
  deriving DecidableEq, Repr

/-- What comes of a step of a call. -/
abbrev CallRes (α : Type) := Except CallStop α

/-- The call ends with an error (R289). -/
def callErr {α : Type} (e : Nat) : CallRes α := .error (.fail e)
/-- The call waits. -/
def callWait {α : Type} : CallRes α := .error .wait
/-- The call ends with an error where a condition holds. -/
def callErrIf (b : Bool) (e : Nat) : CallRes Unit := if b then .error (.fail e) else .ok ()
/-- The call waits where a condition holds. -/
def callWaitIf (b : Bool) : CallRes Unit := if b then .error .wait else .ok ()

/-- How many arguments a call uses (R290). -/
def callUsed (num : Nat) : Nat :=
  match num with
  | 0x01 => 2 | 0x02 => 1 | 0x03 => 1 | 0x10 => 4 | 0x11 => 4 | 0x12 => 4 | 0x13 => 1 | 0x14 => 2 | 0x20 => 4 | 0x21 => 3 | 0x22 => 4 | 0x23 => 1
  | 0x30 => 1 | 0x31 => 2 | 0x33 => 1 | _ => 0

/-- The arguments of element k in a trap record (R355). -/
def State.trapArgs (s : State) (rec k : Nat) : List Word := (List.range 6).map fun i => BitVec.ofNat 64 (s.readNat (rec + 0x80 + 48 * k + 8 * i) 8)

/-- The elements of a record whose calls are not done. -/
def State.trapTodo (s : State) (rec : Nat) : List Nat := (List.range 32).filter fun i => (s.trapElems rec).testBit i && !(s.trapDone rec).testBit i

/-- Where the trap record of a saved team's group i lies in its image (R382). -/
def Saved.recordAt (v : Saved) (i : Nat) : Nat := physAddr v.image + (imageParts v.team.ways v.team.pair.isSome).2.2 + secStride * i + 0x3000

/-- Who made the calls of a record: a resident group, or a group of a saved team, whose record is in the image (R294, R382). -/
def State.caller (s : State) (rec : Nat) : Option (Nat × Nat × Option Nat × Option (Nat × Nat × Nat × Nat)) :=
  match s.groups.find? fun p => s.trapRecord p.1 == rec with
  | some (k, g) => some (g.ctx, slotCluster k, some g.team, none)
  | none =>
    (s.disp.saved.find? fun v => (List.range v.groups.length).any fun i =>
        v.recordAt i == rec).map fun v =>
      let t := v.team
      (t.ctx, t.cluster, none, some (wayKey t.cluster t.way0, t.ways * 0x8000, physAddr v.image + 0x1000,
        physAddr v.image + (imageParts t.ways t.pair.isSome).1))

/-- The service that element k of a record belongs to, if it is one of a call of this number that is not done, of a Live context: the elements whose
    arguments that the call uses are equal (R291). -/
def State.callAt (s : State) (rec k num : Nat) : Option Call :=
  match s.caller rec with
  | none => none
  | some (ctx, cl, team, pad) =>
    let w := s.readNat rec 8
    let todo := s.trapTodo rec
    if !w.testBit 16 || w % 256 != num || !todo.contains k || s.ctxState ctx != .live then none
    else
      let mine := (s.trapArgs rec k).take (callUsed num)
      some { at0 := rec, num := num, ctx := ctx, cluster := cl, team := team, pad := pad,
             elems := todo.filter fun i => (s.trapArgs rec i).take (callUsed num) == mine, args := s.trapArgs rec k,
             c15 := s.trapCap rec }

/-- The result and error code of a service recorded, and its elements done (R291, R355). -/
def State.callDone (s : State) (c : Call) (result : Word) (error : Nat) : State :=
  let s1 := c.elems.foldl (fun (s : State) i => s.recordPut c.at0 (0x680 + 16 * i) (leBytes 8 result.toNat ++ leBytes 8 error)) s
  s1.recordPut c.at0 0x18 (leBytes 16 (s1.trapDone c.at0 ||| (c.elems.map fun i => 2 ^ i).sum))

/-! ### Ranges (R287) -/

/-- The call as the maker of its accesses: in the caller's world, by no range lock (R292, R389). -/
def State.whoCall (s : State) (c : Call) : Who := s.whoCtx c.ctx c.cluster false

/-- The address at an offset of the call buffer. -/
def Call.at' (c : Call) (off : Nat) : Nat := (c.c15.cursor.toNat + off) % 2 ^ 64

/-- Where bytes of a saved team's scratchpad lie in its image, for a range of the window that lies within it (R294). -/
def Call.inImage (c : Call) (x n : Nat) : Option Nat :=
  match c.pad with
  | some (lo, len, img, _) => if c.c15.has Perm.window && lo ≤ Config.windowKey + x && Config.windowKey + x + n ≤ lo + len then some (Config.windowKey + x - lo + img) else none
  | none => none

/-- Whether an address lies in a context's first-touch range (R369, R376). -/
def State.firstTouch (s : State) (ctx x : Nat) : Bool := s.readNat (s.ctxWord ctx 0x20) 8 ≤ x && x < s.readNat (s.ctxWord ctx 0x28) 8

/-- A range of a call checked: where its bytes lie. A first-touch page that is missing is to be mapped first (R287, R376); a range waits while it lies in an
    accumulator in use (R28), one to be written while its page is being moved (R264), one to be read where an uncorrectable error has hit it (R409); a check that
    fails ends the call with 0x100 + its cause. -/
def State.callRange (s : State) (c : Call) (wr : Bool) (perms : List Nat) (off len align : Nat) : CallRes (List Seg) :=
  let x := c.at' off
  let w := s.whoCall c
  match c.inImage x len with
  | some k =>
    match capCause w c.c15 perms x len align with
    | some e => callErr (0x100 + e.toNat)
    | none => if wr && s.moving k len then callWait else .ok [⟨k, len⟩]
  | none =>
    match s.resolve w c.c15 perms (if wr then Need.write else Need.read) x len align with
    | .error (e, y) => if e = Cause.transInvalid && !c.c15.has Perm.window && y < 2 ^ 56 && s.firstTouch c.ctx y then .error (.touch y) else callErr (0x100 + e.toNat)
    | .ok (segs, _) => if s.segsBusy segs || (if wr then segs.any fun a => s.moving a.lo a.len else s.segsSpoilt segs) then callWait else .ok segs

/-- A range to be read. -/
def State.callRead (s : State) (c : Call) (off len : Nat) : CallRes (List Seg) := s.callRange c false [Perm.load] off len 1
/-- A range to be written. -/
def State.callWrite (s : State) (c : Call) (off len : Nat) : CallRes (List Seg) := s.callRange c true [Perm.store] off len 1

/-- The bit of an image's scratchpad tags for a byte of the image's scratchpad: byte and bit. -/
def Call.imageTag (c : Call) (k : Nat) : Option (Nat × Nat) :=
  match c.pad with
  | some (_, len, img, tags) => if img ≤ k ∧ k < img + len then some (tags + (k - img) / 128, (k - img) / 16 % 8) else none
  | none => none

/-- The tag of a granule, in an image that of its tag bits. -/
def State.callTag (s : State) (c : Call) (k : Nat) : Bool :=
  match c.imageTag k with | some (b, i) => (s.keyByte b).getLsbD i | none => s.keyTag k

/-- The tag of a granule set, in an image in its tag bits. -/
def State.callSetTag (s : State) (c : Call) (k : Nat) (t : Bool) : State :=
  match c.imageTag k with
  | some (b, i) =>
    let x := (s.keyByte b).toNat
    s.keyPut b (BitVec.ofNat 8 (if t then x ||| 2 ^ i else if x.testBit i then x - 2 ^ i else x))
  | none => s.keySetTag k t

/-- Bytes written over the ranges of a call, tags of their granules cleared. -/
def State.callPut (s : State) (c : Call) (segs : List Seg) (bs : List Byte) : State :=
  (segKeys segs).foldl (fun (s : State) k => if (c.imageTag k).isSome then s.callSetTag c k false else s) (s.writeSegs segs bs)

/-- The first n bytes of ranges. -/
def takeSegs : Nat → List Seg → List Seg
  | _, [] => []
  | n, a :: l => if n = 0 then [] else ⟨a.lo, min n a.len⟩ :: takeSegs (n - a.len) l

/-- The capability in a slot that a call reads (R287), its tag lost to a revoked colour (R74). -/
def State.readSlot (s : State) (c : Call) (off : Nat) : CallRes Cap := do
  let segs ← s.callRange c false [Perm.load, Perm.loadCap] off 16 16
  let k := (segs.headD ⟨0, 0⟩).lo
  let v := Cap.ofBytes (s.readKeys k 16) (s.callTag c k)
  return { v with tag := v.tag && !(s.colourMask c.ctx).getLsbD v.colour.toNat }

/-- The slot that a call writes a capability into, checked; one without global only in the team's scratchpad (R67, R134, R288). -/
def State.slotOut (s : State) (c : Call) (isGlobal : Bool) (off : Nat) : CallRes Nat := do
  let segs ← s.callRange c true [Perm.store, Perm.storeCap] off 16 16
  let k := (segs.headD ⟨0, 0⟩).lo
  callErrIf (!isGlobal && !(s.inTeamPad c.team k) && (c.imageTag k).isNone) (0x100 + Cause.capPerm.toNat)
  return k

/-- A capability written into a slot; one of a revoked colour, an unused one of a handle included, without its tag (R74, R75). -/
def State.putSlot (s : State) (c : Call) (k : Nat) (v : Cap) : State :=
  (s.putKeys k v.bytes).callSetTag c k (v.tag && !(s.colourMask c.ctx).getLsbD v.colour.toNat)

/-! ### Handles (R288) -/

/-- The object type of a file's handle. -/
abbrev otFile : BitVec 12 := 0xFF1
/-- The object type of a socket's handle. -/
abbrev otSock : BitVec 12 := 0xFF2

/-- A handle: owner and object number in the cursor; colour and bounds are not stated, and free among those that a tagged capability has (R64). -/
def mkHandle (free : Nat) (ot : BitVec 12) (owner obj : Nat) : Cap :=
  let x := Config.freeHandle free
  { perms := 0, otype := ot, colour := x.extractLsb' 28 8, e := BitVec.ofNat 6 ((x.extractLsb' 22 6).toNat % 53), bf := x.extractLsb' 11 11,
    lf := BitVec.ofNat 11 ((x.extractLsb' 0 11).toNat % 1025), cursor := BitVec.ofNat 64 (owner + 256 * obj), tag := true }

/-- The owner and number that a tagged handle of a type names; the rest of its cursor is ignored (R7). -/
def handleObj (ot : BitVec 12) (v : Cap) : Option (Nat × Nat) :=
  if v.tag && v.otype == ot then some (v.cursor.toNat % 256, bitsOf v.cursor.toNat 39 8) else none

/-- The open state of a context for an object. -/
def State.openOf (s : State) (ctx owner obj : Nat) : Option Open := s.io.opens.find? fun o => o.ctx == ctx && o.owner == owner && o.obj == obj
/-- A context's socket. -/
def State.sockOf (s : State) (ctx owner obj : Nat) : Option Sock := s.io.socks.find? fun o => o.ctx == ctx && o.owner == owner && o.obj == obj

/-- The open file that a slot's handle names, with its object; otherwise BAD_HANDLE. -/
def State.fileIn (s : State) (c : Call) (off : Nat) : CallRes (Open × Object) := do
  let v ← s.readSlot c off
  match (handleObj otFile v).bind fun p => s.openOf c.ctx p.1 p.2 with
  | some o =>
    match mapGet s.io.objects (o.owner + 256 * o.obj) with
    | some x => return (o, x)
    | none => callErr 3
  | none => callErr 3

/-- The socket that a slot's handle names; otherwise BAD_HANDLE. -/
def State.sockIn (s : State) (c : Call) (off : Nat) : CallRes Sock := do
  let v ← s.readSlot c off
  match (handleObj otSock v).bind fun p => s.sockOf c.ctx p.1 p.2 with
  | some o => return o
  | none => callErr 3

/-- The object that a slot's handle names, as calls are compared by what they name (R292): the type, the owner and the number. -/
def State.slotObject (s : State) (ot : BitVec 12) (c : Call) (off : Nat) : List Nat :=
  match s.readSlot c off with
  | .ok v => match handleObj ot v with | some p => [ot.toNat, p.1, p.2] | none => []
  | .error _ => []

/-! ### The frame of a call: its object, its shard, its order (R292, R293) -/

/-- Storage and network state changed. -/
def State.modIo (s : State) (f : Io → Io) : State := { s with io := f s.io }

/-- The object of a name that a shard's directory has (R361). -/
def State.named (s : State) (cl : Nat) (name : List Byte) : Option (Nat × Object) :=
  s.io.objects.find? fun p => p.2.name == name && !(mapGetD s.io.dirs p.1 []).contains cl

/-- What a call names (R292): an object by its handle or its name, a name that the shard does not have, a port; nothing. -/
def State.callObject (s : State) (c : Call) : List Nat :=
  match c.num with
  | 0x10 =>
    match s.callRange c false [Perm.load] (c.arg 0) (c.arg 1) 1 with
    | .ok segs =>
      let name := s.readSegs segs
      match s.named c.cluster name with | some p => [otFile.toNat, p.1 % 256, p.1 / 256] | none => 0x10 :: name.map (·.toNat)
    | .error _ => []
  | 0x11 | 0x12 | 0x13 | 0x14 => s.slotObject otFile c (c.arg 0)
  | 0x20 => [0x20, c.arg 0, c.arg 1]
  | 0x21 | 0x22 | 0x23 => s.slotObject otSock c (c.arg 0)
  | _ => []

/-- The shard that serves a call (R293): the owner of its object; shard 0 for a name that is not known, since it serialises creates (R361); the shard of a UDP port's
    queues (R362); else the local one. -/
def State.callOwner (s : State) (c : Call) : Nat :=
  match c.num, s.callObject c with
  | 0x10, 0x10 :: _ => 0
  | 0x20, _ => if c.arg 0 = 0 then c.arg 1 % 192 else c.cluster
  | _, [_, o, _] => if o < 192 then o else c.cluster
  | _, _ => c.cluster

/-- Whether a service under way is of a call. -/
def Job.of (j : Job) (c : Call) : Bool := j.at0 == c.at0 && j.k == c.first
/-- The service under way of a call. -/
def State.jobOf (s : State) (c : Call) : Option Job := s.io.jobs.find? fun j => j.of c
/-- The service under way of a call changed. -/
def State.modJob (s : State) (c : Call) (f : Job → Job) : State := s.modIo fun io => { io with jobs := io.jobs.map fun j => if j.of c then f j else j }
/-- The service under way of a call gone. -/
def State.dropJob (s : State) (c : Call) : State := s.modIo fun io => { io with jobs := io.jobs.filter fun j => !j.of c }

/-- Whether a service under way keeps others from its object: it has not ended, and its caller is still there (R292, R295). -/
def State.holds (s : State) (j : Job) : Bool :=
  (match j.stage with | .ended _ _ => false | _ => true) && (s.callAt j.at0 j.k j.num).isSome

/-- What a service names now: a name that no object had when it arrived stands for the object that has it since (R292). -/
def State.nowNamed (s : State) : List Nat → List Nat
  | 0x10 :: name =>
    match s.io.objects.find? fun p => p.2.name.map (·.toNat) == name with
    | some p => [otFile.toNat, p.1 % 256, p.1 / 256]
    | none => 0x10 :: name
  | obj => obj

/-- Whether a service on an object that arrived before a call is under way (R292). -/
def State.behind (s : State) (c : Call) (obj : List Nat) : Bool :=
  !obj.isEmpty && (s.io.jobs.takeWhile fun j => !j.of c).any fun j => s.nowNamed j.obj == s.nowNamed obj && s.holds j

/-- Whether a service of the same trap with a lower element names the same object and has not begun: it arrives first (R292). -/
def State.earlierCall (s : State) (c : Call) : Bool :=
  let obj := s.nowNamed (s.callObject c)
  !obj.isEmpty && (s.trapTodo c.at0).any fun i => i < c.first &&
    match s.callAt c.at0 i c.num with | some d => d.first == i && (s.jobOf d).isNone && s.nowNamed (s.callObject d) == obj | none => false

/-- A service ended at its owner: its result recorded, or kept for the reply to the shard that forwarded it (R293). -/
def State.callEnd (s : State) (c : Call) (result : Word) (error : Nat) : State :=
  match s.jobOf c with
  | some j => if j.owner = j.asker then (s.dropJob c).callDone c result error else s.modJob c fun j => { j with stage := .ended result error }
  | none => s.callDone c result error

/-- What comes of a service when its owner acts: its result; a wait, for data or for a name to be known, with the object that a create has made and the place of its
    handle; commands to drives, with the result that it has when they have completed and what they make of an object. -/
inductive CallEnd where
  | done (result : Word)
  | waits (made : Option ((Nat × Object) × Nat × Nat × BitVec 8))
  | busy (cmds : List NvmeCmd) (result : Word) (write : Option (Nat × Object))
  deriving DecidableEq, Repr

/-- A service begun: as it stands in the list of those under way. -/
def State.newJob (s : State) (c : Call) (owner : Nat) (stage : JobStage) : Job := ⟨c.at0, c.first, c.num, s.callObject c, owner, c.cluster, stage, 0, none, none⟩

/-- The service of a call in a stage, put into the list where it is not there yet. -/
def State.enterJob (s : State) (c : Call) (f : Job → Job) : State :=
  match s.jobOf c with
  | some _ => s.modJob c f
  | none => s.modIo fun io => { io with jobs := io.jobs ++ [f (s.newJob c c.cluster .sent)] }

/-- The time since which a stage waits: a wait goes on from where it began. -/
def JobStage.since (now : Nat) : JobStage → Nat
  | .waiting t => t
  | _ => now

/-- A service performed by its owner: ended, or under way (R292, R331). -/
def State.callRun (s : State) (c : Call) (body : State → Call → CallRes (State × CallEnd)) : State :=
  match body s c with
  | .ok (s1, .done r) => s1.callEnd c r 0
  | .ok (s1, .waits made) => s1.enterJob c fun j => { j with stage := .waiting (j.stage.since s.time), write := (made.map (·.1)).or j.write, place := (made.map (·.2)).or j.place }
  | .ok (s1, .busy cmds r w) =>
    (s1.enterJob c fun j => { j with stage := .busy cmds.length 0, result := r, write := w }).modIo fun io =>
      { io with cmds := io.cmds ++ cmds.map fun x => { x with auth := some (c.ctx, c.c15.colour) } }
  | .error (.fail e) => s.callEnd c 0 e
  | .error (.touch va) => match s.touchPage c.ctx (clusterDie c.cluster) va with | some s1 => s1 | none => s.callEnd c 0 (0x100 + Cause.transInvalid.toNat)
  | .error .wait => s

/-- A call of a number, made by the event of element k of a record: nothing where there is no such call, where another shard serves it and it has not been forwarded,
    or where it waits, its trap record being moved too (R264); else what its service comes to (R289, R292, R293, R419). -/
def State.callOp (s : State) (rec : Word) (k num : Nat) (body : State → Call → CallRes (State × CallEnd)) : Res :=
  match s.callAt rec.toNat k num with
  | none => .next s
  | some c =>
    if s.moving c.at0 0x1000 then .next s
    else match s.jobOf c with
    | some j =>
      (match j.stage with
        | .busy _ _ | .ended _ _ => .next s
        | _ => .next (if s.behind c j.obj then s else s.callRun c body))
    | none => .next (if s.callOwner c != c.cluster || s.earlierCall c || s.behind c (s.callObject c) then s else s.callRun c body)

/-- A call that ends where it acts. -/
def State.callNow (s : State) (rec : Word) (k num : Nat) (body : State → Call → CallRes (State × Word)) : Res :=
  s.callOp rec k num fun s c => (body s c).map fun r => (r.1, .done r.2)

/-! ### Memory (R420) -/

/-- Whether every byte of a virtual range is mapped for reading and writing, in HBM4 of a die. -/
def State.mappedOn (s : State) (c : Call) (base len die : Nat) : Option (List Seg) :=
  match s.locateAll (s.whoCall c) { Cap.null with tag := true } [2, 3] (pieces 0x8000 (len / 0x8000 + 2) base len) [] [] with
  | .ok (segs, _) =>
    if segs.all fun a => a.lo < 8 * Config.hbmStride && (match deviceOf a.lo with | some d => d.die == die | none => false) then some segs else none
  | .error _ => none

/-- The pages of a region mapped for a context, as far as they are not, from a list of pages (R420). -/
def State.mapRegion (s : State) (ctx base len : Nat) (pool : List Word) : Option State :=
  match s.ctx ctx with
  | none => none
  | some c =>
    ((List.range ((base + len + 65535) / 65536 - base / 65536)).foldl (fun (r : Option (State × List Word)) i =>
      r.bind fun p => p.1.mapPage ((base / 65536 + i) * 65536) leafData ptLevels (physAddr c.ptbase) p.2) (some (s, pool))).map fun p =>
      p.1.givePages ctx (pool.take (pool.length - p.2.length))

/-- Whether a range meets an allocation of a context, or one it has freed whose colour is not yet revoked (R420). -/
def Ctx.overlaps (x : Ctx) (base len : Nat) : Bool :=
  (x.allocs.any fun a => base < a.1.toNat + a.2 && a.1.toNat < base + len) || x.freed.any fun a => base < a.1.toNat + a.2.1 && a.1.toNat < base + len

/-- `mem.alloc` (R290, R420). Where the kernel puts the region, and which pages of the die it takes for it, is the event's `region`; whether its quota and the die's
    memory admit it `quotaOk`. -/
def execMemAlloc (rec : Word) (k : Nat) (region : Word × List Word) (quotaOk : Bool) (s : State) : Res :=
  let (base, pages) := region
  s.callNow rec k 0x01 fun s c => do
    callErrIf (c.arg 0 == 0 || 2 ^ 40 < c.arg 0) 2
    let slot ← s.slotOut c true (c.arg 1)
    callErrIf (!quotaOk) 4
    let len := exactLen (c.arg 0)
    let die := clusterDie c.cluster
    match s.ctx c.ctx, s.mapRegion c.ctx base.toNat len pages with
    | some x, some s0 =>
      match s0.mappedOn c base.toNat len die with
      | some segs =>
        if exactAlign base.toNat (c.arg 0) ≠ base.toNat ∨ x.overlaps base.toNat len ∨ !s.pagesFree c.ctx die pages ∨ segs.any (fun a => s.moving a.lo a.len) then callWait
        else
          let s1 := segs.foldl (fun (s : State) a => s.zeroRange a.lo a.len) s0
          let s2 := s1.modCtx c.ctx fun x => { x with allocs := x.allocs ++ [(base, len)] }
          return (s2.putSlot c slot (mkCap 0x4373 c.c15.colour base.toNat len base), base)
      | none => callWait
    | _, _ => callWait

/-- `mem.free` (R290, R420): the range stays mapped, and is not given out again before its colour is revoked. -/
def execMemFree (rec : Word) (k : Nat) (s : State) : Res :=
  s.callNow rec k 0x02 fun s c => do
    let v ← s.readSlot c (c.arg 0)
    match (s.ctx c.ctx).bind fun x => x.allocs.find? fun a => v.tag && v.otype == 0 && a.1.toNat == v.base with
    | none => callErr 2
    | some a => return (s.modCtx c.ctx fun x => { x with allocs := x.allocs.filter (· != a), freed := x.freed ++ [(a.1, a.2, v.colour)] }, 0)

/-- `pool.grow` (R290, R420): the pool of the caller's die grows by pages of it, which the event grants, or does not. -/
def execPoolGrow (rec : Word) (k : Nat) (grant : Option (List Word)) (s : State) : Res :=
  s.callNow rec k 0x03 fun s c => do
    callErrIf (c.arg 0 % 0x10000 != 0 || 2 ^ 40 < c.arg 0) 2
    callErrIf grant.isNone 4
    let pages := grant.getD []
    let d := clusterDie c.cluster
    callWaitIf (pages.length != c.arg 0 / 0x10000 || !s.pagesFree c.ctx d pages)
    let n := (match s.ctx c.ctx with | some x => vgetD x.pools d 0 | none => 0) + c.arg 0
    return (s.modCtx c.ctx fun x => { x with pools := vset x.pools d n, pages := vmod x.pages d (· ++ pages) }, BitVec.ofNat 64 n)

/-! ### Files (R360, R361, R418) -/

/-- UTC in ns (R290). -/
def State.utc (s : State) : Word := BitVec.ofNat 64 (Config.utcAtReset s.boot.resets + s.time / nsTime 1)

/-- Open objects of a context: files and sockets. -/
def State.openCount (s : State) (ctx : Nat) : Nat := (s.io.opens.filter fun o => o.ctx == ctx).length + (s.io.socks.filter fun o => o.ctx == ctx).length

/-- An open state joined (R418). -/
def Io.join (io : Io) (ctx owner obj : Nat) (rd wr : Bool) : Io :=
  if io.opens.any fun o => o.ctx == ctx && o.owner == owner && o.obj == obj then
    { io with opens := io.opens.map fun o => if o.ctx = ctx ∧ o.owner = owner ∧ o.obj = obj then { o with read := o.read || rd, write := o.write || wr } else o }
  else { io with opens := io.opens ++ [⟨ctx, owner, obj, rd, wr⟩] }

/-- The supported namespace of a number, 16 × port + its number there: LBA data size and blocks (R360). -/
def supported (ns : Nat) : Option (Nat × Nat) :=
  if 128 ≤ ns then none
  else match Config.namespaces (ns / 16) (ns % 16) with
    | some (size, blocks) => if size = 512 ∨ size = 4096 then some (size, blocks) else none
    | none => none

/-- What is common to two intervals, first and length. -/
def meet (a n b m : Nat) : Nat × Nat := (max a b, min (a + n) (b + m) - max a b)

/-- The parts of [off, off + len) of an object that stand in its extents: the extent, the first byte and the length. -/
def extentParts (l : List Extent) (off len : Nat) : List (Extent × Nat × Nat) :=
  (l.map fun e => (e, meet off len e.off e.len)).filter fun p => p.2.2 != 0

/-- The parts of [off, off + len) that stand in none of some ranges. -/
def gapParts (l : List (Nat × Nat)) (off len : Nat) : List (Nat × Nat) :=
  (l.foldl (fun gs e => gs.flatMap fun g =>
    [(g.1, (meet g.1 g.2 0 e.1).2), (max g.1 (e.1 + e.2), (meet g.1 g.2 (e.1 + e.2) (g.1 + g.2)).2)]) [(off, len)]).filter fun g => g.2 != 0

/-- The ranges of an object that extents hold. -/
def extentSpans (l : List Extent) : List (Nat × Nat) := l.map fun e => (e.off, e.len)

/-- The parts of [off, off + len) of an object that stand in its extents and have been written (R361). -/
def Object.writtenParts (x : Object) (off len : Nat) : List (Extent × Nat × Nat) :=
  x.written.flatMap fun w => let m := meet off len w.1 w.2; extentParts x.extents m.1 m.2

/-- Whether extents may be added to an object (R361): whole units of 64 KiB, at most 64 MiB, of a supported namespace, apart from every extent there is; with them the
    object has at most 4,096. -/
def Io.extentsOk (io : Io) (x : Object) (new : List Extent) : Bool :=
  let apart := fun (a b : Extent) => a.ns != b.ns || (meet a.start a.len b.start b.len).2 == 0
  let one := fun (e : Extent) =>
    e.start % 0x10000 == 0 && e.off % 0x10000 == 0 && e.len % 0x10000 == 0 && e.len != 0 && e.len ≤ 0x4000000 &&
      (match supported e.ns with | some (size, blocks) => e.start + e.len ≤ size * blocks | none => false) &&
      (io.objects.all fun p => p.2.extents.all fun d => apart d e) && (extentParts x.extents e.off e.len).isEmpty
  x.extents.length + new.length ≤ 4096 && new.all one && new.zipIdx.all fun p => (new.drop (p.2 + 1)).all fun d => apart p.1 d && (meet p.1.off p.1.len d.off d.len).2 == 0

/-- A command on bytes [lo, lo + n) of an object that stand in an extent: the blocks that they lie in (R360). -/
def nvmeCmd (shard : Nat) (op : NvmeOp) (e : Extent) (lo n : Nat) (bytes : List Byte) (segs : List Seg) (job : Option (Nat × Nat)) : NvmeCmd :=
  let size := match supported e.ns with | some p => p.1 | none => 512
  let a := e.start + (lo - e.off)
  ⟨e.ns / 16, shard, op, e.ns, a / size, ceilDiv (a + n) size - a / size, bytes, segs, job, none⟩

/-- Whether the queues of a shard have room for commands: 256 at each port (R360); of a service with more than 256 there for the first 256, the later ones going in
    as the earlier complete (log entry 18). -/
def Io.queueRoom (io : Io) (shard : Nat) (new : List NvmeCmd) : Bool :=
  (List.range 8).all fun p => (io.cmds.countP fun c => c.port == p && c.shard == shard) + min 256 (new.countP fun c => c.port == p) ≤ 256

/-- Bytes [lo, lo + n) of what ranges hold. -/
def dropSegs : Nat → List Seg → List Seg
  | _, [] => []
  | n, a :: l => if n < a.len then ⟨a.lo + n, a.len - n⟩ :: l else dropSegs (n - a.len) l

/-- An open completed (R418): the state joined, the handle written, the object's length. -/
def State.openDone (s : State) (c : Call) (slot key : Nat) : State × CallEnd :=
  let fl := c.arg 2
  let n := match mapGet s.io.objects key with | some x => x.bytes.length | none => 0
  let s1 := s.modIo fun io => io.join c.ctx (key % 256) (key / 256) (fl.testBit 0) (fl.testBit 1)
  ({ s1.putSlot c slot (mkHandle s.free otFile (key % 256) (key / 256)) with free := s.free + 1 }, .done (BitVec.ofNat 64 n))

/-- The commands that give back the extents of an object, which nothing waits for. DESIGN CHOICE of the commands (log entry 18). -/
def Object.backCmds (x : Object) (shard : Nat) : List NvmeCmd :=
  (x.extents.map fun e => nvmeCmd shard .deallocate e e.off e.len [] [] none) ++
    (x.extents.map (·.ns)).eraseDups.map fun ns => ⟨ns / 16, shard, .flush, ns, 0, 0, [], [], none, none⟩

/-- An object emptied (R418): its extents are given back. -/
def State.truncate (s : State) (shard key : Nat) (x : Object) : State :=
  s.modIo fun io => { io with objects := mapSet io.objects key { x with bytes := [], time := s.utc, extents := [], written := [] }, cmds := io.cmds ++ x.backCmds shard }

/-- `file.open` (R290, R361, R418). The number of a new object is the event's `obj`; whether the store has room for it, or denies the open, its `answer`. A create makes the object and waits until every
    shard has acknowledged its name; its checks are not made again then (R287, R419). -/
def execFileOpen (rec : Word) (k obj : Nat) (answer : StoreAnswer) (s : State) : Res :=
  s.callOp rec k 0x10 fun s c => do
    let fl := c.arg 2
    match (s.jobOf c).bind fun j => j.write.bind fun w => j.place.map fun p => (w.1, p.1) with
    | some (i, slot) => if (s.io.naming.any fun n => n.obj == i) || s.moving slot 16 then callWait else return s.openDone c slot i
    | none =>
    callErrIf (c.arg 1 == 0 || 255 < c.arg 1 || 32 ≤ fl || (fl.testBit 3 && !fl.testBit 1) || (fl.testBit 4 && !fl.testBit 2)) 2
    let name ← s.callRead c (c.arg 0) (c.arg 1)
    let slot ← s.slotOut c false (c.arg 3)
    let bs := s.readSegs name
    match s.io.objects.find? fun p => p.2.name == bs with
    | some (i, x) =>
      callWaitIf (s.io.naming.any fun n => n.obj == i)
      callErrIf ((s.openOf c.ctx (i % 256) (i / 256)).isNone && 4096 ≤ s.openCount c.ctx) 10
      callErrIf (fl.testBit 4) 6
      callErrIf (answer == .denied) 7
      callWaitIf (fl.testBit 3 && !s.io.queueRoom (s.callOwner c) (x.backCmds (s.callOwner c)))
      return (if fl.testBit 3 then s.truncate (s.callOwner c) i x else s).openDone c slot i
    | none =>
      callErrIf (4096 ≤ s.openCount c.ctx) 10
      callErrIf (!fl.testBit 2) 5
      callErrIf (answer == .denied) 7
      callErrIf (answer == .full) 4
      let i := c.cluster + 256 * obj
      callWaitIf (s.io.naming.isSome || 2 ^ 32 ≤ obj || (mapGet s.io.objects i).isSome)
      let x : Object := ⟨bs, c.cluster, [], s.utc, [], []⟩
      let others := (List.range Config.nClusters).drop 1
      return (s.modIo fun io => { io with objects := mapSet io.objects i x, dirs := mapSet io.dirs i others,
                                          naming := some ⟨c.at0, c.first, i, others, []⟩ }, .waits (some ((i, x), slot, c.ctx, c.c15.colour)))

/-- Whether a shard is the one that serves a call now (R293): that to which it was forwarded, or the local one. -/
def State.servedBy (s : State) (c : Call) (shard : Nat) : Bool := (match s.jobOf c with | some j => j.owner | none => c.cluster) == shard

/-- `file.read` (R290, R361), by a shard: what was never written reads as zero without a command; the drives write the rest to its place. -/
def execFileRead (rec : Word) (k shard : Nat) (s : State) : Res :=
  s.callOp rec k 0x11 fun s c => do
    callWaitIf (!s.servedBy c shard)
    callErrIf (2 ^ 24 < c.arg 2) 2
    let (o, x) ← s.fileIn c (c.arg 0)
    callErrIf (!o.read) 7
    let dst ← s.callWrite c (c.arg 3) (c.arg 2)
    let off := c.arg 1
    let n := min (c.arg 2) (x.bytes.length - off)
    let at' := fun (lo m : Nat) => takeSegs m (dropSegs (lo - off) dst)
    let cmds := (x.writtenParts off n).map fun p =>
      nvmeCmd o.owner .read p.1 p.2.1 p.2.2 ((x.bytes.drop p.2.1).take p.2.2) (at' p.2.1 p.2.2) (some (c.at0, c.first))
    callWaitIf (!s.io.queueRoom o.owner cmds)
    let s1 := (gapParts x.written off n).foldl (fun (s : State) g => s.callPut c (at' g.1 g.2) (List.replicate g.2 0)) s
    return (s1, if cmds.isEmpty then .done (BitVec.ofNat 64 n) else .busy cmds (BitVec.ofNat 64 n) none)

/-- Bytes written at an offset of an object; a gap reads as zero. -/
def spliceBytes (old : List Byte) (off : Nat) (new : List Byte) : List Byte :=
  if new.isEmpty then old else (old ++ List.replicate (off - old.length) 0).take off ++ new ++ old.drop (off + new.length)

/-- `file.write` (R290, R361). Which extents the store allocates for it is the event's `extents`, whether it has room `roomOk`: new extents are made zero, and the
    bytes written with force unit access, before the call completes. An object holds 4,096 extents of 64 MiB. -/
def execFileWrite (rec : Word) (k : Nat) (extents : List Extent) (roomOk : Bool) (s : State) : Res :=
  s.callOp rec k 0x12 fun s c => do
    callErrIf (2 ^ 24 < c.arg 2) 2
    let (o, x) ← s.fileIn c (c.arg 0)
    callErrIf (!o.write) 7
    let src ← s.callRead c (c.arg 3) (c.arg 2)
    let off := c.arg 1
    let len := c.arg 2
    callErrIf (!roomOk || (len != 0 && 2 ^ 38 < off + len)) 4
    let all := x.extents ++ extents
    let bs := s.readSegs src
    let job := some (c.at0, c.first)
    let cmds := (extents.map fun e => nvmeCmd o.owner .writeZeroes e e.off e.len [] [] job) ++
      (extentParts all off len).map fun p => nvmeCmd o.owner .writeFua p.1 p.2.1 p.2.2 ((bs.drop (p.2.1 - off)).take p.2.2) [] job
    callWaitIf (!s.io.extentsOk x extents || !(gapParts (extentSpans all) off len).isEmpty || !s.io.queueRoom o.owner cmds)
    let i := o.owner + 256 * o.obj
    let y := { x with bytes := spliceBytes x.bytes off bs, time := s.utc, extents := all, written := x.written ++ gapParts x.written off len }
    if cmds.isEmpty then return (s.modIo fun io => { io with objects := mapSet io.objects i y }, .done (BitVec.ofNat 64 len))
    else return (s, .busy cmds (BitVec.ofNat 64 len) (some (i, y)))

/-- `file.close` (R290, R418). -/
def execFileClose (rec : Word) (k : Nat) (s : State) : Res :=
  s.callNow rec k 0x13 fun s c => do
    let (o, _) ← s.fileIn c (c.arg 0)
    return (s.modIo fun io => { io with opens := io.opens.filter (· != o) }, 0)

/-- `file.stat` (R290), by a shard. -/
def execFileStat (rec : Word) (k shard : Nat) (s : State) : Res :=
  s.callNow rec k 0x14 fun s c => do
    callWaitIf (!s.servedBy c shard)
    let (o, x) ← s.fileIn c (c.arg 0)
    let dst ← s.callWrite c (c.arg 1) 32
    return (s.callPut c dst (leBytes 8 x.bytes.length ++ leBytes 8 x.time.toNat ++ leBytes 8 x.extents.length ++ leBytes 8 (bitNat o.read + 2 * bitNat o.write)), 0)

/-- The segments of a command written with what it has read, in an image with its tags (R294, R361). -/
def State.cmdPut (s : State) (c : Option Call) (cmd : NvmeCmd) : State :=
  match c with
  | some c => s.callPut c cmd.segs cmd.bytes
  | none => s.writeSegs cmd.segs cmd.bytes

/-- A command of a service completed (R361): with the last one the service ends, its write done, or, where one has failed, with IO_ERROR and nothing changed. -/
def State.cmdEnd (s : State) (c : Call) (ok : Bool) : State :=
  match s.jobOf c with
  | none => s
  | some j =>
    match j.stage with
    | .busy left e =>
      let e1 := if ok then e else 8
      if 1 < left then s.modJob c fun j => { j with stage := .busy (left - 1) e1 }
      else if e1 ≠ 0 then s.callEnd c 0 e1
      else
        let s1 := match j.write with | some (i, y) => s.modIo fun io => { io with objects := mapSet io.objects i { y with time := s.utc } } | none => s
        s1.callEnd c j.result 0
    | _ => s

/-- The oldest command that a shard has at a port completed (R360, R361). -/
def State.nvmeDone (s : State) (cmd : NvmeCmd) (rest : List NvmeCmd) (ok : Bool) : State :=
  let c := cmd.job.bind fun j => (s.io.jobs.find? fun x => x.at0 == j.1 && x.k == j.2).bind fun x => s.callAt x.at0 x.k x.num
  let s1 := s.modIo fun io => { io with cmds := rest }
  let s2 := if ok && cmd.op == .read && (cmd.job.isNone || c.isSome) then s1.cmdPut c cmd else s1
  match c with | some c => s2.cmdEnd c ok | none => s2

/-! ### Sockets (R290, R362) -/

/-- `sock.open` (R290, R293, R362): a UDP port is its shard's, a reliable connection the opener's. `accepted`: the connection is not refused. -/
def execSockOpen (rec : Word) (k obj : Nat) (accepted : Bool) (s : State) : Res :=
  s.callNow rec k 0x20 fun s c => do
    callErrIf (1 < c.arg 0 || 0xFFFF < c.arg 1) 2
    let src ← s.callRead c (c.arg 2) 32
    let slot ← s.slotOut c false (c.arg 3)
    callErrIf (4096 ≤ s.openCount c.ctx) 10
    callErrIf (s.io.socks.any fun o => o.roce == (c.arg 0 == 1) && o.port == c.arg 1) 6
    callErrIf (c.arg 0 == 1 && !accepted) 11
    let owner := s.callOwner c
    callWaitIf (2 ^ 32 ≤ obj || s.io.socks.any fun o => o.owner == owner && o.obj == obj)
    let o : Sock := ⟨c.ctx, owner, obj, c.arg 0 == 1, c.arg 1, (s.readSegs src).take 18, [], [], false, 0⟩
    let s1 := s.modIo fun io => { io with socks := io.socks ++ [o] }
    return ({ s1.putSlot c slot (mkHandle s.free otSock owner obj) with free := s.free + 1 }, BitVec.ofNat 64 (c.arg 1))

/-- A socket replaced. -/
def Io.setSock (io : Io) (o : Sock) : Io :=
  { io with socks := io.socks.map fun x => if x.ctx = o.ctx ∧ x.owner = o.owner ∧ x.obj = o.obj then o else x }

/-- `sock.send` (R290): the bytes go to the port, or the transfer fails, or the far end is gone. -/
def execSockSend (rec : Word) (k : Nat) (ioOk : Bool) (s : State) : Res :=
  s.callNow rec k 0x21 fun s c => do
    callErrIf (2 ^ 24 < c.arg 2) 2
    let o ← s.sockIn c (c.arg 0)
    callErrIf (!o.roce && 8972 < c.arg 2) 2
    let src ← s.callRead c (c.arg 1) (c.arg 2)
    callErrIf (!ioOk) 8
    callErrIf o.gone 11
    return (s.modIo fun io => io.setSock { o with tx := o.tx ++ [s.readSegs src] }, BitVec.ofNat 64 (c.arg 2))

/-- What a receive of n bytes takes, and what is left: the rest of a datagram is lost, the rest of a stream stays. -/
def Sock.take (o : Sock) (n : Nat) : Option (List Byte × Sock) :=
  match o.rx with
  | [] => none
  | d :: rest => some (d.take n, { o with rx := if o.roce && n < d.length then d.drop n :: rest else rest })

/-- `sock.recv` (R290, R419): data there is taken; with none, AGAIN with no timeout, GONE where the far end is gone, else it waits. -/
def execSockRecv (rec : Word) (k : Nat) (s : State) : Res :=
  s.callOp rec k 0x22 fun s c => do
    let o ← s.sockIn c (c.arg 0)
    let dst ← s.callWrite c (c.arg 1) (c.arg 2)
    match o.take (c.arg 2) with
    | some (bs, o1) => return ((s.callPut c (takeSegs bs.length dst) bs).modIo fun io => io.setSock o1, .done (BitVec.ofNat 64 bs.length))
    | none =>
      callErrIf (c.arg 3 == 0) 9
      callErrIf o.gone 11
      return (s, .waits none)

/-- `SOCK_RECV_TIMEOUT` (R290): a receive that has waited its timeout and has nothing returns AGAIN. -/
def execSockRecvTimeout (rec : Word) (k : Nat) (s : State) : Res :=
  match s.callAt rec.toNat k 0x22 with
  | none => .next s
  | some c =>
    match (s.jobOf c).map Job.stage, s.sockIn c (c.arg 0) with
    | some (.waiting t), .ok o => .next (if o.rx.isEmpty && t + usTime (c.arg 3) ≤ s.time && !s.moving c.at0 0x1000 then s.callEnd c 0 9 else s)
    | _, _ => .next s

/-- `sock.close` (R290). -/
def execSockClose (rec : Word) (k : Nat) (s : State) : Res :=
  s.callNow rec k 0x23 fun s c => do
    let o ← s.sockIn c (c.arg 0)
    return (s.modIo fun io => { io with socks := io.socks.filter fun x => !(x.ctx == o.ctx && x.owner == o.owner && x.obj == o.obj) }, 0)

/-! ### Time, log, yield, end (R290) -/

/-- `time.now` (R290). -/
def execTimeNow (rec : Word) (k : Nat) (s : State) : Res :=
  s.callNow rec k 0x30 fun s c => do
    callErrIf (1 < c.arg 0) 2
    return (s, if c.arg 0 = 0 then s.utc else BitVec.ofNat 64 (s.time / nsTime 1))

/-- `log.write` (R290). -/
def execLogWrite (rec : Word) (k : Nat) (s : State) : Res :=
  s.callNow rec k 0x31 fun s c => do
    callErrIf (c.arg 1 == 0 || 4096 < c.arg 1) 2
    let src ← s.callRead c (c.arg 0) (c.arg 1)
    return (s.modCtx c.ctx fun x => { x with log := x.log ++ [s.readSegs src] }, 0)

/-- Everything that waits for a place: at the queues, at the Baskets, saved by the dispatcher, and asked back by the shard of a cluster. -/
def State.allWaiting (s : State) (cl : Nat) : List Waiting :=
  ((s.disp.heads.map fun h => Asker.queue h.1) ++ ((List.range (s.cluster cl).basket.ready.length).map fun i => Asker.bin cl i) ++
    (List.range s.disp.saved.length).map Asker.saved).filterMap s.waiting ++
  (s.svc cl).restores.map fun image =>
    let head : Rec := ⟨s.readKeys (physAddr image) 0x20, []⟩
    waitingImage image (bitsOf (head.nat 8 8) 15 0) (bitsOf (head.nat 0x18 8) 41 40) s.time s [cl]

/-- Whether a team of equal or higher priority waits for a team's cluster (R290): one that would fit there without the team and fits nowhere now. -/
def State.waitedFor (s : State) (id : Nat) (t : Team) : Bool :=
  (s.allWaiting t.cluster).any fun w => w.prio ≤ t.prio && s.placeable w.ctx && !(w.clusters.any fun cl => w.fitsNow s cl) && s.fitsWithout w id t

/-- `grid.yield` (R290): the call completes, and the team's save is requested where another waits for its cluster. -/
def execGridYield (rec : Word) (k : Nat) (s : State) : Res :=
  s.callNow rec k 0x32 fun s c =>
    match c.team.bind fun id => (s.team id).map fun t => (id, t) with
    | some (id, t) =>
      if t.save.isNone && s.waitedFor id t then .ok (s.askSave id (s.svc t.cluster).ssavedst false, 1) else .ok (s, 0)
    | none => .ok (s, 0)

/-- `ctx.exit` (R290): every group of the context ends; the call never returns. -/
def execCtxExit (rec : Word) (k : Nat) (s : State) : Res :=
  match s.callAt rec.toNat k 0x33 with
  | none => .next s
  | some c => .next ((s.modCtx c.ctx fun x => { x with exitCode := some (c.args.getD 0 0) }).endContext c.ctx)

end Sys2Proof.Machine
end

