-- ==== Sys2Proof/Machine/CapOps.lean ====
section
/-! DEFINITION. Deriving and inspecting capabilities (R68, R74, R139 to R141). -/
namespace Sys2Proof.Machine
open Sys2Proof

/-- The cause that keeps the current thread from deriving from capabilities, in the order of R70: a revoked colour (R74), or the system
    permission in a group (R67). -/
def deriveCause (w : Who) (cs : List Cap) : Option (BitVec 8) :=
  if cs.any fun c => c.tag && w.mask.getLsbD c.colour.toNat then some Cause.capRevoked
  else if cs.any fun c => c.tag && !w.svc && c.has Perm.system then some Cause.capPerm
  else none

/-- A derivation into c[d] from sources c[srcs] (R139): a source that may not be used faults before any effect. -/
def State.derive (s : State) (d : BitVec 5) (srcs : List (BitVec 5)) (xs : List (BitVec 6)) (f : State → Cap) : Res :=
  s.scalarOp xs (d :: srcs) fun s =>
    match deriveCause s.who (srcs.map s.c) with
    | some e => .next (s.raiseHere e)
    | none => .next (s.setC d (f s)).advance

/-- Whether a source is tagged and unsealed (`ok` of R139). -/
def Cap.plain (c : Cap) : Bool := c.tag && c.otype == 0

/-- `cbound` (R139). -/
def execCbound (d a : BitVec 5) (b : BitVec 6) (s : State) : Res :=
  s.derive d [a] [b] fun s => let r := (s.c a).setBounds (s.c a).cursor.toNat (s.x b).toNat; { r.1 with tag := (s.c a).plain && r.2.1 }
/-- `cbound.exact` (R139). -/
def execCboundExact (d a : BitVec 5) (b : BitVec 6) (s : State) : Res :=
  s.derive d [a] [b] fun s => let r := (s.c a).setBounds (s.c a).cursor.toNat (s.x b).toNat; { r.1 with tag := (s.c a).plain && r.2.1 && r.2.2 }
/-- `cperm` (R139). -/
def execCperm (d a : BitVec 5) (b : BitVec 6) (s : State) : Res :=
  s.derive d [a] [b] fun s => { s.c a with perms := (s.c a).perms &&& (s.x b).setWidth 16, tag := (s.c a).plain }
/-- `cinc` (R139). -/
def execCinc (d a : BitVec 5) (b : BitVec 6) (s : State) : Res := s.derive d [a] [b] fun s => (s.c a).setCursor ((s.c a).cursor + s.x b)
/-- `cinci` (R139). -/
def execCinci (d a : BitVec 5) (imm : BitVec 14) (s : State) : Res :=
  s.derive d [a] [] fun s => (s.c a).setCursor ((s.c a).cursor + imm.signExtend 64)
/-- `cset` (R139). -/
def execCset (d a : BitVec 5) (b : BitVec 6) (s : State) : Res := s.derive d [a] [b] fun s => (s.c a).setCursor (s.x b)

/-- Whether an authority may seal or unseal with the object type at its cursor, but for what the form itself asks of the type (R68). -/
def Cap.authority (c : Cap) (perm : Nat) : Bool := c.plain && c.has perm && c.covers c.cursor.toNat 1

/-- `cseal` (R68, R139). -/
def execCseal (d a b : BitVec 5) (s : State) : Res :=
  s.derive d [a, b] [] fun s =>
    let t := (s.c b).cursor
    { s.c a with otype := t.setWidth 12, tag := (s.c a).plain && (s.c b).authority Perm.seal && t != 0 && t.toNat ≤ 4095 }
/-- `cunseal` (R68, R139). -/
def execCunseal (d a b : BitVec 5) (s : State) : Res :=
  s.derive d [a, b] [] fun s =>
    { s.c a with otype := 0, tag := (s.c a).tag && (s.c a).otype != 0 && (s.c b).authority Perm.unseal && (s.c b).cursor == (s.c a).otype.setWidth 64 }
/-- `cmov` (R139): any colour. -/
def execCmov (d a : BitVec 5) (s : State) : Res := s.scalarOp [] [d, a] fun s => .next (s.setC d (s.c a)).advance
/-- `ccleartag` (R139): any colour. -/
def execCcleartag (d a : BitVec 5) (s : State) : Res := s.scalarOp [] [d, a] fun s => .next (s.setC d { s.c a with tag := false }).advance
/-- `ccolour` (R139): privileged. -/
def execCcolour (d a : BitVec 5) (b : BitVec 6) (s : State) : Res :=
  s.privOp fun _ => s.derive d [a] [b] fun s => { s.c a with colour := (s.x b).setWidth 8, tag := (s.c a).plain }

/-- An inspection of c[a] into s[d] (R140): it never faults on the capability. -/
def State.inspect (s : State) (d : BitVec 6) (a : BitVec 5) (f : Cap → Word) : Res := s.scalarOp [d] [a] fun s => .next (s.setX d (f (s.c a))).advance

/-- `cgetaddr` (R140). -/
def execCgetaddr (d : BitVec 6) (a : BitVec 5) (s : State) : Res := s.inspect d a fun c => c.cursor
/-- `cgetbase` (R140). -/
def execCgetbase (d : BitVec 6) (a : BitVec 5) (s : State) : Res := s.inspect d a fun c => BitVec.ofNat 64 c.base
/-- `cgettop` (R140). -/
def execCgettop (d : BitVec 6) (a : BitVec 5) (s : State) : Res := s.inspect d a fun c => BitVec.ofNat 64 (min c.top (2 ^ 64 - 1))
/-- `cgetperm` (R140). -/
def execCgetperm (d : BitVec 6) (a : BitVec 5) (s : State) : Res := s.inspect d a fun c => c.perms.setWidth 64
/-- `cgettype` (R140). -/
def execCgettype (d : BitVec 6) (a : BitVec 5) (s : State) : Res := s.inspect d a fun c => c.otype.setWidth 64
/-- `cgetcolour` (R140). -/
def execCgetcolour (d : BitVec 6) (a : BitVec 5) (s : State) : Res := s.inspect d a fun c => c.colour.setWidth 64
/-- `cgettag` (R140). -/
def execCgettag (d : BitVec 6) (a : BitVec 5) (s : State) : Res := s.inspect d a fun c => flag c.tag
/-- `cgetlen` (R140). -/
def execCgetlen (d : BitVec 6) (a : BitVec 5) (s : State) : Res := s.inspect d a fun c => BitVec.ofNat 64 (min (c.top - c.base) (2 ^ 64 - 1))
/-- `ctestsub` (R140). -/
def execCtestsub (d : BitVec 6) (a b : BitVec 5) (s : State) : Res :=
  s.scalarOp [d] [a, b] fun s =>
    let x := s.c a
    let y := s.c b
    .next (s.setX d (flag (x.plain && y.plain && x.base ≤ y.base && y.top ≤ x.top && y.perms &&& ~~~x.perms == 0 && x.colour == y.colour))).advance
/-- `cexlen` (R141). -/
def execCexlen (d a : BitVec 6) (s : State) : Res := s.aluOp d [a] fun s => BitVec.ofNat 64 (exactLen (s.x a).toNat)
/-- `cexalign` (R141). -/
def execCexalign (d a b : BitVec 6) (s : State) : Res := s.aluOp d [a, b] fun s => BitVec.ofNat 64 (exactAlign (s.x a).toNat (s.x b).toNat)

end Sys2Proof.Machine
end

