-- ==== Sys2Proof/Machine/Kem.lean ====
section
/-! DEFINITION. ML-KEM-1024 decapsulation, which the manual names by its standard (R396). PRESUMED from FIPS 203 (log entry 6). -/
namespace Sys2Proof.Machine
open Sys2Proof

/-! ### Polynomials: 256 coefficients modulo 3329 -/

/-- The modulus. -/
abbrev kemQ : Nat := 3329

/-- A polynomial's coefficients, lowest first, or its transform's. -/
abbrev Poly := List Nat

/-- A coefficient. -/
def Poly.at' (f : Poly) (i : Nat) : Nat := f.getD i 0
/-- A polynomial by its coefficients. -/
def Poly.of (f : Nat → Nat) : Poly := (List.range 256).map f
/-- The sum. -/
def Poly.add (f g : Poly) : Poly := .of fun i => (f.at' i + g.at' i) % kemQ
/-- The difference. -/
def Poly.sub (f g : Poly) : Poly := .of fun i => (f.at' i + kemQ - g.at' i) % kemQ

/-- A power modulo 3329, by repeated squaring over the bits of the exponent. -/
def kemPow : Nat → Nat → Nat → Nat
  | 0, _, _ => 1
  | n + 1, a, e => (if e % 2 = 1 then a else 1) * kemPow n (a * a % kemQ) (e / 2) % kemQ

/-- Seven bits reversed. -/
def rev7 (i : Nat) : Nat := ((List.range 7).map fun b => i / 2 ^ b % 2 * 2 ^ (6 - b)).sum

/-- The root of unity of a butterfly. -/
def kemZeta (i : Nat) : Nat := kemPow 8 17 (rev7 i)

/-- One layer of the transform (FIPS 203 algorithm 9), whose butterflies join coefficients so far apart. -/
def Poly.layer (f : Poly) (len : Nat) : Poly := .of fun j =>
  let z := kemZeta (128 / len + j / (2 * len))
  if j % (2 * len) < len then (f.at' j + z * f.at' (j + len)) % kemQ else (f.at' (j - len) + (kemQ - z * f.at' j % kemQ)) % kemQ

/-- One layer of the inverse (algorithm 10). -/
def Poly.unlayer (f : Poly) (len : Nat) : Poly := .of fun j =>
  if j % (2 * len) < len then (f.at' j + f.at' (j + len)) % kemQ
  else kemZeta (256 / len - 1 - j / (2 * len)) * (f.at' j + kemQ - f.at' (j - len)) % kemQ

/-- The transform. -/
def Poly.ntt (f : Poly) : Poly := [128, 64, 32, 16, 8, 4, 2].foldl Poly.layer f
/-- Its inverse. -/
def Poly.unntt (f : Poly) : Poly := ([2, 4, 8, 16, 32, 64, 128].foldl Poly.unlayer f).map fun x => x * 3303 % kemQ

/-- The product of two transforms (algorithms 11 and 12). -/
def Poly.mul (f g : Poly) : Poly := .of fun j =>
  let i := j / 2 * 2
  if j % 2 = 0 then (f.at' i * g.at' i + f.at' (i + 1) * g.at' (i + 1) % kemQ * kemPow 8 17 (2 * rev7 (j / 2) + 1)) % kemQ
  else (f.at' i * g.at' (i + 1) + f.at' (i + 1) * g.at' i) % kemQ

/-- The sum of the products of two lists of transforms. -/
def polyDot (a b : List Poly) : Poly := (List.zipWith Poly.mul a b).foldl Poly.add (.of fun _ => 0)

/-! ### Bytes (FIPS 203 4.2) -/

/-- The 256 numbers of d bits that bytes hold; of 12 bits modulo 3329. -/
def polyDecode (d : Nat) (b : List Byte) : Poly :=
  let n := leNat b
  .of fun i => let x := n / 2 ^ (d * i) % 2 ^ d; if d = 12 then x % kemQ else x
/-- The bytes that hold 256 numbers of d bits. -/
def polyEncode (d : Nat) (f : Poly) : List Byte := leBytes (32 * d) (bitsOfNats d f)
where
  /-- The numbers one after another, d bits each. -/
  bitsOfNats (d : Nat) : List Nat → Nat
    | [] => 0
    | x :: l => x + 2 ^ d * bitsOfNats d l

/-- A coefficient rounded to d bits. -/
def kemCompress (d x : Nat) : Nat := (2 ^ (d + 1) * x + kemQ) / (2 * kemQ) % 2 ^ d
/-- A number of d bits as a coefficient. -/
def kemExpand (d y : Nat) : Nat := (2 * kemQ * y + 2 ^ d) / 2 ^ (d + 1)

/-- A polynomial's coefficients rounded to d bits. -/
def Poly.compress (d : Nat) (f : Poly) : Poly := f.map (kemCompress d)
/-- Numbers of d bits as a polynomial. -/
def Poly.expand (d : Nat) (f : Poly) : Poly := f.map (kemExpand d)

/-- The part of 32d bytes at index i. -/
def polyPart (d i : Nat) (b : List Byte) : List Byte := (b.drop (32 * d * i)).take (32 * d)

/-! ### Sampling -/

/-- The coefficients below 3329 among the 12-bit numbers of bytes (algorithm 7). -/
def rejectSample : List Byte → List Nat
  | a :: b :: c :: l =>
    let x := a.toNat + 256 * (b.toNat % 16)
    let y := b.toNat / 16 + 16 * c.toNat
    (if x < kemQ then [x] else []) ++ (if y < kemQ then [y] else []) ++ rejectSample l
  | _ => []

/-- An entry of the matrix from its seed, of ten blocks of SHAKE128. -/
def kemEntry (rho : List Byte) (row col : Nat) : Poly :=
  (rejectSample (sponge 168 0x1F (rho ++ [BitVec.ofNat 8 col, BitVec.ofNat 8 row]) 10)).take 256

/-- A small polynomial from a seed and a number (algorithm 8, with 2 as its parameter). -/
def kemNoise (seed : List Byte) (n : Nat) : Poly :=
  let b := leNat (shake256 (seed ++ [BitVec.ofNat 8 n]) 128)
  let bit := fun i => b / 2 ^ i % 2
  .of fun i => (bit (4 * i) + bit (4 * i + 1) + kemQ - bit (4 * i + 2) - bit (4 * i + 3)) % kemQ

/-! ### Encryption and decapsulation -/

/-- Encryption of 32 bytes under an encapsulation key with a seed (algorithm 14). -/
def kemEncrypt (ek m seed : List Byte) : List Byte :=
  let y := (List.range 4).map fun i => (kemNoise seed i).ntt
  let rho := ek.drop 1536
  let u := (List.range 4).map fun i => (polyDot ((List.range 4).map fun j => kemEntry rho j i) y).unntt.add (kemNoise seed (4 + i))
  let t := (List.range 4).map fun i => polyDecode 12 (polyPart 12 i ek)
  let v := ((polyDot t y).unntt.add (kemNoise seed 8)).add ((polyDecode 1 m).expand 1)
  (u.flatMap fun f => polyEncode 11 (f.compress 11)) ++ polyEncode 5 (v.compress 5)

/-- Decryption (algorithm 15). -/
def kemDecrypt (dk c : List Byte) : List Byte :=
  let u := (List.range 4).map fun i => ((polyDecode 11 (polyPart 11 i c)).expand 11).ntt
  let v := (polyDecode 5 (c.drop 1408)).expand 5
  let s := (List.range 4).map fun i => polyDecode 12 (polyPart 12 i dk)
  polyEncode 1 ((v.sub (polyDot s u).unntt).compress 1)

/-- The encapsulation key within a decapsulation key. -/
def kemPublic (dk : List Byte) : List Byte := (dk.drop 1536).take 1568

/-- Decapsulation (algorithms 18 and 21): the shared secret of 32 bytes, of a ciphertext that does not re-encrypt one that nobody can tell; none where the checks
    on the inputs fail. -/
def kemDecaps (dk c : List Byte) : Option (List Byte) :=
  let h := (dk.drop 3104).take 32
  if c.length ≠ 1568 ∨ dk.length ≠ 3168 ∨ sha3_256 (kemPublic dk) ≠ h then none
  else
    let m := kemDecrypt dk c
    let g := sha3_512 (m ++ h)
    some (if kemEncrypt (kemPublic dk) m (g.drop 32) = c then g.take 32 else shake256 (dk.drop 3136 ++ c) 32)

/-- The package's encapsulation key (R396, R399). -/
def encapKey : List Byte := kemPublic Config.decapKey.toList

/-- Decapsulation under the package's key (R396). -/
def mlkemDecap (c : List Byte) : Option (List Byte) := kemDecaps Config.decapKey.toList c

end Sys2Proof.Machine
end

