-- ==== Sys2Proof/Machine/Keys.lean ====
section
/-! DEFINITION. Key slots and key blobs, attestation, certificates (R387, R394 to R400). -/
namespace Sys2Proof.Machine
open Sys2Proof

/-! ### Key slots (R394 to R397) -/

/-- Key slot n. -/
def State.key (s : State) (n : Nat) : KeySlot := vgetD s.keys n .reset

/-- Whether a plane record of a slot names a generation. -/
def PlaneRec.names (r : PlaneRec) (slot gen : Nat) : Bool := r.desc.getLsbD 6 && r.desc.toNat % 64 == slot && r.keyGen == gen
/-- Whether a started `mxlds` decrypts under a generation of a slot. -/
def MxOp.names (o : MxOp) (slot gen : Nat) : Bool :=
  (match o.kind with | .lds _ => true | _ => false) && o.started && o.desc.getLsbD 6 && o.desc.toNat % 64 == slot && o.keyGen == gen

/-- Whether a plane record, saved ones included, or an `mxlds` in flight names a generation (R200, R395 op 2). -/
def State.genNamed (s : State) (slot gen : Nat) : Bool :=
  (s.clusters.toList.any fun c => c.cores.toList.any fun k =>
    ([k.active.src, k.shadow.src].any fun r => r.any fun r => r.names slot gen) || k.mq.any fun o => o.names slot gen) ||
  s.disp.saved.any fun v => (v.planes.any fun r => r.any fun r => r.names slot gen) || v.mx.any fun o => o.names slot gen

/-- The magic in the input of the key-encryption key (R396). -/
def kwMagic : List Byte := leBytes 4 0x4D5A4B57

/-- A key blob unwrapped for a world (R396): the key with its soft threshold and hard limit, or none: BAD_BLOB. -/
def unwrapBlob (blob : List Byte) (world : BitVec 8) : Option (List Byte × Nat × Nat) :=
  match mlkemDecap (blob.take 1568) with
  | none => none
  | some shared =>
    match keyUnwrap ((shake256 (shared ++ kwMagic ++ [world]) 32)) ((blob.drop 1568).take 56) with
    | none => none
    | some k =>
      let soft := leNat ((k.drop 32).take 8)
      let hard := leNat ((k.drop 40).take 8)
      if (blob.drop 1624).any (· != 0) ∨ soft = 0 ∨ hard ≤ soft ∨ 2 ^ 48 - 1 < hard then none else some (k.take 32, soft, hard)

/-- `KSTAT` of a slot (R387). -/
def State.kstat (s : State) (n : Nat) : Word :=
  let k := s.key n
  let refd := match k.prev with | some p => s.genNamed n p.num | none => false
  if k.state = 0 then 0
  else BitVec.ofNat 64 (k.ctx + k.world.toNat * 2 ^ 16 + k.state * 2 ^ 24 + bitNat k.prev.isSome * 2 ^ 26 + bitNat refd * 2 ^ 27 + k.gen % 2 ^ 32 * 2 ^ 32)

/-- A write of KCTL (R387): the op is under way until its step completes it. -/
def State.writeKctl (s : State) (cl : Nat) (x : Word) : State :=
  s.modSvc cl fun v => if v.kctl.isSome ∨ !x.getLsbD 2 then v else { v with kctl := some x }

/-- Whether a cluster's KCTL has an op under way. -/
def State.keyOp (s : State) (cl op : Nat) : Bool := match (s.svc cl).kctl with | some x => bitsOf x.toNat 1 0 == op | none => false

/-- The op under way at a cluster's KCTL completed with a status. -/
def State.keyDone (s : State) (cl : Nat) (status : BitVec 8) : State := s.modSvc cl fun v => { v with kctl := none, kstatus := status }

/-- The world in a context's record (R369). -/
def State.recordWorld (s : State) (ctx : Nat) : BitVec 8 := s.keyByte (s.ctxWord ctx 1)

/-- `KEY_ALLOCATE` (R395 op 0): the lowest Free slot, for the context that KCTL names; a number that names no record has no protected world (R369). -/
def execKeyAllocate (cluster ctx : Nat) (s : State) : Res :=
  if !s.keyOp cluster 0 || (match (s.svc cluster).kctl with | some x => bitsOf x.toNat 31 16 != ctx | none => true) then .next s
  else
    let w := s.recordWorld ctx
    if ctx = 0 ∨ 4096 ≤ ctx ∨ w = 0 ∨ w = 255 then .next (s.keyDone cluster 4)
    else match (List.range 64).find? fun n => (s.key n).state == 0 with
      | none => .next (s.keyDone cluster 2)
      | some n => .next (((s.modKey n fun _ => { KeySlot.reset with state := 1, ctx := ctx, world := w }).keyDone cluster 0).modSvc cluster fun v => { v with ksel := n })

/-- `KEY_INSTALL` (R395 op 1, R396). -/
def execKeyInstall (cluster : Nat) (s : State) : Res :=
  let v := s.svc cluster
  let k := s.key v.ksel
  if !s.keyOp cluster 1 then .next s
  else if k.state = 0 then .next (s.keyDone cluster 4)
  else if k.prev.isSome then .next (s.keyDone cluster 3)
  else match unwrapBlob (s.readKeys (physAddr v.kblob) 2048) k.world with
    | none => .next (s.keyDone cluster 1)
    | some (key, soft, hard) =>
      .next ((s.modKey v.ksel fun k => { k with
        state := 2, cur := some ⟨k.gen + 1, key, soft, hard⟩, prev := k.cur, gen := k.gen + 1, uses := 0, retire := false, softTold := false,
        hardTold := false }).keyDone cluster 0)

/-- `KEY_RETIRE_PREVIOUS` (R395 op 2): the previous key is to be erased. -/
def execKeyRetirePrevious (cluster : Nat) (s : State) : Res :=
  if !s.keyOp cluster 2 then .next s
  else .next ((s.modKey (s.svc cluster).ksel fun k => { k with retire := k.prev.isSome }).keyDone cluster 0)

/-- `KEY_PREVIOUS_ERASED` (R395 op 2): once no plane record and no `mxlds` in flight names it. -/
def execKeyPreviousErased (key : Nat) (s : State) : Res :=
  let k := s.key key
  if !k.retire || (match k.prev with | some p => s.genNamed key p.num | none => false) then .next s
  else .next (s.modKey key fun k => { k with prev := none, retire := false })

/-- `KEY_FREE` (R395 op 3). -/
def execKeyFree (cluster : Nat) (s : State) : Res :=
  if !s.keyOp cluster 3 then .next s
  else .next ((s.modKey (s.svc cluster).ksel fun _ => .reset).keyDone cluster 0)

/-! ### Certificates (R400) -/

/-- The blob in a certificate slot. -/
def State.cert (s : State) (n : Nat) : List Byte := if n = 0 then Config.vendorCert.1.toList.take Config.vendorCert.2.val else mapGetD s.attest.certs n []

/-- Attestation state changed. -/
def State.modAttest (s : State) (f : Attest → Attest) : State := { s with attest := f s.attest }

/-- Challenges accepted in the order of their writes, as far as none names a slot whose rewrite is pending (R399, R400). -/
def Attest.accept (rewrites : SMap (List Byte)) (now : Nat × Nat) : List Challenge → List Challenge
  | [] => []
  | c :: cs =>
    if c.since.isSome then c :: Attest.accept rewrites now cs
    else if (mapGet rewrites c.cert).isSome then c :: cs
    else { c with since := some now } :: Attest.accept rewrites now cs

/-- The challenges that may be accepted now, accepted. -/
def State.acceptChals (s : State) : State := s.modAttest fun a => { a with chals := Attest.accept a.rewrites (s.cycle.toNat, s.time) a.chals }

/-- A write of CERTCTL (R387, R400): a rewrite of a slot pending with the blob at the address; its length is the blob's first 8 bytes, at most 8 KiB.
    DESIGN CHOICE of the blob's form (log entry 16). -/
def State.writeCertctl (s : State) (x : Word) : State :=
  let n := bitsOf x.toNat 2 0
  if n = 0 ∨ !s.attest.rewrites.isEmpty then s.modAttest fun a => { a with certErr := true }
  else if !x.getLsbD 3 then s
  else
    let at' := bitsOf x.toNat 47 12 * 4096
    let len := min (s.readNat at' 8) 8192
    s.modAttest fun a => { a with certErr := false, rewrites := mapSet a.rewrites n (s.readKeys (at' + 8) len) }

/-- `CERT_REWRITE_REQUEST` (R400). -/
def execCertRewriteRequest (_ : Nat) (value : Word) (s : State) : Res := .next (s.writeCertctl value)

/-- `CERT_REWRITE_EFFECT` (R400): once no accepted challenge names the slot; the challenges held by it are then accepted. -/
def execCertRewriteEffect (cert : Nat) (s : State) : Res :=
  match mapGet s.attest.rewrites cert with
  | none => .next s
  | some b =>
    if s.attest.chals.any fun c => c.since.isSome && c.cert == cert then .next s
    else .next (s.modAttest fun a => { a with rewrites := mapDel a.rewrites cert, certs := mapSet a.certs cert b }).acceptChals

/-! ### Challenges (R398, R399) -/

/-- The challenge of a record. -/
def challengeOf (bs : List Byte) (addr : Option Word) (cl : Nat) : Challenge :=
  let n := fun o k => leNat ((bs.drop o).take k)
  { addr := addr, nonce := bs.take 32, cert := n 32 1 % 8, ctx := n 36 2, resp := BitVec.ofNat 64 (n 40 8), cap := n 48 8, since := none, cluster := cl,
    bad := n 32 1 / 8 != 0 || n 33 3 != 0 || n 38 2 != 0 }

/-- A challenge submitted. -/
def State.submit (s : State) (c : Challenge) : State := (s.modAttest fun a => { a with chals := a.chals ++ [c] }).acceptChals

/-- `ACHAL_WRITE` (R387, R399). -/
def execAchalWrite (cluster : Nat) (addr : Word) (s : State) : Res :=
  let at' := addr &&& 0xFFFFFFFFFFFFFFC0
  .next (s.submit (challengeOf (s.readKeys (physAddr at') 64) (some at') cluster))

/-- The report (R399). DESIGN CHOICE of the offsets (log entry 16): the fields in the order of R399. -/
def State.report (s : State) (c : Challenge) (index : Nat) : List Byte :=
  let world := match s.ctx c.ctx with | some x => x.world | none => 0
  let b := leBytes 4 0x4D5A4154 ++ leBytes 4 1 ++ leBytes 8 s.edge.fwver.toNat ++ s.boot.digests ++ c.nonce ++ shake256 encapKey 32 ++
    leBytes 2 c.ctx ++ [world, BitVec.ofNat 8 c.cert] ++ leBytes 8 index ++ leBytes 8 (c.since.getD (0, 0)).1 ++ shake256 (s.cert c.cert) 32
  (b ++ List.replicate (256 - b.length) 0).take 256

/-- The whole response. -/
def State.response (s : State) (c : Challenge) (index : Nat) : List Byte :=
  let r := s.report c index
  let cert := s.cert c.cert
  r ++ xmssSign index r ++ encapKey ++ leBytes 8 cert.length ++ cert

/-- A challenge done with a status (R399): the status word, the FW event, and the slot free for a rewrite; on the management path the response, whose status
    for a challenge without a signature is not stated, and free (R401; log entry 16). -/
def State.chalDone (s : State) (c : Challenge) (status : Nat) (response : List Byte) : State :=
  let s1 := s.modAttest fun a => { a with chals := a.chals.drop 1, signing := none }
  match c.addr with
  | some at' =>
    let s2 := if response.isEmpty then s1 else s1.agentPut (physAddr c.resp) response
    (s2.agentPut (physAddr at' + 56) (leBytes 8 status)).event c.cluster 12 0 0 3
  | none =>
    let st := if status = 1 then 0 else 1 + Config.freePick s.free % 3
    { s1 with free := s1.free + 1 }.respondParts 8 st response

/-- Whether a challenge is BAD_REQUEST (R399). -/
def State.badChal (s : State) (c : Challenge) : Bool :=
  c.bad || (c.addr.isSome && c.cap < 4652 + (s.cert c.cert).length) || (c.ctx != 0 && s.ctxState c.ctx != .live)

/-- The alert as the signatures that remain fall to 65,536, and to 4,096 (R414). -/
def State.signatureAlert (s : State) (left : Nat) : State :=
  if left = 65536 ∨ left = 4096 then { s with fleet := { s.fleet with alerts := s.fleet.alerts ++ [.signatures left] } } else s

/-- Whether a challenge is due a TIMEOUT: it is not done 2 s after its acceptance (R399). -/
def State.chalLate (s : State) (c : Challenge) : Bool := match c.since with | some t => t.2 + usTime 2000000 ≤ s.time | none => false

/-- `CHALLENGE_RESPONSE` (R398, R399, R414): the oldest accepted challenge. An exhausted package ends every one with EXHAUSTED. For another the firmware first keeps
    the next index in flash, in one step; the next one answers it, and releases the signature. -/
def execChallengeResponse (s : State) : Res :=
  match s.attest.chals with
  | [] => .next s
  | c :: _ =>
    match c.since with
    | none => .next s
    | some _ =>
      if s.chalLate c then .next (s.chalDone c 4 [])
      else match s.attest.signing with
      | some i => .next (s.chalDone c 1 (s.response c i))
      | none =>
        if 2 ^ 20 ≤ s.attest.index then .next (s.chalDone c 2 [])
        else if s.badChal c then .next (s.chalDone c 3 [])
        else
          let i := s.attest.index
          .next ((s.modAttest fun a => { a with index := i + 1, recs := keepIndex a.recs (i + 1), signing := some i }).signatureAlert (2 ^ 20 - (i + 1)))

/-- `CHALLENGE_TIMEOUT` (R399): the oldest accepted challenge, 2 s after its acceptance; no signature is released. -/
def execChallengeTimeout (s : State) : Res :=
  match s.attest.chals with
  | [] => .next s
  | c :: _ =>
    .next (if s.chalLate c then s.chalDone c 4 [] else s)

end Sys2Proof.Machine
end

