-- ==== Sys2Proof/Machine/Csrs.lean ====
section
/-! DEFINITION. Control and status registers of groups and service cores, and `spsize` (R59 to R61, R145, R157, R336, R342, R343, R352, R353, R368,
R387). -/
namespace Sys2Proof.Machine
open Sys2Proof

/-! ### What a read gives -/

/-- The atomic flags of a context: those collected at saves, and those of every slice (R61). -/
def State.atomFlags (s : State) (ctx : Nat) : BitVec 5 :=
  (s.sliceFlags.filter fun p => p.1 % 4096 == ctx).foldl (fun f p => f ||| p.2) (match s.ctx ctx with | some c => c.flags | none => 0)

/-- A register of a group (R59), but for SCODE and LCODE. None: an unlisted number. -/
def State.groupCsr (s : State) (k : Nat) (g : Group) (n : Nat) : Option Word :=
  let nat := fun x => some (BitVec.ofNat 64 x)
  match n with
  | 0x001 => nat (g.index + g.role * 16)
  | 0x002 => some g.teamId
  | 0x003 => nat g.gridId.toNat
  | 0x004 => nat (placeOf k)
  | 0x005 => nat g.lane.present
  | 0x010 => nat g.lane.vl
  | 0x011 => nat g.lane.vtype.toNat
  | 0x012 => nat g.lane.fpctl.toNat
  | 0x013 => nat g.lane.fpstat.toNat
  | 0x014 => nat (s.atomFlags g.ctx).toNat
  | 0x020 => nat g.hart.cause.toNat
  | 0x021 => some g.hart.faddr
  | 0x030 => nat g.ctx
  | 0x031 => nat g.world.toNat
  | 0x040 => nat g.preempt.toNat
  | 0x060 => some s.cycle
  | _ =>
    if 0x050 ≤ n ∧ n < 0x054 then nat ((s.colourMask g.ctx).toNat / 2 ^ (64 * (n - 0x050)) % 2 ^ 64)
    else if 0x100 ≤ n ∧ n < 0x180 then nat (if n - 0x100 < 32 then g.flanes.toNat / 2 ^ (64 * (n - 0x100)) % 2 ^ 64 else 0)
    else none

/-- SCODE with its cursor at a PC; LCODE with its cursor where R59 says (R145). -/
def Group.codeCap (g : Group) (n : Nat) : Cap :=
  if n = 0x070 then g.hart.scode.atPc g.hart.pc
  else { g.lcode with cursor := match g.lane.lastRun with | some y => y | none => BitVec.ofNat 64 g.lcode.base }

/-- A register below 0x400 as a service core reads its own: its cluster as its place, context 0, world 255; it has no lane state. DESIGN CHOICE (log
    entry 14). -/
def State.serviceCsr (s : State) (c : Nat) (n : Nat) : Option Word :=
  let v := s.svc c
  let nat := fun x => some (BitVec.ofNat 64 x)
  match n with
  | 0x004 => nat c
  | 0x012 => nat v.fpctl.toNat
  | 0x013 => nat v.fpstat.toNat
  | 0x014 => nat (s.atomFlags 0).toNat
  | 0x020 => nat v.hart.cause.toNat
  | 0x021 => some v.hart.faddr
  | 0x031 => nat 255
  | 0x040 => nat v.preempt.toNat
  | 0x060 => some s.cycle
  | _ => if (1 ≤ n ∧ n ≤ 5) ∨ n = 0x010 ∨ n = 0x011 ∨ n = 0x030 ∨ (0x050 ≤ n ∧ n < 0x054) ∨ (0x100 ≤ n ∧ n < 0x180) then some 0 else none

/-- `TRHEAD` as a service core reads it: up to the first record whose write waits for the lock of its page, so that every record below it can be seen (R264,
    R340). -/
def State.trHead (s : State) (d : Debug) : Word :=
  if s.stalled.isEmpty then d.trhead
  else
    let waits := fun (i : Nat) => s.stalled.any fun w => w.meets ((physAddr d.trbase + 64 * ((d.trtail.toNat + i) % 2 ^ 64 % d.trsize.toNat)) % 2 ^ 52) 64
    match (List.range (d.trhead - d.trtail).toNat).find? waits with
    | some i => d.trtail + BitVec.ofNat 64 i
    | none => d.trhead

/-- A debug register (R336). -/
def State.debugCsr (s : State) (c : Nat) (n : Nat) : Option Word :=
  let d := (s.cluster c).dbg
  let i := d.sel.toNat
  let nat := fun x => some (BitVec.ofNat 64 x)
  match n with
  | 0x600 => nat d.ctl.toNat
  | 0x601 => nat i
  | 0x602 => some (vgetD d.bp i (0, 0)).1
  | 0x603 => some (vgetD d.bp i (0, 0)).2
  | 0x604 => some (vgetD d.wp i (0, 0, 0)).1
  | 0x605 => some (vgetD d.wp i (0, 0, 0)).2.1
  | 0x606 => some (vgetD d.wp i (0, 0, 0)).2.2
  | 0x607 => some (vgetD d.bins i (0, 0)).1
  | 0x608 => some (vgetD d.bins i (0, 0)).2
  | 0x609 => nat d.binctx.toNat
  | 0x60A => nat d.hit.toNat
  | 0x60B => nat d.stepctl.toNat
  | 0x60C => some d.trbase
  | 0x60D => some d.trsize
  | 0x60E => some (s.trHead d)
  | 0x60F => some d.trtail
  | 0x610 => some d.trdrop
  | 0x611 => some d.smpint
  | 0x612 => nat d.lcsel.toNat
  | 0x613 =>
    let bin := bitsOf d.lcsel.toNat 4 0
    let cls := bitsOf d.lcsel.toNat 7 5
    nat (if 16 < bin ∨ 4 < cls then 0 else mapGetD ((s.cluster c).core (bitsOf d.lcsel.toNat 9 8)).laneCycles (5 * bin + cls) 0)
  | 0x614 => nat d.evsel.toNat
  | 0x615 => nat (vgetD ((s.cluster c).core (bitsOf d.evsel.toNat 6 5)).events (bitsOf d.evsel.toNat 4 0) 0)
  | _ => none

/-- `SDUMPQ` of a die (R368): dumps that wait behind the one under way. -/
def Die.dumpq (d : Die) : Nat :=
  match d.dumps with
  | [] => 0
  | x :: rest => min 255 rest.length + 2 ^ 8 + x.ctx * 2 ^ 16

/-- A register from 0x400 on, but for SEVT (R352, R368, R387, R336). -/
def State.privCsr (s : State) (c : Nat) (n : Nat) : Option Word :=
  let v := s.svc c
  let nat := fun x => some (BitVec.ofNat 64 x)
  match n with
  | 0x401 => some v.sevtarg
  | 0x402 => some v.sevtgrp
  | 0x403 => some v.sepc
  | 0x404 => nat (bitNat v.inHandler + 2 * bitNat v.stale + 4 * bitNat (!v.events.isEmpty))
  | 0x405 => some v.svec
  | 0x406 => nat c
  | 0x407 => some v.strapbase
  | 0x408 => some v.ssavedst
  | 0x409 => some 0
  | 0x40A => some v.stimer
  | 0x420 => some s.ctxBase
  | 0x421 => some (v.ctxctl &&& 0xC00000000000FFFF)
  | 0x422 => some v.mig.src
  | 0x423 => some v.mig.dst
  | 0x424 => nat (bitNat v.mig.busy * 2 ^ 4 + bitNat v.mig.locked * 2 ^ 5 + bitNat v.mig.error * 2 ^ 6)
  | 0x425 => nat (s.die (clusterDie c)).dumpq
  | 0x500 => some v.wpage
  | 0x501 => some v.wcount
  | 0x502 => some v.wresult
  | 0x503 => nat v.ksel
  | 0x504 => nat (v.kstatus.toNat + bitNat v.kctl.isSome * 2 ^ 63)
  | 0x505 => some v.kblob
  | 0x506 => some (s.kstat v.ksel)
  | 0x507 => nat ((s.key v.ksel).uses % 2 ^ 48)
  | 0x508 => nat (min 65535 s.attest.chals.length)
  | 0x509 => nat (bitNat s.attest.certErr * 2 ^ 62 + bitNat (!s.attest.rewrites.isEmpty) * 2 ^ 63)
  | 0x50A => nat (s.attest.index % 2 ^ 21)
  | _ => s.debugCsr c n

/-- The oldest event of a cluster's queue taken, its argument and handle latched (R352), and the oldest held one queued in its room (R353); the value of SEVT. -/
def State.takeEvent (s : State) (c : Nat) : Word × State :=
  match (s.svc c).events with
  | [] => (0, s)
  | e :: rest => (BitVec.ofNat 64 (e.kind.toNat + e.cause.toNat * 256), s.modSvc c fun v => { v with events := rest ++ v.held.take 1, held := v.held.drop 1, sevtarg := e.arg, sevtgrp := e.grp })

/-- s[d] of a service core written. -/
def State.setSvcX (s : State) (c : Nat) (d : BitVec 6) (x : Word) : State := s.modHartOf (.service c) fun h => h.setX d x

/-- `SEVT_READ` (R352): what a read of SEVT into s[d] does at a cluster's service core. -/
def execSevtRead (cluster : Nat) (d : BitVec 6) (s : State) : Res :=
  let r := s.takeEvent cluster
  .next (r.2.setSvcX cluster d r.1)

/-- `ATOMFLAGS_READ` (R61): what a read of ATOMFLAGS into s[d] does for slot k's group, once its st counter is zero. -/
def execAtomflagsRead (slot : Nat) (d : BitVec 6) (s : State) : Res :=
  match s.group slot with
  | none => .next s
  | some g => .next (if g.hart.st ≠ 0 then s else s.modHartOf (.group slot) fun h => h.setX d ((s.atomFlags g.ctx).setWidth 64))

/-- `STIMER_EXPIRY` (R352, R353): CYCLE has reached a nonzero STIMER; the event is raised once for each value written. -/
def execStimerExpiry (cluster : Nat) (s : State) : Res :=
  let v := s.svc cluster
  if v.stimer = 0 ∨ v.timerTold ∨ s.cycle.toNat < v.stimer.toNat then .next s
  else .next ((s.modSvc cluster fun v => { v with timerTold := true }).event cluster 11 0 0 s.cycle)

/-! ### What a write does -/

/-- A bound kept: the nearest of the two. -/
def clampNat (lo hi x : Nat) : Nat := max lo (min hi x)

/-- Whether the value of a group's register waits for runs and value-returning atomics (R60). -/
def Group.laneStateBusy (g : Group) : Bool := !g.lane.queue.isEmpty || g.hart.pend.any fun p => p.fp

/-- What a write of a group's register does: the new state, or the cause of R59. -/
def State.writeGroupCsr (s : State) (k : Nat) (n : Nat) (x : Word) : Except (BitVec 8) State :=
  match n with
  | 0x012 => if 5 ≤ bitsOf x.toNat 2 0 then .error Cause.illegalInsn else .ok (s.modGroup k fun g => { g with lane := { g.lane with fpctl := x.setWidth 5 } })
  | 0x013 => .ok (s.modGroup k fun g => { g with lane := { g.lane with fpstat := x.setWidth 5 } })
  | _ =>
    if [0x014, 0x020, 0x021, 0x030, 0x031, 0x040, 0x070, 0x071].contains n ∨ (0x050 ≤ n ∧ n < 0x054) ∨ (0x100 ≤ n ∧ n < 0x180) then .error Cause.privInsn
    else .error Cause.illegalInsn

/-- What a service core's write of a register below 0x400 does: its own CAUSE, FADDR, FPCTL, FPSTAT and PREEMPTLIM take it; a register that a group may not
    write for want of privilege, and of which a service core has no copy, ignores it. DESIGN CHOICE (log entry 14). -/
def State.writeServiceCsr (s : State) (c : Nat) (n : Nat) (x : Word) : Except (BitVec 8) State :=
  match n with
  | 0x012 => if 5 ≤ bitsOf x.toNat 2 0 then .error Cause.illegalInsn else .ok (s.modSvc c fun v => { v with fpctl := x.setWidth 5 })
  | 0x013 => .ok (s.modSvc c fun v => { v with fpstat := x.setWidth 5 })
  | 0x020 => .ok (s.modSvc c fun v => { v with hart := { v.hart with cause := x.setWidth 9 } })
  | 0x021 => .ok (s.modSvc c fun v => { v with hart := { v.hart with faddr := x } })
  | 0x040 => .ok (s.modSvc c fun v => { v with preempt := BitVec.ofNat 32 (clampNat 1000 10000000 (x.toNat % 2 ^ 32)) })
  | _ =>
    if [0x014, 0x030, 0x031, 0x070, 0x071].contains n ∨ (0x050 ≤ n ∧ n < 0x054) ∨ (0x100 ≤ n ∧ n < 0x180) then .ok s else .error Cause.illegalInsn

/-- The debug unit of a cluster changed. -/
def State.modDbg (s : State) (c : Nat) (f : Debug → Debug) : State := s.modCluster c fun cl => { cl with dbg := f cl.dbg }

/-- The sampling period of a cluster's cores begun anew, when sampling is switched on and at every write of `SMPINT`. DESIGN CHOICE (log entry 77): R341 does not
    say when the period begins. -/
def State.restartSamples (s : State) (c : Nat) : State :=
  s.modCluster c fun cl => { cl with cores := cl.cores.map fun k => { k with sampleAt := s.cycle.toNat + cl.dbg.smpint.toNat } }

/-- A write of a debug register (R336). -/
def State.writeDebugCsr (s : State) (c : Nat) (n : Nat) (x : Word) : Except (BitVec 8) State :=
  let d := (s.cluster c).dbg
  let i := d.sel.toNat
  match n with
  | 0x600 =>
    let s1 := s.modDbg c fun d => { d with ctl := x.setWidth 5 }
    .ok (if x.getLsbD 1 && !d.ctl.getLsbD 1 then s1.restartSamples c else s1)
  | 0x601 => .ok (s.modDbg c fun d => { d with sel := x.setWidth 4 })
  | 0x602 => .ok (s.modDbg c fun d => { d with bp := vmod d.bp i fun p => (x &&& 0x1FFFFFF, p.2) })
  | 0x603 => .ok (s.modDbg c fun d => { d with bp := vmod d.bp i fun p => (p.1, x) })
  | 0x604 => .ok (s.modDbg c fun d => { d with wp := vmod d.wp i fun p => (x &&& 0x7FFFF, p.2) })
  | 0x605 => .ok (s.modDbg c fun d => { d with wp := vmod d.wp i fun p => (p.1, x, p.2.2) })
  | 0x606 => .ok (s.modDbg c fun d => { d with wp := vmod d.wp i fun p => (p.1, p.2.1, x) })
  | 0x607 => .ok (s.modDbg c fun d => { d with bins := vmod d.bins i fun p => (x, p.2) })
  | 0x608 => .ok (s.modDbg c fun d => { d with bins := vmod d.bins i fun p => (p.1, x) })
  | 0x609 => .ok (s.modDbg c fun d => { d with binctx := x.setWidth 16 })
  | 0x60A => .ok s
  | 0x60B => .ok (s.modDbg c fun d => { d with stepctl := if x.setWidth 2 = 3#2 then 0 else x.setWidth 2 })
  | 0x60C => .ok (s.modDbg c fun d => { d with trbase := x &&& 0xFFFFFFFFFFFFFFC0 })
  | 0x60D => .ok (s.modDbg c fun d => { d with trsize := x })
  | 0x60E => .ok s
  | 0x60F => .ok (s.modDbg c fun d => { d with trtail := x })
  | 0x610 => .ok (s.modDbg c fun d => { d with trdrop := x })
  | 0x611 => .ok ((s.modDbg c fun d => { d with smpint := BitVec.ofNat 64 (clampNat 256 (2 ^ 32) x.toNat) }).restartSamples c)
  | 0x612 => .ok (s.modDbg c fun d => { d with lcsel := x.setWidth 10 })
  | 0x613 =>
    let bin := bitsOf d.lcsel.toNat 4 0
    let cls := bitsOf d.lcsel.toNat 7 5
    .ok (if 16 < bin ∨ 4 < cls then s
      else s.modCore c (bitsOf d.lcsel.toNat 9 8) fun k => { k with laneCycles := mapSet k.laneCycles (5 * bin + cls) x.toNat })
  | 0x614 => .ok (s.modDbg c fun d => { d with evsel := x.setWidth 7 })
  | 0x615 => .ok (s.modCore c (bitsOf d.evsel.toNat 6 5) fun k => { k with events := vset k.events (bitsOf d.evsel.toNat 4 0) (min x.toNat (2 ^ 48 - 1)) })
  | _ => .error Cause.illegalInsn

/-- A write of SMIGCTL (R368): release, start, or neither; with size 3 the error bit alone. -/
def State.writeMigctl (s : State) (c : Nat) (x : Word) : State :=
  if bitsOf x.toNat 1 0 = 3 then s.modSvc c fun v => { v with mig := { v.mig with error := true } }
  else if x.getLsbD 2 then s.startMigration c (bitsOf x.toNat 1 0) else if x.getLsbD 3 then s.releaseMigration c else s

/-- The state that a register's own step answers; the register writes below never stop. -/
def stateOf (s : State) : Res → State
  | .next s1 => s1
  | _ => s

/-- What a service core's write of a register from 0x400 on does (R352, R368, R387, R336). -/
def State.writePrivCsr (s : State) (c : Nat) (n : Nat) (x : Word) : Except (BitVec 8) State :=
  match n with
  | 0x403 => .ok (s.modSvc c fun v => { v with sepc := x })
  | 0x404 => .ok (s.modSvc c fun v => { v with inHandler := x.getLsbD 0, stale := x.getLsbD 1 })
  | 0x405 => .ok (s.modSvc c fun v => { v with svec := x &&& 0xFFFFFFFFFFFFFFFC })
  | 0x407 => .ok (s.modSvc c fun v => { v with strapbase := x &&& 0xFFFFFFFFFFFFF000 })
  | 0x408 => .ok (s.modSvc c fun v => { v with ssavedst := x })
  | 0x409 => .ok (stateOf s (execSrestoreWrite c x s))
  | 0x40A => .ok (s.modSvc c fun v => { v with stimer := x, timerTold := false })
  | 0x420 => .ok { s with ctxBase := x &&& 0x000FFFFFFFFFF000 }
  | 0x421 => .ok (s.writeCtxctl c x)
  | 0x422 => .ok (s.modSvc c fun v => { v with mig := { v.mig with src := x } })
  | 0x423 => .ok (s.modSvc c fun v => { v with mig := { v.mig with dst := x } })
  | 0x424 => .ok (s.writeMigctl c x)
  | 0x500 => .ok (s.modSvc c fun v => { v with wpage := x &&& 0x000FFFFFFFFF0000 })
  | 0x501 => .ok (s.modSvc c fun v => { v with wcount := x &&& 0x7FFF })
  | 0x502 => .ok (s.writeWctl c x)
  | 0x503 => .ok (s.modSvc c fun v => { v with ksel := x.toNat % 64 })
  | 0x504 => .ok (s.writeKctl c x)
  | 0x505 => .ok (s.modSvc c fun v => { v with kblob := x &&& 0xFFFFFFFFFFFFFFC0 })
  | 0x508 => .ok (stateOf s (execAchalWrite c x s))
  | 0x509 => .ok (s.writeCertctl x)
  | _ => s.writeDebugCsr c n x

/-! ### The words (R145) -/

/-- A register's number, of a group or a service core, privilege checked (R59, R99 step 1). -/
def State.csrOp (s : State) (n : BitVec 12) (body : State → Res) : Res :=
  if !s.isService && 0x400 ≤ n.toNat then .next (s.raiseHere Cause.privInsn) else body s

/-- Whether a read or write of a register must wait (R60, R61). -/
def State.csrWaits (s : State) (n : Nat) (rd : Bool) : Bool :=
  match s.curGroup with
  | some g => ((if rd then [0x010, 0x011, 0x013] else [0x013]).contains n && g.laneStateBusy) || (rd && n == 0x014 && g.hart.st != 0)
  | none => rd && n == 0x014 && s.hart.st != 0

/-- The value of a register of the current thread; none for an unlisted number. -/
def State.csr (s : State) (n : Nat) : Option Word :=
  match s.cur with
  | .group k => (s.group k).bind fun g => s.groupCsr k g n
  | .service c => if n < 0x400 then s.serviceCsr c n else s.privCsr c n

/-- A capability register read whole: of a group, or a service core's SCODE. -/
def State.csrCap (s : State) (n : Nat) : Cap :=
  match s.cur with
  | .group k => (match s.group k with | some g => g.codeCap n | none => .null)
  | .service c => if n = 0x070 then (s.svc c).hart.scode.atPc (s.svc c).hart.pc else .null

/-- `rdcsr` (R145). -/
def execRdcsr (d : BitVec 6) (n : BitVec 12) (s : State) : Res :=
  s.csrOp n fun s =>
    if n = 0x070 ∨ n = 0x071 then
      s.scalarOp [] [d.setWidth 5] fun s => .next (s.setC (d.setWidth 5) (s.csrCap n.toNat)).advance
    else s.scalarOp [d] [] fun s =>
      if s.csrWaits n.toNat true then .next s
      else if s.isService && n = 0x400 then let r := s.takeEvent s.curCluster; .next (r.2.setX d r.1).advance
      else match s.csr n.toNat with
        | some x => .next (s.setX d x).advance
        | none => .next (s.raiseHere Cause.illegalInsn)

/-- A register of the current thread written, or the cause. -/
def State.writeCsr (s : State) (n : Nat) (x : Word) : Except (BitVec 8) State :=
  match s.cur with
  | .group k => s.writeGroupCsr k n x
  | .service c => if n < 0x400 then s.writeServiceCsr c n x else s.writePrivCsr c n x

/-- The frame of the writing forms: the register's old value and s[a] give the new one. -/
def State.csrWrite (s : State) (a : BitVec 6) (n : BitVec 12) (f : Word → Word → Word) : Res :=
  s.csrOp n fun s => s.scalarOp [a] [] fun s =>
    if s.csrWaits n.toNat false then .next s
    else match s.writeCsr n.toNat (f ((s.csr n.toNat).getD 0) (s.x a)) with
      | .error e => .next (s.raiseHere e)
      | .ok s1 => .next s1.advance

/-- `wrcsr` (R145). -/
def execWrcsr (a : BitVec 6) (n : BitVec 12) (s : State) : Res := s.csrWrite a n fun _ x => x
/-- `setcsr` (R145). -/
def execSetcsr (a : BitVec 6) (n : BitVec 12) (s : State) : Res := s.csrWrite a n fun old x => old ||| x
/-- `clrcsr` (R145). -/
def execClrcsr (a : BitVec 6) (n : BitVec 12) (s : State) : Res := s.csrWrite a n fun old x => old &&& ~~~x

/-! ### `spsize` (R157) -/

/-- The way count that a request is granted in a cluster. -/
def State.grantWays (s : State) (cl ctx : Nat) (ask : Nat) : Nat :=
  let now := (s.cluster cl).split
  let other := (s.teams.any fun p => p.2.cluster == cl && p.2.ctx != ctx) || s.disp.saved.any fun v => v.team.cluster == cl && v.team.ctx != ctx
  let want := if other then now else min ask 60
  let h := s.teams.foldl (fun m p => if p.2.cluster = cl ∧ p.2.ways ≠ 0 then max m (p.2.way0 + p.2.ways) else m) 0
  max want h

/-- `spsize` (R157). -/
def execSpsize (d a : BitVec 6) (s : State) : Res :=
  s.scalarOp [d, a] [] fun s =>
    if s.hart.ld ≠ 0 ∨ s.hart.st ≠ 0 then .next s
    else
      let cl := s.curCluster
      let n := s.grantWays cl s.who.ctx (s.x a).toNat
      let ctx := if (s.teamsOf cl).isEmpty then s.who.ctx else (s.cluster cl).splitCtx
      .next (((s.openWays cl (s.cluster cl).split n).modCluster cl fun c => { c with split := n, splitCtx := ctx }).setX d (BitVec.ofNat 64 n)).advance

end Sys2Proof.Machine
end

