-- ==== Sys2Proof/Machine/Fleet.lean ====
section
/-! DEFINITION. The management path, bandwidth classes, errors and their reports, power and heat (R401 to R417). -/
namespace Sys2Proof.Machine
open Sys2Proof

/-- Fleet state changed. -/
def State.modFleet (s : State) (f : Fleet → Fleet) : State := { s with fleet := f s.fleet }

/-- Whether a management command is under way: a class that waits for its refill, or a challenge that is not answered (R402). -/
def State.commanded (s : State) : Bool := s.fleet.pending.isSome || s.attest.chals.any fun c => c.addr.isNone

/-- A management command: served in a package that runs, and one at a time (R402). -/
def State.command (s : State) (body : State → State) : Res := .next (if s.boot.phase = 2 ∧ s.commanded = false then body s else s)

/-! ### Information (R401, R411, R413) -/

/-- Signatures still to be made (R398, R413). -/
def State.remaining (s : State) : Nat := 2 ^ 20 - s.attest.index

/-- `GET_INFO` (R401). DESIGN CHOICE of the widths (log entry 20). -/
def execGetInfo (s : State) : Res :=
  s.command fun s => s.respond 1 0 (leBytes 8 Config.partNumber.toNat ++ leBytes 8 s.edge.fwver.toNat ++ leBytes 8 s.attest.index ++
    leBytes 8 (ratedTokens 0) ++ leBytes 8 (ratedTokens 1))

/-- A temperature as a signed byte. -/
def celsiusByte (x : Int) : Byte := BitVec.ofInt 8 x

/-- The telemetry record (R413). Gauges that nothing in the machine determines are free. -/
def State.telemetry (s : State) : List Byte :=
  let c := fun o => leBytes 8 (mapGetD s.fleet.counts o 0)
  let g := fun o n => leBytes n (Config.gauge s.free o)
  let cs := fun o n => (List.range n).flatMap fun i => c (o + 8 * i)
  let b := leBytes 8 0x4D5A544C ++ leBytes 8 s.cycle.toNat ++ leBytes 8 s.fleet.power ++ leBytes 4 s.fleet.limit ++ leBytes 4 s.fleet.mhz ++
    s.fleet.hot.toList.map celsiusByte ++ [0, 0, 0] ++ g 0x28 8 ++ cs 0x30 32 ++ cs 0x130 4 ++ cs 0x150 4 ++
    leBytes 8 (s.fleet.retired.length + bitNat s.fleet.listFull * 2 ^ 63) ++ cs 0x178 3 ++
    leBytes 8 (s.keys.toList.countP fun k => k.state == 2) ++ leBytes 8 (s.keys.toList.countP fun k => k.state == 0) ++
    leBytes 8 s.attest.index ++ leBytes 8 s.remaining ++ leBytes 8 s.edge.hostDiscards ++ s.io.drops.toList.flatMap (leBytes 8)
  (b ++ List.replicate (512 - b.length) 0).take 512

/-- `GET_TELEMETRY` (R413). -/
def execGetTelemetry (s : State) : Res := s.command fun s => { s.respond 2 0 s.telemetry with free := s.free + 1 }

/-- `GET_RETIRED` (R401, R411): up to seven entries, the physical bases of the pages. DESIGN CHOICE of an entry's form (log entry 20). -/
def execGetRetired (first : Nat) (s : State) : Res :=
  s.command fun s => s.respond 6 0 (((s.fleet.retired.drop first).take 7).flatMap fun p => leBytes 8 (p * 65536))

/-- `GET_CRASH` (R386, R401), in parts of 64 bytes. -/
def execGetCrash (s : State) : Res := s.command fun s => s.respondParts 7 0 s.fleet.crash

/-- `CHALLENGE` (R402): its context must be 0; its response comes when it is answered, and no other command is served before. -/
def execChallenge (bytes : List Byte) (s : State) : Res :=
  s.command fun s =>
    let c := challengeOf bytes none 0
    if c.ctx ≠ 0 then s.respond 8 2 [] else s.submit c

/-! ### Bandwidth classes (R403 to R405) -/

/-- The n bytes of a class record at an offset from the command's start. -/
def recNat (b : List Byte) (off n : Nat) : Nat := leNat ((b.drop (off - 4)).take n)

/-- A class of a kind, the same on every die. -/
def State.bucket (s : State) (kind cls : Nat) : Bucket := vgetD (vgetD (s.die 0).buckets kind (Bucket.resetKind kind)) cls ⟨0, 0, false, 0⟩

/-- Whether a class record is BAD_ARG (R404). -/
def State.badClass (s : State) (b : List Byte) : Bool :=
  let x := recNat b 4 1
  let cls := x % 16
  let kind := x / 16 % 2
  let share := recNat b 6 2
  let sum := ((List.range 16).map fun c => if c = cls then share else (s.bucket kind c).share).sum
  x / 64 != 0 || recNat b 5 1 != 0 || recNat b 10 6 != 0 || (0 < share && share < 16) ||
    (share == 0 && (cls == 0 || s.fleet.classOf.any fun p => p.2 == cls)) || recNat b 8 2 < share || ratedTokens kind < sum

/-- `SET_CLASS` (R404): it takes effect at the next refill, and is answered once that has passed on every die. -/
def execSetClass (bytes : List Byte) (s : State) : Res :=
  s.command fun s => if s.badClass bytes then s.respond 3 2 [] else s.modFleet fun f => { f with pending := some (3 :: bytes, []) }

/-- `SET_WORLD_CLASS` (R404): to a class that is enabled, of both kinds of memory. -/
def execSetWorldClass (world cls : BitVec 8) (s : State) : Res :=
  s.command fun s =>
    if world = 255 ∨ 16 ≤ cls.toNat ∨ (s.bucket 0 cls.toNat).share = 0 ∨ (s.bucket 1 cls.toNat).share = 0 then s.respond 4 2 []
    else s.modFleet fun f => { f with pending := some ([4, world, cls], []) }

/-- A pending class record put into force on a die. -/
def Die.setClass (d : Die) (b : List Byte) : Die :=
  let x := recNat b 4 1
  { d with buckets := vmod d.buckets (x / 16 % 2) fun k => vmod k (x % 16) fun c => { c with share := recNat b 6 2, cap := recNat b 8 2, borrow := x.testBit 5 } }

/-- A line charged to a class, with the pool (R405). -/
def Bucket.charge (c : Bucket) (pool : Nat) : Bucket × Nat :=
  if 0 < c.count then ({ c with count := c.count - 1 }, pool)
  else if c.borrow ∧ 0 < pool then (c, pool - 1)
  else ({ c with count := max (c.count - 1) (-c.cap) }, pool)

/-- Lines charged one after another, those of disabled classes not; the buckets and the pool after them. -/
def chargeLines : List (Fin 16) → Vector Bucket 16 × Nat → Vector Bucket 16 × Nat
  | [], k => k
  | i :: rest, k => if k.1[i].share = 0 then chargeLines rest k
    else chargeLines rest (k.1.set i.val (k.1[i].charge k.2).1 i.isLt, (k.1[i].charge k.2).2)

/-- The lines of a kind that a die has moved since its last refill charged. -/
def Die.charge (d : Die) (kind : Nat) (lines : List (Fin 16)) : Die :=
  let k := chargeLines lines (vgetD d.buckets kind (Bucket.resetKind kind), vgetD d.pool kind 0)
  { d with buckets := vset d.buckets kind k.1, pool := vset d.pool kind k.2 }

/-- The class that a world maps to (R403). -/
def State.worldClass (s : State) (w : BitVec 8) : Fin 16 := ⟨mapGetD s.fleet.classOf w.toNat 0 % 16, Nat.mod_lt _ (by decide)⟩

/-- The class that a line moved is charged to, if it is charged (R406): of a fill, the acting world's; of a writeback, the last writer's, which in a page of a world
    can have been that world or world 255 (R389); none for world 255. Which of them wrote last is open (log entry 50). -/
def State.lineClass (s : State) (l : LineMove) : Option (Fin 16) :=
  let of := fun (w : BitVec 8) => if w = 255 then none else some (s.worldClass w)
  match l with
  | .fill w => of w
  | .writeback a w => (match s.pageWorld a with | some p => of (if p = 0 ∨ w = 255 then w else p) | none => none)
  | .firmware => none

/-- Whether a class is blocked on a die (R406): its bucket is empty, and it may not draw from the pool or the pool is empty. Within a period it stays so. -/
def Bucket.blocked (c : Bucket) (pool : Nat) : Bool := c.share != 0 && c.count ≤ 0 && (!c.borrow || pool == 0)

/-- The cycles for which the ports of a die have held requests of its blocked classes counted (R406, R413). -/
def State.chargeHeld (s : State) (die : Nat) : State :=
  let d := s.die die
  let blocked := fun kind c => (vgetD (vgetD d.buckets kind (Bucket.resetKind kind)) c ⟨0, 0, false, 0⟩).blocked (vgetD d.pool kind 0)
  (List.range 16).foldl (fun u c => if blocked 0 c || blocked 1 c then u.tallyBy (0xB0 + 8 * c) (Config.cyclesHeld s.free (16 * die + c)) else u) s

/-- What a die has moved since its last refill charged to its classes, and kind 0 counted for telemetry, with the cycles held (R405, R406, R413). -/
def State.chargePeriod (s : State) (die : Nat) : State :=
  let l := fun kind => (Config.linesMoved s.free (2 * die + kind)).filterMap s.lineClass
  let s1 := (s.modDie die fun d => (d.charge 0 (l 0)).charge 1 (l 1)).chargeHeld die
  (l 0).foldl (fun s c => s.tally (0x30 + 8 * c.val)) { s1 with free := s.free + 1 }

/-- The refill of one kind (R405): the buckets and the pool. -/
def refillKind (kind : Nat) (k : Vector Bucket 16) : Vector Bucket 16 × Nat :=
  let excess := (k.toList.map fun c => if c.share = 0 then 0 else (c.count + c.share - c.cap).toNat).sum
  (k.map fun c => if c.share = 0 then c else { c with count := min (c.count + c.share) c.cap }, min excess (ratedTokens kind))

/-- The refill of a die. -/
def Die.refillAll (d : Die) : Die :=
  let k := fun i => refillKind i (vgetD d.buckets i (Bucket.resetKind i))
  { d with buckets := #v[(k 0).1, (k 1).1], pool := #v[(k 0).2, (k 1).2], refill := d.refill + 1 }

/-- A command that has passed a die's refill; answered once it has passed every die's. -/
def State.passedRefill (s : State) (die : Nat) : State :=
  match s.fleet.pending with
  | none => s
  | some (b, ds) =>
    let done := if ds.contains die then ds else die :: ds
    if done.length < 4 then s.modFleet fun f => { f with pending := some (b, done) }
    else
      let s1 := s.modFleet fun f => { f with
        pending := none, classOf := match b with | [4, w, c] => mapSet f.classOf w.toNat c.toNat | _ => f.classOf }
      s1.respond (b.headD 0).toNat 0 []

/-- `TOKEN_REFILL` (R404, R405): a die's refill, due at every cycle where CYCLE mod 1024 = 0, after the charges of the period that ends there. -/
def execTokenRefill (die : Nat) (s : State) : Res :=
  if 4 ≤ die ∨ s.cycle.toNat / 1024 < (s.die die).refill then .next s
  else
    let s0 := s.chargePeriod die
    let s1 := match s.fleet.pending with
      | some (b, ds) => if b.headD 0 = 3 ∧ !ds.contains die then s0.modDie die fun d => d.setClass (b.drop 1) else s0
      | none => s0
    .next ((s1.modDie die Die.refillAll).passedRefill die)

/-! ### Errors (R408 to R412) -/

/-- A page retired (R411): on the list, unless it is full; the FW event at shard 0 of its die. -/
def State.retirePage (s : State) (page : Nat) : State :=
  if s.fleet.retired.contains page then s
  else
    let isFull := 4096 ≤ s.fleet.retired.length
    let s1 := s.modFleet fun f => { f with retired := if isFull then f.retired else f.retired ++ [page], listFull := f.listFull || isFull }
    let die := match deviceOf (page * 65536) with | some d => d.die | none => 0
    s1.event (die * Config.clustersPerDie) 12 0 0 (BitVec.ofNat 64 (4 + page % 2 ^ 36 * 65536))

/-- The package's fatal error reported: on the management path, and by the PCIe link (R412). -/
def State.reportFatal (s : State) : State :=
  { s with fleet := { s.fleet with pkgFatal := true, alerts := s.fleet.alerts ++ [.package] }, edge := { s.edge with pcieFatal := true } }

/-- The package becomes fatal (R412): every die does, the crash record's die field 0xFF. -/
def State.packageFatal (s : State) (cause : BitVec 8) : State :=
  ((List.range 4).foldl (fun (s : State) d => s.dieFatal d 0xFF (d * Config.clustersPerDie) cause) (s.tally 0x168)).reportFatal

/-- The context that reads a datum, or of which an access that has passed issue is to touch it, with its group's handle (R384, R412): the group that an event
    names, else the first engine operation, matrix operation, group or call that still has an access there. -/
def State.reader (s : State) (slot : Option Nat) (addr : Nat) : Option (Nat × Word) :=
  let here := fun (l : List Seg) => l.any fun a => a.touches addr 1
  let handle := fun (k : Nat) => match s.group k with | some g => handleOf k g | none => 0
  match slot.bind fun k => s.group k with
  | some g => some (g.ctx, handle (slot.getD 0))
  | none =>
    (((s.clusters.toList.findSome? fun c => (c.ops.find? fun o => !o.started && here o.srcSegs).map fun o =>
        (o.ctx, match o.issuer with | .group k _ => handle k | _ => 0)).or
      (s.clusters.toList.findSome? fun c => c.cores.toList.findSome? fun x => (x.mq.find? fun o => here o.src.segs).map fun o => (o.ctx, handle o.slot))).or
      ((s.groups.find? fun p => p.2.hart.atomsMeet addr 1).map fun p => (p.2.ctx, handleOf p.1 p.2))).or
      ((s.io.cmds.find? fun c => here c.segs && c.auth.isSome).bind fun c => c.auth.map fun a =>
        (a.1, match c.job.bind fun j => s.groups.find? fun p => s.trapRecord p.1 == j.1 with | some p => handleOf p.1 p.2 | none => 0))

/-- The context whose team holds a part of a cluster's store, with the handle of the group that alone has it, if one does (R412). -/
def State.holder (s : State) : WinPart → Option (Nat × Word)
  | .way cl w => (s.teams.find? fun p => p.2.cluster == cl && p.2.way0 ≤ w && w < p.2.way0 + p.2.ways).map fun p => (p.2.ctx, 0)
  | .file cl core reg _ => (s.fileOwner cl core reg).bind fun p => (s.group p.1).map fun g => (g.ctx, handleOf p.1 g)
  | .acc cl core _ => (s.teams.find? fun p => p.2.cluster == cl && p.2.pairHeld == some (core / 2)).map fun p => (p.2.ctx, 0)
  | .reserved => none

/-- Whether an address holds data of a die's service kernel: in a page over which no context has a leaf (R412). DESIGN CHOICE (log entry 50). -/
def State.kernelData (s : State) (addr : Nat) : Bool := s.ctxs.all fun c => (s.ctxLeaf c.1 addr).isNone

/-- An uncorrectable error of memory, or of a line on its way, reported at the narrowest level (R384, R409, R412): for the context that the datum is read for; in a
    page of the firmware, for the package; in one of the service kernel, for the die. In a page of a context that nothing reads, as a scrub finds it, it is
    reported once it is read. -/
def State.uncorrectable (s : State) (die : Nat) (slot : Option Nat) (addr : Word) : State :=
  match s.reader slot addr.toNat with
  | some (ctx, h) => s.ctxDie ctx Cause.eccFatal h addr
  | none =>
    if s.pageWorld addr.toNat = some 255 then s.packageFatal Cause.eccFatal
    else if s.kernelData addr.toNat then s.dieFatal die die (die * Config.clustersPerDie) Cause.eccFatal
    else s

/-- The plane that an offset in the reserved part of a cluster's window stands for in a SOFT_ERROR event: its core, and whether it is the active one. DESIGN
    CHOICE (log entry 50): the manual gives planes no address. -/
def planeAt (x : Nat) : Nat × Bool := (x % 0x1000000 / 0x20000 % 4, x / 0x10000 % 2 == 0)

/-- A parity error in a plane (R408): the plane reloaded from its record, by the checks of R192; a reload that fails is uncorrectable. A plane without a record
    holds nothing that is used. -/
def State.planeError (s : State) (cl core : Nat) (active corrected : Bool) (addr : Word) : State :=
  let k := (s.cluster cl).core core
  match (if active then k.active else k.shadow).src, s.teams.find? fun p => p.2.cluster == cl && p.2.pair == some (core / 2) with
  | some r, some (id, t) =>
    match (s.teamGroups id).find? fun g => g.2.index == t.issuer with
    | none => s
    | some (slot, g) =>
      let dead := (s.tally 0x150).ctxDie t.ctx Cause.eccFatal (handleOf slot g) addr
      let s1 := { s with cur := .group slot }
      match s1.reloadOp t id r with
      | .error _ => dead
      | .ok _ => if corrected then { (s1.tally 0x138).reloadPlane t id core active (some r) with cur := s.cur } else dead
  | _, _ => s

/-- An error in on-chip storage at a window offset: corrected in place and counted, of SRAM or of registers; or uncorrectable, and reported for the context that
    reads it, else for the one whose team holds it; in a way that holds no team's data nothing is lost (R408, R412). -/
def State.chipError (s : State) (x : Nat) (corrected : Bool) (slot : Option Nat) (addr : Word) : State :=
  let s1 := s.tally 0x150
  let lost := match (s.reader slot addr.toNat).or (s.holder (winPart x)) with
    | some (ctx, h) => s1.ctxDie ctx Cause.eccFatal h addr
    | none => s1
  if Config.windowSize ≤ x then s
  else match winPart x with
    | .way _ _ => if corrected then s.tally 0x138 else lost
    | .file _ _ _ _ | .acc _ _ _ => if corrected then s.tally 0x140 else lost
    | .reserved => s.planeError (x / 0x1000000) (planeAt x).1 (planeAt x).2 corrected addr

/-- Whether an error is corrected where it is found: a line transfer that fails the first time is asked for again (R408). -/
def ErrorFound.corrected : ErrorFound → Bool
  | .memory c | .sram c => c
  | .transfer again => !again

/-- The 64 bytes of a half-line marked: what an uncorrectable error has hit is not delivered (R408, R409). -/
def State.spoil (s : State) (addr : Nat) : State :=
  { s with damaged := s.damaged ++ (((List.range 64).map fun i => addr / 64 * 64 + i).filter fun k => !s.damaged.contains k) }

/-- An error of memory at an address. Corrected, of memory, it is counted for its page, which retires when it reaches 16 within a scrub pass; of L2, the tag cache or
    a cluster store it is counted as SRAM's; a line transfer is repeated. Uncorrectable, of memory, it retires the page too (R408, R411, R413). -/
def State.memoryError (s : State) (die : Nat) (found : ErrorFound) (slot : Option Nat) (addr : Word) : State :=
  let page := addr.toNat / 65536
  match found with
  | .memory true =>
    let n := mapGetD s.fleet.errors page 0 + 1
    let s1 := (s.tally 0x130).modFleet fun f => { f with errors := mapSet f.errors page n }
    if n = 16 then s1.retirePage page else s1
  | .memory false => ((s.tally 0x150).spoil addr.toNat).retirePage page |>.uncorrectable die slot addr
  | .sram true => s.tally 0x138
  | .sram false => ((s.tally 0x150).spoil addr.toNat).uncorrectable die slot addr
  | .transfer false => s
  | .transfer true => (s.tally 0x150).uncorrectable die slot addr

/-- `SOFT_ERROR` (R200, R408 to R412): an error at a physical address, in memory or on the way of its line; or of on-chip storage, by its key in the window part of
    the map. -/
def execSoftError (addr : Word) (found : ErrorFound) (slot : Option Nat) (s : State) : Res :=
  match deviceOf addr.toNat with
  | none => .next (match winOf addr.toNat with | some x => s.chipError x (ErrorFound.corrected found) slot addr | none => s)
  | some d => .next (s.memoryError d.die found slot addr)

/-- `SCRUB_PASS` (R410, R411): a new pass begins; no value changes. -/
def execScrubPass (s : State) : Res := .next (s.modFleet fun f => { f with errors := [] })

/-- `LINK_CRC_ERROR` (R408, R413): a flit of a link fails, the first time or again in a row. It is sent again, and counted; the ninth failure of one of a die's links
    takes that link down, and the die is die-fatal. What passes over Wordo Link or CXL is sent again as their protocols have it. -/
def execLinkCrcError (link : LinkAt) (again : Bool) (s : State) : Res :=
  match link with
  | .wordo port => .next (if port < 16 then (s.tally 0x148).tally 0x180 else s)
  | .cxl => .next ((s.tally 0x148).tally 0x188)
  | .die die l =>
    let k := 2 ^ 16 * die + l
    if 4 ≤ die ∨ 2 ^ 16 ≤ l ∨ s.fleet.linksDown.contains k then .next s
    else
      let n := if again then mapGetD s.fleet.linkRetry k 0 + 1 else 1
      if n ≤ 8 then .next (((s.tally 0x148).tally 0x178).modFleet fun f => { f with linkRetry := mapSet f.linkRetry k n })
      else
        let s1 := s.modFleet fun f => { f with linkRetry := mapDel f.linkRetry k, linksDown := f.linksDown ++ [k] }
        .next ({ s1 with free := s1.free + 1 }.dieFatal die die (die * Config.clustersPerDie) (freeCause s.free))

/-! ### Power and heat (R415, R417) -/

/-- `SET_POWER_LIMIT` (R415): from 1,600 W to the TDP of the part. -/
def execSetPowerLimit (watts : Nat) (s : State) : Res :=
  s.command fun s =>
    if 1600 ≤ watts ∧ watts ≤ (if Config.partM then 3600 else 3200) then (s.modFleet fun f => { f with limit := watts }).respond 5 0 []
    else s.respond 5 2 []

/-- The clock a step lower, or at its lowest the matrix rows halved. -/
def Fleet.stepDown (f : Fleet) : Fleet := if f.mhz ≤ 800 then { f with halfRows := true } else { f with mhz := max 800 (f.mhz - 50) }
/-- The matrix rows whole again, or the clock a step higher. -/
def Fleet.stepUp (f : Fleet) : Fleet := if f.halfRows then { f with halfRows := false } else { f with mhz := min 1600 (f.mhz + 50) }

/-- `POWER_CONTROL_STEP` (R415): on the power averaged over 10 ms; no step up while the package is throttled for heat. A surge's limit ends with its time. -/
def execPowerControlStep (milliwatts : Nat) (s : State) : Res :=
  .next (s.modFleet fun f =>
    let g := { f with power := milliwatts, surge := match f.surge with | some t => if t ≤ s.time then none else some t | none => none }
    if f.limit * 1000 < milliwatts then g.stepDown else if milliwatts < f.limit * 1000 ∧ f.throttle = 0 then g.stepUp else g)

/-- `CURRENT_SURGE` (R415): the matrix row rate halved, for up to 1 ms. -/
def execCurrentSurge (s : State) : Res := .next (s.modFleet fun f => { f with surge := some (s.time + usTime 1000) })

/-- `THERMAL_THROTTLE` (R417): a reading of the hottest sensor of die 0 to 3 or of the edge die. -/
def execThermalThrottle (sensor : Nat) (celsius : Int) (s : State) : Res :=
  if 5 ≤ sensor then .next s
  else .next (s.modFleet fun f =>
    let g := { f with hot := vset f.hot sensor celsius }
    let top := g.hot.toList.foldl max (vgetD g.hot 0 0)
    let level := if 105 ≤ top ∨ (f.throttle = 2 ∧ 100 ≤ top) then 2 else if 95 ≤ top ∨ (f.throttle ≠ 0 ∧ 93 ≤ top) then 1 else 0
    let h := { g with throttle := level, halfRows := g.halfRows && !(f.throttle == 2 && level != 2) }
    if level = 2 then { h with mhz := 800, halfRows := true } else if level = 1 ∧ f.throttle ≠ 2 then h.stepDown else h)

/-- `THERMAL_TRIP` (R412, R417): 115 °C for 1 ms, or a coolant flow below 1,000 mL/min for 1 s: the package fatal, and the compute dies without power. -/
def execThermalTrip (celsius : Int) (flow : Nat) (s : State) : Res :=
  if celsius < 115 ∧ 1000 ≤ flow then .next s
  else .next ({ s with free := s.free + 1 }.packageFatal (freeCause s.free))

end Sys2Proof.Machine
end

