-- ==== Sys2Proof/Machine/Messages.lean ====
section
/-! DEFINITION. Message ports and the message forms (R148 to R150, R357). -/
namespace Sys2Proof.Machine
open Sys2Proof

/-- The port that a message is for: the kernel port, or the port of a context (R148, R357). -/
def Cluster.port (c : Cluster) (kernel : Bool) (ctx : Nat) : Port := if kernel then c.kport else mapGetD c.ports ctx ⟨[], []⟩

/-- A port of a cluster replaced. -/
def State.setPort (s : State) (cl : Nat) (kernel : Bool) (ctx : Nat) (p : Port) : State :=
  s.modCluster cl fun c => if kernel then { c with kport := p } else { c with ports := mapSet c.ports ctx p }

/-- Whether a receive takes a message tag (R149). -/
def tagMatch (any : Bool) (want got : BitVec 16) : Bool := any || want == got

/-- The depth of a port's queue (R148, R357). -/
def portDepth (kernel : Bool) : Nat := if kernel then 512 else 256

/-- A 16-byte record written at a receive's buffer, a non-capability write (R73, R149). -/
def State.putRecord (s : State) (k rec : Nat) : State := s.writeKeys k (leBytes 16 rec)

/-- Why a message was not delivered now. -/
inductive Undelivered where
  | full | stalled
  deriving DecidableEq, Repr

/-- Whether a service core's message with a tag is for the kernel port (R357); with another it is for the port of context 0. -/
def kernelTag (tag : BitVec 16) : Bool := 0xFF00 ≤ tag.toNat

/-- A kernel message that a shard has: where its type is none of R358's, the shard discards it and counts it. -/
def State.countUnknown (s : State) (rec : Nat) : State :=
  if rec % 256 = 0 ∨ 9 < rec % 256 then { s with io := { s.io with unknown := s.io.unknown + 1 } } else s

/-- A kernel message written at a receive: its event, and its count where its type is unknown (R353, R358). -/
def State.kernelArrives (s : State) (cl slot rec : Nat) : State := (s.event cl 7 0 0 (BitVec.ofNat 64 slot)).countUnknown rec

/-- A message delivered to a port (R149): to the oldest matching receive, whose record is written, else to the queue; none where it is full, or
    where the record's page is being moved (R378) or its accumulator is in use (R28). The kernel port raises KMSG for a record written (R353). True: delivered. -/
def State.deliver (s : State) (cl : Nat) (kernel : Bool) (ctx : Nat) (tag : BitVec 16) (rec : Nat) : Except Undelivered (State × Bool) :=
  let p := (s.cluster cl).port kernel ctx
  match p.recvs.findIdx? fun r => tagMatch r.any r.tag tag with
  | some i =>
    match p.recvs[i]? with
    | some r =>
      if s.writeWaits r.key 16 then .error .stalled
      else
        let s1 := (s.setPort cl kernel ctx { p with recvs := dropAt p.recvs i }).putRecord r.key rec
        .ok (if kernel then s1.kernelArrives cl r.slot rec else s1, true)
    | none => .error .full
  | none =>
    if portDepth kernel ≤ p.queue.length then .error .full
    else .ok (s.setPort cl kernel ctx { p with queue := p.queue ++ [⟨tag, rec⟩] }, false)

/-- The oldest queued message that a receive matches, with the port without it (R149). -/
def Port.take (p : Port) (any : Bool) (tag : BitVec 16) : Option (Nat × Port) :=
  match p.queue.findIdx? fun m => tagMatch any tag m.tag with
  | some i => (p.queue[i]?).map fun m => (m.record, { p with queue := dropAt p.queue i })
  | none => none

/-- The record of a message (R148). A service core has no core number, index or role: those fields are zero. -/
def State.msgRecord (s : State) (payload : Word) : Nat :=
  let (core, index, role) := match s.cur with
    | .group k => match s.group k with | some g => (slotCore k, g.index, g.role) | none => (0, 0, 0)
    | .service _ => (0, 0, 0)
  payload.toNat + 2 ^ 64 * (s.curCluster + core * 2 ^ 8 + index * 2 ^ 10 + role * 2 ^ 14 + s.ownPackage * 2 ^ 16 + 2 ^ 63)

/-- Whether a port address is one (R148, R149). -/
def State.portOk (s : State) (x : Nat) : Bool :=
  bitsOf x 23 16 < 192 && x < 2 ^ 31 && (if x.testBit 30 then s.otherPackage (bitsOf x 29 24) else bitsOf x 29 24 == 0)

/-- `msend` (R149, R150): a release, so it waits for the accesses before it. One to another package is a request over Wordo Link, whose answer is free (R266). -/
def execMsend (d : BitVec 6) (a : BitVec 5) (b : BitVec 6) (s : State) : Res :=
  s.scalarOp [d, b] [a] fun s =>
    let c := s.c a
    let x := c.cursor.toNat
    match capCause s.who c [Perm.message] x 1 1 with
    | some e => .next (s.raise e c.cursor)
    | none =>
      if !s.portOk x then .next (s.raiseHere Cause.transInvalid)
      else if !s.released then .next s
      else if x.testBit 30 then
        if !s.wlRoom (bitsOf x 29 24) then .next s
        else
          let addr := bitsOf x 23 16 * 2 ^ 16 + bitsOf x 15 0
          let s1 := (s.wlPost (bitsOf x 29 24) s.nextId addr s.who.world s.who.ctx (.message (BitVec.ofNat 16 x) (s.msgRecord (s.x b)))).wlAck s.nextId
          match Config.remoteSend s.free with
          | some queued => .next (s1.setX d (if queued then 1 else 0)).advance
          | none => .next ({ s1 with free := s.free + 1 }.raise Cause.msgOverflow c.cursor)
      else
        match s.deliver (bitsOf x 23 16) (s.isService && c.has Perm.system && kernelTag (BitVec.ofNat 16 x)) s.who.ctx (BitVec.ofNat 16 x) (s.msgRecord (s.x b)) with
        | .ok (s1, direct) => .next (s1.setX d (if direct then 0 else 1)).advance
        | .error .full => .next (s.raise Cause.msgOverflow c.cursor)
        | .error .stalled => .next s

/-- Whether the current thread's receive is on the kernel port: a service core's for any tag, or for one of the kernel's (R357). -/
def State.onKernel (s : State) (any : Bool) (tag : BitVec 16) : Bool := s.isService && (any || kernelTag tag)

/-- The frame of the receiving forms: the buffer's checks (R149), a wait while its page is being moved (R264), then the effect on this cluster's port. They ask for store alone: the message permission is
    for sending (R67, R149). DEDUCED (log entry 55). -/
def State.recvOp (s : State) (d : BitVec 6) (a : BitVec 5) (b : BitVec 6) (body : State → Nat → Port → Bool → BitVec 16 → Res) : Res :=
  s.scalarOp [d, b] [a] fun s =>
    s.accessOp (.store (s.c a) (s.c a).cursor.toNat 16) fun k s =>
      let any := (s.x b).getLsbD 16
      let tag := (s.x b).setWidth 16
      if s.moving k 16 then .next s
      else body s k ((s.cluster s.curCluster).port (s.onKernel any tag) s.who.ctx) any tag

/-- This cluster's port for the current thread's receive of a tag replaced. -/
def State.setMyPort (s : State) (any : Bool) (tag : BitVec 16) (p : Port) : State := s.setPort s.curCluster (s.onKernel any tag) s.who.ctx p

/-- A queued message taken by the current thread into its buffer (R149); a shard has one of the kernel port's then (R358). -/
def State.takeRecord (s : State) (any : Bool) (tag : BitVec 16) (p : Port) (k rec : Nat) : State :=
  ((if s.onKernel any tag then s.countUnknown rec else s).setMyPort any tag p).putRecord k rec

/-- `mpost` (R149). Which free slot a receive takes is open (log entry 5). -/
def execMpost (d : BitVec 6) (a : BitVec 5) (b : BitVec 6) (s : State) : Res :=
  s.recvOp d a b fun s k p any tag =>
    match p.take any tag with
    | some (rec, p') => .next ((s.takeRecord any tag p' k rec).setX d 64).advance
    | none =>
      let free := (List.range 64).filter fun i => !(p.recvs.any fun r => r.slot == i)
      if free.isEmpty then .next (s.setX d (BitVec.allOnes 64)).advance
      else
        let slot := free.getD (Config.freePick s.free % free.length) 0
        .next ((s.setMyPort any tag { p with recvs := p.recvs ++ [⟨slot, any, tag, k⟩] }).setX d (BitVec.ofNat 64 slot)).advance

/-- `mrecv` (R149): with no message yet, a group parks before the word, which executes again when it wakes; a service core holds. -/
def execMrecv (d : BitVec 6) (a : BitVec 5) (b : BitVec 6) (s : State) : Res :=
  s.recvOp d a b fun s k p any tag =>
    match p.take any tag with
    | some (rec, p') => .next ((s.takeRecord any tag p' k rec).setX d (BitVec.ofNat 64 rec)).advance
    | none => .next (s.modCurGroup fun g => { g with life := .parked (.recv d.toNat any tag (s.c a)) })

/-- `mprobe` (R149). -/
def execMprobe (d : BitVec 6) (a : BitVec 5) (b : BitVec 6) (s : State) : Res :=
  s.recvOp d a b fun s k p any tag =>
    match p.take any tag with
    | some (rec, p') => .next ((s.takeRecord any tag p' k rec).setX d 1).advance
    | none => .next (s.setX d 0).advance

end Sys2Proof.Machine
end

