-- ==== Sys2Proof/Machine/Supervisor.lean ====
section
/-! DEFINITION. The privileged forms, and the steps of groups that the kernel or the debugger watches: wakes, step stops, samples, words that are no
instruction (R54, R99, R149, R160, R236, R339, R341, R354, R356). -/
namespace Sys2Proof.Machine
open Sys2Proof

/-! ### Privileged forms (R356) -/

/-- The frame of a form on a handle: done on the slot of a current handle whose group the form accepts; otherwise a no-op that sets SSTATUS [1] (R354,
    R356). -/
def State.handleOp (s : State) (a : BitVec 6) (accepts : State → Group → Bool) (body : State → Nat → Group → Res) : Res :=
  s.privOp fun cl => s.scalarOp [a] [] fun s =>
    match (s.handleSlot cl (s.x a)).bind fun k => (s.group k).map fun g => (k, g) with
    | some (k, g) => if accepts s g then body s k g else .next (s.modSvc cl fun v => { v with stale := true }).advance
    | none => .next (s.modSvc cl fun v => { v with stale := true }).advance

/-- Whether a group is Stopped or Trapped. -/
def Group.halted (g : Group) : Bool := g.life == .stopped || g.life == .trapped

/-- `sret` (R356): only in the handler. -/
def execSret (s : State) : Res :=
  s.privOp fun cl => if (s.svc cl).inHandler then .next s.issue.exceptionReturn else .next (s.raiseHere Cause.illegalInsn)

/-- A Stopped group resumed, in the step mode of STEPCTL, which is cleared (R339); its exemption stands since its stop (R337). What the stepped instruction starts
    is numbered from here on. -/
def State.resumeStopped (s : State) (cl k : Nat) : State :=
  let mode := (s.cluster cl).dbg.stepctl.toNat
  (s.modDbg cl fun d => { d with stepctl := 0 }).modGroup k fun g => { g with life := .running, stepping := { g.stepping with mode := mode, pending := false, first := s.nextId } }

/-- A Trapped group given its results, and resumed where the trap's condition holds. -/
def State.resumeTrapped (s : State) (k : Nat) : State :=
  let r := s.deliverCalls k
  if r.2 then (r.1.trace k 5 0 false).runAgain k else r.1

/-- `gresume` (R356): a release of the service core's earlier accesses; the delivery of results waits while the trap record's page is being moved (R264). -/
def execGresume (a : BitVec 6) (s : State) : Res :=
  s.handleOp a (fun _ g => g.halted) fun s k g =>
    if !s.released || (g.life == .trapped && s.trapHeld k) then .next s
    else .next (if g.life = .stopped then s.resumeStopped (slotCluster k) k else s.resumeTrapped k).advance

/-- `gend` (R356). -/
def execGend (a : BitVec 6) (s : State) : Res :=
  s.handleOp a (fun _ g => g.halted) fun s k _ => .next ((s.dropCalls k).enterExiting k).advance

/-- `gsave` (R356, R379): to SSAVEDST as it stands. -/
def execGsave (a : BitVec 6) (s : State) : Res :=
  s.handleOp a (fun s g => g.life != .exiting && (match s.team g.team with | some t => t.save.isNone | none => false))
    fun s k g => .next (s.advance.askSave g.team (s.svc (slotCluster k)).ssavedst false)

/-- `tlbinv` (R356): the entries of a context that hold an address, at this cluster. -/
def execTlbinv (a : BitVec 6) (s : State) : Res :=
  s.privOp fun cl => s.scalarOp [a] [] fun s =>
    let ctx := bitsOf (s.x a).toNat 15 0
    let va := bitsOf (s.x a).toNat 55 16 * 65536
    .next (s.modCluster cl fun c => { c with tlb := c.tlb.filter fun t => !(t.ctx == ctx && t.page == va / 2 ^ t.size) }).advance

/-- `tlbinvall` (R356). -/
def execTlbinvall (s : State) : Res := s.privOp fun cl => .next (s.modCluster cl fun c => { c with tlb := [] }).advance

/-- `revbcast` (R356): the record at physical s[a], 64-aligned. -/
def execRevbcast (a : BitVec 6) (s : State) : Res :=
  s.privOp fun cl => s.scalarOp [a] [] fun s => .next (s.startRevoke cl (physAddr (s.x a) / 64 * 64)).advance

/-- `idle` (R356): holds until there is an event, or CYCLE has reached a nonzero STIMER. -/
def execIdle (s : State) : Res :=
  s.privOp fun cl =>
    let v := s.svc cl
    .next (if !v.events.isEmpty || (v.stimer != 0 && v.stimer.toNat ≤ s.cycle.toNat) then s.advance else s)

/-! ### Wakes -/

/-- `PARKED_GROUP_WAKE` (R54, R147, R149, R236): past its barrier with the token spent; before its `mrecv`, which executes again, once a queued message
    matches. -/
def execParkedGroupWake (slot : Nat) (s : State) : Res :=
  match s.group slot with
  | none => .next s
  | some g =>
    match g.life with
    | .parked (.bar n) =>
      .next (if s.waitOver g n then (s.setToken slot n none).runAgain slot else s)
    | .parked (.recv _ any tag _) =>
      let p := (s.cluster (slotCluster slot)).port false g.ctx
      .next (if p.queue.any fun m => tagMatch any tag m.tag then s.runAgain slot else s)
    | _ => .next s

/-! ### Stepping and samples -/

/-- Whether all that a stepped instruction started has drained (R339): no operation with a number of its own is left. -/
def State.stepDrained (s : State) (k : Nat) (g : Group) : Bool :=
  let old := fun (i : Nat) => i < g.stepping.first
  g.life == .running && (g.hart.pend.all fun p => old p.id) && g.copies.all old && (g.arrivals.all fun a => old a.id) &&
    (((s.cluster (slotCluster k)).mxOf k).all fun o => old o.id) && g.batches.all fun b => old b.id

/-- `STEP_STOP` (R339): STEP, once the stepped instruction's work has drained; FADDR holds its address. An exiting group retires instead; a save that has begun
    takes the pending bit with the group, and STEP is reported after the restore. -/
def execStepStop (slot : Nat) (s : State) : Res :=
  match s.group slot with
  | none => .next s
  | some g =>
    if g.stepping.pending && s.mayIssue g && s.stepDrained slot g then .next (s.stopGroup slot (g.stepping.mode == 2) Cause.step g.stepping.addr 0) else .next s

/-- The group that a sample names (R341): the one that holds the lane issue slot, or the resident one that issued the last scalar instruction. Where no resident
    group has issued, the one in the lowest slot. DESIGN CHOICE (log entry 65). -/
def State.sampled (s : State) (core : Nat) : Option Nat :=
  let k := (s.cluster (core / 4)).core (core % 4)
  let here := fun (x : Nat × BitVec 16) => match s.group x.1 with | some g => g.gen == x.2 | none => false
  match k.holder, k.issuers.find? here with
  | some h, _ => some h
  | none, some x => some x.1
  | none, none => ((List.range 32).map (core * 32 + ·)).find? fun j => (s.group j).isSome

/-- `SAMPLE_RECORD` (R341), by the core's number in the package: the sample of a cycle in which one is due. Time does not pass a due sample (`State.passing`) but where no group
    is resident, and none is written. -/
def execSampleRecord (core : Nat) (s : State) : Res :=
  let cl := core / 4
  let k := (s.cluster cl).core (core % 4)
  let d := (s.cluster cl).dbg
  if !d.ctl.getLsbD 1 || s.cycle.toNat < k.sampleAt then .next s
  else
    let n := max 1 d.smpint.toNat
    let s1 := if d.nextSample k s.cycle.toNat = s.cycle.toNat then (match s.sampled core with | some slot => s.trace slot 1 0 false | none => s) else s
    .next (s1.modCore cl (core % 4) fun c => { c with sampleAt := c.sampleAt + n * ((s.cycle.toNat - c.sampleAt) / n + 1) })

/-! ### Words that are no instruction -/

/-- `UNASSIGNED_OPCODE` (R99): the fault of a word's decoding: of a lane word at the head of the current group's queue, or of a scalar word at the PC. A word
    that decodes has none. -/
def execUnassignedOpcode (lane : Bool) (w : BitVec 96) (s : State) : Res :=
  let cause := fun e => match e with | DecodeError.illegalInsn => Cause.illegalInsn | DecodeError.reservedEnc => Cause.reservedEnc
  if lane then
    match laneFault (.ofWord w), s.cur, s.curGroup with
    | some e, .group k, some g =>
      .next (s.stopGroup k true (cause e) (match g.lane.queue with | r :: _ => r.addr | [] => s.pc) 0)
    | _, _, _ => .next s
  else if isPrivWord (w.setWidth 32) && !s.isService then .next (s.raiseHere Cause.privInsn)
  else
    match decodeScalar (w.setWidth 32) with
    | .error e => .next (s.raiseHere (cause e))
    | .ok _ => .next s

end Sys2Proof.Machine
end

