-- ==== Sys2Proof/Machine/Kernel.lean ====
section
/-! DEFINITION. Kernel messages between shards: calls forwarded and answered, names, invalidations, revocations and their sweeps; and a group whose message
found no room (R293, R357 to R361, R374, R383). -/
namespace Sys2Proof.Machine
open Sys2Proof

/-! ### Sending (R357, R358) -/

/-- The package and cluster of a shard: below 192 a cluster of this package, else 256 × (package + 1) + cluster. -/
def shardOf (n : Nat) : Option Nat × Nat := if n < 192 then (none, n) else (some (n / 256 - 1), n % 256)

/-- Whether two shards may exchange messages: different ones of this package, or the shards of one cluster number of this and another package. -/
def State.shardsMeet (s : State) (src dst : Nat) : Bool :=
  let a := shardOf src
  let b := shardOf dst
  a.2 < 192 && b.2 < 192 &&
    match a.1, b.1 with
    | none, none => src != dst
    | none, some p => s.otherPackage p && a.2 == b.2
    | some p, none => s.otherPackage p && a.2 == b.2
    | some _, some _ => false

/-- The type of the answer to a request type, if it is a request. -/
def answerTo (type : Nat) : Option Nat := match type with | 2 => some 3 | 4 => some 5 | 6 => some 7 | 8 => some 9 | _ => none
/-- The type of request that a type answers, if it is an answer. -/
def requestOf (type : Nat) : Option Nat := match type with | 3 => some 2 | 5 => some 4 | 7 => some 6 | 9 => some 8 | _ => none

/-- Where the sequence number of one shard's requests to another is kept, with 256 × the type of the request that is unanswered. -/
def seqKey (src dst : Nat) : Nat := src * 32768 + dst

/-- The sequence number a message carries and the sequence state after it: a request takes the next one, if none is unanswered; an answer echoes its
    request's; `HELLO` takes the next one. None: the message may not be sent now. -/
def State.kernelSeq (s : State) (type src dst : Nat) : Option (Nat × State) :=
  let put := fun k x => { s with io := { s.io with kseq := mapSet s.io.kseq k x } }
  match requestOf type with
  | some r =>
    let k := seqKey dst src
    let x := mapGetD s.io.kseq k 0
    if x / 256 = r then some (x % 256, put k (x % 256)) else none
  | none =>
    let k := seqKey src dst
    let x := mapGetD s.io.kseq k 0
    if (answerTo type).isSome ∧ 256 ≤ x then none
    else some ((x + 1) % 256, put k ((x + 1) % 256 + (if (answerTo type).isSome then 256 * type else x / 256 * 256)))

/-- Whether a shard has still to take an answer, or a `HELLO`, of another from its kernel port: until then another is not sent (R358). DEDUCED of the acknowledgement
    (log entry 17). -/
def State.unread (s : State) (src dst : Nat) : Bool :=
  let a := shardOf src
  (s.cluster dst).kport.queue.any fun m =>
    (answerTo (m.record % 256)).isNone && m.record / 2 ^ 64 % 2 ^ 16 == a.2 && m.record / 2 ^ 80 % 2 ^ 8 == a.1.getD s.ownPackage % 2 ^ 8

/-- Whether n bytes at an address can hold a message's body: 128-aligned, in HBM4 of the sender's die. -/
def bodyOk (src : Nat) (a : Word) (n : Nat) : Bool :=
  a.toNat % 128 == 0 && a.toNat < 8 * Config.hbmStride &&
    match deviceOf a.toNat with | some d => d.die == clusterDie src && a.toNat + n ≤ d.tags | none => false

/-- Words, then bytes, as a body: lines of 128 bytes, those that no field takes as the event has them. DESIGN CHOICE of the bodies' layouts (log entry 17). -/
def bodyOf (ws : List Nat) (bs rest : List Byte) : List Byte :=
  let b := ws.flatMap (leBytes 8) ++ bs
  let n := max 128 ((b.length + 127) / 128 * 128) - b.length
  b ++ (rest ++ List.replicate n 0).take n

/-- The record of a kernel message (R148, R358). -/
def State.kernelRecord (s : State) (type seq src : Nat) (addr : Word) : Nat :=
  let a := shardOf src
  type + seq * 2 ^ 8 + bitsOf addr.toNat 51 7 * 2 ^ 16 + 2 ^ 64 * (a.2 + (a.1.getD s.ownPackage) * 2 ^ 16 + 2 ^ 63)

/-- The package that a message between packages crosses to, or comes from. -/
def messagePeer (src dst : Nat) : Option Nat := if src < 192 then (shardOf dst).1 else (shardOf src).1

/-- Whether Wordo Link can carry a message between two shards now, as far as it crosses packages. -/
def State.kernelWay (s : State) (src dst : Nat) : Bool :=
  match messagePeer src dst with
  | some p => if src < 192 then s.wlRoom p else s.wlFrom p
  | none => true

/-- A kernel message: its body, which may hold the sequence number, written by a shard of this package, then its record delivered to the kernel port of a shard
    of this package or sent to another. A message that may not be sent, or finds no room, or whose body's page is being moved, changes nothing. DESIGN CHOICE of the tag, 0xFF00 + the type (log
    entry 17). -/
def State.kernelMsg (s : State) (type src dst : Nat) (addr : Word) (body : Nat → List Byte) (effect : State → State) : Res :=
  match s.kernelSeq type src dst with
  | none => .next s
  | some (seq, s1) =>
    let b := body seq
    if !s.shardsMeet src dst || !s.kernelWay src dst || (src < 192 && (!bodyOk src addr b.length || s.moving addr.toNat b.length)) || s.boot.phase != 2 ||
      ((answerTo type).isNone && s.unread src dst) then .next s
    else
      let s2 := if src < 192 then s1.writeKeys addr.toNat b else s1
      let tag := BitVec.ofNat 16 (0xFF00 + type)
      let rec' := s2.kernelRecord type seq src addr
      match (shardOf dst).1 with
      | some p => .next (effect ((s2.wlPost p s2.nextId (dst % 256 * 2 ^ 16 + tag.toNat) 255 0 (.message tag rec')).wlAck s2.nextId))
      | none =>
        match s2.deliver dst true 0 tag rec' with
        | .ok (s3, _) => .next (effect s3)
        | .error _ => .next s

/-! ### Invalidations and sweeps (R374, R383) -/

/-- The entries of a context that meet a page invalidated at a cluster. -/
def State.shootTlb (s : State) (cl ctx va n : Nat) : State :=
  s.modCluster cl fun c => { c with tlb := c.tlb.filter fun t => !(t.ctx == ctx && t.page * 2 ^ t.size < va + n && va < (t.page + 1) * 2 ^ t.size) }

/-- Whether a shard sweeps a byte for a context: in a page of the context on the shard's die whose number modulo 48 is the shard's (R383). -/
def State.sweeps (s : State) (cl ctx k : Nat) : Bool :=
  k / 65536 % 48 == cl % Config.clustersPerDie && (match deviceOf k with | some d => d.die == clusterDie cl | none => false) &&
    (s.ctxLeaf ctx k).isSome

/-- Whether a key lies in the scratchpad of a team of a context in a cluster. -/
def State.inPads (s : State) (cl ctx k : Nat) : Bool :=
  s.teams.any fun p => p.2.ctx == ctx && p.2.cluster == cl && wayKey cl p.2.way0 ≤ k && k < wayKey cl p.2.way0 + p.2.ways * 0x8000

/-- The tags of capabilities of some colours cleared in a shard's share of a context's pages, and in the scratchpads of its teams in the shard's cluster; where a
    page is being moved in its copy too. -/
def State.sweepPages (s : State) (cl ctx : Nat) (colours : BitVec 256) : State :=
  (s.tags.filter fun g => colours.getLsbD (s.readCap (16 * g)).colour.toNat && (s.sweeps cl ctx (16 * g) || s.inPads cl ctx (16 * g))).foldl
    (fun s g => s.dropTag (16 * g)) s

/-- The nodes of a context's graphs in the store of a die swept (R223), by the first shard of the die. DESIGN CHOICE of that (log entry 13). -/
def State.sweepGraphs (s : State) (cl ctx : Nat) (colours : BitVec 256) : State :=
  if cl % Config.clustersPerDie ≠ 0 then s
  else s.modDie (clusterDie cl) fun d => { d with graphs := d.graphs.map fun p => if p.2.ctx = ctx then
    (p.1, { p.2 with nodes := p.2.nodes.map fun n => { n with tags := stripTags colours n.body n.tags } }) else p }

/-- The tag bits that an image holds, each with the address of its capability: of the scratchpad, the plane records, the matrix operations, and of each
    group's code capabilities, capability registers, tag shadows and snapshots (R381, R382). The trap records, whose
    tags stand beside them, are swept apart. -/
def imageTagBits (v : Saved) : List (Nat × Nat × Nat) :=
  let b := physAddr v.image
  let (tags, _, secs) := imageParts v.team.ways v.team.pair.isSome
  let group := fun i =>
    let o := b + secs + secStride * i
    let regs := fun at' tag n => (List.range n).map fun j => (o + tag + j / 8, j % 8, o + at' + 16 * j)
    regs 8 0x28 2 ++ regs 0x300 0x500 32 ++
      ((List.range 64).flatMap fun r => (List.range 16).map fun j => (o + 0xA00 + 8 * r + j / 8, j % 8, o + 0x3000 + trapSize + 96 * 256 + 256 * r + 16 * j)) ++
      ((List.range 4).flatMap fun q => regs (0x1000 + 2048 * q + 0x240) (0x1000 + 2048 * q + 0x440) 32)
  ((List.range (v.team.ways * 2048)).map fun g => (b + tags + g / 8, g % 8, b + 0x1000 + 16 * g)) ++
    ((List.range 4).map fun i => (b + 0x940 + 32 * i + 24, 1, b + 0x940 + 32 * i)) ++
    ((List.range v.mx.length).map fun i => let o := b + (if i = 0 then 0x900 else 0x980 + 64 * i); (o + 32, 0, o + 16)) ++
    (List.range v.groups.length).flatMap group

/-- A saved image swept, and what the machine keeps of it. -/
def State.sweepImage (s : State) (v : Saved) (colours : BitVec 256) : State :=
  (imageTagBits v).foldl (fun (s : State) t =>
    let x := s.keyByte t.1
    if x.getLsbD t.2.1 && colours.getLsbD (s.readCap t.2.2).colour.toNat then s.keyPut t.1 (x &&& ~~~(BitVec.ofNat 8 (2 ^ t.2.1))) else s)
    ((List.range v.groups.length).foldl (fun s i => s.stripTrap colours (v.recordAt i)) s)

/-- A shard's sweep (R75 step 2, R383): its share of the context's memory, of the graph stores, and the saved images of its cluster. Messages hold no
    capabilities. -/
def State.sweep (s : State) (cl ctx : Nat) (colours : BitVec 256) : State :=
  let mine := fun (v : Saved) => v.team.cluster == cl && v.team.ctx == ctx
  let s1 := (s.disp.saved.filter mine).foldl (fun (s : State) v => s.sweepImage v colours) ((s.sweepPages cl ctx colours).sweepGraphs cl ctx colours)
  { s1 with disp := { s1.disp with saved := s1.disp.saved.map fun v => if mine v then v.strip colours else v } }

/-! ### `HELLO` (R358, R360) -/

/-- The shard of a die that owns admin queues asks at each what the drives offer (R360): of the ports that its die faces, as far as no command is outstanding
    there. DESIGN CHOICE of when it asks (log entry 18). -/
def State.askDrives (s : State) (cl : Nat) : State :=
  if cl % Config.clustersPerDie ≠ 0 then s
  else s.modIo fun io => { io with admin := io.admin ++ (List.range 8).filter fun p => p % 4 == clusterDie cl && !io.admin.contains p }

/-- `HELLO`: the sender's cluster and the digest of the kernel image that runs. -/
def execHello (src dst : Nat) (addr : Word) (rest : List Byte) (s : State) : Res :=
  s.kernelMsg 1 src dst addr (fun _ => bodyOf [src] (imgBytes s.boot.digests 32 32) rest) fun s => if src < 192 then s.askDrives src else s

/-! ### Calls forwarded and answered (R293, R331) -/

/-- The ranges of its buffer that a call has its owner use, checked: direction, offset and length (R290). -/
def Call.buffer (c : Call) : Option (Bool × Nat × Nat) :=
  match c.num with
  | 0x10 => some (false, c.arg 0, c.arg 1)
  | 0x11 => some (true, c.arg 3, c.arg 2)
  | 0x12 => some (false, c.arg 3, c.arg 2)
  | 0x14 => some (true, c.arg 1, 32)
  | 0x20 => some (false, c.arg 2, 32)
  | 0x21 => some (false, c.arg 1, c.arg 2)
  | 0x22 => some (true, c.arg 1, c.arg 2)
  | _ => none

/-- Where those ranges lie; nothing where a check fails, which the service meets again. -/
def State.bufferSegs (s : State) (c : Call) : List Seg :=
  match c.buffer with
  | some (wr, off, len) => (match s.callRange c wr [if wr then Perm.store else Perm.load] off len 1 with | .ok segs => segs | .error _ => [])
  | none => []

/-- The handle and `GRIDID` of the group that made a call, resident, or saved, then as it was when it made it (R331). -/
def State.callerIds (s : State) (c : Call) : Word × BitVec 32 :=
  match s.groups.find? fun p => s.trapRecord p.1 == c.at0 with
  | some (k, g) => (handleOf k g, g.gridId)
  | none =>
    match s.disp.saved.findSome? fun v => ((List.range v.groups.length).find? fun i => v.recordAt i == c.at0).map fun i => (v, i) with
    | some (v, i) => (v.handles.getD i 0, v.team.gridId)
    | none => (0, 0)

/-- A set of elements as a mask. -/
def Call.mask (c : Call) : Nat := (c.elems.map fun i => 2 ^ i).sum

/-- The body of `CALL_FWD`: number and element mask; object; six arguments; handle; `GRIDID`; then first byte and length of each range. -/
def State.fwdBody (s : State) (c : Call) (rest : List Byte) : List Byte :=
  let (h, grid) := s.callerIds c
  bodyOf ([c.num + c.mask * 2 ^ 32, (s.callObject c).getD 2 0] ++ (List.range 6).map c.arg ++ [h.toNat, grid.toNat] ++
    (s.bufferSegs c).flatMap fun a => [a.lo, a.len]) [] rest

/-- `CALL_FWD` (R293): the call of an element of a record goes from the shard that it was made at to the one that serves it, which has it from then on. -/
def execCallFwd (rec : Word) (k : Nat) (addr : Word) (rest : List Byte) (s : State) : Res :=
  match s.callAt rec.toNat k (s.readNat rec.toNat 8 % 256) with
  | none => .next s
  | some c =>
    let owner := s.callOwner c
    if (s.jobOf c).isSome || owner == c.cluster || s.earlierCall c then .next s
    else s.kernelMsg 2 c.cluster owner addr (fun _ => s.fwdBody c rest) fun s1 => s1.modIo fun io => { io with jobs := io.jobs ++ [s.newJob c owner .sent] }

/-- Whether a service has come to its end at its owner: it has ended, or its caller is gone and no drive has a command of it (R295). -/
def State.answered (s : State) (j : Job) : Bool :=
  match j.stage with
  | .ended _ _ => true
  | _ => (s.callAt j.at0 j.k j.num).isNone && !s.io.cmds.any fun c => c.job == some (j.at0, j.k)

/-- The forwarded service to be answered for an element of a record: that one, or one whose caller is gone. -/
def State.dueReply (s : State) (rec k : Nat) : Option Job :=
  let due := s.io.jobs.filter fun j => j.owner != j.asker && s.answered j
  (due.find? fun j => j.at0 == rec && j.k == k).or (due.find? fun j => j.at0 == noRecord)

/-- The body of `CALL_REPLY`: caller handle, result, error code, element mask. -/
def State.replyBody (s : State) (j : Job) (rest : List Byte) : List Byte :=
  let (r, e) := match j.stage with | .ended r e => (r.toNat, e) | _ => (0, 0)
  match s.callAt j.at0 j.k j.num with
  | some c => bodyOf [(s.callerIds c).1.toNat, r, e, c.mask] [] rest
  | none => bodyOf [0, r, e, 0] [] rest

/-- `CALL_REPLY` (R293, R331): the owner's answer, whose result the shard of the caller records; that of a call whose caller is gone is discarded (R295). -/
def execCallReply (rec : Word) (k : Nat) (addr : Word) (rest : List Byte) (s : State) : Res :=
  match s.dueReply rec.toNat k with
  | none => .next s
  | some j =>
    if (s.callAt j.at0 j.k j.num).isSome && s.moving j.at0 0x1000 then .next s
    else s.kernelMsg 3 j.owner j.asker addr (fun _ => s.replyBody j rest) fun s1 =>
      let s2 := s1.modIo fun io => { io with jobs := io.jobs.erase j }
      match j.stage, s.callAt j.at0 j.k j.num with
      | .ended r e, some c => s2.callDone c r e
      | _, _ => s2

/-! ### Names (R361) -/

/-- A name added everywhere: the create goes on. -/
def State.namingDone (s : State) : State :=
  match s.io.naming with
  | some n => if n.untold.isEmpty && n.due.isEmpty then s.modIo fun io => { io with naming := none, dirs := mapDel io.dirs n.obj } else s
  | none => s

/-- `NAME_ADD` (R361): shard 0 tells another the name that is being added: owner and object number, the name's length, the name. -/
def execNameAdd (src dst : Nat) (addr : Word) (rest : List Byte) (s : State) : Res :=
  match s.io.naming with
  | none => .next s
  | some n =>
    let name := match mapGet s.io.objects n.obj with | some x => x.name | none => []
    if src ≠ 0 ∨ !n.untold.contains dst then .next s
    else s.kernelMsg 4 0 dst addr (fun _ => bodyOf [n.obj, name.length] name rest) fun s => s.modIo fun io => { io with
      dirs := mapMod (fun l => l.filter (· != dst)) io.dirs n.obj, naming := some { n with untold := n.untold.filter (· != dst), due := n.due ++ [dst] } }

/-- `NAME_ACK` (R361): to shard 0. -/
def execNameAck (src dst : Nat) (addr : Word) (rest : List Byte) (s : State) : Res :=
  match s.io.naming with
  | none => .next s
  | some n =>
    if dst ≠ 0 ∨ !n.due.contains src then .next s
    else s.kernelMsg 5 src 0 addr (fun q => bodyOf [q] [] rest) fun s =>
      (s.modIo fun io => { io with naming := some { n with due := n.due.filter (· != src) } }).namingDone

/-! ### Invalidations and revocations (R358, R374, R383) -/

/-- `TLB_SHOOT` (R374): the receiver's TLB loses the entries of a context that meet a page. -/
def execTlbShoot (src dst : Nat) (addr : Word) (body : ShootBody) (s : State) : Res :=
  let n := pageSize body.size.toNat
  s.kernelMsg 6 src dst addr (fun _ => bodyOf [body.ctx, body.va.toNat, body.size.toNat] [] body.rest) fun s =>
    if dst < 192 then s.shootTlb dst body.ctx (body.va.toNat / n * n) n else s
/-- `TLB_ACK` (R374). -/
def execTlbAck (src dst : Nat) (addr : Word) (rest : List Byte) (s : State) : Res := s.kernelMsg 7 src dst addr (fun q => bodyOf [q] [] rest) id

/-- The body of a revocation's messages: context, with the phase in bit 16; colours. -/
def colourBody (b : ColourBody) (release : Bool) : List Byte := bodyOf [b.ctx + bitNat release * 2 ^ 16] (leBytes 32 b.colours.toNat) b.rest

/-- `REVOKE` (R383). -/
def execRevoke (src dst : Nat) (addr : Word) (body : ColourBody) (s : State) : Res := s.kernelMsg 8 src dst addr (fun _ => colourBody body body.release) id
/-- `SWEEP_DONE` (R383): the sender's sweep, then its message. The home shard's own sweep needs none. -/
def execSweepDone (src dst : Nat) (addr : Word) (body : ColourBody) (s : State) : Res :=
  let swept := fun (s : State) => if src < 192 then s.sweep src body.ctx body.colours else s
  if src = dst then .next (swept s)
  else s.kernelMsg 9 src dst addr (fun _ => colourBody body false) swept

/-! ### `MSG_OVERFLOW` (R359) -/

/-- Whether the overflow queue that a stopped sender's port address names has fallen to 192 records; whether one of another package has is free. -/
def State.roomAt (s : State) (ctx : Nat) (faddr : Word) : Bool :=
  if faddr.getLsbD 30 then Config.freePick s.free % 2 == 1 else ((s.cluster (bitsOf faddr.toNat 23 16)).port false ctx).queue.length ≤ 192

/-- The report of a group ended for its message, to the context's owner: an entry of the context's log with the group's handle and the port address. DESIGN CHOICE
    of its form (log entry 17). -/
def State.reportSender (s : State) (k : Nat) (g : Group) : State :=
  s.modCtx g.ctx fun c => { c with log := c.log ++ [leBytes 8 (handleOf k g).toNat ++ leBytes 8 g.hart.faddr.toNat] }

/-- `MSG_OVERFLOW_TIMEOUT` (R359): the shard of a stopped sender resumes it once there is room, and its `msend` executes again; where its target's queue has not
    fallen to 192 within 100 ms it is ended as by `gend`, and reported. -/
def execMsgOverflowTimeout (slot : Nat) (s : State) : Res :=
  match s.group slot with
  | none => .next s
  | some g =>
    if !(g.life == .stopped && g.hart.cause == Cause.msgOverflow.setWidth 9) then .next s
    else
      let s1 := { s with free := s.free + 1 }
      if s.roomAt g.ctx g.hart.faddr then .next (s1.resumeStopped (slotCluster slot) slot)
      else if g.stopAt + usTime 100000 ≤ s.time then .next (((s1.reportSender slot g).dropCalls slot).enterExiting slot)
      else .next s

end Sys2Proof.Machine
end

