-- ==== Sys2Proof/Machine/Loader.lean ====
section
/-! DEFINITION. The loader of kernel images, a function of the service kernel (R104, R238, R267, R268, R278, R365, R371). -/
namespace Sys2Proof.Machine
open Sys2Proof

/-! ### The image (R365) -/

/-- Section i of an image, `.scalar`, `.lane`, `.data`, `.rodata`, the routine table: its offset and length. -/
def imageSpan (b : List Byte) (i : Nat) : Nat × Nat := (leNat ((b.drop (8 + 8 * i)).take 4), leNat ((b.drop (12 + 8 * i)).take 4))
/-- Its bytes. -/
def imageSection (b : List Byte) (i : Nat) : List Byte := (b.drop (imageSpan b i).1).take (imageSpan b i).2
/-- The descriptor template. -/
def imageTemplate (b : List Byte) : List Byte := (b.drop 64).take 256

/-- Whether an image has the form of R365; bytes that its header does not list are ignored (R7). -/
def imageFormed (b : List Byte) : Bool :=
  320 ≤ b.length && leNat (b.take 4) == 0x4D5A4B31 && leNat ((b.drop 4).take 4) == 1 &&
    ((List.range 5).all fun i => (imageSpan b i).1 + (imageSpan b i).2 ≤ b.length) && (imageSpan b 4).2 % 132 == 0

/-- The entries of the routine table: number, count of words, the words. -/
def imageRoutines (b : List Byte) : List (Nat × Nat × List Byte) :=
  let t := imageSection b 4
  (List.range (t.length / 132)).map fun i =>
    let e := (t.drop (132 * i)).take 132
    let w := leNat (e.take 4)
    (bitsOf w 5 0, bitsOf w 12 8 + 1, (e.drop 4).take (4 * (bitsOf w 12 8 + 1)))

/-! ### Where its parts go -/

/-- A part of a loaded kernel in the context's memory: its length, the bits of its leaves, the permissions of the capability over it and the place in the
    descriptor where that stands, and its bytes; past them it is zero. -/
structure Part where
  len   : Nat
  bits  : Nat
  perms : Nat
  at'   : Nat
  bytes : List Byte
  deriving DecidableEq, Repr

/-- A set of permissions as the field of a capability. -/
def permBits (l : List Nat) : Nat := (l.map fun i => 2 ^ i).sum

/-- The parts of a kernel (R267, R278, R365): the sections, code and read-only data not writable; the private pool; the spill area; and the descriptor itself. -/
def kernelParts (b : List Byte) (spill : Nat) : List Part :=
  let sec := fun i => imageSection b i
  let t : Rec := ⟨imageTemplate b, []⟩
  let rw := permBits [Perm.load, Perm.store, Perm.global]
  [⟨(sec 0).length, 0x37, permBits [Perm.execScalar, Perm.global], 0, sec 0⟩, ⟨(sec 1).length, 0x37, permBits [Perm.execLane, Perm.global], 16, sec 1⟩,
   ⟨Config.nSlots * descPriv t * 256, leafData, rw, 32, []⟩, ⟨spill, leafData, rw, 48, []⟩,
   ⟨(sec 2).length, leafData, permBits [Perm.load, Perm.store, Perm.loadCap, Perm.storeCap, Perm.atomic, Perm.engSrc, Perm.engDst, Perm.global], 144, sec 2⟩,
   ⟨(sec 3).length, 0x27, permBits [Perm.load, Perm.loadCap, Perm.engSrc, Perm.global], 160, sec 3⟩]

/-- Each part with its first address from one on: on a page of its own, aligned so that a capability over it is exact (R141). DESIGN CHOICE (log entry 66). -/
def placeParts : Nat → List Part → List (Part × Nat)
  | _, [] => []
  | x, p :: l =>
    let a := exactAlign ((x + 65535) / 65536 * 65536) p.len
    (p, a) :: placeParts (a + p.len) l

/-! ### Loading -/

/-- A root capability of a context (R369, R371). -/
def State.root (s : State) (ctx i : Nat) : Cap := s.readCap (s.ctxWord ctx (0x80 + 16 * i))

/-- The capability over a part, derived from a root: none over an empty one but that of the lane code. -/
def partCap (root : Cap) (p : Part) (a : Nat) : Cap :=
  if p.len = 0 ∧ p.at' ≠ 16 then .null
  else
    let r := root.setBounds a p.len
    { r.1 with perms := BitVec.ofNat 16 p.perms &&& root.perms, tag := root.tag && root.otype == 0 && r.2.1 }

/-- Pages of a list mapped over [a, a + n) for a context with the bits of a leaf, and the pages left; none where the list does not suffice or a page is
    mapped already. -/
def State.mapFresh (s : State) (ptbase bits a n : Nat) (pool : List Word) : Option (State × List Word) :=
  (List.range ((n + 65535) / 65536)).foldl (fun (r : Option (State × List Word)) i => r.bind fun p =>
    let va := a + 65536 * i
    match p.1.walk none va ptLevels ptbase with
    | .ok _ => none
    | .error _ => p.1.mapPage va bits ptLevels ptbase p.2) (some (s, pool))

/-- Bytes written at a virtual address of a context, page by page, by the kernel: where its leaves lead. -/
def State.putVirtual (s : State) (ptbase : Nat) (a : Nat) (bs : List Byte) : State :=
  (List.range ((bs.length + 65535) / 65536)).foldl (fun (s : State) i =>
    match s.walk none (a + 65536 * i) ptLevels ptbase with
    | .ok (e, sz) => s.writeKeys (leafKey e sz (a + 65536 * i)) ((bs.drop (65536 * i)).take 65536)
    | .error _ => s) s

/-- The words of a descriptor that the loader fills beside its capabilities: the ring's bits of the team word, and the Basket word (R268). -/
def fillWords (t : List Byte) (ring basket : Word) : List Byte :=
  let team := leNat ((t.drop 128).take 8)
  t.take 128 ++ leBytes 8 (team ||| bitsOf ring.toNat 21 12 * 2 ^ 12) ++ leBytes 8 basket.toNat ++ t.drop 144

/-- The descriptor written at a physical address: the template, then the capability over each part, which is a capability store (R267). -/
def State.putDescriptor (s : State) (k : Nat) (t : List Byte) (caps : List (Nat × Cap)) : State :=
  caps.foldl (fun (s : State) p => if p.2.isNull then s else s.writeCap (k + p.1) p.2 p.2.tag) (s.writeKeys k t)

/-- A kernel image loaded for a Live context at an address (R365): its parts mapped in fresh pages and filled, the descriptor after them, its routines installed. None
    where the image has another form, or the pages do not suffice or may not be taken. -/
def State.loadKernel (s : State) (ctx : Nat) (b : List Byte) (base : Word) (pages : List Word) (ring basket : Word) (spill : Nat) : Option State :=
  match s.ctx ctx with
  | none => none
  | some c =>
    let parts := placeParts base.toNat (kernelParts b spill)
    let desc := (match parts.getLast? with | some (p, a) => a + p.len | none => base.toNat) + 65535
    let at' := desc / 65536 * 65536
    let place : Part := ⟨256, leafData, 0, 0, []⟩
    let pt := physAddr c.ptbase
    let mapped := (parts ++ [(place, at')]).foldl (fun (r : Option (State × List Word)) p => r.bind fun q =>
      q.1.mapFresh pt p.1.bits p.2 p.1.len q.2) (some (s, pages))
    if c.state != .live || !imageFormed b || 2 ^ 56 < at' + 256 || !s.pagesFree ctx (clusterDie c.home) pages then none
    else mapped.bind fun m =>
      let s1 := parts.foldl (fun (s : State) p => s.putVirtual pt p.2 p.1.bytes) (m.1.givePages ctx (pages.take (pages.length - m.2.length)))
      let root := fun (p : Part) => s.root ctx (if p.at' < 32 then 1 else 0)
      let caps := parts.map fun p => (p.1.at', partCap (root p.1) p.1 p.2)
      match s1.walk none at' ptLevels pt with
      | .ok (e, sz) =>
        let s2 := s1.putDescriptor (leafKey e sz at') (fillWords (imageTemplate b) ring basket) caps
        some ((imageRoutines b).foldl (fun (s : State) r => s.installRoutine ctx r.1 r.2.2 r.2.1) s2)
      | .error _ => none

end Sys2Proof.Machine
end

