-- ==== Sys2Proof/Machine/Links.lean ====
section
/-! DEFINITION. What the host asks for over PCIe and CXL, and Wordo Link: bringing a port up, requests of other packages, retransmission (R148, R265, R266,
R347, R364 to R367, R389). -/
namespace Sys2Proof.Machine
open Sys2Proof

/-! ### Host and CXL accesses (R364, R389) -/

/-- Whether [k, k + n) lies in HBM4 in pages of world 0. -/
def State.hostReach (s : State) (k n : Nat) : Bool :=
  k + n ≤ 8 * Config.hbmStride && (List.range n).all fun i => s.pageWorld (k + i) == some 0

/-- Where the bytes [off, off + n) of BAR2 lie, 64 KiB page by page, if all are mapped onto pages that the host may reach. -/
def State.bar2Segs (s : State) (off n : Nat) : Option (List Seg) :=
  (List.range ((off + n + 65535) / 65536 - off / 65536)).foldr (fun i r =>
    let p := off / 65536 + i
    let lo := max off (65536 * p)
    let len := min (off + n) (65536 * (p + 1)) - lo
    match r, mapGet s.edge.bar2 p with
    | some l, some a => let k := a * 65536 + lo % 65536; if s.hostReach k len then some (⟨k, len⟩ :: l) else none
    | _, _ => none) (some [])

/-- What the host has read. -/
def State.hostGets (s : State) (bs : List Byte) : State := { s with edge := { s.edge with hostData := bs } }

/-- A page of BAR2 mapped by the kernel onto the page of HBM4 of world 0 that holds an address; another is not (R364). -/
def State.mapBar2 (s : State) (page phys : Nat) : State :=
  let k := phys / 65536 * 65536
  if page < 2 ^ 23 ∧ k + 65536 ≤ 8 * Config.hbmStride ∧ s.pageWorld k = some 0 then { s with edge := { s.edge with bar2 := mapSet s.edge.bar2 page (k / 65536) } } else s

/-- `HOST_ACCESS` (R347, R364, R365, R389): BAR2, as world 0: a refused read returns all ones, a refused write is dropped; both are counted. A write is untagged
    (R73), and is of as many bytes as its length. A register of BAR0 is read; pages of BAR2 mapped, or an image loaded, by the kernel. -/
def execHostAccess (place len : Nat) (ask : HostAsk) (s : State) : Res :=
  match ask with
  | .read =>
    match s.bar2Segs place len with
    | some segs => .next (if s.segsSpoilt segs then s else s.hostGets (s.readSegs segs))
    | none => .next ((s.tally 0).hostGets (List.replicate len 255))
  | .write bs =>
    if bs.length ≠ len then .next s
    else match s.bar2Segs place len with
      | some segs => .next (if segs.any fun a => s.moving a.lo a.len then s else s.writeSegs segs bs)
      | none => .next (s.tally 0)
  | .reg => .next (s.hostGets (((leBytes 8 (s.edgeHostReg (place / 8 * 8)).toNat).drop (place % 8)).take len))
  | .map phys => .next ((List.range len).foldl (fun (s : State) i => s.mapBar2 (place + i) (phys.toNat + 65536 * i)) s)
  | .load ctx image pages ring basket => .next ((s.loadKernel ctx image (BitVec.ofNat 64 place) pages ring basket len).getD s)

/-! ### Bringing a port up (R366, R367) -/

/-- The neighbour of this package in a dimension and direction. -/
def State.neighbour (s : State) (d : Nat) (plus : Bool) : Nat :=
  let n := s.dimSize d
  let w := s.dimStride d
  let x := s.ownPackage / w % n
  s.ownPackage - x * w + (if plus then (x + 1) % n else (x + n - 1) % n) * w

/-- Whether the peer of a port is the one that the topology predicts (R367). -/
def State.peerOk (s : State) (port peerPkg peerDim : Nat) (peerPlus : Bool) (peerSec : Nat) : Bool :=
  let plus := port % 4 < 2
  s.packages ≤ 64 && 1 < s.dimSize (port / 4) && peerDim == port / 4 && peerPlus != plus && peerPkg != s.ownPackage &&
    peerPkg == s.neighbour (port / 4) plus && s.boot.fused ≤ peerSec

/-- `WL_PORT_BRINGUP` (R366, R367): enabled, or disabled and reported; with more than 64 packages every link stays down, and `BOOTSTAT` reports it. -/
def execWlPortBringup (port peerPkg peerDim : Nat) (peerPlus : Bool) (peerSec : Nat) (s : State) : Res :=
  if 16 ≤ port ∨ s.boot.phase ≠ 2 then .next s
  else
    let ok := s.peerOk port peerPkg peerDim peerPlus peerSec
    let code := (Config.refusalCode (leBytes 8 s.edge.wltopo.toNat)).setWidth 64 <<< 8
    .next { s with edge := { s.edge with
      wlports := vset s.edge.wlports port ⟨ok, !ok⟩,
      bootstat := if 64 < s.packages then (s.edge.bootstat &&& 0xFF) ||| code else s.edge.bootstat } }

/-! ### Requests of other packages (R265, R266) -/

/-- Bytes that a request touches, and what they are aligned to. -/
def RemoteKind.extent : RemoteKind → Nat × Nat
  | .read n => (n, 1)
  | .write bs _ => (bs.length, 1)
  | .atomic op _ _ _ _ => (atomSize op.toNat, atomSize op.toNat)
  | .routine _ _ _ => (128, 128)
  | .message _ _ => (0, 1)

/-- Whether a request writes memory. -/
def RemoteKind.writes : RemoteKind → Bool
  | .read _ | .message _ _ => false
  | _ => true

/-- Whether a request reads nothing of the memory that it names. -/
def RemoteKind.overwrites : RemoteKind → Bool
  | .write _ _ | .message _ _ => true
  | _ => false

/-- The cause for which a request is refused, if it is: its pages' worlds, then its context (R266). -/
def State.remoteRefusal (s : State) (world : BitVec 8) (ctx k n : Nat) : Option (BitVec 8) :=
  if !((List.range n).all fun i => match s.pageWorld (k + i) with | some w => worldMay world w | none => false) then some Cause.worldMismatch
  else if n ≠ 0 ∧ s.ctxState ctx ≠ .live then some Cause.transInvalid else none

/-- Bytes written with the tags that came beside their beats: a whole granule takes its tag, in order, any other loses it (R73). -/
def State.remotePut (s : State) (k : Nat) (bs : List Byte) (tagBits : List Bool) : State :=
  let (o, n) := wholeGranules k bs.length
  (List.range n).foldl (fun (s : State) i => if tagBits.getD i false then s.keySetTag (k + o + 16 * i) true else s) (s.writeKeys k bs)

/-- The reply to an invocation: q, the status, the flags of one that has committed (R241). -/
def routineReply (q status : Nat) (fl : Flags) : List Byte := leBytes 8 q ++ leBytes 8 status ++ leBytes 1 (if status = 0 then fl.toNat else 0)

/-- A message of another package for a port of a cluster (R148, R149): the reply is a byte, 0 or 1 as `msend` has it; or the cause that the port is full. None: it
    waits, its receive's page being moved. -/
def State.remoteMessage (s : State) (ctx cl : Nat) (tag : BitVec 16) (record : Nat) : Option (List Byte × BitVec 8 × State) :=
  if Config.nClusters ≤ cl ∨ (ctx ≠ 0 ∧ s.ctxState ctx ≠ .live) then some ([], Cause.transInvalid, s)
  else match s.deliver cl (ctx == 0 && kernelTag tag) ctx tag record with
    | .ok (s1, direct) => some ([if direct then 0 else 1], 0, s1)
    | .error .full => some ([], Cause.msgOverflow, s)
    | .error .stalled => none

/-- A request performed: the reply's bytes, its cause, and the state; none while it waits. A read's bytes are those read and a byte for each granule's tag; an
    atomic's the value found and its flags, with those that came with the request, or, without return, none, with the flags left at the line's home slice (R124,
    R266). -/
def State.remotePerform (s : State) (ctx k : Nat) : RemoteKind → Option (List Byte × BitVec 8 × State)
  | .read n => some (s.readKeys k n ++ (List.range (n / 16)).map fun i => BitVec.ofNat 8 (bitNat (s.keyTag (k + 16 * i))), 0, s)
  | .write bs tagBits => some ([], 0, s.remotePut k bs tagBits)
  | .atomic op v u ret fl =>
    let n := atomSize op.toNat
    let r := atomPerform op.toNat [⟨v.toNat % 2 ^ (8 * n), u.toNat % 2 ^ (8 * n), .none⟩] (s.readNat k n)
    let s1 := match r.stored with | some x => s.writeNat k n x | none => s
    some (if ret then (leBytes 8 (r.results.headD 0) ++ leBytes 1 (r.flags ||| fl).toNat, 0, s1) else ([], 0, s1.flagsAt ctx k (r.flags ||| fl)))
  | .routine n o0 o1 =>
    match s.lookupRoutine (homeSlice k) ctx n.toNat with
    | none => some (routineReply 0 0x2C 0, 0, s)
    | some (e, s1) =>
      if !e.legal then some (routineReply 0 0x29 0, 0, s1)
      else
        let r := Routine.run e.words 32 (s1.startRoutine k o0 o1)
        let d := s1.endRoutine k r
        some (routineReply (vgetD r.regs 26 0).toNat d.1 r.flags, 0, { d.2 with rt := r })
  | .message tag record => s.remoteMessage ctx (k / 2 ^ 16) tag record

/-- A reply kept for duplicates, the last 64 of each source (R265). -/
def State.keepReply (s : State) (r : WlReply) : State :=
  let mine := (s.edge.wlreplies.filter fun x => x.src == r.src) ++ [r]
  { s with edge := { s.edge with wlreplies := (s.edge.wlreplies.filter fun x => x.src != r.src) ++ mine.drop (mine.length - 64) } }

/-- `WL_REMOTE_REQUEST` (R265, R266, R367): one that can have come over the links that are up, performed at most once; a duplicate's reply is the one kept. A write
    waits while its page is being moved, and what an uncorrectable error has hit is not answered (R409). -/
def execWlRemoteRequest (src seq : Nat) (world : BitVec 8) (ctx : Nat) (addr : Word) (kind : RemoteKind) (s : State) : Res :=
  let k := addr.toNat
  let (n, al) := RemoteKind.extent kind
  if !s.otherPackage src || !s.wlFrom src || (s.edge.wlreplies.any fun r => r.src == src && r.seq == seq) || k % al != 0 then .next s
  else match s.remoteRefusal world ctx k n with
    | some e => .next (s.keepReply ⟨src, seq, [], e⟩)
    | none =>
      if (RemoteKind.writes kind && s.moving k n) || (!RemoteKind.overwrites kind && s.spoilt k n) then .next s
      else match s.remotePerform ctx k kind with
        | some (bs, e, s1) => .next (s1.keepReply ⟨src, seq, bs, e⟩)
        | none => .next s

/-- `WORDO_LINK_RETRANSMISSION` (R265): a request to a package that is not acknowledged, sent again under its number, adds no access; the retry is counted
    (R413). -/
def execWordoLinkRetransmission (pkg seq : Nat) (s : State) : Res :=
  .next (if s.edge.wlSent.any fun x => x.pkg == pkg && x.seq == seq then s.tally 0x180 else s)

end Sys2Proof.Machine
end

