-- ==== Sys2Proof/Machine/Network.lean ====
section
/-! DEFINITION. Ethernet frames, tagged launches, and the completions of the Ethernet and NVMe ports (R285, R353, R360, R362, R363). -/
namespace Sys2Proof.Machine
open Sys2Proof

/-! ### Ethernet -/

/-- The UDP port of RoCEv2 (R362). -/
abbrev rocePort : Nat := 4791

/-- A frame dropped and counted at its port (R362, R363); the count saturates (R413). -/
def State.dropFrame (s : State) (port : Nat) : State := s.modIo fun io => { io with drops := vmod io.drops port fun n => min (2 ^ 64 - 1) (n + 1) }

/-- An ETH event at a cluster (R353): port, queue, and whether a launch was dropped. DESIGN CHOICE of the queue numbers (log entry 18). -/
def State.ethEvent (s : State) (cl port queue : Nat) (drop : Bool) : State := s.event cl 9 0 0 (BitVec.ofNat 64 (port + queue * 2 ^ 8 + bitNat drop * 2 ^ 16))

/-- The payload that a datagram of the IP MTU of 9,020 bytes can carry (R362), under the fixed IP header and that of UDP. -/
def udpMax (form : IpForm) : Nat := 9020 - (if form = .v6 then 40 else 20) - 8

/-- What a RoCEv2 packet does to the connection it names. PRESUMED from the base transport header of that standard (log entry 18): the opcode in byte 0, the
    queue pair, here the socket's object number, in bytes 5 to 7, the sequence number in bytes 9 to 11, big-endian. A send carries data if its number is the one
    expected: a duplicate, or one past a gap, changes nothing. A negative acknowledgement ends the connection. -/
def roceFrame (b : List Byte) (o : Sock) : Option Sock :=
  let at' := fun i => (b.getD i 0).toNat
  if !o.roce ∨ o.obj ≠ at' 5 * 65536 + at' 6 * 256 + at' 7 ∨ b.length < 16 then none
  else if at' 0 ≤ 4 then
    if at' 9 * 65536 + at' 10 * 256 + at' 11 ≠ o.psn then some o
    else some { o with rx := o.rx ++ [(b.drop 12).take (b.length - 16)], psn := (o.psn + 1) % 2 ^ 24 }
  else if at' 0 = 0x11 ∧ 96 ≤ at' 12 ∧ at' 12 < 128 then some { o with gone := true }
  else none

/-- Whether a datagram is dropped as it arrives: a fragment, one above the MTU, one whose frame fails a check (R362, R408). -/
def datagramLost (form : IpForm) (n : Nat) : Bool := form == .fragment || form == .damaged || udpMax form < n

/-- `ETH_FRAME_RECEIVE` (R362): a datagram for a local port, by its payload. A fragment, one above the MTU, or one whose frame fails a check, is dropped; a datagram goes to the socket bound to its port, or, with
    none, to the queues of shard port mod 192. A datagram for the port of tagged launches is the frame of its own step. -/
def execEthFrameReceive (port localPort : Nat) (form : IpForm) (payload : List Byte) (s : State) : Res :=
  if 2 ≤ port ∨ 65536 ≤ localPort ∨ s.boot.phase ≠ 2 then .next s
  else if datagramLost form payload.length then .next (s.dropFrame port)
  else if localPort = s.edge.ethlport.toNat then .next s
  else if localPort = rocePort then
    match s.io.socks.find? fun o => (roceFrame payload o).isSome with
    | some o =>
      let o1 := (roceFrame payload o).getD o
      .next (if o1 = o then s else (s.modIo fun io => io.setSock o1).ethEvent o.owner port 0 false)
    | none => .next s
  else
    let s1 := match s.io.socks.find? fun o => !o.roce && o.port == localPort with
      | some o => s.modIo fun io => io.setSock { o with rx := o.rx ++ [payload] }
      | none => s.modIo fun io => { io with rxq := mapSet io.rxq localPort (mapGetD io.rxq localPort [] ++ [payload]) }
    .next (s1.ethEvent (localPort % 192) port 0 false)

/-- `ETH_TRANSMIT_COMPLETION` (R353): the oldest data that a socket of a shard has to send is sent. -/
def execEthTransmitCompletion (port cluster : Nat) (s : State) : Res :=
  if 2 ≤ port then .next s
  else match s.io.socks.find? fun o => o.owner == cluster && !o.tx.isEmpty with
    | some o => .next ((s.modIo fun io => io.setSock { o with tx := o.tx.drop 1 }).ethEvent cluster port 1 false)
    | none => .next s

/-! ### Tagged launches (R285, R363) -/

/-- The slot and the payload of a tagged-launch datagram, if it is well formed. -/
def launchFrame (b : List Byte) : Option (Nat × List Byte) :=
  let n := fun o k => leNat ((b.drop o).take k)
  if b.length < 16 ∨ n 0 4 ≠ 0x4D5A4C31 ∨ 64 ≤ n 4 1 ∨ n 5 3 ≠ 0 ∨ n 8 4 ≠ b.length - 16 then none else some (n 4 1, b.drop 16)

/-- A launch dropped at a slot, and counted there; its word 88 else unchanged. -/
def State.dropLaunch (s : State) (port slot : Nat) : State :=
  let w := s.readNat (slot + 88) 8
  ((s.dropFrame port).agentPut (slot + 88) (leBytes 8 (w % 2 ^ 32 + min (2 ^ 32 - 1) (w / 2 ^ 32 + 1) * 2 ^ 32))).ethEvent 0 port 0 true

/-- `TAGGED_LAUNCH_FRAME` (R285, R363): an armed slot disarms, the payload is written through its buffer capability, and its template is posted with `c7` the
    buffer narrowed to the payload and `s9` its length. What the IP layer drops is no launch. -/
def execTaggedLaunchFrame (port : Nat) (payload : Datagram) (s : State) : Res :=
  if 2 ≤ port ∨ s.boot.phase ≠ 2 then .next s
  else if datagramLost payload.form payload.bytes.length then .next (s.dropFrame port)
  else match launchFrame payload.bytes with
    | none => .next (s.dropFrame port)
    | some (n, data) =>
      let slot := physAddr (vget s.edge.ethslot port) + 128 * n
      let w := s.readNat (slot + 88) 8
      let p := s.readRec [⟨slot, 64⟩] true 0
      let buf := s.readCap (slot + 64)
      let q := s.queue p.queueNo
      let x := buf.cursor.toNat
      if !w.testBit 0 ∨ s.readNat (slot + 80) 8 < data.length ∨ !s.running ∨ !q.isOpen ∨ q.full then .next (s.dropLaunch port slot)
      else match s.resolve (s.whoCtx q.ctx 0 false) buf [Perm.store] Need.write x data.length 1 with
        | .error _ => .next (s.dropLaunch port slot)
        | .ok (segs, _) =>
          if s.moving slot 128 || segs.any fun a => s.writeWaits a.lo a.len then .next s
          else
            let s1 := (s.writeNat (slot + 88) 8 (w - 1)).writeSegs segs data
            let r := buf.setBounds x data.length
            let c7 := { r.1 with tag := buf.tag && r.2.1 }
            .next (s1.post q.ctx p.queueNo p ⟨192, none, some (c7, BitVec.ofNat 64 data.length)⟩).1

/-! ### NVMe -/

/-- Whether the drives of a port offer namespaces, and none of a supported format (R360). -/
def unusedDrive (port : Nat) : Bool :=
  (List.range 16).any (fun n => (Config.namespaces port n).isSome) && !(List.range 16).any fun n => (supported (16 * port + n)).isSome

/-- The command of a port's admin queue completed, which asks what the drives there offer: unused ones are reported (R360). -/
def State.adminDone (s : State) (port : Nat) (ok : Bool) : State :=
  let s1 := s.modIo fun io => { io with admin := io.admin.filter (· != port) }
  if ok && unusedDrive port && !s.fleet.alerts.contains (.drive port) then { s1 with fleet := { s1.fleet with alerts := s1.fleet.alerts ++ [.drive port] } } else s1

/-- `NVME_COMPLETION` (R353, R360, R361): the command of a shard at a port completes, in order, or fails, as `fin` says: what it reads is in place, and the service that waits for it
    goes on. What a drive writes, and the record of a call, waits while its page is being moved (R264). The admin queue of a port is shard 0's of the die that the
    port faces, and its commands complete first (R360). DESIGN CHOICE of the order and of the queue numbers (log entry 18). -/
def execNvmeCompletion (port : Nat) (fin : Nat × Bool) (s : State) : Res :=
  let (cluster, ok) := fin
  if cluster = port % 4 * Config.clustersPerDie ∧ s.io.admin.contains port then .next ((s.adminDone port ok).event cluster 8 0 0 (BitVec.ofNat 64 (port + 192 * 2 ^ 8)))
  else match s.io.cmds.findIdx? fun c => c.port == port && c.shard == cluster with
  | none => .next s
  | some i =>
    match s.io.cmds[i]? with
    | none => .next s
    | some c =>
      if (c.op == .read && c.segs.any fun a => s.writeWaits a.lo a.len) || (match c.job with | some j => s.moving j.1 0x1000 | none => false) then .next s
      else .next ((s.nvmeDone c (dropAt s.io.cmds i) ok).event cluster 8 0 0 (BitVec.ofNat 64 (port + cluster * 2 ^ 8)))

end Sys2Proof.Machine
end

