-- ==== Sys2Proof/Machine/Dispatch.lean ====
section
/-! DEFINITION. What every instruction and event does: one call of its meaning. -/
namespace Sys2Proof.Machine
open Sys2Proof

/-- The effect of one instruction or event at a state. -/
def exec (i : Instr) (s : State) : Host.Outcome State Fault Refusal :=
  match i with
  | .add d a b => Sys2Proof.Machine.execAdd d a b s
  | .sub d a b => Sys2Proof.Machine.execSub d a b s
  | .and d a b => Sys2Proof.Machine.execAnd d a b s
  | .or d a b => Sys2Proof.Machine.execOr d a b s
  | .xor d a b => Sys2Proof.Machine.execXor d a b s
  | .andn d a b => Sys2Proof.Machine.execAndn d a b s
  | .sll d a b => Sys2Proof.Machine.execSll d a b s
  | .srl d a b => Sys2Proof.Machine.execSrl d a b s
  | .sra d a b => Sys2Proof.Machine.execSra d a b s
  | .mul d a b => Sys2Proof.Machine.execMul d a b s
  | .mulhS64 d a b => Sys2Proof.Machine.execMulhS64 d a b s
  | .mulhZ64 d a b => Sys2Proof.Machine.execMulhZ64 d a b s
  | .divS64 d a b => Sys2Proof.Machine.execDivS64 d a b s
  | .divZ64 d a b => Sys2Proof.Machine.execDivZ64 d a b s
  | .remS64 d a b => Sys2Proof.Machine.execRemS64 d a b s
  | .remZ64 d a b => Sys2Proof.Machine.execRemZ64 d a b s
  | .minS64 d a b => Sys2Proof.Machine.execMinS64 d a b s
  | .minZ64 d a b => Sys2Proof.Machine.execMinZ64 d a b s
  | .maxS64 d a b => Sys2Proof.Machine.execMaxS64 d a b s
  | .maxZ64 d a b => Sys2Proof.Machine.execMaxZ64 d a b s
  | .sltS64 d a b => Sys2Proof.Machine.execSltS64 d a b s
  | .sltZ64 d a b => Sys2Proof.Machine.execSltZ64 d a b s
  | .seq d a b => Sys2Proof.Machine.execSeq d a b s
  | .sne d a b => Sys2Proof.Machine.execSne d a b s
  | .clz d a => Sys2Proof.Machine.execClz d a s
  | .ctz d a => Sys2Proof.Machine.execCtz d a s
  | .popc d a => Sys2Proof.Machine.execPopc d a s
  | .sextS8 d a => Sys2Proof.Machine.execSextS8 d a s
  | .sextS16 d a => Sys2Proof.Machine.execSextS16 d a s
  | .sextS32 d a => Sys2Proof.Machine.execSextS32 d a s
  | .zextZ8 d a => Sys2Proof.Machine.execZextZ8 d a s
  | .zextZ16 d a => Sys2Proof.Machine.execZextZ16 d a s
  | .zextZ32 d a => Sys2Proof.Machine.execZextZ32 d a s
  | .addi d a imm => Sys2Proof.Machine.execAddi d a imm s
  | .andi d a imm => Sys2Proof.Machine.execAndi d a imm s
  | .ori d a imm => Sys2Proof.Machine.execOri d a imm s
  | .xori d a imm => Sys2Proof.Machine.execXori d a imm s
  | .slli d a n => Sys2Proof.Machine.execSlli d a n s
  | .srli d a n => Sys2Proof.Machine.execSrli d a n s
  | .srai d a n => Sys2Proof.Machine.execSrai d a n s
  | .sltiS64 d a imm => Sys2Proof.Machine.execSltiS64 d a imm s
  | .sltiZ64 d a imm => Sys2Proof.Machine.execSltiZ64 d a imm s
  | .sethi d a imm => Sys2Proof.Machine.execSethi d a imm s
  | .ldZ8 d a imm => Sys2Proof.Machine.execLdZ8 d a imm s
  | .ldZ16 d a imm => Sys2Proof.Machine.execLdZ16 d a imm s
  | .ldZ32 d a imm => Sys2Proof.Machine.execLdZ32 d a imm s
  | .ldB64 d a imm => Sys2Proof.Machine.execLdB64 d a imm s
  | .ldS8 d a imm => Sys2Proof.Machine.execLdS8 d a imm s
  | .ldS16 d a imm => Sys2Proof.Machine.execLdS16 d a imm s
  | .ldS32 d a imm => Sys2Proof.Machine.execLdS32 d a imm s
  | .stZ8 d a imm => Sys2Proof.Machine.execStZ8 d a imm s
  | .stZ16 d a imm => Sys2Proof.Machine.execStZ16 d a imm s
  | .stZ32 d a imm => Sys2Proof.Machine.execStZ32 d a imm s
  | .stB64 d a imm => Sys2Proof.Machine.execStB64 d a imm s
  | .ldx d a b o ty => Sys2Proof.Machine.execLdx d a b o ty s
  | .stx d a b o ty => Sys2Proof.Machine.execStx d a b o ty s
  | .lc d a imm => Sys2Proof.Machine.execLc d a imm s
  | .sc d a imm => Sys2Proof.Machine.execSc d a imm s
  | .atom d a b scope op => Sys2Proof.Machine.execAtom d a b scope op s
  | .barArrive n => Sys2Proof.Machine.execBarArrive n s
  | .barWait n => Sys2Proof.Machine.execBarWait n s
  | .barSync n => Sys2Proof.Machine.execBarSync n s
  | .barInit n a => Sys2Proof.Machine.execBarInit n a s
  | .msend d a b => Sys2Proof.Machine.execMsend d a b s
  | .mpost d a b => Sys2Proof.Machine.execMpost d a b s
  | .mrecv d a b => Sys2Proof.Machine.execMrecv d a b s
  | .mprobe d a b => Sys2Proof.Machine.execMprobe d a b s
  | .qpost d a => Sys2Proof.Machine.execQpost d a s
  | .exit => Sys2Proof.Machine.execExit s
  | .exitc a => Sys2Proof.Machine.execExitc a s
  | .bflush a => Sys2Proof.Machine.execBflush a s
  | .trapAll guard neg => Sys2Proof.Machine.execTrapAll guard neg s
  | .trapAny d guard neg => Sys2Proof.Machine.execTrapAny d guard neg s
  | .trapwait => Sys2Proof.Machine.execTrapwait s
  | .fenceAcq scope => Sys2Proof.Machine.execFenceAcq scope s
  | .fenceRel scope => Sys2Proof.Machine.execFenceRel scope s
  | .fenceAr scope => Sys2Proof.Machine.execFenceAr scope s
  | .fenceSc scope => Sys2Proof.Machine.execFenceSc scope s
  | .cbound d a b => Sys2Proof.Machine.execCbound d a b s
  | .cboundExact d a b => Sys2Proof.Machine.execCboundExact d a b s
  | .cperm d a b => Sys2Proof.Machine.execCperm d a b s
  | .cinc d a b => Sys2Proof.Machine.execCinc d a b s
  | .cset d a b => Sys2Proof.Machine.execCset d a b s
  | .cseal d a b => Sys2Proof.Machine.execCseal d a b s
  | .cunseal d a b => Sys2Proof.Machine.execCunseal d a b s
  | .cmov d a => Sys2Proof.Machine.execCmov d a s
  | .cgetaddr d a => Sys2Proof.Machine.execCgetaddr d a s
  | .cgetbase d a => Sys2Proof.Machine.execCgetbase d a s
  | .cgettop d a => Sys2Proof.Machine.execCgettop d a s
  | .cgetperm d a => Sys2Proof.Machine.execCgetperm d a s
  | .cgettype d a => Sys2Proof.Machine.execCgettype d a s
  | .cgetcolour d a => Sys2Proof.Machine.execCgetcolour d a s
  | .cgettag d a => Sys2Proof.Machine.execCgettag d a s
  | .cgetlen d a => Sys2Proof.Machine.execCgetlen d a s
  | .ccleartag d a => Sys2Proof.Machine.execCcleartag d a s
  | .ctestsub d a b => Sys2Proof.Machine.execCtestsub d a b s
  | .cexlen d a => Sys2Proof.Machine.execCexlen d a s
  | .cexalign d a b => Sys2Proof.Machine.execCexalign d a b s
  | .ccolour d a b => Sys2Proof.Machine.execCcolour d a b s
  | .cinci d a imm => Sys2Proof.Machine.execCinci d a imm s
  | .beq a b off => Sys2Proof.Machine.execBeq a b off s
  | .bne a b off => Sys2Proof.Machine.execBne a b off s
  | .bltS64 a b off => Sys2Proof.Machine.execBltS64 a b off s
  | .bgeS64 a b off => Sys2Proof.Machine.execBgeS64 a b off s
  | .bltZ64 a b off => Sys2Proof.Machine.execBltZ64 a b off s
  | .bgeZ64 a b off => Sys2Proof.Machine.execBgeZ64 a b off s
  | .j off => Sys2Proof.Machine.execJ off s
  | .jal off => Sys2Proof.Machine.execJal off s
  | .jr a => Sys2Proof.Machine.execJr a s
  | .jalr d a => Sys2Proof.Machine.execJalr d a s
  | .lqwait => Sys2Proof.Machine.execLqwait s
  | .lrun a off => Sys2Proof.Machine.execLrun a off s
  | .waitc ld st cp mx => Sys2Proof.Machine.execWaitc ld st cp mx s
  | .rdcsr d n => Sys2Proof.Machine.execRdcsr d n s
  | .wrcsr a n => Sys2Proof.Machine.execWrcsr a n s
  | .setcsr a n => Sys2Proof.Machine.execSetcsr a n s
  | .clrcsr a n => Sys2Proof.Machine.execClrcsr a n s
  | .spsize d a => Sys2Proof.Machine.execSpsize d a s
  | .mxlds a b pair ty => Sys2Proof.Machine.execMxlds a b pair ty s
  | .mxmm acc z a b flip pair ty => Sys2Proof.Machine.execMxmm acc z a b flip pair ty s
  | .mxst acc a b pair ty => Sys2Proof.Machine.execMxst acc a b pair ty s
  | .mxzero acc pair => Sys2Proof.Machine.execMxzero acc pair s
  | .mxfence d => Sys2Proof.Machine.execMxfence d s
  | .mxwait a => Sys2Proof.Machine.execMxwait a s
  | .tcopy d a b mc fmt => Sys2Proof.Machine.execTcopy d a b mc fmt s
  | .bcopy d a b ring => Sys2Proof.Machine.execBcopy d a b ring s
  | .gnode d a => Sys2Proof.Machine.execGnode d a s
  | .gedge a b => Sys2Proof.Machine.execGedge a b s
  | .grplay d a => Sys2Proof.Machine.execGrplay d a s
  | .gpatch d a b => Sys2Proof.Machine.execGpatch d a b s
  | .gclose a => Sys2Proof.Machine.execGclose a s
  | .lrinst d a b => Sys2Proof.Machine.execLrinst d a b s
  | .sret => Sys2Proof.Machine.execSret s
  | .gresume a => Sys2Proof.Machine.execGresume a s
  | .gend a => Sys2Proof.Machine.execGend a s
  | .gsave a => Sys2Proof.Machine.execGsave a s
  | .tlbinv a => Sys2Proof.Machine.execTlbinv a s
  | .tlbinvall => Sys2Proof.Machine.execTlbinvall s
  | .revbcast a => Sys2Proof.Machine.execRevbcast a s
  | .idle => Sys2Proof.Machine.execIdle s
  | .vsetl last d k vt => Sys2Proof.Machine.execVsetl last d k vt s
  | .vsetli last d vt n => Sys2Proof.Machine.execVsetli last d vt n s
  | .vadd c d a x ty => Sys2Proof.Machine.execVadd c d a x ty s
  | .vsub c d a x ty => Sys2Proof.Machine.execVsub c d a x ty s
  | .vrsub c d a x ty => Sys2Proof.Machine.execVrsub c d a x ty s
  | .vmul c d a x ty => Sys2Proof.Machine.execVmul c d a x ty s
  | .vmulh c d a x ty => Sys2Proof.Machine.execVmulh c d a x ty s
  | .vdiv c d a x ty => Sys2Proof.Machine.execVdiv c d a x ty s
  | .vrem c d a x ty => Sys2Proof.Machine.execVrem c d a x ty s
  | .vmin c d a x ty => Sys2Proof.Machine.execVmin c d a x ty s
  | .vmax c d a x ty => Sys2Proof.Machine.execVmax c d a x ty s
  | .vand c d a x ty => Sys2Proof.Machine.execVand c d a x ty s
  | .vor c d a x ty => Sys2Proof.Machine.execVor c d a x ty s
  | .vxor c d a x ty => Sys2Proof.Machine.execVxor c d a x ty s
  | .vandn c d a x ty => Sys2Proof.Machine.execVandn c d a x ty s
  | .vsll c d a x ty => Sys2Proof.Machine.execVsll c d a x ty s
  | .vsrl c d a x ty => Sys2Proof.Machine.execVsrl c d a x ty s
  | .vsra c d a x ty => Sys2Proof.Machine.execVsra c d a x ty s
  | .vaddSat c d a x ty => Sys2Proof.Machine.execVaddSat c d a x ty s
  | .vsubSat c d a x ty => Sys2Proof.Machine.execVsubSat c d a x ty s
  | .vclz c d a ty => Sys2Proof.Machine.execVclz c d a ty s
  | .vpopc c d a ty => Sys2Proof.Machine.execVpopc c d a ty s
  | .vwadd c d a x ty => Sys2Proof.Machine.execVwadd c d a x ty s
  | .vwsub c d a x ty => Sys2Proof.Machine.execVwsub c d a x ty s
  | .vwmul c d a x ty => Sys2Proof.Machine.execVwmul c d a x ty s
  | .vnsrl c d a x ty => Sys2Proof.Machine.execVnsrl c d a x ty s
  | .vnsra c d a x ty => Sys2Proof.Machine.execVnsra c d a x ty s
  | .vnclip c d a x ty => Sys2Proof.Machine.execVnclip c d a x ty s
  | .vmacc c d a x ty => Sys2Proof.Machine.execVmacc c d a x ty s
  | .vnmsac c d a x ty => Sys2Proof.Machine.execVnmsac c d a x ty s
  | .vwmacc c d a x ty => Sys2Proof.Machine.execVwmacc c d a x ty s
  | .vfadd c rm d a x ty => Sys2Proof.Machine.execVfadd c rm d a x ty s
  | .vfsub c rm d a x ty => Sys2Proof.Machine.execVfsub c rm d a x ty s
  | .vfmul c rm d a x ty => Sys2Proof.Machine.execVfmul c rm d a x ty s
  | .vfdiv c rm d a x ty => Sys2Proof.Machine.execVfdiv c rm d a x ty s
  | .vfsqrt c rm d a ty => Sys2Proof.Machine.execVfsqrt c rm d a ty s
  | .vfmin c d a x ty => Sys2Proof.Machine.execVfmin c d a x ty s
  | .vfmax c d a x ty => Sys2Proof.Machine.execVfmax c d a x ty s
  | .vfsgnj c d a x ty => Sys2Proof.Machine.execVfsgnj c d a x ty s
  | .vfsgnjn c d a x ty => Sys2Proof.Machine.execVfsgnjn c d a x ty s
  | .vfsgnjx c d a x ty => Sys2Proof.Machine.execVfsgnjx c d a x ty s
  | .vfabs c d a ty => Sys2Proof.Machine.execVfabs c d a ty s
  | .vfneg c d a ty => Sys2Proof.Machine.execVfneg c d a ty s
  | .vfkind c d a ty => Sys2Proof.Machine.execVfkind c d a ty s
  | .vfma c rm d a x e ty => Sys2Proof.Machine.execVfma c rm d a x e ty s
  | .vfms c rm d a x e ty => Sys2Proof.Machine.execVfms c rm d a x e ty s
  | .vfnma c rm d a x e ty => Sys2Proof.Machine.execVfnma c rm d a x e ty s
  | .vfnms c rm d a x e ty => Sys2Proof.Machine.execVfnms c rm d a x e ty s
  | .vfwma c rm d a x e ty => Sys2Proof.Machine.execVfwma c rm d a x e ty s
  | .vcvt c rm d a sty dty => Sys2Proof.Machine.execVcvt c rm d a sty dty s
  | .vcvtSat c rm d a sty dty => Sys2Proof.Machine.execVcvtSat c rm d a sty dty s
  | .vcmpEq c pd a x ty => Sys2Proof.Machine.execVcmpEq c pd a x ty s
  | .vcmpNe c pd a x ty => Sys2Proof.Machine.execVcmpNe c pd a x ty s
  | .vcmpLt c pd a x ty => Sys2Proof.Machine.execVcmpLt c pd a x ty s
  | .vcmpLe c pd a x ty => Sys2Proof.Machine.execVcmpLe c pd a x ty s
  | .vcmpGt c pd a x ty => Sys2Proof.Machine.execVcmpGt c pd a x ty s
  | .vcmpGe c pd a x ty => Sys2Proof.Machine.execVcmpGe c pd a x ty s
  | .vfcmpEq c pd a x ty => Sys2Proof.Machine.execVfcmpEq c pd a x ty s
  | .vfcmpLt c pd a x ty => Sys2Proof.Machine.execVfcmpLt c pd a x ty s
  | .vfcmpLe c pd a x ty => Sys2Proof.Machine.execVfcmpLe c pd a x ty s
  | .vfcmpUnord c pd a x ty => Sys2Proof.Machine.execVfcmpUnord c pd a x ty s
  | .vpand c pd pa pb => Sys2Proof.Machine.execVpand c pd pa pb s
  | .vpor c pd pa pb => Sys2Proof.Machine.execVpor c pd pa pb s
  | .vpxor c pd pa pb => Sys2Proof.Machine.execVpxor c pd pa pb s
  | .vpandn c pd pa pb => Sys2Proof.Machine.execVpandn c pd pa pb s
  | .vpnot c pd pa => Sys2Proof.Machine.execVpnot c pd pa s
  | .vpmov c pd pa => Sys2Proof.Machine.execVpmov c pd pa s
  | .vpset c pd => Sys2Proof.Machine.execVpset c pd s
  | .vpclr c pd => Sys2Proof.Machine.execVpclr c pd s
  | .vpcnt c d pa => Sys2Proof.Machine.execVpcnt c d pa s
  | .vpfirst c d pa => Sys2Proof.Machine.execVpfirst c d pa s
  | .vpfrom c pd a ty => Sys2Proof.Machine.execVpfrom c pd a ty s
  | .vpto c d pa ty => Sys2Proof.Machine.execVpto c d pa ty s
  | .vmv c d x ty => Sys2Proof.Machine.execVmv c d x ty s
  | .vmerge c d a x ty => Sys2Proof.Machine.execVmerge c d a x ty s
  | .vid c d ty => Sys2Proof.Machine.execVid c d ty s
  | .vmvx last d a ty => Sys2Proof.Machine.execVmvx last d a ty s
  | .vredsum c d a ty => Sys2Proof.Machine.execVredsum c d a ty s
  | .vredmin c d a ty => Sys2Proof.Machine.execVredmin c d a ty s
  | .vredmax c d a ty => Sys2Proof.Machine.execVredmax c d a ty s
  | .vredand c d a ty => Sys2Proof.Machine.execVredand c d a ty s
  | .vredor c d a ty => Sys2Proof.Machine.execVredor c d a ty s
  | .vredxor c d a ty => Sys2Proof.Machine.execVredxor c d a ty s
  | .vfredsum c rm d a ty => Sys2Proof.Machine.execVfredsum c rm d a ty s
  | .vfredmin c d a ty => Sys2Proof.Machine.execVfredmin c d a ty s
  | .vfredmax c d a ty => Sys2Proof.Machine.execVfredmax c d a ty s
  | .vscanAdd c d a ty => Sys2Proof.Machine.execVscanAdd c d a ty s
  | .vscanMin c d a ty => Sys2Proof.Machine.execVscanMin c d a ty s
  | .vscanMax c d a ty => Sys2Proof.Machine.execVscanMax c d a ty s
  | .vfscanAdd c rm d a ty => Sys2Proof.Machine.execVfscanAdd c rm d a ty s
  | .vshup c d a x e ty => Sys2Proof.Machine.execVshup c d a x e ty s
  | .vshdn c d a x e ty => Sys2Proof.Machine.execVshdn c d a x e ty s
  | .vpick c d a x ty => Sys2Proof.Machine.execVpick c d a x ty s
  | .vpack c d a ty => Sys2Proof.Machine.execVpack c d a ty s
  | .vxchg c d a x ty => Sys2Proof.Machine.execVxchg c d a x ty s
  | .vbcast c d a x ty => Sys2Proof.Machine.execVbcast c d a x ty s
  | .vrev c d a ty => Sys2Proof.Machine.execVrev c d a ty s
  | .vld c o d q disp ty => Sys2Proof.Machine.execVld c o d q disp ty s
  | .vlds c o d b k disp ty => Sys2Proof.Machine.execVlds c o d b k disp ty s
  | .vldx c o d a q ty => Sys2Proof.Machine.execVldx c o d a q ty s
  | .vldff c o d e q disp ty => Sys2Proof.Machine.execVldff c o d e q disp ty s
  | .vldp c o d a disp ty => Sys2Proof.Machine.execVldp c o d a disp ty s
  | .vldc c o d a q => Sys2Proof.Machine.execVldc c o d a q s
  | .vst c o d q disp ty => Sys2Proof.Machine.execVst c o d q disp ty s
  | .vsts c o d b k disp ty => Sys2Proof.Machine.execVsts c o d b k disp ty s
  | .vstx c o d a q ty => Sys2Proof.Machine.execVstx c o d a q ty s
  | .vstp c o d a disp ty => Sys2Proof.Machine.execVstp c o d a disp ty s
  | .vstc c o d a q => Sys2Proof.Machine.execVstc c o d a q s
  | .vatom c scope op d a b e q nr => Sys2Proof.Machine.execVatom c scope op d a b e q nr s
  | .vatom32 c scope op d a b q nr => Sys2Proof.Machine.execVatom32 c scope op d a b q nr s
  | .vlrc c d a b e q n stop => Sys2Proof.Machine.execVlrc c d a b e q n stop s
  | .vbasket c a b => Sys2Proof.Machine.execVbasket c a b s
  | .routineAdd d a b => Sys2Proof.Machine.execRoutineAdd d a b s
  | .routineSub d a b => Sys2Proof.Machine.execRoutineSub d a b s
  | .routineAnd d a b => Sys2Proof.Machine.execRoutineAnd d a b s
  | .routineOr d a b => Sys2Proof.Machine.execRoutineOr d a b s
  | .routineXor d a b => Sys2Proof.Machine.execRoutineXor d a b s
  | .routineSll d a b => Sys2Proof.Machine.execRoutineSll d a b s
  | .routineSrl d a b => Sys2Proof.Machine.execRoutineSrl d a b s
  | .routineSra d a b => Sys2Proof.Machine.execRoutineSra d a b s
  | .routineMinS64 d a b => Sys2Proof.Machine.execRoutineMinS64 d a b s
  | .routineMinZ64 d a b => Sys2Proof.Machine.execRoutineMinZ64 d a b s
  | .routineMaxS64 d a b => Sys2Proof.Machine.execRoutineMaxS64 d a b s
  | .routineMaxZ64 d a b => Sys2Proof.Machine.execRoutineMaxZ64 d a b s
  | .routineSltS64 d a b => Sys2Proof.Machine.execRoutineSltS64 d a b s
  | .routineSltZ64 d a b => Sys2Proof.Machine.execRoutineSltZ64 d a b s
  | .routineSeq d a b => Sys2Proof.Machine.execRoutineSeq d a b s
  | .routineCsel d a b => Sys2Proof.Machine.execRoutineCsel d a b s
  | .routineMul d a b => Sys2Proof.Machine.execRoutineMul d a b s
  | .routineFaddF32 d a b => Sys2Proof.Machine.execRoutineFaddF32 d a b s
  | .routineFaddF64 d a b => Sys2Proof.Machine.execRoutineFaddF64 d a b s
  | .routineFminF32 d a b => Sys2Proof.Machine.execRoutineFminF32 d a b s
  | .routineFminF64 d a b => Sys2Proof.Machine.execRoutineFminF64 d a b s
  | .routineFmaxF32 d a b => Sys2Proof.Machine.execRoutineFmaxF32 d a b s
  | .routineFmaxF64 d a b => Sys2Proof.Machine.execRoutineFmaxF64 d a b s
  | .routineAddi d a imm => Sys2Proof.Machine.execRoutineAddi d a imm s
  | .routineLi d imm => Sys2Proof.Machine.execRoutineLi d imm s
  | .routineExt d a pos len => Sys2Proof.Machine.execRoutineExt d a pos len s
  | .routineIns d a pos len => Sys2Proof.Machine.execRoutineIns d a pos len s
  | .routineSkipEq a b n => Sys2Proof.Machine.execRoutineSkipEq a b n s
  | .routineSkipNe a b n => Sys2Proof.Machine.execRoutineSkipNe a b n s
  | .routineSkipLtS64 a b n => Sys2Proof.Machine.execRoutineSkipLtS64 a b n s
  | .routineSkipLtZ64 a b n => Sys2Proof.Machine.execRoutineSkipLtZ64 a b n s
  | .routineRet => Sys2Proof.Machine.execRoutineRet s
  | .routineRetTc => Sys2Proof.Machine.execRoutineRetTc s
  | .routineFail => Sys2Proof.Machine.execRoutineFail s
  | .loadReturn t id => Sys2Proof.Machine.execLoadReturn t id s
  | .storeAccept t id => Sys2Proof.Machine.execStoreAccept t id s
  | .atomicPerform t id n => Sys2Proof.Machine.execAtomicPerform t id n s
  | .lineRoutineInvocation t id n => Sys2Proof.Machine.execLineRoutineInvocation t id n s
  | .arrivalLands slot bar => Sys2Proof.Machine.execArrivalLands slot bar s
  | .parkedGroupWake slot => Sys2Proof.Machine.execParkedGroupWake slot s
  | .matrixOpStart core => Sys2Proof.Machine.execMatrixOpStart core s
  | .matrixOpRetire core => Sys2Proof.Machine.execMatrixOpRetire core s
  | .engineOpStart cluster id => Sys2Proof.Machine.execEngineOpStart cluster id s
  | .tcopyComplete cluster id => Sys2Proof.Machine.execTcopyComplete cluster id s
  | .bcopyComplete cluster id => Sys2Proof.Machine.execBcopyComplete cluster id s
  | .ringRecordWrite cluster id => Sys2Proof.Machine.execRingRecordWrite cluster id s
  | .groupRetire slot => Sys2Proof.Machine.execGroupRetire slot s
  | .teamPlacement => Sys2Proof.Machine.execTeamPlacement s
  | .dispatchPreemptRequest asker => Sys2Proof.Machine.execDispatchPreemptRequest asker s
  | .teamSaveStart team => Sys2Proof.Machine.execTeamSaveStart team s
  | .forcedSave team rows => Sys2Proof.Machine.execForcedSave team rows s
  | .teamSaveComplete team => Sys2Proof.Machine.execTeamSaveComplete team s
  | .teamRestore src => Sys2Proof.Machine.execTeamRestore src s
  | .basketBinTimeout cluster ctx key => Sys2Proof.Machine.execBasketBinTimeout cluster ctx key s
  | .basketSpillReturn cluster ctx => Sys2Proof.Machine.execBasketSpillReturn cluster ctx s
  | .graphNodeEnd die inst node => Sys2Proof.Machine.execGraphNodeEnd die inst node s
  | .graphLaunchPost die inst node => Sys2Proof.Machine.execGraphLaunchPost die inst node s
  | .stepStop slot => Sys2Proof.Machine.execStepStop slot s
  | .sampleRecord core => Sys2Proof.Machine.execSampleRecord core s
  | .revbcastComplete cluster => Sys2Proof.Machine.execRevbcastComplete cluster s
  | .sevtRead cluster d => Sys2Proof.Machine.execSevtRead cluster d s
  | .atomflagsRead slot d => Sys2Proof.Machine.execAtomflagsRead slot d s
  | .stimerExpiry cluster => Sys2Proof.Machine.execStimerExpiry cluster s
  | .srestoreWrite cluster image => Sys2Proof.Machine.execSrestoreWrite cluster image s
  | .ctxActivate cluster ctx => Sys2Proof.Machine.execCtxActivate cluster ctx s
  | .ctxFatal cluster ctx cause => Sys2Proof.Machine.execCtxFatal cluster ctx cause s
  | .ctxEnd cluster ctx => Sys2Proof.Machine.execCtxEnd cluster ctx s
  | .ctxRelease cluster ctx => Sys2Proof.Machine.execCtxRelease cluster ctx s
  | .ctxClearAtomicFlags cluster ctx => Sys2Proof.Machine.execCtxClearAtomicFlags cluster ctx s
  | .dumpWrite die => Sys2Proof.Machine.execDumpWrite die s
  | .migrationStart cluster size => Sys2Proof.Machine.execMigrationStart cluster size s
  | .migrationCopyDone cluster => Sys2Proof.Machine.execMigrationCopyDone cluster s
  | .migrationRelease cluster => Sys2Proof.Machine.execMigrationRelease cluster s
  | .worldChange cluster value => Sys2Proof.Machine.execWorldChange cluster value s
  | .keyAllocate cluster ctx => Sys2Proof.Machine.execKeyAllocate cluster ctx s
  | .keyInstall cluster => Sys2Proof.Machine.execKeyInstall cluster s
  | .keyRetirePrevious cluster => Sys2Proof.Machine.execKeyRetirePrevious cluster s
  | .keyPreviousErased key => Sys2Proof.Machine.execKeyPreviousErased key s
  | .keyFree cluster => Sys2Proof.Machine.execKeyFree cluster s
  | .achalWrite cluster addr => Sys2Proof.Machine.execAchalWrite cluster addr s
  | .challengeResponse => Sys2Proof.Machine.execChallengeResponse s
  | .challengeTimeout => Sys2Proof.Machine.execChallengeTimeout s
  | .certRewriteRequest cluster value => Sys2Proof.Machine.execCertRewriteRequest cluster value s
  | .certRewriteEffect cert => Sys2Proof.Machine.execCertRewriteEffect cert s
  | .queueDoorbell host queue v => Sys2Proof.Machine.execQueueDoorbell host queue v s
  | .registerWrite host off v => Sys2Proof.Machine.execRegisterWrite host off v s
  | .packageReset => Sys2Proof.Machine.execPackageReset s
  | .wlPortBringup port peerPkg peerDim peerPlus peerSec => Sys2Proof.Machine.execWlPortBringup port peerPkg peerDim peerPlus peerSec s
  | .wlRemoteRequest src seq world ctx addr kind => Sys2Proof.Machine.execWlRemoteRequest src seq world ctx addr kind s
  | .hostAccess place len ask => Sys2Proof.Machine.execHostAccess place len ask s
  | .taggedLaunchFrame port payload => Sys2Proof.Machine.execTaggedLaunchFrame port payload s
  | .ethFrameReceive port localPort form payload => Sys2Proof.Machine.execEthFrameReceive port localPort form payload s
  | .nvmeCompletion port fin => Sys2Proof.Machine.execNvmeCompletion port fin s
  | .memAlloc rec k region quotaOk => Sys2Proof.Machine.execMemAlloc rec k region quotaOk s
  | .memFree rec k => Sys2Proof.Machine.execMemFree rec k s
  | .poolGrow rec k grant => Sys2Proof.Machine.execPoolGrow rec k grant s
  | .fileOpen rec k obj answer => Sys2Proof.Machine.execFileOpen rec k obj answer s
  | .fileRead rec k shard => Sys2Proof.Machine.execFileRead rec k shard s
  | .fileWrite rec k extents roomOk => Sys2Proof.Machine.execFileWrite rec k extents roomOk s
  | .fileClose rec k => Sys2Proof.Machine.execFileClose rec k s
  | .fileStat rec k shard => Sys2Proof.Machine.execFileStat rec k shard s
  | .sockOpen rec k obj accepted => Sys2Proof.Machine.execSockOpen rec k obj accepted s
  | .sockSend rec k ioOk => Sys2Proof.Machine.execSockSend rec k ioOk s
  | .sockRecv rec k => Sys2Proof.Machine.execSockRecv rec k s
  | .sockRecvTimeout rec k => Sys2Proof.Machine.execSockRecvTimeout rec k s
  | .sockClose rec k => Sys2Proof.Machine.execSockClose rec k s
  | .timeNow rec k => Sys2Proof.Machine.execTimeNow rec k s
  | .logWrite rec k => Sys2Proof.Machine.execLogWrite rec k s
  | .gridYield rec k => Sys2Proof.Machine.execGridYield rec k s
  | .ctxExit rec k => Sys2Proof.Machine.execCtxExit rec k s
  | .hello src dst addr rest => Sys2Proof.Machine.execHello src dst addr rest s
  | .callFwd rec k addr rest => Sys2Proof.Machine.execCallFwd rec k addr rest s
  | .callReply rec k addr rest => Sys2Proof.Machine.execCallReply rec k addr rest s
  | .nameAdd src dst addr rest => Sys2Proof.Machine.execNameAdd src dst addr rest s
  | .nameAck src dst addr rest => Sys2Proof.Machine.execNameAck src dst addr rest s
  | .tlbShoot src dst addr body => Sys2Proof.Machine.execTlbShoot src dst addr body s
  | .tlbAck src dst addr rest => Sys2Proof.Machine.execTlbAck src dst addr rest s
  | .revoke src dst addr body => Sys2Proof.Machine.execRevoke src dst addr body s
  | .sweepDone src dst addr body => Sys2Proof.Machine.execSweepDone src dst addr body s
  | .msgOverflowTimeout slot => Sys2Proof.Machine.execMsgOverflowTimeout slot s
  | .getInfo => Sys2Proof.Machine.execGetInfo s
  | .getTelemetry => Sys2Proof.Machine.execGetTelemetry s
  | .setClass bytes => Sys2Proof.Machine.execSetClass bytes s
  | .setWorldClass world cls => Sys2Proof.Machine.execSetWorldClass world cls s
  | .setPowerLimit watts => Sys2Proof.Machine.execSetPowerLimit watts s
  | .getRetired first => Sys2Proof.Machine.execGetRetired first s
  | .getCrash => Sys2Proof.Machine.execGetCrash s
  | .challenge bytes => Sys2Proof.Machine.execChallenge bytes s
  | .recovery offset bytes part => Sys2Proof.Machine.execRecovery offset bytes part s
  | .tokenRefill die => Sys2Proof.Machine.execTokenRefill die s
  | .scrubPass => Sys2Proof.Machine.execScrubPass s
  | .softError addr corrected slot => Sys2Proof.Machine.execSoftError addr corrected slot s
  | .linkCrcError die again => Sys2Proof.Machine.execLinkCrcError die again s
  | .watchdogReset => Sys2Proof.Machine.execWatchdogReset s
  | .powerControlStep milliwatts => Sys2Proof.Machine.execPowerControlStep milliwatts s
  | .currentSurge => Sys2Proof.Machine.execCurrentSurge s
  | .thermalThrottle sensor celsius => Sys2Proof.Machine.execThermalThrottle sensor celsius s
  | .thermalTrip celsius flow => Sys2Proof.Machine.execThermalTrip celsius flow s
  | .unassignedOpcode lane w => Sys2Proof.Machine.execUnassignedOpcode lane w s
  | .wordoLinkRetransmission src seq => Sys2Proof.Machine.execWordoLinkRetransmission src seq s
  | .ethTransmitCompletion port cluster => Sys2Proof.Machine.execEthTransmitCompletion port cluster s

end Sys2Proof.Machine
end

