-- ==== Sys2Proof/Machine/Turns.lean ====
section
/-! DEFINITION. The turns of a step (log entry 4): the fetch of a scalar word, the rotation of a core's groups, the issue of a lane word, the passing of time; and what stands ready for
a word put where the next step fetches it. -/
namespace Sys2Proof.Machine
open Sys2Proof

/-- The next turn: the first of the schedule, or a free one where the schedule is used up (log entry 4). -/
def State.nextTurn (s : State) : Turn × State :=
  match s.turns with
  | t :: ts => (t, { s with turns := ts })
  | [] => (Config.freeTurn s.free, { s with free := s.free + 1 })

/-! ### Scalar words -/

/-- The fetch of a scalar word: an access of 4 bytes through SCODE with exec-scalar, at its bounds as it was set, wherever a jump
    has moved the PC (R32, R79); another package may refuse it (R266). -/
def State.fetch (s : State) : Except (BitVec 8) (Nat × Option TlbEntry) :=
  match capCause s.who s.hart.scode [Perm.execScalar] s.pc.toNat 4 4 with
  | some e => .error e
  | none =>
    match s.locate s.who { s.hart.scode with cursor := s.pc } Need.exec s.pc.toNat with
    | .error e => .error e
    | .ok (k, t) => match s.remoteCause k with | some e => .error e | none => .ok (k, t)

/-- The breakpoint that the instruction of a group at an address hits, if any (R337). -/
def State.breakpoint (s : State) (k : Nat) (g : Group) (lane : Bool) (addr : Word) : Option Nat :=
  (List.range 8).find? fun i =>
    let b := vgetD (s.cluster (slotCluster k)).dbg.bp i (0, 0)
    let c := b.1
    c.getLsbD 0 && c.getLsbD 1 == lane && (!c.getLsbD 2 || (bitsOf c.toNat 22 19 == g.index && bitsOf c.toNat 24 23 == g.role)) &&
      bitsOf c.toNat 18 3 == g.ctx && b.2 == addr && g.stepping.exempt != some (lane, i)

/-- A fetched scalar word executed: a group's privileged word faults PRIV_INSN (R99 step 1), a word that is no instruction takes its fault
    (steps 2 and 3), any other runs. -/
noncomputable def State.runWord (s : State) (w : BitVec 32) : Res :=
  if isPrivWord w && !s.isService then .next (s.raiseHere Cause.privInsn)
  else match decodeScalar w with
    | .ok i => exec i s
    | .error _ => exec (.unassignedOpcode false (w.setWidth 96)) s

/-- The scalar word at the PC of the current thread fetched and executed; it waits for the link to another package that holds it, and what an uncorrectable error has
    hit is not delivered (R409). -/
noncomputable def State.fetchRun (s : State) : Res :=
  match s.fetch with
  | .error e => .next (s.raiseHere e)
  | .ok (k, t) =>
    let s1 := (s.fill s.curCluster t.toList).wlReadNow s.who [⟨k, 4⟩]
    if !s.wlReady k || s.spoilt k 4 then .next s
    else match (match s.cur with | .group g => (s.group g).bind fun gr => (s.breakpoint g gr false s.pc).map fun i => (g, i) | .service _ => none) with
    | some (g, i) => .next (s1.debugStop g false (BitVec.ofNat 5 i) s.pc 0)
    | none => s1.runWord (BitVec.ofNat 32 (s.readNat k 4))

/-- Whether a group's scalar thread is held: by its state, by a lane step, or by a stepped word that has issued (R50, R339). -/
def State.scalarHeld (s : State) (g : Group) : Bool := !s.mayIssue g || g.stepping.mode == 2 || g.stepping.pending

/-- The word at a group's PC, with the state in which it would execute; none where its fetch faults or a breakpoint stands there. -/
def State.nextWord (s : State) (k : Nat) : Option (State × BitVec 32) :=
  let s1 := { s with cur := .group k }
  match s1.fetch with
  | .error _ => none
  | .ok (a, t) =>
    match (s1.group k).bind fun g => s1.breakpoint k g false s1.pc with
    | some _ => none
    | none => some (s1.fill s1.curCluster t.toList, BitVec.ofNat 32 (s1.readNat a 4))

/-- Whether slot k's group has a ready scalar instruction (R43): it is not held, and its next word would not leave everything as it is. -/
noncomputable def State.scalarReady (s : State) (k : Nat) : Bool :=
  match s.group k with
  | none => false
  | some g => !s.scalarHeld g && (match ({ s with cur := .group k } : State).fetch with | .ok (a, _) => s.wlReady a && !s.spoilt a 4 | .error _ => true) &&
    match s.nextWord k with
    | none => true
    | some (u, w) => match u.runWord w with | .next t => t != u | _ => true

/-- Whether the scalar pipeline of slot k's core can take its word now (R18, R43): it has issued nothing in this cycle, and no group before slot k in the
    rotation has a ready instruction. -/
noncomputable def State.scalarTurn (s : State) (k : Nat) : Bool :=
  let c := (s.cluster (slotCluster k)).core (slotCore k)
  !c.issued && (List.range ((k % 32 + 63 - c.lastScalar) % 32)).all fun i => !s.scalarReady (k / 32 * 32 + (c.lastScalar + 1 + i) % 32)

/-- A turn of a group's scalar thread (R43): its word, where the thread is not held and the rotation has come to it. -/
noncomputable def State.stepScalar (s : State) (k : Nat) : Res :=
  let s1 := { s with cur := .group k }
  match s.group k with
  | none => .next s1
  | some g => if s.scalarHeld g || !s.scalarTurn k then .next s1 else s1.fetchRun

/-- A turn of a service core, once boot has released it (R346). -/
noncomputable def State.stepService (s : State) (c : Nat) : Res :=
  let s1 := { s with cur := .service c }
  if (s.cluster c).svc.released then s1.fetchRun else .next s1

/-! ### Lane words -/

/-- The first word of the Head run of slot k executed: a lane breakpoint first (R337), then the fault of R99 it takes, or its meaning. -/
noncomputable def State.runLane (s : State) (k : Nat) : Res :=
  match s.group k with
  | none => .next s
  | some g =>
    match g.lane.queue with
    | { words := w :: _, addr := a, .. } :: _ =>
      match s.breakpoint k g true a with
      | some i => .next (s.debugStop k true (BitVec.ofNat 5 i) a 0)
      | none =>
        match decodeLane w with
        | .ok i => exec i s
        | .error _ => exec (.unassignedOpcode true w) s
    | _ => .next s

/-- A turn of a group's lane stream (R40), while it may go on: if the group holds the issue slot, its next word once the time of the word before has passed; if
    it wins the free slot, it takes it; else nothing. A run start is traced whenever a run takes the slot, the rest of a run that was split included. DESIGN
    CHOICE (log entry 78): R340 does not say what counts as one. -/
noncomputable def State.stepLane (s : State) (k : Nat) : Res :=
  let s1 := { s with cur := .group k }
  match s.group k with
  | none => .next s1
  | some g =>
    let c := (s.cluster (slotCluster k)).core (slotCore k)
    if !s.laneMay g then .next s1
    else match c.holder with
      | some j => if j = k ∧ c.left = 0 ∧ c.ending = false then s1.runLane k else .next s1
      | none =>
        if s.laneWinner k then
          let s2 := s1.takeSlot k
          (if (s.cluster (slotCluster k)).dbg.ctl.getLsbD 2 then s2.trace k 3 0 true else s2).runLane k
        else .next s1

/-! ### Time -/

/-- Whether the word that holds the issue slot would leave everything as it is (R42). -/
noncomputable def State.laneWaits (s : State) (k : Nat) : Bool :=
  match ({ s with cur := .group k } : State).runLane k with
  | .next t => t == { s with cur := .group k }
  | _ => false

/-- Whether a lane word of a core can issue now (R40, R42): of the group that holds the slot, or of one that wins it. -/
noncomputable def State.laneDue (s : State) (cl core : Nat) : Bool :=
  let c := (s.cluster cl).core core
  match c.holder with
  | some h => c.left == 0 && !c.ending && (match s.group h with | some g => s.laneMay g && !s.laneWaits h | none => false)
  | none => (List.range 32).any fun i => s.laneWinner (128 * cl + 32 * core + i)

/-- A group with no register awaiting a load or a run's return. -/
def Group.unbusy (g : Group) : Group :=
  { g with hart := { g.hart with pend := g.hart.pend.map fun p => { p with regs := [] } },
           lane := { g.lane with queue := g.lane.queue.map fun r => { r with words := r.words.filter fun w => (laneRet w).isNone } } }

/-- Whether a matrix instruction enters both queues of its core's pair; none for another instruction. -/
def mxPair : Instr → Option Bool
  | .mxlds _ _ p _ | .mxmm _ _ _ _ _ p _ | .mxst _ _ _ p _ | .mxzero _ p => some p
  | .mxfence _ | .mxwait _ => some false
  | _ => none

/-- The conditions of R343 in which a group's scalar thread can stand, by event. A save stops them. -/
noncomputable def State.standsAt (s : State) (k : Nat) (g : Group) (ev : Nat) : Bool :=
  let saved := match s.team g.team with | some t => t.save.any (·.started) | none => false
  let c := s.cluster (slotCluster k)
  let core := slotCore k
  let waits := !s.scalarHeld g && !s.scalarReady k
  let word : Option Instr := (s.nextWord k).bind fun u => (decodeScalar u.2).toOption
  !saved && match ev with
  | 4 => waits && 4 ≤ g.lane.queue.length && (match word with | some (.lrun _ _) => true | _ => false)
  | 5 => waits && (match word with | some (.waitc _ _ _ _) => true | _ => false)
  | 6 => waits && (s.modGroup k Group.unbusy).scalarReady k
  | 7 => match g.life with | .parked _ => true | _ => false
  | 8 => g.life == .trapped
  | 9 => waits && (match word.bind mxPair with
    | some pair => (if pair then [core / 2 * 2, core / 2 * 2 + 1] else [core]).any fun i => 16 ≤ (c.core i).mq.length
    | none => false)
  | 10 => waits && ({ s with clusters := s.clusters.map fun (c : Cluster) => { c with locks := [] } } : State).scalarReady k
  | 11 => (c.ops.any fun o => o.issuer == .group k g.gen && !o.started && !s.lockClear o.id) ||
      (c.core core).mq.head?.any fun o => o.slot == k && !o.started && !s.lockClear o.id
  | 13 => g.hart.pend.any fun p => (p.atoms.any fun a => s.migrating a.key) || p.lines.any fun l => s.migrating l.key
  | _ => false

/-- The counts of R343 that n cycles add to on one core: its slot held, free and held by a word that waits; the group-cycles of the events 4 to 8; the cycles in
    which some group of the core stands at one of the events 9 to 11 and 13. -/
noncomputable def State.countCore (s u : State) (n cl k : Nat) : State :=
  let gs := s.groups.filter fun p => p.1 / 32 == cl * 4 + k
  let at' := fun ev => (gs.filter fun p => s.standsAt p.1 p.2 ev).length
  let c := (s.cluster cl).core k
  let waits := c.left == 0 && match c.holder with | some h => c.ending || s.laneWaits h | none => false
  let u1 := (u.count cl k (if c.holder.isNone then 1 else 0) n).count cl k 2 (if waits then n else 0)
  let u2 := [4, 5, 6, 7, 8].foldl (fun u ev => u.count cl k ev (n * at' ev)) u1
  [9, 10, 11, 13].foldl (fun u ev => u.count cl k ev (if at' ev = 0 then 0 else n)) u2

/-- The lane-cycle record of n cycles of a core (R342): idle cycles; cycles of the word that issued last, those in which a `vlrc.stop` awaits its results
    included; cycles that the next word will count as its own. -/
def Core.recordCycles (c : Core) (n : Nat) : Core :=
  if c.holder.isNone then c.addShares [(84, 2048)] n
  else if c.left != 0 || c.ending then c.addShares c.share n
  else { c with waited := c.waited + n }

/-- How many of n cycles pass (R17, R18, R40, R43, R341): none while a core that has not issued in this cycle has a ready scalar instruction, a lane word can issue,
    or a sample is due that is not yet written; one at a time while a core has a ready scalar instruction; and never past the end of a lane word's time, or the cycle
    of a sample. -/
noncomputable def State.passing (s : State) (n : Nat) : Nat :=
  let ready := s.groups.filter fun p => s.scalarReady p.1
  let cores := (List.range Config.nClusters).flatMap fun cl => (List.range 4).map fun k => (cl, k)
  let sampled := cores.filterMap fun (cl, k) =>
    let d := (s.cluster cl).dbg
    let c := (s.cluster cl).core k
    if d.ctl.getLsbD 1 && s.groups.any fun p => p.1 / 32 == cl * 4 + k then some (d.nextSample c s.cycle.toNat - s.cycle.toNat) else none
  if (ready.any fun p => !((s.cluster (slotCluster p.1)).core (slotCore p.1)).issued) || cores.any (fun (cl, k) => s.laneDue cl k) then 0
  else
    let lefts := (cores.map fun (cl, k) => ((s.cluster cl).core k).left).filter (· != 0)
    (lefts ++ sampled).foldl min (if ready.isEmpty then n else min n 1)

/-- The passing of core cycles (R17, R59, R341 to R343): CYCLE and the time, the scalar pipelines free to issue again, the counts of each core, the times of the lane
    words, the issue slots that are given up at their end, and the writes of agents that wait no longer. -/
noncomputable def State.tick (s : State) (m : Nat) : State :=
  if m = 0 then s
  else
    let n := s.passing m
    if n = 0 then s
    else
      let u : State := { s with
        cycle := s.cycle + BitVec.ofNat 64 n, time := s.time + n * (usTime 1 / s.fleet.mhz),
        clusters := s.clusters.map fun (c : Cluster) => { c with cores := c.cores.map fun k =>
          { (if c.dbg.recording then k.recordCycles n else k) with issued := false, left := k.left - n } } }
      let u1 := (List.range Config.nClusters).foldl (fun u cl =>
        if (s.cluster cl).dbg.ctl.getLsbD 4 then u else (List.range 4).foldl (fun u k => s.countCore u n cl k) u) u
      ((List.range Config.nClusters).foldl (fun u cl => (List.range 4).foldl (fun u k => u.endTurn cl k) u) u1).performAgents

/-- Whether an instruction has a turn of its own: an event that is no instruction word, and no access of a thread to a register, which happens within the
    thread's word. -/
def ownTurn (i : Instr) : Bool :=
  !(encode i).isSome &&
  match i with
  | .sevtRead .. | .atomflagsRead .. | .srestoreWrite .. | .achalWrite .. | .certRewriteRequest .. | .migrationStart .. | .migrationRelease ..
  | .queueDoorbell false .. | .registerWrite false .. | .unassignedOpcode .. => false
  | _ => true

/-! ### A word where the next step fetches it -/

/-- A group of one team with nothing launched: 64 vector and 64 scalar registers, code capabilities over [0, 2^56), SCODE's cursor at 0x10000. -/
def Group.bare : Group :=
  { hart := { Hart.reset with pc := 0x10000, scode := mkCap 5 0 0 (2 ^ 56) 0x10000 },
    lane := { v := Vector.replicate 64 ⟨0, 0⟩, p := (Vector.replicate 96 0).set 0 (BitVec.allOnes 2048), vl := 64, vtype := 2, present := 64,
              fpctl := 0, fpstat := 0, queue := [], lastRun := none, runs := 0, relRuns := 0, fencedRuns := 0 },
    life := .running, index := 0, role := 0, team := 0, ctx := 1, world := 0, gridId := 0, teamId := 0, lcode := mkCap 9 0 0 (2 ^ 56) 0,
    flanes := 0, preempt := 50000, vbud := 64, sbud := 64, tokens := Vector.replicate 16 none, arrivals := [], copies := [], openOps := [], openAccs := [], batches := [],
    lastClosed := 0, lastRetired := 0, openGraph := none, stepping := .off, priv := .null, privW := 0,
    blocks := List.range 8, cont := none, gen := 1, stopAt := 0, owed := none }

/-- A context that is Live, with no page table. -/
def Ctx.bare : Ctx :=
  { state := .live, hold := false, world := 0, home := 0, ptbase := 0, dir := .null, mask := 0, flags := 0, bins := [], allocs := [], freed := [],
    pools := Vector.replicate 4 0, pages := Vector.replicate 4 [], log := [], exitCode := none }

/-- A team of one group in cluster 0, with a core pair and sixteen barriers. -/
def Team.bare : Team :=
  { ctx := 1, world := 0, gridId := 0, index := 0, teamId := 0, cluster := 0, way0 := 0, ways := 1, nbar := 16,
    bars := Vector.replicate 16 ⟨1, 0, 0, 0⟩, pair := some 0, issuer := 0, slots := [0], live := 1, ring := some 0, ringNext := 0, queue := 0,
    prio := 0, heir := none, grid := none, save := none, order := 0, barSlots := 16, pairHeld := some 0, held := [] }

/-- Slot 0 given the bare group, its team and context, and a page at 0x10000 mapped to itself, boot done. -/
def State.placeBare (s : State) : State :=
  ({ s with boot := { s.boot with phase := 2 }, groups := mapSet s.groups 0 .bare, teams := mapSet s.teams 0 .bare,
            ctxs := mapSet s.ctxs 1 .bare }).modCluster 0 fun c => c.fill [⟨1, 1, 16, 0x1003F⟩]

/-- The package with boot done and a running group in slot 0: the bare group where none runs there. -/
def State.withGroup (s : State) : State :=
  match s.group 0 with
  | some g => if g.life = .running then { s with boot := { s.boot with phase := 2 } } else s.placeBare
  | none => s.placeBare

/-- The word stored where the current thread fetches. -/
def State.storeAtFetch (s : State) (w : Nat) : State :=
  match s.fetch with
  | .ok (k, _) => s.putKeys k (leBytes 4 w)
  | .error _ => s

end Sys2Proof.Machine
end

