-- ==== Sys2Proof/Machine/Step.lean ====
section
/-! DEFINITION. One step of the package: the next turn of the schedule (log entry 4); and how a word is put where the next step fetches it. -/
namespace Sys2Proof.Machine
open Sys2Proof

/-- One step: boot first (R345), then the turns of the schedule. -/
noncomputable def step (s : State) : Host.Outcome State Fault Refusal :=
  if s.boot.phase = 0 then exec .packageReset s
  else
    let t := s.nextTurn
    let s1 := t.2.tick t.1.cycles
    match t.1.act with
    | .scalar k => s1.stepScalar k
    | .lane k => s1.stepLane k
    | .service c => s1.stepService c
    | .event i => if ownTurn i then exec i s1 else .next s1

/-- An instruction put where the next step fetches it (32 bits: a scalar word; 96 bits: the first word of slot 0's Head run, which holds the issue
    slot), and the next turn given to its thread: the service core of cluster 0 for a privileged word, the group in slot 0 for any other, whose turn in the rotation has come. -/
def State.withFetchWord (s : State) (nbits w : Nat) : State :=
  if nbits = 96 then
    let s1 := s.withGroup
    let x := BitVec.ofNat 96 w
    { (s1.modCore 0 0 fun c => { c with holder := some 0 }).modGroup 0 fun g => { g with lane := { g.lane with queue :=
        match g.lane.queue with
        | r :: rest => { r with words := x :: r.words.drop 1, issuing := true } :: rest
        | [] => [{ seq := g.lane.runs, words := [x], addr := 0, snap := ⟨g.hart.s, g.hart.c, g.lane.fpctl⟩, head := some s.cycle, issuing := true }] } }
      with turns := [⟨0, .lane 0⟩] }
  else if isPrivWord (BitVec.ofNat 32 w) then
    let s1 := { (s.modCluster 0 fun c => { c with svc := { c.svc with released := true } }) with boot := { s.boot with phase := 2 }, cur := .service 0 }
    { s1.storeAtFetch w with turns := [⟨0, .service 0⟩] }
  else
    let s1 := { (s.withGroup.modCore 0 0 fun c => { c with lastScalar := 31, issued := false }) with cur := .group 0 }
    { s1.storeAtFetch w with turns := [⟨0, .scalar 0⟩] }

end Sys2Proof.Machine
end

