-- ==== Sys2Proof/Safety.lean ====
section
/-! DEFINITION. What statements about the machine are said in: when a word is ready, what it leaves alone, the canonical form of a state; and, written
from the manual's tables, what each word of a family computes. -/
namespace Sys2Proof.Machine
open Sys2Proof

/-! ### Threads and readiness -/

/-- The current thread is there: a group is resident in its slot, or it is one of the 192 service cores. -/
def State.Present (s : State) : Prop :=
  match s.cur with
  | .group k => (s.group k).isSome = true
  | .service c => c < Config.nClusters

/-- The current thread is the scalar thread of the group in slot k. -/
def State.AsGroup (s : State) (k : Nat) (g : Group) : Prop := s.cur = .group k ∧ s.group k = some g

/-- The current thread is the service core of cluster c. -/
def State.AsService (s : State) (c : Nat) : Prop := s.cur = .service c ∧ c < Config.nClusters

/-- A scalar word that names these registers can issue: the scalar ones are within the budget (R15), and none awaits a load or a run's return (R36,
    R43). -/
def State.Ready (s : State) (xs : List (BitVec 6)) (cs : List (BitVec 5)) : Prop :=
  (∀ r ∈ xs, r.toNat < s.sbud) ∧ (∀ r ∈ xs, RegRef.s r.toNat ∉ s.busy) ∧ (∀ r ∈ cs, RegRef.c r.toNat ∉ s.busy)

/-- A register number as the manual writes it. -/
abbrev sreg (n : Nat) : BitVec 6 := BitVec.ofNat 6 n

/-! ### What a scalar word leaves alone -/

/-- The state without the scalar part of the current thread, the record of its group's stepping, its core's rotation, the groups that it has named and its
    count of issued words, and the count of free values: what a scalar word that only computes leaves as it was. -/
def State.rest (s : State) : State :=
  let s1 := { s.modHart fun _ => Hart.reset with free := 0 }
  match s.cur with
  | .service _ => s1
  | .group k => (s1.modGroup k fun g => { g with stepping := StepState.off }).modCore (slotCluster k) (slotCore k) fun c =>
      { c with lastScalar := 31, issuers := [], issued := false, events := vmod c.events 3 fun _ => 0 }

/-- A scalar word completed, with the scalar part of its thread as given but for the PC, which is at the next word, and all else as in a state `u`. -/
def DidIn (s u : State) (r : Res) (h : Hart) : Prop := ∃ t, r = .next t ∧ t.hart = { h with pc := s.pc + 4 } ∧ t.rest = u.rest

/-- A scalar word completed that changed nothing but the scalar part of its thread. -/
def Did (s : State) (r : Res) (h : Hart) : Prop := DidIn s s r h

/-- A scalar word completed that moved the PC elsewhere. -/
def Jumped (s : State) (r : Res) (h : Hart) (pc : Word) : Prop := ∃ t, r = .next t ∧ t.hart = { h with pc := pc } ∧ t.rest = s.rest

/-- A scalar word with these register operands that may not issue: beyond the budget it takes ILLEGAL_INSN (R15), and it waits for a register that awaits a load or
    a run's return (R36, R43). -/
def State.HoldsBack (s : State) (i : Instr) (xs : List (BitVec 6)) : Prop :=
  ((∃ r ∈ xs, s.sbud ≤ r.toNat) → exec i s = .next (s.raiseHere Cause.illegalInsn)) ∧
  ((∀ r ∈ xs, r.toNat < s.sbud) → (∃ r ∈ xs, RegRef.s r.toNat ∈ s.busy) → exec i s = .next s)

/-! ### What scalar words compute, from the tables of R118, R129, R130, R136, R140 -/

/-- The register forms of R129 with two sources. -/
def binaryWords : List ((BitVec 6 → BitVec 6 → BitVec 6 → Instr) × (Word → Word → Word)) :=
  [(.add, fun x y => BitVec.ofNat 64 (x.toNat + y.toNat)),
   (.sub, fun x y => BitVec.ofInt 64 (x.toNat - y.toNat)),
   (.and, fun x y => x &&& y), (.or, fun x y => x ||| y), (.xor, fun x y => x ^^^ y), (.andn, fun x y => x &&& ~~~y),
   (.sll, fun x y => BitVec.ofNat 64 (x.toNat * 2 ^ (y.toNat % 64))),
   (.srl, fun x y => BitVec.ofNat 64 (x.toNat / 2 ^ (y.toNat % 64))),
   (.sra, fun x y => BitVec.ofInt 64 (x.toInt / 2 ^ (y.toNat % 64))),
   (.mul, fun x y => BitVec.ofNat 64 (x.toNat * y.toNat)),
   (.mulhS64, fun x y => BitVec.ofInt 64 (x.toInt * y.toInt / 2 ^ 64)),
   (.mulhZ64, fun x y => BitVec.ofNat 64 (x.toNat * y.toNat / 2 ^ 64)),
   (.divS64, fun x y => if y = 0 then BitVec.allOnes 64 else BitVec.ofInt 64 (x.toInt.tdiv y.toInt)),
   (.divZ64, fun x y => if y = 0 then BitVec.allOnes 64 else BitVec.ofNat 64 (x.toNat / y.toNat)),
   (.remS64, fun x y => if y = 0 then x else BitVec.ofInt 64 (x.toInt.tmod y.toInt)),
   (.remZ64, fun x y => if y = 0 then x else BitVec.ofNat 64 (x.toNat % y.toNat)),
   (.minS64, fun x y => if x.toInt ≤ y.toInt then x else y), (.minZ64, fun x y => if x.toNat ≤ y.toNat then x else y),
   (.maxS64, fun x y => if x.toInt ≤ y.toInt then y else x), (.maxZ64, fun x y => if x.toNat ≤ y.toNat then y else x),
   (.sltS64, fun x y => if x.toInt < y.toInt then 1 else 0), (.sltZ64, fun x y => if x.toNat < y.toNat then 1 else 0),
   (.seq, fun x y => if x = y then 1 else 0), (.sne, fun x y => if x = y then 0 else 1)]

/-- The register forms of R129 with one source. -/
def unaryWords : List ((BitVec 6 → BitVec 6 → Instr) × (Word → Word)) :=
  [(.clz, fun x => if x = 0 then 64 else BitVec.ofNat 64 (63 - x.toNat.log2)),
   (.ctz, fun x => if x = 0 then 64 else BitVec.ofNat 64 (x &&& -x).toNat.log2),
   (.popc, fun x => BitVec.ofNat 64 ((List.range 64).countP fun i => x.toNat.testBit i)),
   (.sextS8, fun x => BitVec.ofInt 64 (BitVec.ofNat 8 x.toNat).toInt), (.sextS16, fun x => BitVec.ofInt 64 (BitVec.ofNat 16 x.toNat).toInt),
   (.sextS32, fun x => BitVec.ofInt 64 (BitVec.ofNat 32 x.toNat).toInt),
   (.zextZ8, fun x => BitVec.ofNat 64 (x.toNat % 2 ^ 8)), (.zextZ16, fun x => BitVec.ofNat 64 (x.toNat % 2 ^ 16)),
   (.zextZ32, fun x => BitVec.ofNat 64 (x.toNat % 2 ^ 32))]

/-- The forms of R130 with an immediate of 14 bits. -/
def immediateWords : List ((BitVec 6 → BitVec 6 → BitVec 14 → Instr) × (Word → BitVec 14 → Word)) :=
  [(.addi, fun x i => BitVec.ofInt 64 (x.toInt + i.toInt)),
   (.andi, fun x i => x &&& BitVec.ofInt 64 i.toInt), (.ori, fun x i => x ||| BitVec.ofInt 64 i.toInt), (.xori, fun x i => x ^^^ BitVec.ofInt 64 i.toInt),
   (.sltiS64, fun x i => if x.toInt < i.toInt then 1 else 0),
   (.sltiZ64, fun x i => if x.toNat < (BitVec.ofInt 64 i.toInt).toNat then 1 else 0),
   (.sethi, fun x i => BitVec.ofNat 64 (x.toNat * 2 ^ 14) ||| BitVec.ofNat 64 i.toNat)]

/-- The shifts of R130 by a constant. -/
def shiftWords : List ((BitVec 6 → BitVec 6 → BitVec 6 → Instr) × (Word → Nat → Word)) :=
  [(.slli, fun x n => BitVec.ofNat 64 (x.toNat * 2 ^ n)), (.srli, fun x n => BitVec.ofNat 64 (x.toNat / 2 ^ n)),
   (.srai, fun x n => BitVec.ofInt 64 (x.toInt / 2 ^ n))]

/-- The branches of R136. -/
def branchWords : List ((BitVec 6 → BitVec 6 → BitVec 14 → Instr) × (Word → Word → Prop)) :=
  [(.beq, fun x y => x = y), (.bne, fun x y => x ≠ y), (.bltS64, fun x y => x.toInt < y.toInt), (.bgeS64, fun x y => y.toInt ≤ x.toInt),
   (.bltZ64, fun x y => x.toNat < y.toNat), (.bgeZ64, fun x y => y.toNat ≤ x.toNat)]

/-- The inspections of R140 with one operand. -/
def inspectWords : List ((BitVec 6 → BitVec 5 → Instr) × (Cap → Nat)) :=
  [(.cgetaddr, fun c => c.cursor.toNat), (.cgetbase, fun c => c.base % 2 ^ 64), (.cgettop, fun c => min c.top (2 ^ 64 - 1)),
   (.cgetperm, fun c => c.perms.toNat), (.cgettype, fun c => c.otype.toNat), (.cgetcolour, fun c => c.colour.toNat),
   (.cgettag, fun c => if c.tag then 1 else 0), (.cgetlen, fun c => min (c.top - c.base) (2 ^ 64 - 1))]

/-- The least exponent from 0 to 52 at which a length is no more than 1024 units (R141). -/
def LeastExp (len e : Nat) : Prop := e ≤ 52 ∧ len ≤ 1024 * 2 ^ e ∧ ∀ i < e, 1024 * 2 ^ i < len

/-- Whether the current thread may derive from c[r] (R67, R74): no revoked colour, and in a group no system permission. -/
def State.Derivable (s : State) (r : BitVec 5) : Prop :=
  (s.c r).tag = true → s.who.mask.getLsbD (s.c r).colour.toNat = false ∧ (s.isService = true ∨ (s.c r).has Perm.system = false)

/-- The units that a region spans at an exponent (R66). -/
def spanAt (b len e : Nat) : Nat := (b + len + 2 ^ e - 1) / 2 ^ e - b / 2 ^ e

/-- What `cbound` and `cbound.exact` make of a capability (R66, R68, R139). -/
def Narrowed (exact : Bool) (c : Cap) (len : Nat) (v : Cap) : Prop :=
  v.perms = c.perms ∧ v.otype = c.otype ∧ v.colour = c.colour ∧
  (∀ e ≤ 52, spanAt c.cursor.toNat len e ≤ 1024 → (∀ i < e, 1024 < spanAt c.cursor.toNat len i) →
    let lo := c.cursor.toNat / 2 ^ e
    let hi := (c.cursor.toNat + len + 2 ^ e - 1) / 2 ^ e
    v.e = BitVec.ofNat 6 e ∧ v.bf = BitVec.ofNat 11 lo ∧ v.lf = BitVec.ofNat 11 (hi - lo) ∧ v.cursor.toNat = lo * 2 ^ e ∧
    (v.tag = true ↔ c.tag = true ∧ c.otype = 0 ∧ c.cursor.toNat + len ≤ 2 ^ 64 ∧ c.base ≤ lo * 2 ^ e ∧ hi * 2 ^ e ≤ c.top ∧
      (exact = true → lo * 2 ^ e = c.cursor.toNat ∧ hi * 2 ^ e = c.cursor.toNat + len))) ∧
  ((∀ e ≤ 52, 1024 < spanAt c.cursor.toNat len e) →
    v.e = 52 ∧ v.bf = BitVec.ofNat 11 (c.cursor.toNat / 2 ^ 52) ∧ v.lf = 1024 ∧ v.tag = false)

/-- Whether c[b] has the authority to seal or unseal with the object type at its cursor (R68). -/
def Cap.Authority (c : Cap) (perm : Nat) : Prop := c.tag = true ∧ c.otype = 0 ∧ c.has perm = true ∧ c.base ≤ c.cursor.toNat ∧ c.cursor.toNat < c.top

/-! ### Accesses of scalar words -/

/-- An access of the current thread that goes through, at key k (R70, R338, log entry 7); u is the state with the TLB entry of its page. -/
def State.Granted (s : State) (a : Acc) (k : Nat) (u : State) : Prop :=
  (∃ t, s.check s.who a = .ok (k, t) ∧ u = s.fill s.curCluster t.toList) ∧
  (∀ j, s.cur = .group j → a.cap.has Perm.window = true ∨ s.watch (slotCluster j) s.who.ctx a.rd a.wr a.x a.n = none) ∧
  ¬ (s.isService = true ∧ physHole k = true) ∧ s.memReady a.wr k a.n = true

/-- Tests in the order of their causes, each with the cause that it gives where it holds: the first cause reached. -/
def FirstOf : List (Prop × BitVec 8) → BitVec 8 → Prop
  | [], _ => False
  | t :: ts, e => (t.1 ∧ e = t.2) ∨ (¬ t.1 ∧ FirstOf ts e)

/-- None of some tests holds. -/
def NoneOf (ts : List (Prop × BitVec 8)) : Prop := ∀ t ∈ ts, ¬ t.1

/-- The tests of R70 on an authority: tag, colour (R74), seal, and the permissions of R67. -/
def authTests (w : Who) (c : Cap) (perms : List Nat) : List (Prop × BitVec 8) :=
  [(c.tag = false, Cause.capTag), (w.mask.getLsbD c.colour.toNat = true, Cause.capRevoked), (c.otype ≠ 0, Cause.capSealed),
   ((∃ p ∈ perms, c.has p = false) ∨ (w.svc = false ∧ c.has Perm.system = true), Cause.capPerm)]

/-- An access leaves the bounds of its authority. -/
def Acc.Outside (a : Acc) : Prop := a.x < a.cap.base ∨ a.cap.top < a.x + a.n

/-- The tests of R70 up to alignment on an access. -/
def Acc.tests (w : Who) (a : Acc) : List (Prop × BitVec 8) :=
  authTests w a.cap a.perms ++ [(a.Outside, Cause.capBounds), (a.x % a.align ≠ 0, Cause.align)]

/-- The tests of R70 on a leaf of the page table (R373). -/
def leafTests (priv : Bool) (need : List Nat) (pte : Word) : List (Prop × BitVec 8) :=
  [(2 ∈ need ∧ pte.getLsbD 2 = false, Cause.permRead), (3 ∈ need ∧ pte.getLsbD 3 = false, Cause.permWrite), (4 ∈ need ∧ pte.getLsbD 4 = false, Cause.permExec),
   (5 ∈ need ∧ pte.getLsbD 5 = false, Cause.permAtomic), (pte.getLsbD 6 = true ∧ priv = false, Cause.permPriv)]

/-- The test of R214 on an access at a key: it writes a granule of a registered source, or reads or writes one of a registered destination. -/
def State.lockTest (s : State) (w : Who) (a : Acc) (key : Nat) : Prop × BitVec 8 :=
  (∃ l ∈ (s.cluster w.cluster).locks, (l.dst = true ∧ a.rd = true ∨ a.wr = true) ∧
     ∃ g ∈ l.segs, ∃ i < g.len, ∃ j < a.n, (g.lo + i) / 16 = (key + j) / 16, Cause.rangeLock)

/-- A scalar word whose access R70 refuses: its thread stops, or takes its exception, with the first cause reached, FADDR at the access (R55, R62). -/
def State.Refuses (s : State) (i : Instr) (a : Acc) : Prop :=
  (∀ e, FirstOf (a.tests s.who) e → exec i s = .next (s.raise e (BitVec.ofNat 64 a.x))) ∧
  (NoneOf (a.tests s.who) → ∀ e, s.reach s.who a = .error e → exec i s = .next (s.raise e (BitVec.ofNat 64 a.x)))

/-- The address that a displacement form names (R131). -/
def dispAddr (c : Cap) (imm : BitVec 14) : Nat := (c.cursor + BitVec.ofInt 64 imm.toInt).toNat

/-- n bytes as the value of a register (R131). -/
def loadValue (v n : Nat) (sg : Bool) : Word := if sg then BitVec.ofInt 64 (BitVec.ofNat (8 * n) v).toInt else BitVec.ofNat 64 v

/-- An operation outstanding that makes no invocations. -/
def opOf (id : Nat) (ld : Bool) (regs : List RegRef) (atoms : List AtomReq) (writes : List RegWrite) (fp : Bool) : Pending :=
  ⟨id, ld, regs, atoms, [], writes, 0, fp, false, [], none, []⟩

/-- An operation outstanding with a thread, counted in ld or in st (R48). -/
def Hart.holding (h : Hart) (p : Pending) : Hart :=
  { h with ld := h.ld + (if p.ld then 1 else 0), st := h.st + (if p.ld then 0 else 1), pend := h.pend ++ [p] }

/-- Writes made: the state after those whose page is not being moved, and the others, which are left over (R264). -/
def State.wrote (s : State) (w : Stall) : State × List Stall := if s.moving w.key w.write.len then (s, [w]) else (s.perform w, [])

/-- A store issued: the state, its thread's scalar part apart, with the bytes at k or, where the page is being moved, as it was; and the operation outstanding. A
    page of another package gets a request (R265, R266). -/
def State.storeSent (s u : State) (k : Nat) (w : StallWrite) (kind : RemoteKind) : State × Hart :=
  let r := (u.wlSend u.who u.nextId k kind).wrote ⟨k, w⟩
  ({ r.1 with nextId := s.nextId + 1 }, s.hart.holding { opOf s.nextId false [] [] [] false with stores := r.2 })

/-- The register that a load will write; none for `s0`. -/
def loadDst (d : BitVec 6) : List RegRef := if d = 0 then [] else [.s d.toNat]
/-- The write of a load as it lands; none for `s0`. -/
def loadWrite (d : BitVec 6) (y : Word) : List RegWrite := if d = 0 then [] else [.s d.toNat y]

/-- The loads of R131: bytes, signed. -/
def loadWords : List ((BitVec 6 → BitVec 5 → BitVec 14 → Instr) × Nat × Bool) :=
  [(.ldZ8, 1, false), (.ldZ16, 2, false), (.ldZ32, 4, false), (.ldB64, 8, false), (.ldS8, 1, true), (.ldS16, 2, true), (.ldS32, 4, true)]

/-- The stores of R131: bytes. -/
def storeWords : List ((BitVec 6 → BitVec 5 → BitVec 14 → Instr) × Nat) := [(.stZ8, 1), (.stZ16, 2), (.stZ32, 4), (.stB64, 8)]

/-- An event told to a service core, between two of its states (R353). -/
def Heard (v v' : Service) (e : Event) : Prop := v'.events = (v.tell e).events ∧ v'.held = (v.tell e).held

/-! ### Barriers -/

/-- A barrier after one arrival more (R147, R234). -/
def BarWord.Arrived (b b' : BarWord) : Prop :=
  b'.exp = b.exp ∧ b'.pend = b.pend ∧ (b.arr + 1 = b.exp → b'.arr = 0 ∧ b'.gen = b.gen + 1) ∧ (b.arr + 1 ≠ b.exp → b'.arr = b.arr + 1 ∧ b'.gen = b.gen)

/-- A group's token for a barrier and the barrier itself set. -/
def State.barSet (s : State) (k team n : Nat) (tok : Option (BitVec 32)) (b : BarWord) : State :=
  (s.modGroup k fun g => { g with tokens := vset g.tokens n tok }).modTeam team fun t => { t with bars := vset t.bars n b }

/-! ### Registers of R59 -/

/-- The registers that a group reads (R59), but for SCODE and LCODE. -/
def groupRegisters : List (Nat × (State → Nat → Group → Nat)) :=
  [(0x001, fun _ _ g => g.index + g.role * 16), (0x002, fun _ _ g => g.teamId.toNat), (0x003, fun _ _ g => g.gridId.toNat),
   (0x004, fun _ k _ => k / 128 + k / 32 % 4 * 256 + k % 32 * 1024), (0x005, fun _ _ g => g.lane.present),
   (0x010, fun _ _ g => g.lane.vl), (0x011, fun _ _ g => g.lane.vtype.toNat), (0x012, fun _ _ g => g.lane.fpctl.toNat),
   (0x013, fun _ _ g => g.lane.fpstat.toNat), (0x020, fun _ _ g => g.hart.cause.toNat), (0x021, fun _ _ g => g.hart.faddr.toNat),
   (0x030, fun _ _ g => g.ctx), (0x031, fun _ _ g => g.world.toNat), (0x040, fun _ _ g => g.preempt.toNat), (0x060, fun s _ _ => s.cycle.toNat)] ++
  ((List.range 4).map fun i => (0x050 + i, fun s _ g => (s.colourMask g.ctx).toNat / 2 ^ (64 * i) % 2 ^ 64)) ++
  ((List.range 128).map fun i => (0x100 + i, fun _ _ g => if i < 32 then g.flanes.toNat / 2 ^ (64 * i) % 2 ^ 64 else 0))

/-- The registers of R59 whose reads wait for the lane state to settle (R60). -/
def laneStateRegisters : List Nat := [0x010, 0x011, 0x013]

/-- The registers that a group may read but not write (R59). -/
def readOnlyRegisters : List Nat :=
  [0x014, 0x020, 0x021, 0x030, 0x031, 0x040, 0x070, 0x071] ++ (List.range 4).map (0x050 + ·) ++ (List.range 128).map (0x100 + ·)

/-- Registers of a service core that hold what is written, with the bits that each keeps (R336, R352, R368, R387). -/
def plainRegisters : List (Nat × Word) :=
  [(0x021, BitVec.allOnes 64), (0x403, BitVec.allOnes 64), (0x405, 0xFFFFFFFFFFFFFFFC), (0x407, 0xFFFFFFFFFFFFF000), (0x408, BitVec.allOnes 64),
   (0x40A, BitVec.allOnes 64), (0x420, 0x000FFFFFFFFFF000), (0x500, 0x000FFFFFFFFF0000), (0x501, 0x7FFF), (0x503, 0x3F), (0x505, 0xFFFFFFFFFFFFFFC0),
   (0x600, 0x1F), (0x601, 0xF), (0x609, 0xFFFF), (0x60C, 0xFFFFFFFFFFFFFFC0), (0x60D, BitVec.allOnes 64), (0x60F, BitVec.allOnes 64),
   (0x610, BitVec.allOnes 64), (0x612, 0x3FF), (0x614, 0x7F)]

/-! ### Traps -/

/-- A group whose trap form makes calls: 14 vector registers at least, 64-bit elements at LMUL 1, nothing of its lane state pending (R155), and no call
    outstanding. -/
def State.TrapFree (s : State) (k : Nat) (g : Group) : Prop :=
  14 ≤ g.vbud ∧ g.lane.vt.sew = 64 ∧ g.lane.vt.lmul = 1 ∧ g.trapReady = true ∧ s.trapOutstanding (s.trapRecord k) = false

/-! ### Rounding (R107 to R116, R126) -/

/-- The exact value of a finite decoded number. -/
noncomputable def Fp.value : Fp → ℝ
  | .fin neg m e => (if neg then -1 else 1) * m * 2 ^ e
  | _ => 0

/-- The formats of R107. -/
def formats : List Fmt := [.f64, .f32, .f16, .bf16, .e5m2, .e4m3, .e2m1]

/-- The magnitude of the format's greatest finite number (R107). -/
noncomputable def Fmt.maxValue (f : Fmt) : ℝ := (f.decode f.maxFinite).value

/-- The least magnitude of a normal number (R107). -/
noncomputable def Fmt.minNormal (f : Fmt) : ℝ := 2 ^ (1 - f.bias : ℤ)

/-- w is the multiple of 2^q that a mode selects for v (R113): 0 nearest, ties to even; 1 nearest not greater in magnitude; 2 nearest not greater; 3 nearest not
    less; 4 nearest, ties away from zero. -/
def RoundsTo (mode : Nat) (q : ℤ) (v w : ℝ) : Prop :=
  ∃ n : ℤ, w = n * 2 ^ q ∧ match mode with
    | 0 => 2 * |v - w| ≤ 2 ^ q ∧ (2 * |v - w| = 2 ^ q → n % 2 = 0)
    | 1 => |w| ≤ |v| ∧ |v - w| < 2 ^ q
    | 2 => w ≤ v ∧ v - w < 2 ^ q
    | 3 => v ≤ w ∧ w - v < 2 ^ q
    | _ => 2 * |v - w| ≤ 2 ^ q ∧ (2 * |v - w| = 2 ^ q → |v| ≤ |w|)

/-- The result of an overflow (R114). -/
def Fmt.overflows (f : Fmt) (mode : Nat) (sat neg : Bool) : Nat :=
  if sat = true ∨ f = .e2m1 ∨ mode = 1 ∨ (mode = 2 ∧ neg = false) ∨ (mode = 3 ∧ neg = true) then f.signBit neg + f.maxFinite else if f = .e4m3 then 0x7F else f.infinity neg

/-- A pattern and flags are what the rounding of an exact nonzero value v gives (R113 to R115, R126): u is v rounded to full precision, on which tininess is judged,
    and y with subnormal precision below the least normal number, which is the result. -/
def Fmt.Rounded (f : Fmt) (env : FpEnv) (sat neg : Bool) (v : ℝ) (r : Nat × Flags) : Prop :=
  ∀ (q : ℤ) (u y : ℝ), 2 ^ (q + f.fbits) ≤ |v| → |v| < 2 ^ (q + f.fbits + 1) → RoundsTo env.mode q v u →
    RoundsTo env.mode (max q (1 - f.bias - f.fbits)) v y →
    let tiny := |u| < f.minNormal
    (f.maxValue < |y| → r = (f.overflows env.mode sat neg, Flags.overflow ||| Flags.inexact)) ∧
    (|y| ≤ f.maxValue → env.flush f = true ∧ tiny → r = (f.signBit neg, Flags.underflow ||| Flags.inexact)) ∧
    (|y| ≤ f.maxValue → ¬(env.flush f = true ∧ tiny) → r.1 < 2 ^ f.width ∧ (∃ m e, f.decode r.1 = .fin neg m e) ∧ (f.decode r.1).value = y ∧
      (r.2.getLsbD 0 = true ↔ y ≠ v) ∧ (r.2.getLsbD 1 = true ↔ tiny ∧ y ≠ v) ∧ r.2.toNat < 4)

/-! ### Matrix words and engine commands -/

/-- The six factors of term k of D (R119, R120, R122): the elements, the block scales and the band scales of row n of N and of column m. -/
def mxFactors (ty : Nat) (act : List Byte) (n rows : Nat) (wt : List Byte) (m k : Nat) : List Fp :=
  let c := mxLine ty
  let f := mxFmt ty
  [f.decode (lineElem act (n * (8 + c)) ty k), f.decode (lineElem wt (m * c) ty k), Fmt.e3m5.decode (bytesAt act (n * (8 + c) + c + k / 8) 1),
   Fmt.e3m5.decode (bytesAt wt (256 * c + 8 * m + k / 8) 1), Fmt.bf16.decode (bytesAt act (rows * (8 + c) + 2 * (n / 64)) 2),
   Fmt.bf16.decode (bytesAt wt (256 * c + 2048 + 2 * (m / 64)) 2)]

/-- A factor is a zero. -/
def Fp.IsZero (x : Fp) : Prop := ∃ s e, x = .fin s 0 e
/-- A factor is an infinity. -/
def Fp.IsInf (x : Fp) : Prop := ∃ s, x = .inf s
/-- The sign bit of a value. -/
def Fp.negative : Fp → Bool
  | .inf s => s
  | .fin s _ _ => s
  | .nan _ => false

/-- A matrix word of slot k's group is ready (R53, R190, R192): the team has a pair, a paired word comes from the issuer, the queues have room, and on the follower
    core no paired operation is in the queue. -/
def State.MxRoom (s : State) (k : Nat) (g : Group) (tm : Team) (pair : Bool) : Prop :=
  s.team g.team = some tm ∧ tm.pair.isSome = true ∧ (pair = true → g.index = tm.issuer) ∧
  (∀ i ∈ mxCores (slotCore k) pair, ((s.cluster (slotCluster k)).core i).mq.length < 16) ∧
  (slotCore k = tm.leader ∨ ∀ o ∈ ((s.cluster (slotCluster k)).core (slotCore k)).mq, o.pair = false)

/-- A matrix word of slot k's group can enter its queues: it is ready, and earlier stores are performed (R259). -/
def State.MxReady (s : State) (k : Nat) (g : Group) (tm : Team) (pair : Bool) : Prop := s.MxRoom k g tm pair ∧ g.released = true ∧ g.hart.fenceDone = true

/-- The lock table of a cluster has room for a range; an empty one takes no entry (R213). -/
def State.LockFor (s : State) (cl : Nat) (segs : List Seg) : Prop := (s.cluster cl).locks.length + (if segLen segs = 0 then 0 else 1) ≤ 64

/-- A matrix operation of slot k's group in its queues, its operand's lock registered, among the group's open operations, its accumulator among those that they use (R28, R191, R198,
    R213). -/
def State.mxEntered (s : State) (k : Nat) (g : Group) (kind : MxKind) (pair : Bool) (a b : BitVec 6) (desc : Word) (cap : Cap) (src : MxSrc) (dst : Bool) (ts : List TlbEntry) : State :=
  let s := s.wlReadNow s.who (s.handleSegs s.who cap src)
  let op : MxOp := ⟨s.nextId, k, g.team, g.ctx, kind, pair, desc, cap, src, false, 0, 0, a, b⟩
  let s1 := (s.fill (slotCluster k) ts).modCluster (slotCluster k) fun c =>
    { c with locks := if segLen src.segs = 0 then c.locks else c.locks ++ [⟨s.nextId, src.segs, dst⟩] }
  let s2 := (mxCores (slotCore k) pair).foldl (fun s i => s.modCore (slotCluster k) i fun c => { c with mq := c.mq ++ [op] }) s1
  { s2.modGroup k fun g => { g with openOps := g.openOps ++ [s.nextId], openAccs := g.openAccs ++ kind.acc.toList } with nextId := s.nextId + 1 }

/-- The descriptor of `mxlds` keeps R193: its reserved bits are zero. -/
def LdsDesc (x : Word) : Prop :=
  bitsOf x.toNat 15 8 = 0 ∧ bitsOf x.toNat 63 48 = 0 ∧ (x.getLsbD 7 = false → bitsOf x.toNat 47 16 = 0) ∧ (x.getLsbD 6 = false → bitsOf x.toNat 5 0 = 0)

/-- The descriptor of `mxmm` keeps R193: its reserved bits are zero, and its rows lie in the accumulator. -/
def MmDesc (x : Word) : Prop :=
  x.getLsbD 19 = false ∧ bitsOf x.toNat 63 52 = 0 ∧ (x.getLsbD 18 = false → bitsOf x.toNat 51 20 = 0) ∧ mxCol x + mxRows x ≤ 512

/-- The descriptor of `mxst` keeps R193, with lines of so many bytes: its reserved bits are zero, its rows lie in the accumulator, and its stride is a multiple of 16
    that holds a line. -/
def StDesc (x : Word) (line : Nat) : Prop :=
  x.getLsbD 19 = false ∧ bitsOf x.toNat 63 52 = 0 ∧ mxCol x + mxRows x ≤ 512 ∧ bitsOf x.toNat 51 20 % 16 = 0 ∧ line ≤ bitsOf x.toNat 51 20

/-- What a command of the current thread waits for lets it issue (R48, R213, R259, R367). -/
def State.CopyReady (s : State) (o : EngOp) : Prop :=
  s.hart.cp < 255 ∧ s.copyReady = true ∧ s.entriesFit o s.curCluster = true ∧ s.wlRoomFor (o.ranges.map (·.lo)) = true

/-- A form that names the object at c[a] reaches it, at key (R217); u is the state with the TLB entry of its page. -/
def State.ObjectAt (s : State) (a : BitVec 5) (key : Nat) (u : State) : Prop :=
  authCause s.who (s.c a) [Perm.load, Perm.store] = none ∧ (s.c a).base % 128 = 0 ∧ (s.c a).covers (s.c a).base 0x280 = true ∧
  (∃ t, s.reach s.who ⟨s.c a, [Perm.load, Perm.store], (s.c a).base, 0x280, 128, [2, 3], true, true⟩ = .ok (key, t) ∧ u = s.fill s.curCluster t.toList) ∧
  s.memReady true key 0x280 = true ∧ s.moving key 0x280 = false ∧ s.objectRoom key = true

/-- Edges form a cycle: a node is reached from itself. -/
inductive Reaches (es : List (Nat × Nat)) : Nat → Nat → Prop where
  | edge {a b : Nat} : (a, b) ∈ es → Reaches es a b
  | step {a b c : Nat} : Reaches es a b → (b, c) ∈ es → Reaches es a c

/-! ### Canonical states -/

/-- The keys of a map strictly rise. -/
def Rising {α : Type} (m : SMap α) : Prop := m.Pairwise fun a b => a.1 < b.1

/-- Memory, tags and the maps of groups, teams, contexts and page worlds in their canonical form: keys strictly rising, and in memory no entry equal to what
    an unlisted address reads as. -/
def State.Canonical (s : State) : Prop :=
  Memory.wf s.mem = true ∧ Tags.wf s.tags = true ∧ Rising s.groups ∧ Rising s.teams ∧ Rising s.ctxs ∧ Rising s.worlds

/-! ### Lane words -/

/-- The word at the lane PC can issue as the instruction i (R40, R42, R44, R162): the view is that of the current group, the operands keep their limits, and no
    register named awaits a load. -/
def State.LaneReady (s : State) (i : Instr) (v : View) : Prop :=
  s.cur = .group v.slot ∧ s.group v.slot = some v.g ∧ v.g.lane.queue.head? = some v.run ∧
  (laneUses i v.t).legal v.t v.g.vbud v.g.sbud = true ∧ ∀ x ∈ (laneUses i v.t).reads v.t ++ (laneUses i v.t).writes v.t, x ∉ v.g.hart.pendRegs

/-- The state without the scalar and lane part and the stepping of slot k's group, its core's issue slot and lane-cycle record, and the count of free values: all that
    a lane word touches that reaches no memory. -/
def State.laneRest (s : State) (k : Nat) : State :=
  { (s.modGroup k fun g => { g with
        hart := Hart.reset, lane := ⟨Vector.replicate 64 ⟨0, 0⟩, Vector.replicate 96 0, 0, 0, 0, 0, 0, [], none, 0, 0, 0⟩, stepping := StepState.off }).modCore
      (slotCluster k) (slotCore k) fun c => { c with holder := none, left := 0, ending := false, share := [], waited := 0, laneCycles := [] } with free := 0 }

/-- A queue moved past the word that has issued (R38); under a lane step its run stays partial (R339). -/
def View.passed (v : View) (q : List Run) : List Run := if v.g.stepping.mode = 2 then splitRuns (popWord q) else popWord q

/-- A lane word issued (R38, R41): its group's scalar part is h, its lane part l but for the queue, which is q moved past the word; all else is as in u. -/
def LaneDidIn (_ u : State) (v : View) (r : Res) (h : Hart) (l : LaneState) (q : List Run) : Prop :=
  ∃ t g', r = .next t ∧ t.group v.slot = some g' ∧ g'.hart = h ∧ g'.lane = { l with queue := v.passed q } ∧ t.laneRest v.slot = u.laneRest v.slot

/-- A lane word issued that changed the lane part alone. -/
def LaneDid (s : State) (v : View) (r : Res) (l : LaneState) : Prop := LaneDidIn s s v r v.g.hart l v.g.lane.queue

/-- A queue after the return of a scalar by its Head run (R36): the runs accepted after that run see it. -/
def returned (d : BitVec 6) (x : Word) : List Run → List Run
  | [] => []
  | r :: rest => r :: rest.map fun n => { n with snap := { n.snap with s := if d = 0 then n.snap.s else n.snap.s.set d.toNat x } }

/-- A lane word issued that returned x to s[d] (R36, R165). -/
def LaneReturned (s : State) (v : View) (r : Res) (d : BitVec 6) (x : Word) (l : LaneState) : Prop :=
  LaneDidIn s s v r (v.g.hart.setX d x) l (returned d x v.g.lane.queue)

/-- Element k of a group, as a bit vector of the element width. -/
abbrev View.A (v : View) (a : BitVec 6) (w k : Nat) : BitVec w := BitVec.ofNat w (v.a a w k)
/-- Element k of the second source, as a bit vector. -/
abbrev View.B (v : View) (x : Src2) (ty : BitVec 4) (w k : Nat) : BitVec w := BitVec.ofNat w (v.b x ty w k)
/-- The value of a bit vector under a type. -/
def valueOf {w : Nat} (sg : Bool) (x : BitVec w) : Int := if sg then x.toInt else x.toNat
/-- A value saturated to e bits under a type (R126). -/
def satTo (sg : Bool) (e : Nat) (i : Int) : BitVec e :=
  BitVec.ofInt e (if sg then max (-2 ^ (e - 1)) (min (2 ^ (e - 1) - 1) i) else max 0 (min (2 ^ e - 1) i))

/-- The integer forms of R167 with a second source. -/
def laneIntWords : List ((Ctl → BitVec 6 → BitVec 6 → Src2 → BitVec 4 → Instr) × ((e : Nat) → Bool → BitVec e → BitVec e → BitVec e)) :=
  [(.vadd, fun _ _ x y => x + y), (.vsub, fun _ _ x y => x - y), (.vrsub, fun _ _ x y => y - x), (.vmul, fun _ _ x y => x * y),
   (.vmulh, fun e sg x y => BitVec.ofInt e (valueOf sg x * valueOf sg y / 2 ^ e)),
   (.vdiv, fun e sg x y => if y = 0 then BitVec.allOnes e else BitVec.ofInt e ((valueOf sg x).tdiv (valueOf sg y))),
   (.vrem, fun e sg x y => if y = 0 then x else BitVec.ofInt e ((valueOf sg x).tmod (valueOf sg y))),
   (.vmin, fun _ sg x y => if valueOf sg x ≤ valueOf sg y then x else y), (.vmax, fun _ sg x y => if valueOf sg x ≤ valueOf sg y then y else x),
   (.vand, fun _ _ x y => x &&& y), (.vor, fun _ _ x y => x ||| y), (.vxor, fun _ _ x y => x ^^^ y), (.vandn, fun _ _ x y => x &&& ~~~y),
   (.vsll, fun e _ x y => x <<< (y.toNat % e)), (.vsrl, fun e _ x y => x >>> (y.toNat % e)), (.vsra, fun e _ x y => x.sshiftRight (y.toNat % e)),
   (.vaddSat, fun e sg x y => satTo sg e (valueOf sg x + valueOf sg y)), (.vsubSat, fun e sg x y => satTo sg e (valueOf sg x - valueOf sg y))]

/-- The widening forms of R168. -/
def laneWideWords : List ((Ctl → BitVec 6 → BitVec 6 → Src2 → BitVec 4 → Instr) × (Int → Int → Int)) :=
  [(.vwadd, fun x y => x + y), (.vwsub, fun x y => x - y), (.vwmul, fun x y => x * y)]

/-- The narrowing forms of R168: from the wide element and the shift count. -/
def laneNarrowWords : List ((Ctl → BitVec 6 → BitVec 6 → Src2 → BitVec 4 → Instr) × ((e : Nat) → Bool → BitVec (2 * e) → Nat → BitVec e)) :=
  [(.vnsrl, fun e _ x sh => BitVec.ofNat e (x.toNat / 2 ^ sh)), (.vnsra, fun e _ x sh => BitVec.ofInt e (x.toInt / 2 ^ sh)),
   (.vnclip, fun e sg x sh => satTo sg e ((valueOf sg x + (if sh = 0 then 0 else 2 ^ (sh - 1))) / 2 ^ sh))]

/-- The float forms of R170 with a rounding code and a second source: the exact results of the values, rounded once, with the flags. -/
def laneFloatWords : List ((Ctl → BitVec 3 → BitVec 6 → BitVec 6 → Src2 → BitVec 4 → Instr) × (Nat → Fp → Fp → Fp × Flags)) :=
  [(.vfadd, fun m x y => Fp.add m x y), (.vfsub, fun m x y => Fp.add m x y.negate), (.vfmul, fun _ x y => Fp.mul x y), (.vfdiv, fun _ x y => Fp.div x y)]

/-- The sign forms of R170: the sign bit of the result from those of A and B. -/
def laneSignWords : List ((Ctl → BitVec 6 → BitVec 6 → Src2 → BitVec 4 → Instr) × (Bool → Bool → Bool)) :=
  [(.vfsgnj, fun _ b => b), (.vfsgnjn, fun _ b => !b), (.vfsgnjx, fun a b => a ^^ b)]

/-- The fused forms of R172: whether the product and the addend are negated. -/
def laneFusedWords : List ((Ctl → BitVec 3 → BitVec 6 → BitVec 6 → Src2 → BitVec 6 → BitVec 4 → Instr) × Bool × Bool) :=
  [(.vfma, false, false), (.vfms, false, true), (.vfnma, true, true), (.vfnms, true, false)]

/-- A × B ± C exactly, rounded once to a format w, A and B of a format f (R172, R116). -/
def fusedResult (f w : Fmt) (env : FpEnv) (negP negC : Bool) (a b c : Nat) : Nat × Flags :=
  let p := Fp.mul (f.val env a) (f.val env b)
  let z := w.val env c
  let s := Fp.add env.mode (if negP then p.1.negate else p.1) (if negC then z.negate else z)
  let r := w.round env false s.1
  (r.1, p.2 ||| s.2 ||| (if z.isSig then Flags.invalid else 0) ||| r.2)

/-- The integer compares of R174. -/
def laneCompareWords : List ((Ctl → BitVec 7 → BitVec 6 → Src2 → BitVec 4 → Instr) × (Int → Int → Bool)) :=
  [(.vcmpEq, fun x y => x == y), (.vcmpNe, fun x y => x != y), (.vcmpLt, fun x y => x < y), (.vcmpLe, fun x y => x ≤ y),
   (.vcmpGt, fun x y => x > y), (.vcmpGe, fun x y => x ≥ y)]

/-- The float compares of R174, with the operands that raise invalid (R116): a signalling NaN for all, any NaN for an order. -/
def laneFloatCompareWords : List ((Ctl → BitVec 7 → BitVec 6 → Src2 → BitVec 4 → Instr) × (Fp → Fp → Bool) × (Fp → Bool)) :=
  [(.vfcmpEq, fun x y => !x.isNan && !y.isNan && !Fp.lt false x y && !Fp.lt false y x, Fp.isSig),
   (.vfcmpLt, fun x y => !x.isNan && !y.isNan && Fp.lt false x y, Fp.isNan),
   (.vfcmpLe, fun x y => !x.isNan && !y.isNan && !Fp.lt false y x, Fp.isNan),
   (.vfcmpUnord, fun x y => x.isNan || y.isNan, Fp.isSig)]

/-- The predicate forms of R175 with two sources. -/
def lanePredicateWords : List ((Ctl → BitVec 7 → BitVec 7 → BitVec 7 → Instr) × (Bool → Bool → Bool)) :=
  [(.vpand, fun x y => x && y), (.vpor, fun x y => x || y), (.vpxor, fun x y => x ^^ y), (.vpandn, fun x y => x && !y)]

/-- The values that a fold runs through: from a first pair of value and flags, one operation for each further element. -/
def foldFlags (op : Nat → Nat → Nat × Flags) : Nat × Flags → List Nat → Nat × Flags
  | acc, [] => acc
  | acc, y :: ys => foldFlags op ((op acc.1 y).1, acc.2 ||| (op acc.1 y).2) ys

/-- A left-to-right fold of float elements (R126, R177): the first one entered by rounding, the rest combined in order; the value of none is given. -/
def floatFold (f : Fmt) (env : FpEnv) (op : Nat → Nat → Nat × Flags) (none : Nat) : List Nat → Nat × Flags
  | [] => (none, 0)
  | x :: xs => foldFlags op (f.enter env x) xs

/-- The bitwise reductions of R177: each bit of the result from that bit of the elements. -/
def laneBitReductions : List ((Ctl → BitVec 6 → BitVec 6 → BitVec 4 → Instr) × (List Bool → Bool)) :=
  [(.vredand, fun l => l.all id), (.vredor, fun l => l.any id), (.vredxor, fun l => l.foldl (· ^^ ·) false)]

/-- Some elements of a group written, the others and everything else left: element k takes x where f k = some x, and a granule written loses its tag (R72). -/
def LaneState.Wrote (l l' : LaneState) (n w count : Nat) (f : Nat → Option Nat) : Prop :=
  (∀ k < count, l'.elem n w k = match f k with | some x => x % 2 ^ w | none => l.elem n w k) ∧
  (∀ r < 64, r < n ∨ n + (count * w + 2047) / 2048 ≤ r → l'.vreg r = l.vreg r) ∧ { l' with v := l.v } = l ∧
  (∀ r < 64, ∀ i < 16, ((l'.vreg r).tags.getLsbD i = true ↔
    (l.vreg r).tags.getLsbD i = true ∧ ∀ k < count, f k ≠ none → ¬(n + k * w / 2048 = r ∧ k * w % 2048 / 128 = i)))

/-! ### Lane accesses -/

/-- The accesses of a lane word at these elements go through, at these keys (R70, R338, log entry 7); u is the state with the TLB entries of their pages. -/
def State.LaneGranted (s : State) (v : View) (es : List LaneAcc) (ks : List (LaneAcc × Nat)) (u : State) : Prop :=
  (∃ ts, s.laneChecks (s.whoGroup v.slot) es = .ok (ks, ts) ∧ u = s.fill (slotCluster v.slot) ts) ∧ s.laneHits v (ks.map (·.1)) = [] ∧ s.laneReady v ks = true

/-- The tests of R70 up to alignment on one element: a permission that the word itself asks for stands at the place of CAP_PERM (R186), the limit of private
    memory at that of CAP_BOUNDS (R185). -/
def LaneAcc.tests (w : Who) (e : LaneAcc) : List (Prop × BitVec 8) :=
  authTests w e.acc.cap e.acc.perms ++ [(e.short = true, Cause.capPerm), (e.limit = some false, Cause.stackLimit),
    (e.limit = none ∧ e.acc.Outside, Cause.capBounds), (e.acc.x % e.acc.align ≠ 0, Cause.align)]

/-- The first cause that an element of slot k's group reaches (R70). -/
def State.elemCause (s : State) (k : Nat) (e : LaneAcc) (c : BitVec 8) : Prop :=
  FirstOf (e.tests (s.whoGroup k)) c ∨ (NoneOf (e.tests (s.whoGroup k)) ∧ s.reach (s.whoGroup k) e.acc = .error c)

/-- The causes of R70 in its order. -/
def causeOrder : List (BitVec 8) :=
  [Cause.capTag, Cause.capRevoked, Cause.capSealed, Cause.capPerm, Cause.capBounds, Cause.stackLimit, Cause.align, Cause.transInvalid, Cause.permRead, Cause.permWrite,
   Cause.permExec, Cause.permAtomic, Cause.permPriv, Cause.worldMismatch, Cause.rangeLock]

/-- A lane word with an element that R70 refuses: its group stops with the first cause that any element reaches, FLANES holding every element with that cause and
    FADDR the lowest of them (R55, R62, R70). -/
def LaneRefused (s : State) (v : View) (i : Instr) (es : List LaneAcc) : Prop :=
  ∀ x ∈ es, ∀ c, s.elemCause v.slot x c →
    (∀ y ∈ es, ∀ c', s.elemCause v.slot y c' → causeOrder.idxOf c ≤ causeOrder.idxOf c') → (∀ y ∈ es, s.elemCause v.slot y c → x.k ≤ y.k) →
    ∃ fl : VBits, exec i s = .next (s.raiseLane v c (BitVec.ofNat 64 x.acc.x) fl) ∧
      ∀ j, fl.getLsbD j = true ↔ ∃ y ∈ es, y.k = j ∧ s.elemCause v.slot y c

/-- A lane word outside its limits: its group stops with ILLEGAL_INSN, FLANES clear and FADDR at the word (R62, R99). -/
def LaneUnlawful (s : State) (i : Instr) : Prop :=
  ∀ v : View, s.cur = .group v.slot → s.group v.slot = some v.g → v.g.lane.queue.head? = some v.run →
    (laneUses i v.t).legal v.t v.g.vbud v.g.sbud = false → exec i s = .next (s.raiseLane v Cause.illegalInsn v.run.addr 0)

/-- A group's scalar part when a lane access has issued: the operation outstanding, which a release fence after its run covers
    (R37, R251), or, with no active element, its count given back (R48). -/
def View.issued (v : View) (p : Pending) (any : Bool) : Hart :=
  if any then { v.g.hart with pend := v.g.hart.pend ++ [{ p with run := some v.run.seq }],
                              fenced := if v.run.seq < v.g.lane.relRuns then v.g.hart.fenced ++ [p.id] else v.g.hart.fenced }
  else if p.ld then { v.g.hart with ld := v.g.hart.ld - 1 } else { v.g.hart with st := v.g.hart.st - 1 }

/-- A lane access issued from a state u in which its group's lane part is l: its operation is outstanding under the next number, if an element is active. -/
def LaneSent (s u : State) (v : View) (r : Res) (p : Pending) (any : Bool) (l : LaneState) : Prop :=
  LaneDidIn s { u with nextId := if any then s.nextId + 1 else s.nextId } v r (v.issued p any) l v.g.lane.queue

/-- An address moved by a displacement (R182). -/
def moved (c : Cap) (disp : BitVec 32) : Word := c.cursor + disp.signExtend 64

/-- The element accesses of modes 0 to 4 (R182, R185) for loads or, with `st`, for stores of e / 8 bytes. -/
def View.modes (v : View) (st : Bool) (q : Auth) (b k a : BitVec 6) (disp : BitVec 32) : List (Nat → LaneAcc) :=
  let acc := fun (c : Cap) (x : Word) => if st then Acc.store c x.toNat (v.e / 8) else .load c x.toNat (v.e / 8)
  [fun i => .plain i (acc (v.auth q i) (moved (v.auth q i) disp + if q.perLane then 0 else BitVec.ofNat 64 (i * (v.e / 8)))),
   fun i => .plain i (acc (v.run.snap.cap k.toNat) (moved (v.run.snap.cap k.toNat) disp + BitVec.ofNat 64 i * v.run.snap.x b.toNat)),
   fun i => .plain i (acc (v.auth q i) ((v.auth q i).cursor + BitVec.ofNat 64 (v.a a v.e i))),
   fun i => let w : Int := (v.a a 32 i : Nat) + disp.toInt
     ⟨i, acc v.g.privCap (v.g.priv.cursor + BitVec.ofInt 64 (256 * w + 4 * i)), some (decide (0 ≤ w ∧ w < v.g.privW)), false⟩]

/-- Requests gathered by the address that the elements name (R231), from address, key and element: one for each address and key, its elements in their order. A
    window offset and a virtual address of one number are two addresses (R67). -/
def GatheredAtoms (op : Nat) (l : List (Nat × Nat × AtomElem)) (rs : List AtomReq) : Prop :=
  ∃ xs : List (Nat × Nat), xs.length = rs.length ∧ xs.Nodup ∧ (∀ p ∈ l, (p.1, p.2.1) ∈ xs) ∧
    ∀ y ∈ xs.zip rs, y.2.op = op ∧ y.2.elems ≠ [] ∧ y.2.elems = (l.filter fun p => (p.1, p.2.1) == y.1).map (·.2.2) ∧ y.1.2 = y.2.key

/-- Invocations gathered by line (R243). -/
def GatheredLines (n : Nat) (l : List (Nat × LineElem)) (rs : List LineReq) : Prop :=
  (rs.map (·.key)).Nodup ∧ (∀ p ∈ l, p.1 ∈ rs.map (·.key)) ∧
  ∀ r ∈ rs, r.n = n ∧ r.elems ≠ [] ∧ r.elems = (l.filter fun p => p.1 == r.key).map (·.2)

/-- A bin of a cluster's Basket, oldest entry first (R49). -/
def Basket.held (b : Basket) (ctx : Nat) (key : BitVec 16) : List BasketEntry :=
  b.entries.filter fun e => e.ctx == ctx && e.key == key
/-- The entries of other bins. -/
def BasketEntry.others (l : List BasketEntry) (ctx : Nat) (key : BitVec 16) : List BasketEntry := l.filter fun e => !(e.ctx == ctx && e.key == key)

/-! ### Line routines and atomics -/

/-- The integer words of R242 with two sources: from a, b and the old d. -/
noncomputable def routineWords : List ((BitVec 5 → BitVec 5 → BitVec 5 → Instr) × (Word → Word → Word → Word)) :=
  [(.routineAdd, fun x y _ => x + y), (.routineSub, fun x y _ => x - y), (.routineAnd, fun x y _ => x &&& y), (.routineOr, fun x y _ => x ||| y),
   (.routineXor, fun x y _ => x ^^^ y), (.routineSll, fun x y _ => BitVec.ofNat 64 (x.toNat * 2 ^ (y.toNat % 64))),
   (.routineSrl, fun x y _ => BitVec.ofNat 64 (x.toNat / 2 ^ (y.toNat % 64))), (.routineSra, fun x y _ => BitVec.ofInt 64 (x.toInt / 2 ^ (y.toNat % 64))),
   (.routineMinS64, fun x y _ => if x.toInt ≤ y.toInt then x else y), (.routineMinZ64, fun x y _ => if x.toNat ≤ y.toNat then x else y),
   (.routineMaxS64, fun x y _ => if x.toInt ≤ y.toInt then y else x), (.routineMaxZ64, fun x y _ => if x.toNat ≤ y.toNat then y else x),
   (.routineSltS64, fun x y _ => if x.toInt < y.toInt then 1 else 0), (.routineSltZ64, fun x y _ => if x.toNat < y.toNat then 1 else 0),
   (.routineSeq, fun x y _ => if x = y then 1 else 0), (.routineCsel, fun x y old => if old = 0 then y else x),
   (.routineMul, fun x y _ => BitVec.ofNat 64 (x.toNat % 2 ^ 32 * (y.toNat % 2 ^ 32)))]

/-- The float words of R242: bits of the operands, and what is done on them, round to nearest even without flushing. -/
noncomputable def routineFloatWords : List ((BitVec 5 → BitVec 5 → BitVec 5 → Instr) × Nat × (Nat → Nat → Nat × Flags)) :=
  [(.routineFaddF32, 32, Fmt.f32.add ⟨0, false, false⟩), (.routineFaddF64, 64, Fmt.f64.add ⟨0, false, false⟩),
   (.routineFminF32, 32, Fmt.f32.minMax ⟨0, false, false⟩ false), (.routineFminF64, 64, Fmt.f64.minMax ⟨0, false, false⟩ false),
   (.routineFmaxF32, 32, Fmt.f32.minMax ⟨0, false, false⟩ true), (.routineFmaxF64, 64, Fmt.f64.minMax ⟨0, false, false⟩ true)]

/-- The skips of R242. -/
noncomputable def routineSkips : List ((BitVec 5 → BitVec 5 → BitVec 5 → Instr) × (Word → Word → Bool)) :=
  [(.routineSkipEq, fun x y => x == y), (.routineSkipNe, fun x y => x != y), (.routineSkipLtS64, fun x y => decide (x.toInt < y.toInt)),
   (.routineSkipLtZ64, fun x y => decide (x.toNat < y.toNat))]

/-- An invocation after a word that writes y to register d and raises flags (R241, R242): an l register puts its granule among those written. -/
def Routine.wrote (r : Routine) (d : BitVec 5) (y : Word) (fl : Flags) : Routine :=
  { r with regs := vset r.regs d.toNat y, flags := r.flags ||| fl, word := r.word + 1,
           written := if d.toNat < 16 then r.written ||| BitVec.ofNat 8 (2 ^ (d.toNat / 2)) else r.written }

/-- The integer atomics of R228: code, bytes, the value stored from the old value, the operand and the compare value, and whether one is stored. -/
def atomicWords : List (Nat × Nat × ((w : Nat) → BitVec w → BitVec w → BitVec w → Option (BitVec w))) :=
  [(0x00, 4, fun _ o v _ => some (o + v)), (0x01, 8, fun _ o v _ => some (o + v)), (0x02, 4, fun _ o v _ => some (o &&& v)), (0x03, 8, fun _ o v _ => some (o &&& v)),
   (0x04, 4, fun _ o v _ => some (o ||| v)), (0x05, 8, fun _ o v _ => some (o ||| v)), (0x06, 4, fun _ o v _ => some (o ^^^ v)), (0x07, 8, fun _ o v _ => some (o ^^^ v)),
   (0x08, 4, fun _ _ v _ => some v), (0x09, 8, fun _ _ v _ => some v),
   (0x0A, 4, fun _ o v u => if o = u then some v else none), (0x0B, 8, fun _ o v u => if o = u then some v else none),
   (0x0C, 4, fun _ o v _ => some (if o.toInt ≤ v.toInt then o else v)), (0x0E, 8, fun _ o v _ => some (if o.toInt ≤ v.toInt then o else v)),
   (0x0D, 4, fun _ o v _ => some (if o.toNat ≤ v.toNat then o else v)), (0x0F, 8, fun _ o v _ => some (if o.toNat ≤ v.toNat then o else v)),
   (0x10, 4, fun _ o v _ => some (if o.toInt ≤ v.toInt then v else o)), (0x12, 8, fun _ o v _ => some (if o.toInt ≤ v.toInt then v else o)),
   (0x11, 4, fun _ o v _ => some (if o.toNat ≤ v.toNat then v else o)), (0x13, 8, fun _ o v _ => some (if o.toNat ≤ v.toNat then v else o))]

/-- Two halves of 16 bits added each by itself (R123). -/
def Fmt.halves (f : Fmt) (x y : Nat) : Nat × Flags :=
  let lo := f.add .rne (x % 2 ^ 16) (y % 2 ^ 16)
  let hi := f.add .rne (x / 2 ^ 16) (y / 2 ^ 16)
  (lo.1 + 2 ^ 16 * hi.1, lo.2 ||| hi.2)

/-- The atomics whose elements at one address are merged (R123, R125, R228, R232): code, bytes, and op(x, y) with its flags. -/
def mergedWords : List (Nat × Nat × (Nat → Nat → Nat × Flags)) :=
  ((atomicWords.filter fun r => decide (r.1 < 8 ∨ 11 < r.1)).map fun r =>
    (r.1, r.2.1, fun x y => (((r.2.2 (8 * r.2.1) (BitVec.ofNat _ x) (BitVec.ofNat _ y) 0).getD 0).toNat, 0))) ++
  [(0x14, 4, Fmt.f32.add .rne), (0x15, 8, Fmt.f64.add .rne), (0x16, 4, Fmt.bf16.halves), (0x17, 4, Fmt.f16.halves), (24, 2, Fmt.bf16.add .rne), (25, 2, Fmt.f16.add .rne)]

/-- The write of a result x at its destination: a scalar takes it extended as its form says (R229, R231). -/
def ResDst.landed (x : Nat) : ResDst → List RegWrite
  | .none => []
  | .s n sx => [.s n (if sx then BitVec.ofInt 64 (BitVec.ofNat 32 x).toInt else BitVec.ofNat 64 x)]
  | .v n lo width => [.v n lo width x false]

/-- A line as its invocations see it (R241): its words, and whether each granule is tagged. -/
structure LineImage where
  words  : Vector Word 16
  tagged : Vector Bool 8

/-- A line of 128 bytes at a key. -/
def State.lineImage (s : State) (k : Nat) : LineImage :=
  ⟨Vector.ofFn fun i => BitVec.ofNat 64 (s.readNat (k + 8 * i.val) 8), Vector.ofFn fun i => s.keyTag (k + 16 * i.val)⟩

/-- One invocation on a line (R241): the line after it, what it answers and its status. -/
def LineImage.invoke (l : LineImage) (ws : List (BitVec 32)) (e : LineElem) : LineImage × Word × Nat :=
  let regs : Vector Word 32 := Vector.ofFn fun i => if i.val < 16 then vgetD l.words i.val 0 else if i.val = 16 then e.o0 else if i.val = 17 then e.o1 else 0
  let o := Routine.run ws 32 ⟨regs, 0, 0, 0, .running⟩
  let q := vgetD o.regs 26 0
  if o.fin = .fail then (l, q, 0x28)
  else if o.fin = .ret ∧ ∃ g < 8, o.written.getLsbD g = true ∧ vgetD l.tagged g false = true then (l, q, 0x2A)
  else (⟨Vector.ofFn fun i => if o.written.getLsbD (i.val / 2) then vgetD o.regs i.val 0 else vgetD l.words i.val 0,
         Vector.ofFn fun i => vgetD l.tagged i.val false && !o.written.getLsbD i.val⟩, q, 0)

/-- The value that the writes of an operation leave in s[n], from an old one. -/
def lastWrite (n : Nat) (ws : List RegWrite) (old : Word) : Word :=
  ws.foldl (fun y w => match w with | .s m x => if m = n then x else y | _ => y) old

/-! ### Saves -/

/-- The runs of a group that gives up its issue slot at a cycle, if it holds it (R38, R39, R55): none issuing, the oldest at Head. -/
def splitQueue (holds : Bool) (cycle : Word) : List Run → List Run
  | [] => []
  | r :: rest => { r with issuing := false, head := if holds then some (r.head.getD cycle) else r.head } :: rest.map fun r => { r with issuing := false }

/-- A team's save begun (R55, R56, R379 step 2): the request is marked, none of its groups holds an issue slot, and its issuing run, if it had one, is a partial run
    at Head with a head time. The rest of every group's scalar part is as before. -/
def State.SaveBegun (s t : State) (id : Nat) (tm : Team) (q : SaveReq) : Prop :=
  t.team id = some { tm with save := some { q with started := true, stopped := s.cycle } } ∧
  ∀ k g, s.group k = some g → ∃ g', t.group k = some g' ∧ g'.life = g.life ∧ g'.hart = g.hart ∧
    (¬ (g.team = id ∧ g.index < 16) → g'.lane.queue = g.lane.queue) ∧
    (g.team = id ∧ g.index < 16 → t.issuingRun k = false ∧ g'.lane.queue = splitQueue (s.issuingRun k) s.cycle g.lane.queue)

/-- A save asked for (R56): it is deferred while a barrier has partly arrived or a paired operation is in flight, and begins at once otherwise. -/
def State.SaveAsked (s : State) (r : Res) (id : Nat) (tm : Team) (q : SaveReq) : Prop :=
  (s.deferred id tm = true → r = .next (s.modTeam id fun t => { t with save := some q })) ∧
  (s.deferred id tm = false → ∃ t, r = .next t ∧ s.SaveBegun t id tm q ∧ t.mem = s.mem ∧ t.tags = s.tags)

end Sys2Proof.Machine
end

