-- ==== Sys2Proof/Certificates/Slice0/Obligations.lean ====
section
/-! DEFINITION. The statements for the provers. -/
open Sys2Proof Sys2Proof.Machine

/-! ### Scalar words -/

/-- R129, R130: each register form and each immediate form, at its encoding, writes what its table gives into s[d] and changes nothing else but the PC. A write
    of s0 is discarded (R58). A register beyond the budget takes ILLEGAL_INSN (R15), and the word waits for a register that awaits a load (R43). -/
def Obligations.ScalarFormsWriteTheirResult : Prop :=
  ((∀ row ∈ binaryWords, ∀ (d a b : BitVec 6) (s : State), s.Present → s.Ready [d, a, b] [] →
     Did s (exec (row.1 d a b) s) (s.hart.setX d (row.2 (s.x a) (s.x b)))) ∧
   (∀ row ∈ unaryWords, ∀ (d a : BitVec 6) (s : State), s.Present → s.Ready [d, a] [] →
     Did s (exec (row.1 d a) s) (s.hart.setX d (row.2 (s.x a))))) ∧
  ((∀ row ∈ immediateWords, ∀ (d a : BitVec 6) (i : BitVec 14) (s : State), s.Present → s.Ready [d, a] [] →
     Did s (exec (row.1 d a i) s) (s.hart.setX d (row.2 (s.x a) i))) ∧
   (∀ row ∈ shiftWords, ∀ (d a n : BitVec 6) (s : State), s.Present → s.Ready [d, a] [] →
     Did s (exec (row.1 d a n) s) (s.hart.setX d (row.2 (s.x a) n.toNat)))) ∧
  (∀ (d a b : BitVec 6) (i : BitVec 14) (s : State),
    (∀ row ∈ binaryWords, s.HoldsBack (row.1 d a b) [d, a, b]) ∧ (∀ row ∈ unaryWords, s.HoldsBack (row.1 d a) [d, a]) ∧
    (∀ row ∈ immediateWords, s.HoldsBack (row.1 d a i) [d, a]) ∧ (∀ row ∈ shiftWords, s.HoldsBack (row.1 d a b) [d, a])) ∧
  (∀ (d a b n : BitVec 6) (i : BitVec 14),
    (∀ j row, binaryWords[j]? = some row → decodeScalar (0x01#6 ++ d ++ a ++ b ++ BitVec.ofNat 8 j) = .ok (row.1 d a b)) ∧
    (∀ j row, unaryWords[j]? = some row →
      decodeScalar (0x01#6 ++ d ++ a ++ b ++ BitVec.ofNat 8 (0x18 + j)) = if b = 0 then .ok (row.1 d a) else .error .reservedEnc) ∧
    (∀ row ∈ immediateWords.zip [0x02#6, 0x03#6, 0x04#6, 0x05#6, 0x07#6, 0x08#6, 0x0A#6], decodeScalar (row.2 ++ d ++ a ++ i) = .ok (row.1.1 d a i)) ∧
    (∀ j row, shiftWords[j]? = some row →
      decodeScalar (0x06#6 ++ d ++ a ++ b ++ BitVec.ofNat 2 j ++ n) = if b = 0 then .ok (row.1 d a n) else .error .reservedEnc) ∧
    decodeScalar (0x06#6 ++ d ++ a ++ b ++ 3#2 ++ n) = .error .illegalInsn ∧
    decodeScalar 0x04310500 = .ok (.add 3 4 5) ∧ decodeScalar 0x1861C083 = .ok (.srai 6 7 3)) ∧
  (∀ (d a : BitVec 6) (s : State), s.Present → s.Ready [d, a] [] →
    Did s (exec (.sltiZ64 d a (-1)) s) (s.hart.setX d (if s.x a = BitVec.allOnes 64 then 0 else 1)) ∧
    (s.x a = 0xFFFFFFFFFFFFFF00 → Did s (exec (.srai d a 3) s) (s.hart.setX d 0xFFFFFFFFFFFFFFE0)))

/-- R136, R137: a branch moves the PC by four times its offset where its test holds, and to the next word where it does not; the jumps, and the link value that
    `jal` and `jalr` write after their operand is read. -/
def Obligations.ControlFlowMovesThePc : Prop :=
  (∀ row ∈ branchWords, ∀ (a b : BitVec 6) (off : BitVec 14) (s : State), s.Present → s.Ready [a, b] [] →
     (row.2 (s.x a) (s.x b) → Jumped s (exec (row.1 a b off) s) s.hart (s.pc + BitVec.ofInt 64 (4 * off.toInt))) ∧
     (¬ row.2 (s.x a) (s.x b) → Jumped s (exec (row.1 a b off) s) s.hart (s.pc + 4))) ∧
  (∀ (a b : BitVec 6) (off : BitVec 14) (off26 : BitVec 26),
    (∀ j row, branchWords[j]? = some row → decodeScalar (BitVec.ofNat 6 (0x24 + j) ++ a ++ b ++ off) = .ok (row.1 a b off)) ∧
    decodeScalar 0x90200005 = .ok (.beq 2 0 5) ∧ decodeScalar (0x2A#6 ++ off26) = .ok (.j off26) ∧ decodeScalar (0x2B#6 ++ off26) = .ok (.jal off26) ∧
    decodeScalar (0x2C#6 ++ 0#6 ++ a ++ 0#6 ++ 0#8) = .ok (.jr a) ∧ decodeScalar (0x2C#6 ++ b ++ a ++ 0#6 ++ 1#8) = .ok (.jalr b a)) ∧
  (∀ s : State, s.Present →
     (∀ off : BitVec 26, Jumped s (exec (.j off) s) s.hart (s.pc + BitVec.ofInt 64 (4 * off.toInt))) ∧
     (∀ off : BitVec 26, s.Ready [15] [] → Jumped s (exec (.jal off) s) (s.hart.setX 15 (s.pc + 4)) (s.pc + BitVec.ofInt 64 (4 * off.toInt))) ∧
     (∀ a : BitVec 6, s.Ready [a] [] → Jumped s (exec (.jr a) s) s.hart (s.x a)) ∧
     (∀ d a : BitVec 6, s.Ready [d, a] [] → Jumped s (exec (.jalr d a) s) (s.hart.setX d (s.pc + 4)) (s.x a)))

/-! ### Capabilities -/

/-- R140, R141: the inspections write s[d] from the operand's fields, whatever its tag, seal or colour. -/
def Obligations.InspectionsReadTheFieldsOfACapability : Prop :=
  (∀ row ∈ inspectWords, ∀ (d : BitVec 6) (a : BitVec 5) (s : State), s.Present → s.Ready [d] [a] →
    Did s (exec (row.1 d a) s) (s.hart.setX d (BitVec.ofNat 64 (row.2 (s.c a))))) ∧
  (∀ c : Cap, 52 < c.e.toNat → c.base = Cap.base { c with e := 52 } ∧ c.top = Cap.top { c with e := 52 }) ∧
  (∀ (d b : BitVec 6) (a x : BitVec 5),
    (∀ j row, inspectWords[j]? = some row →
      decodeScalar (0x20#6 ++ d ++ (0#1 ++ a) ++ b ++ BitVec.ofNat 8 (8 + j)) = if b = 0 then .ok (row.1 d a) else .error .reservedEnc) ∧
    decodeScalar (0x20#6 ++ d ++ (0#1 ++ a) ++ (0#1 ++ x) ++ 0x11#8) = .ok (.ctestsub d a x)) ∧
  (∀ (d : BitVec 6) (a b : BitVec 5) (s : State), s.Present → s.Ready [d] [a, b] →
    ∃ y : Word, Did s (exec (.ctestsub d a b) s) (s.hart.setX d y) ∧ (y = 0 ∨ y = 1) ∧
      (y = 1 ↔ (s.c a).tag = true ∧ (s.c b).tag = true ∧ (s.c a).otype = 0 ∧ (s.c b).otype = 0 ∧ (s.c a).base ≤ (s.c b).base ∧
        (s.c b).top ≤ (s.c a).top ∧ (s.c b).perms &&& ~~~(s.c a).perms = 0 ∧ (s.c a).colour = (s.c b).colour)) ∧
  (∀ (d a : BitVec 6) (s : State), s.Present → s.Ready [d, a] [] →
    ∃ y : Word, Did s (exec (.cexlen d a) s) (s.hart.setX d y) ∧
      (2 ^ 62 < (s.x a).toNat → y = BitVec.allOnes 64) ∧
      (∀ e, LeastExp (s.x a).toNat e → y.toNat = ((s.x a).toNat + 2 ^ e - 1) / 2 ^ e * 2 ^ e)) ∧
  (∀ (d a b : BitVec 6) (s : State), s.Present → s.Ready [d, a, b] [] →
    ∃ y : Word, Did s (exec (.cexalign d a b) s) (s.hart.setX d y) ∧
      (2 ^ 62 < (s.x b).toNat → y = BitVec.allOnes 64) ∧
      (∀ e, LeastExp (s.x b).toNat e → y.toNat = min (2 ^ 64 - 1) (((s.x a).toNat + 2 ^ e - 1) / 2 ^ e * 2 ^ e)))

/-- R66, R68, R139: each derivation writes c[d] from a source that may be used, and changes nothing else but the PC.
    That an untagged source with the system bit may be used is the model's reading (log entry 25). -/
def Obligations.DerivationsWriteTheirCapability : Prop :=
  ∀ (s : State) (d a : BitVec 5), s.Present →
    (∀ b : BitVec 6, s.Ready [b] [d, a] → s.Derivable a →
      (∃ v, Did s (exec (.cbound d a b) s) (s.hart.setCap d v) ∧ Narrowed false (s.c a) (s.x b).toNat v) ∧
      (∃ v, Did s (exec (.cboundExact d a b) s) (s.hart.setCap d v) ∧ Narrowed true (s.c a) (s.x b).toNat v) ∧
      Did s (exec (.cperm d a b) s) (s.hart.setCap d
        { s.c a with perms := (s.c a).perms &&& BitVec.ofNat 16 (s.x b).toNat, tag := (s.c a).tag && decide ((s.c a).otype = 0) }) ∧
      Did s (exec (.cinc d a b) s) (s.hart.setCap d
        { s.c a with cursor := BitVec.ofNat 64 ((s.c a).cursor.toNat + (s.x b).toNat),
                     tag := (s.c a).tag && decide ((s.c a).otype = 0) && (s.c a).inRepr (BitVec.ofNat 64 ((s.c a).cursor.toNat + (s.x b).toNat)) }) ∧
      Did s (exec (.cset d a b) s) (s.hart.setCap d
        { s.c a with cursor := s.x b, tag := (s.c a).tag && decide ((s.c a).otype = 0) && (s.c a).inRepr (s.x b) }) ∧
      (s.isService = true → Did s (exec (.ccolour d a b) s) (s.hart.setCap d
        { s.c a with colour := BitVec.ofNat 8 (s.x b).toNat, tag := (s.c a).tag && decide ((s.c a).otype = 0) }))) ∧
    (∀ imm : BitVec 14, s.Ready [] [d, a] → s.Derivable a →
      Did s (exec (.cinci d a imm) s) (s.hart.setCap d
        { s.c a with cursor := BitVec.ofInt 64 ((s.c a).cursor.toInt + imm.toInt),
                     tag := (s.c a).tag && decide ((s.c a).otype = 0) && (s.c a).inRepr (BitVec.ofInt 64 ((s.c a).cursor.toInt + imm.toInt)) })) ∧
    (∀ b : BitVec 5, s.Ready [] [d, a, b] → s.Derivable a → s.Derivable b →
      (∃ v, Did s (exec (.cseal d a b) s) (s.hart.setCap d v) ∧ v = { s.c a with otype := BitVec.ofNat 12 (s.c b).cursor.toNat, tag := v.tag } ∧
        (v.tag = true ↔ (s.c a).tag = true ∧ (s.c a).otype = 0 ∧ (s.c b).Authority Perm.seal ∧ 0 < (s.c b).cursor.toNat ∧ (s.c b).cursor.toNat ≤ 4095)) ∧
      (∃ v, Did s (exec (.cunseal d a b) s) (s.hart.setCap d v) ∧ v = { s.c a with otype := 0, tag := v.tag } ∧
        (v.tag = true ↔ (s.c a).tag = true ∧ (s.c a).otype ≠ 0 ∧ (s.c b).Authority Perm.unseal ∧ (s.c b).cursor.toNat = (s.c a).otype.toNat))) ∧
    (s.Ready [] [d, a] →
      Did s (exec (.cmov d a) s) (s.hart.setCap d (s.c a)) ∧ Did s (exec (.ccleartag d a) s) (s.hart.setCap d { s.c a with tag := false }))

/-- R68, R74, R139: a derivation from a source of revoked colour takes CAP_REVOKED before any effect, and `ccolour` in a group takes PRIV_INSN. -/
def Obligations.RevokedSourcesAreNotDerivedFrom : Prop :=
  ∀ (s : State) (d a b : BitVec 5) (r : BitVec 6) (imm : BitVec 14), s.Present →
    ((s.c a).tag = true ∧ s.who.mask.getLsbD (s.c a).colour.toNat = true → s.Ready [r] [d, a] →
      (∀ i ∈ [Instr.cbound d a r, .cboundExact d a r, .cperm d a r, .cinc d a r, .cset d a r, .cinci d a imm],
        exec i s = .next (s.raiseHere Cause.capRevoked))) ∧
    ((s.c a).tag = true ∧ s.who.mask.getLsbD (s.c a).colour.toNat = true ∨
        (s.c b).tag = true ∧ s.who.mask.getLsbD (s.c b).colour.toNat = true → s.Ready [] [d, a, b] →
      exec (.cseal d a b) s = .next (s.raiseHere Cause.capRevoked) ∧ exec (.cunseal d a b) s = .next (s.raiseHere Cause.capRevoked)) ∧
    (s.isService = false → exec (.ccolour d a r) s = .next (s.raiseHere Cause.privInsn))

/-! ### Scalar memory words -/

/-- R48, R131, R132: a load whose access is granted takes its bytes and stands outstanding, to write s[d] when it returns; a load into s0 writes nothing. A byte of
    another package is asked for there (R266). A load that R70 refuses stops its thread with the first cause reached, and a word of the page table held in the TLB gives the causes
    of R373 and of the range locks of R214 in that order.
    Where such a word waits for earlier runs is the model's choice (log entry 7). -/
def Obligations.LoadsTakeTheirBytes : Prop :=
  (∀ row ∈ loadWords, ∀ (d : BitVec 6) (a : BitVec 5) (imm : BitVec 14) (s u : State) (k : Nat), s.Present → s.Ready [d] [a] → s.hart.ld < 255 →
    s.Granted (.load (s.c a) (dispAddr (s.c a) imm) row.2.1) k u →
    DidIn s { u.wlSend u.who u.nextId k (.read row.2.1) with nextId := s.nextId + 1 } (exec (row.1 d a imm) s)
      (s.hart.holding (opOf s.nextId true (loadDst d) [] (loadWrite d (loadValue (u.loadNat k row.2.1) row.2.1 row.2.2)) false))) ∧
  (∀ (d b : BitVec 6) (a : BitVec 5) (o : Ord) (ty : BitVec 3) (s u : State) (k : Nat), s.Present → s.Ready [d, b] [a] → s.hart.ld < 255 →
    s.Granted (.load (s.c a) ((s.c a).cursor + s.x b).toNat (2 ^ (ty.toNat % 4))) k u →
    DidIn s { u.wlSend u.who u.nextId k (.read (2 ^ (ty.toNat % 4))) with nextId := s.nextId + 1 } (exec (.ldx d a b o ty) s)
      (s.hart.holding (opOf s.nextId true (loadDst d) []
        (loadWrite d (loadValue (u.loadNat k (2 ^ (ty.toNat % 4))) (2 ^ (ty.toNat % 4)) (decide (4 ≤ ty.toNat)))) false))) ∧
  (∀ (d b : BitVec 6) (a : BitVec 5) (imm : BitVec 14) (o : Ord) (ty : BitVec 3) (s : State), s.hart.ld < 255 →
    (s.Ready [d] [a] → ∀ row ∈ loadWords, s.Refuses (row.1 d a imm) (.load (s.c a) (dispAddr (s.c a) imm) row.2.1)) ∧
    (s.Ready [d, b] [a] → s.Refuses (.ldx d a b o ty) (.load (s.c a) ((s.c a).cursor + s.x b).toNat (2 ^ (ty.toNat % 4))))) ∧
  (∀ (s : State) (w : Who) (a : Acc) (t : TlbEntry), w.svc = false → a.cap.has Perm.window = false → a.cap.cursor.toNat < 2 ^ 56 → a.x < 2 ^ 56 →
    (s.cluster w.cluster).tlbHit w.ctx a.x = some t → t.size ≤ 30 → t.pte.getLsbD 58 = false → a.need ∈ [Need.read, Need.write, Need.exec, Need.atomic] →
    let key := bitsOf t.pte.toNat 51 8 * 256 + a.x % 2 ^ t.size
    let ts := leafTests w.priv a.need t.pte ++ [s.lockTest w a key]
    (∀ e, FirstOf ts e → s.reach w a = .error e) ∧ (NoneOf ts → s.reach w a = .ok (key, none)))

/-- R48, R131, R132, R264, R266: a store whose access is granted writes the low bytes of s[d] and stands outstanding, counted in st; where the page is being moved, the write
    waits with the operation. A release waits until every earlier access of its thread has completed. A store that R70 refuses stops its thread with the first cause reached.
    Where such a word waits for earlier runs is the model's choice (log entry 7). -/
def Obligations.StoresWriteTheirBytes : Prop :=
  (∀ row ∈ storeWords, ∀ (d : BitVec 6) (a : BitVec 5) (imm : BitVec 14) (s u : State) (k : Nat), s.Present → s.Ready [d] [a] → s.hart.st < 255 →
    s.Granted (.store (s.c a) (dispAddr (s.c a) imm) row.2) k u →
    (isEdge k = true → DidIn s { u.storeNat k row.2 (s.x d).toNat with nextId := s.nextId + 1 } (exec (row.1 d a imm) s)
      (s.hart.holding (opOf s.nextId false [] [] [] false))) ∧
    (isEdge k = false → let bs := leBytes row.2 (s.x d).toNat
      let r := s.storeSent u k (.put bs) (.write bs [])
      DidIn s r.1 (exec (row.1 d a imm) s) r.2)) ∧
  (∀ (d b : BitVec 6) (a : BitVec 5) (o : Ord) (ty : BitVec 2) (s u : State) (k : Nat), s.Present → s.Ready [d, b] [a] → s.hart.st < 255 →
    (o.on = true → s.drained = true) → s.Granted (.store (s.c a) ((s.c a).cursor + s.x b).toNat (2 ^ ty.toNat)) k u →
    (isEdge k = true → DidIn s { u.storeNat k (2 ^ ty.toNat) (s.x d).toNat with nextId := s.nextId + 1 } (exec (.stx d a b o ty) s)
      (s.hart.holding (opOf s.nextId false [] [] [] false))) ∧
    (isEdge k = false → let bs := leBytes (2 ^ ty.toNat) (s.x d).toNat
      let r := s.storeSent u k (.put bs) (.write bs [])
      DidIn s r.1 (exec (.stx d a b o ty) s) r.2)) ∧
  (∀ (d b : BitVec 6) (a : BitVec 5) (o : Ord) (ty : BitVec 2) (s : State), s.Ready [d, b] [a] → o.on = true → s.drained = false →
    exec (.stx d a b o ty) s = .next s) ∧
  (∀ (d b : BitVec 6) (a : BitVec 5) (imm : BitVec 14) (o : Ord) (ty : BitVec 2) (s : State), s.hart.st < 255 →
    (s.Ready [d] [a] → ∀ row ∈ storeWords, s.Refuses (row.1 d a imm) (.store (s.c a) (dispAddr (s.c a) imm) row.2)) ∧
    (s.Ready [d, b] [a] → (o.on = true → s.drained = true) → s.Refuses (.stx d a b o ty) (.store (s.c a) ((s.c a).cursor + s.x b).toNat (2 ^ ty.toNat))))

/-- R69, R73: what a store of n bytes at k, outside the edge register block, vector registers, the page ownership table and other packages, leaves: the bytes it names hold its value, every other
    byte reads as before, but for the bytes of a tag region that show the tags it clears, and every granule that it touches is untagged.
    The map of physical addresses is the model's choice (log entry 3). -/
def Obligations.StoresReachOnlyTheirBytes : Prop :=
  ∀ (s : State) (k n x : Nat), s.Canonical → 0 < n → isEdge k = false → k + n ≤ Config.remoteKey → (∀ i < n, tagByte (k + i) = none ∧ s.regOf (k + i) = none ∧ worldByte (k + i) = none) →
    (∀ i < n, (s.storeNat k n x).keyByte (k + i) = BitVec.ofNat 8 (x / 2 ^ (8 * i))) ∧
    (∀ a, (a < k ∨ k + n ≤ a) → (∀ g, tagByte a = some g → (k + n - 1) / 16 < g ∨ g + 8 ≤ k / 16) → (s.storeNat k n x).keyByte a = s.keyByte a) ∧
    (∀ a, a / 16 < k / 16 ∨ (k + n - 1) / 16 < a / 16 → (s.storeNat k n x).keyTag a = s.keyTag a) ∧
    (∀ i < n, (s.storeNat k n x).keyTag (k + i) = false)

/-- R67, R69, R74, R133, R134: `lc` delivers the tag of its granule only through load-cap and for a colour not revoked; `sc` writes the tag only of a tagged
    capability of a colour not revoked, and faults CAP_PERM where such a one lacks the permissions it needs, once its access has passed R70. An access that R70
    refuses stops the thread with the first cause reached. -/
def Obligations.CapabilityLoadsAndStoresGuardTags : Prop :=
  ∀ (s u : State) (d a : BitVec 5) (imm : BitVec 14) (k : Nat), s.Present → s.Ready [] [d, a] →
    (let x := ((s.c a).cursor + BitVec.ofInt 64 (16 * imm.toInt)).toNat
     (s.hart.ld < 255 → s.Refuses (.lc d a imm) (.load (s.c a) x 16)) ∧ (s.hart.st < 255 → s.Refuses (.sc d a imm) (.store (s.c a) x 16))) ∧
    (isEdge k = false →
    (s.hart.ld < 255 → s.Granted (.load (s.c a) ((s.c a).cursor + BitVec.ofInt 64 (16 * imm.toInt)).toNat 16) k u →
      ∃ v : Cap, v = { u.readCap k with tag := v.tag } ∧
        (v.tag = true ↔ u.keyTag k = true ∧ (s.c a).has Perm.loadCap = true ∧ s.who.mask.getLsbD (u.readCap k).colour.toNat = false) ∧
        DidIn s { u.wlSend u.who u.nextId k (.read 16) with nextId := s.nextId + 1 } (exec (.lc d a imm) s)
          (s.hart.holding (opOf s.nextId true [.c d.toNat] [] [.c d.toNat v] false))) ∧
    (s.hart.st < 255 → s.Granted (.store (s.c a) ((s.c a).cursor + BitVec.ofInt 64 (16 * imm.toInt)).toNat 16) k u →
      ∀ live : Bool, (live = true ↔ (s.c d).tag = true ∧ s.who.mask.getLsbD (s.c d).colour.toNat = false) →
        let x := (s.c a).cursor + BitVec.ofInt 64 (16 * imm.toInt)
        let may := (s.c a).has Perm.storeCap = true ∧
          ((s.c d).has Perm.global = true ∨ (s.c a).has Perm.window = true ∧ s.inTeamPad s.who.team (Config.windowKey + x.toNat) = true)
        ((live = true → may) → let r := s.storeSent u k (.cap (s.c d) live) (.write (s.c d).bytes [live])
          DidIn s r.1 (exec (.sc d a imm) s) r.2) ∧
        (live = true → ¬ may → exec (.sc d a imm) s = .next (s.raise Cause.capPerm x))))

/-- R226, R229: an `atom` whose access is granted stands outstanding with its operand and compare value; with d = 0 it returns nothing and counts in st. One that R70
    refuses stops its thread with the first cause reached. -/
def Obligations.AtomicsIssueTheirRequest : Prop :=
  ∀ (d b : BitVec 6) (a : BitVec 5) (scope : BitVec 3) (op : BitVec 5) (s u : State) (k n : Nat), s.Present → s.Ready [d, b] [a] →
    (n = if op.toNat ∈ [1, 3, 5, 7, 9, 11, 14, 15, 18, 19, 21] then 8 else 4) →
    ((if d = 0 then s.hart.st else s.hart.ld) < 255 → s.Refuses (.atom d a b scope op) (.atomic (s.c a) (s.c a).cursor.toNat n)) ∧
    (s.Granted (.atomic (s.c a) (s.c a).cursor.toNat n) k u →
    let y := (s.x b).toNat % 2 ^ (8 * n)
    let z := (s.x d).toNat % 2 ^ (8 * n)
    let sent := u.wlSend u.who u.nextId k (.atomic op (BitVec.ofNat 64 y) (BitVec.ofNat 64 z) (d != 0) 0)
    (d ≠ 0 → s.hart.ld < 255 → DidIn s { sent with nextId := s.nextId + 1 } (exec (.atom d a b scope op) s)
      (s.hart.holding (opOf s.nextId true [.s d.toNat]
        [⟨k, op.toNat, [⟨y, z, .s d.toNat (decide (op.toNat = 12 ∨ op.toNat = 16))⟩]⟩] []
        (decide (20 ≤ op.toNat))))) ∧
    (d = 0 → s.hart.st < 255 → DidIn s { sent with nextId := s.nextId + 1 } (exec (.atom d a b scope op) s)
      (s.hart.holding (opOf s.nextId false [] [⟨k, op.toNat, [⟨y, 0, .none⟩]⟩] [] false))))

/-- R143, R144, R158: the fences and the waiting words go on exactly when what they wait for is over, and else change nothing. -/
def Obligations.FencesAndWaitsHoldUntilReady : Prop :=
  ∀ (s : State), s.Present →
    (∀ scope : BitVec 3,
      (s.hart.ld = 0 → Did s (exec (.fenceAcq scope) s) s.hart) ∧ (s.hart.ld ≠ 0 → exec (.fenceAcq scope) s = .next s) ∧
      (∀ i ∈ [Instr.fenceAr scope, .fenceSc scope],
        (s.hart.ld = 0 ∧ s.hart.st = 0 → Did s (exec i s) s.hart) ∧ (s.hart.ld ≠ 0 ∨ s.hart.st ≠ 0 → exec i s = .next s)) ∧
      (DidIn s (s.modCurGroup fun g => { g with lane := { g.lane with relRuns := g.lane.runs, fencedRuns := if 2 ≤ scope.toNat then g.lane.runs else g.lane.fencedRuns } })
        (exec (.fenceRel scope) s) { s.hart with fenced := s.hart.pend.map fun p => p.id })) ∧
    (∀ ld st cp mx : BitVec 6, (s.isService = true → cp = 0 ∧ mx = 0) →
      ((ld = 63 ∨ s.hart.ld ≤ ld.toNat) ∧ (st = 63 ∨ s.hart.st ≤ st.toNat) ∧ (cp = 63 ∨ s.hart.cp ≤ cp.toNat) ∧ (mx = 63 ∨ s.hart.mx ≤ mx.toNat) →
        Did s (exec (.waitc ld st cp mx) s) s.hart) ∧
      (¬((ld = 63 ∨ s.hart.ld ≤ ld.toNat) ∧ (st = 63 ∨ s.hart.st ≤ st.toNat) ∧ (cp = 63 ∨ s.hart.cp ≤ cp.toNat) ∧ (mx = 63 ∨ s.hart.mx ≤ mx.toNat)) →
        exec (.waitc ld st cp mx) s = .next s)) ∧
    (∀ k g, s.AsGroup k g → (g.lane.queue = [] → Did s (exec .lqwait s) s.hart) ∧ (g.lane.queue ≠ [] → exec .lqwait s = .next s)) ∧
    (∀ w : BitVec 26, decodeScalar (0x2D#6 ++ w) = if w = 0 then .ok .lqwait else .error .reservedEnc) ∧
    (∀ (ld st cp mx : BitVec 6) (r : BitVec 2), decodeScalar (0x31#6 ++ ld ++ st ++ cp ++ mx ++ r) = if r = 0 then .ok (.waitc ld st cp mx) else .error .reservedEnc) ∧
    (∀ (w : BitVec 21) (scope : BitVec 3), ∀ p ∈ [(0#2, Instr.fenceAcq), (1, .fenceRel), (2, .fenceAr), (3, .fenceSc)],
      decodeScalar (0x1F#6 ++ w ++ p.1 ++ scope) = if w = 0 ∧ scope.toNat < 6 then .ok (p.2 scope) else .error .reservedEnc) ∧
    decodeScalar 0xB4000000 = .ok .lqwait ∧ decodeScalar 0xC40000FC = .ok (.waitc 0 0 0 63) ∧ decodeScalar 0x7C00000C = .ok (.fenceRel 4)

/-! ### Runs -/

/-- R34, R35, R38, R39, R48, R142: `lrun` accepts the run at its lane address when the queue has room and no scalar or capability register awaits a load,
    with a snapshot of the scalar state, and counts the run's memory words. A run is the words from its lane address on, 12 bytes apart, each checked through
    LCODE, up to the first whose last bit is set. It holds while a counter has no room for the run (R48), and a run in another package is asked for there (R265, R266).
    That a fetch sees memory as it stands is the model's choice (log entry 10). -/
def Obligations.RunsAreFetchedAndEnterTheLaneQueue : Prop :=
  (∀ (a : BitVec 6) (off : BitVec 14) (s : State) (k : Nat) (g : Group) (ws : List (BitVec 96)) (ts : List TlbEntry), s.AsGroup k g → s.Ready [a] [] →
     let y : Word := BitVec.ofNat 64 (g.lcode.base + (s.x a).toNat + 4 * off.toNat)
     let ld := ws.countP fun w => laneCount w == some true
     let st := ws.countP fun w => laneCount w == some false
     g.lane.queue.length < 4 → (∀ p ∈ g.hart.pend, ∀ n, RegRef.s n ∉ p.regs ∧ RegRef.c n ∉ p.regs) →
     s.fetchLane s.who g.lcode y s.pc 24 y [] [] = .ok (ws, ts) →
     let segs := s.runSegs s.who g.lcode y ws.length
     (255 < g.hart.ld + ld ∨ 255 < g.hart.st + st ∨ s.wlRoomFor (segs.map (·.lo)) = false ∨ s.segsSpoilt segs = true → exec (.lrun a off) s = .next s) ∧
     (g.hart.ld + ld ≤ 255 → g.hart.st + st ≤ 255 → s.wlRoomFor (segs.map (·.lo)) = true → s.segsSpoilt segs = false →
     DidIn s (((s.fill (slotCluster k) ts).wlReadNow s.who segs).modGroup k fun g => { g with lane := { g.lane with
         runs := g.lane.runs + 1, lastRun := some y,
         queue := g.lane.queue ++ [⟨g.lane.runs, ws, y, ⟨g.hart.s, g.hart.c, g.lane.fpctl⟩, if g.lane.queue = [] then some s.cycle else none, false⟩] } })
       (exec (.lrun a off) s) { s.hart with ld := s.hart.ld + ld, st := s.hart.st + st })) ∧
  (∀ (s : State) (w : Who) (code : Cap) (pc y : Word) (ws : List (BitVec 96)) (ts : List TlbEntry), s.fetchLane w code y pc 24 y [] [] = .ok (ws, ts) →
     0 < ws.length ∧ ws.length ≤ 24 ∧
     (∀ i (h : i < ws.length), (ws[i].getLsbD 95 = true ↔ i + 1 = ws.length) ∧
       ∃ segs t, s.resolve w code [Perm.execLane] Need.exec (y + BitVec.ofNat 64 (12 * i)).toNat 12 4 = .ok (segs, t) ∧
         ws[i] = BitVec.ofNat 96 (leNat (s.readSegs segs))))

/-! ### Barriers and messages -/

/-- R146, R147, R235: what the barrier words do to the team's barrier and the group's token, and where they park it. An arrival while copies of the group are in
    flight is deferred, counted as pending, and lands later by an event of its own once those copies have completed. -/
def Obligations.BarriersCountArrivalsAndPark : Prop :=
  (∀ (s : State) (k : Nat) (g : Group) (tm : Team) (n : BitVec 4) (b b' : BarWord), s.AsGroup k g → s.team g.team = some tm → n.toNat < tm.nbar →
     b = tm.bars[n.toNat] → b.Arrived b' → g.arriving n.toNat = false →
     let held : BitVec 32 := (g.tokens[n.toNat]).getD (b.gen + 1)
     let parked := fun (s : State) => s.modGroup k fun g => { g with life := .parked (.bar n.toNat) }
     (g.released = true ∧ g.copies = [] →
       DidIn s (s.barSet k g.team n.toNat (some (b.gen + 1)) b') (exec (.barArrive n) s) s.hart ∧
       (b.arr + 1 = b.exp → DidIn s (s.barSet k g.team n.toNat none b') (exec (.barSync n) s) s.hart) ∧
       (b.arr + 1 ≠ b.exp → DidIn s (parked (s.barSet k g.team n.toNat (some (b.gen + 1)) b')) (exec (.barSync n) s) s.hart)) ∧
     ((b.gen - held).toInt ≥ 0 → DidIn s (s.barSet k g.team n.toNat none b) (exec (.barWait n) s) s.hart) ∧
     ((b.gen - held).toInt < 0 → DidIn s (parked (s.barSet k g.team n.toNat (some held) b)) (exec (.barWait n) s) s.hart) ∧
     (∀ a : BitVec 6, s.Ready [a] [] →
       (b.arr = 0 ∧ 0 < (s.x a).toNat ∧ (s.x a).toNat ≤ 255 →
         DidIn s (s.barSet k g.team n.toNat g.tokens[n.toNat] { b with exp := (s.x a).toNat }) (exec (.barInit n a) s) s.hart) ∧
       (b.arr ≠ 0 ∨ s.x a = 0 ∨ 255 < (s.x a).toNat → exec (.barInit n a) s = .next (s.raiseHere Cause.illegalInsn)))) ∧
  ((∀ (s : State) (k : Nat) (g : Group) (tm : Team) (n : BitVec 4) (b : BarWord), s.AsGroup k g → s.team g.team = some tm → n.toNat < tm.nbar →
     b = tm.bars[n.toNat] → g.copies ≠ [] → g.released = true →
     let deferred := { (s.modGroup k fun g => { g with arrivals := g.arrivals ++ [⟨s.nextId, n.toNat, g.copies⟩] }).modTeam g.team fun t =>
       { t with bars := vset t.bars n.toNat { b with pend := b.pend + 1 } } with nextId := s.nextId + 1 }
     (b.pend < 255 → DidIn s deferred (exec (.barArrive n) s) s.hart) ∧
     (255 ≤ b.pend → exec (.barArrive n) s = .next s) ∧
     (g.arriving n.toNat = false → b.pend < 255 →
       DidIn s (deferred.modGroup k fun g => { g with life := .parked (.bar n.toNat) }) (exec (.barSync n) s) s.hart)) ∧
   (∀ (s : State) (k bar : Nat) (g : Group) (tm : Team) (x : Arrival) (rest : List Arrival) (b b' : BarWord), s.group k = some g → s.team g.team = some tm →
     bar < 16 → b = vgetD tm.bars bar ⟨0, 0, 0, 0⟩ → b.Arrived b' → g.arrivals = x :: rest → x.bar = bar → (∀ i ∈ x.ops, i ∉ g.copies) →
     exec (.arrivalLands k bar) s = .next ((s.modGroup k fun g => { g with arrivals := rest, tokens := vset g.tokens bar (some (b.gen + 1)) }).modTeam g.team fun t =>
       { t with bars := vset t.bars bar { b' with pend := b.pend - 1 } })))

/-- R50, R54, R147, R149: a group parked at a barrier runs on, its token spent, once its generation has ended; one parked in `mrecv` runs on, before that word, once
    a queued message matches. A group that owes the stop of a `vlrc.stop` takes it then: that it waits so long is the model's reading (log entry 39). -/
def Obligations.ParkedGroupsWake : Prop :=
  ∀ (s : State) (k : Nat) (g : Group), s.group k = some g →
    (∀ n tok, g.life = .parked (.bar n) → g.arriving n = false → vgetD g.tokens n none = some tok →
      (((s.barOf g n).gen - tok).toInt ≥ 0 →
        let t := s.modGroup k fun g => { g with life := .running, tokens := vset g.tokens n none, owed := none }
        (g.owed = none → exec (.parkedGroupWake k) s = .next t) ∧
        (∀ e, g.owed = some e → exec (.parkedGroupWake k) s = .next (t.stopGroup k true e.1 e.2.1 e.2.2))) ∧
      (((s.barOf g n).gen - tok).toInt < 0 → exec (.parkedGroupWake k) s = .next s)) ∧
    (∀ d any tag c, g.life = .parked (.recv d any tag c) →
      let q := ((s.cluster (slotCluster k)).port false g.ctx).queue
      ((∃ m ∈ q, any = true ∨ m.tag = tag) → let t := s.modGroup k fun g => { g with life := .running, owed := none }
        (g.owed = none → exec (.parkedGroupWake k) s = .next t) ∧
        (∀ e, g.owed = some e → exec (.parkedGroupWake k) s = .next (t.stopGroup k true e.1 e.2.1 e.2.2))) ∧
      ((∀ m ∈ q, any = false ∧ m.tag ≠ tag) → exec (.parkedGroupWake k) s = .next s))

/-- R148 to R150, R357, R358: a message sent to a port of this package meets its oldest matching receive, whose record is written, or else joins the queue; a full queue takes
    MSG_OVERFLOW. A service core's message with a tag of the kernel's is for the kernel port; one of unknown type is counted there. The record holds the payload and the
    sender. A message to a port of another package is a request over Wordo Link, and an address that names no port takes TRANS_INVALID.
    What another package answers is free (log entry 5). -/
def Obligations.SentMessagesMeetAReceiveOrQueue : Prop :=
  (∀ (s : State) (y : Word),
    (∀ k g, s.AsGroup k g → s.msgRecord y = y.toNat + 2 ^ 64 * (k / 128) + 2 ^ 72 * (k / 32 % 4) + 2 ^ 74 * g.index + 2 ^ 78 * g.role +
      2 ^ 80 * bitsOf s.edge.wltopo.toNat 21 16 + 2 ^ 127) ∧
    (∀ c, s.AsService c → s.msgRecord y = y.toNat + 2 ^ 64 * c + 2 ^ 80 * bitsOf s.edge.wltopo.toNat 21 16 + 2 ^ 127)) ∧
  (∀ (s : State) (x : Nat), s.portOk x = true ↔ bitsOf x 23 16 < 192 ∧ x < 2 ^ 31 ∧
    (if x.testBit 30 then bitsOf x 29 24 < s.packages ∧ bitsOf x 29 24 ≠ s.ownPackage else bitsOf x 29 24 = 0)) ∧
  ∀ (s : State) (d b : BitVec 6) (a : BitVec 5), s.Present → s.Ready [d, b] [a] →
    let c := s.c a
    let acc : Acc := ⟨c, [Perm.message], c.cursor.toNat, 1, 1, [], false, false⟩
    (∀ e, FirstOf (acc.tests s.who) e → exec (.msend d a b) s = .next (s.raise e c.cursor)) ∧
    (NoneOf (acc.tests s.who) → s.portOk c.cursor.toNat = false → exec (.msend d a b) s = .next (s.raiseHere Cause.transInvalid)) ∧
    (NoneOf (acc.tests s.who) → s.portOk c.cursor.toNat = true → s.released = false → exec (.msend d a b) s = .next s) ∧
    (NoneOf (acc.tests s.who) → s.portOk c.cursor.toNat = true → s.released = true →
    let cl := bitsOf c.cursor.toNat 23 16
    let tag : BitVec 16 := c.cursor.setWidth 16
    let kernel := s.isService && c.has Perm.system && decide (0xFF00 ≤ tag.toNat)
    let p := (s.cluster cl).port kernel s.who.ctx
    let rec' := s.msgRecord (s.x b)
    let told := fun (u : State) slot => let w := u.event cl 7 0 0 (BitVec.ofNat 64 slot)
      if rec' % 256 = 0 ∨ 9 < rec' % 256 then { w with io := { w.io with unknown := w.io.unknown + 1 } } else w
    (c.cursor.getLsbD 30 = true →
      let pkg := bitsOf c.cursor.toNat 29 24
      let t := (s.wlPost pkg s.nextId (cl * 2 ^ 16 + tag.toNat) s.who.world s.who.ctx (.message tag rec')).wlAck s.nextId
      (s.wlRoom pkg = false → exec (.msend d a b) s = .next s) ∧
      (s.wlRoom pkg = true →
        (∀ queued, Config.remoteSend s.free = some queued → DidIn s t (exec (.msend d a b) s) (s.hart.setX d (if queued then 1 else 0))) ∧
        (Config.remoteSend s.free = none → exec (.msend d a b) s = .next ({ t with free := s.free + 1 }.raise Cause.msgOverflow c.cursor)))) ∧
    (c.cursor.getLsbD 30 = false →
    (∀ pre r post, p.recvs = pre ++ r :: post → (∀ x ∈ pre, x.any = false ∧ x.tag ≠ tag) → r.any = true ∨ r.tag = tag →
      (s.writeWaits r.key 16 = true → exec (.msend d a b) s = .next s) ∧
      (s.writeWaits r.key 16 = false →
      let u := (s.setPort cl kernel s.who.ctx { p with recvs := pre ++ post }).writeKeys r.key (leBytes 16 rec')
      DidIn s (if kernel then told u r.slot else u) (exec (.msend d a b) s) (s.hart.setX d 0))) ∧
    ((∀ x ∈ p.recvs, x.any = false ∧ x.tag ≠ tag) →
      (p.queue.length < (if kernel then 512 else 256) →
        DidIn s (s.setPort cl kernel s.who.ctx { p with queue := p.queue ++ [⟨tag, rec'⟩] }) (exec (.msend d a b) s) (s.hart.setX d 1)) ∧
      ((if kernel then 512 else 256) ≤ p.queue.length → exec (.msend d a b) s = .next (s.raise Cause.msgOverflow c.cursor)))))

/-- R149: the receiving words take the oldest queued message that matches and write its record; with none, `mpost` takes a free slot of the port, `mprobe` answers
    0, and `mrecv` parks its group before the word. A shard counts a message of unknown type that it takes (R358), and a buffer that R70 refuses stops the thread. That the message permission is not asked for is the model's reading (log entry 55). -/
def Obligations.ReceivesTakeTheOldestMatch : Prop :=
  (∀ (s : State) (d b : BitVec 6) (a : BitVec 5), s.Ready [d, b] [a] → ∀ i ∈ [Instr.mpost d a b, .mrecv d a b, .mprobe d a b],
    s.Refuses i (.store (s.c a) (s.c a).cursor.toNat 16)) ∧
  ∀ (s u : State) (d b : BitVec 6) (a : BitVec 5) (k : Nat), s.Present → s.Ready [d, b] [a] → s.Granted (.store (s.c a) (s.c a).cursor.toNat 16) k u → u.moving k 16 = false →
    let any := (s.x b).getLsbD 16
    let tag : BitVec 16 := (s.x b).setWidth 16
    let kernel := s.isService && (any || decide (0xFF00 ≤ tag.toNat))
    let p := (u.cluster s.curCluster).port kernel s.who.ctx
    (∀ pre m post, p.queue = pre ++ m :: post → (∀ x ∈ pre, any = false ∧ x.tag ≠ tag) → any = true ∨ m.tag = tag →
      let u1 := if kernel = true ∧ (m.record % 256 = 0 ∨ 9 < m.record % 256) then { u with io := { u.io with unknown := u.io.unknown + 1 } } else u
      let t := (u1.setPort s.curCluster kernel s.who.ctx { p with queue := pre ++ post }).writeKeys k (leBytes 16 m.record)
      DidIn s t (exec (.mpost d a b) s) (s.hart.setX d 64) ∧ DidIn s t (exec (.mrecv d a b) s) (s.hart.setX d (BitVec.ofNat 64 m.record)) ∧
      DidIn s t (exec (.mprobe d a b) s) (s.hart.setX d 1)) ∧
    ((∀ x ∈ p.queue, any = false ∧ x.tag ≠ tag) →
      DidIn s u (exec (.mprobe d a b) s) (s.hart.setX d 0) ∧
      exec (.mrecv d a b) s = .next (u.modCurGroup fun g => { g with life := .parked (.recv d.toNat any tag (s.c a)) }) ∧
      ((∀ i < 64, ∃ r ∈ p.recvs, r.slot = i) → DidIn s u (exec (.mpost d a b) s) (s.hart.setX d (BitVec.allOnes 64))) ∧
      ((∃ i < 64, ∀ r ∈ p.recvs, r.slot ≠ i) → ∃ i < 64, (∀ r ∈ p.recvs, r.slot ≠ i) ∧
        DidIn s (u.setPort s.curCluster kernel s.who.ctx { p with recvs := p.recvs ++ [⟨i, any, tag, k⟩] }) (exec (.mpost d a b) s)
          (s.hart.setX d (BitVec.ofNat 64 i))))

/-! ### Launching, leaving, calling -/

/-- R151, R272, R346: `qpost` copies the packet at its capability to the tail of an open queue of its context, or answers 1 for a full and 2 for any other queue, and for
    every queue until the kernel runs. One whose packet R70 refuses stops its thread with the first cause reached. -/
def Obligations.PostedPacketsEnterTheirQueue : Prop :=
  (∀ (s : State) (d : BitVec 6) (a : BitVec 5), s.Ready [d] [a] → s.Refuses (.qpost d a) (.load (s.c a) (s.c a).cursor.toNat 64)) ∧
  ∀ (s u : State) (d : BitVec 6) (a : BitVec 5) (k : Nat), s.Present → s.Ready [d] [a] → s.Granted (.load (s.c a) (s.c a).cursor.toNat 64) k u →
    u.released = true →
    let p := u.readRec [⟨k, 64⟩] ((s.c a).has Perm.loadCap) s.who.mask
    let q := u.queue p.queueNo
    (u.running = false ∨ q.isOpen = false ∨ q.ctx ≠ s.who.ctx → DidIn s u (exec (.qpost d a) s) (s.hart.setX d 2)) ∧
    (u.running = true ∧ q.isOpen = true ∧ q.ctx = s.who.ctx ∧ q.held = q.depth → DidIn s u (exec (.qpost d a) s) (s.hart.setX d 1)) ∧
    (u.running = true ∧ q.isOpen = true ∧ q.ctx = s.who.ctx ∧ q.held ≠ q.depth →
      let t := (u.writeRec (q.slot q.tail.toNat) p).modQueue p.queueNo fun q => { q with tail := q.tail + 1 }
      DidIn s { t with disp := { t.disp with posts := mapSet t.disp.posts p.queueNo (mapGetD t.disp.posts p.queueNo [] ++ [⟨s.curCluster, none, none⟩]) } }
        (exec (.qpost d a) s) (s.hart.setX d 0))

/-- R50, R152, R153, R198, R236, R281, R282: `exit` makes its group Exiting: its runs not issued and its tokens are gone, with their counts; it waits while a run
    is issuing. `exitc` with a continuation that fits its team does the same; the first of a team names the team's heir, a later one is kept with its group for
    its queue; one that does not fit takes ILLEGAL_INSN.
    The wait, the heir's allocation and the stop of a continuation that does not fit are the model's reading (log entry 28). -/
def Obligations.ExitingGroupsDiscardTheirRuns : Prop :=
  (∀ (s : State) (k : Nat) (g : Group), s.AsGroup k g →
    (s.issuingRun k = true → exec .exit s = .next s) ∧
    (s.issuingRun k = false → ∃ t g', exec .exit s = .next t ∧ t.group k = some g' ∧ g'.life = .exiting ∧ g'.lane.queue = [] ∧
      g'.tokens = Vector.replicate 16 none ∧ g'.openOps = [] ∧ g'.hart.pc = g.hart.pc + 4 ∧ g'.hart.s = g.hart.s ∧ g'.hart.c = g.hart.c ∧
      g'.hart.ld = g.hart.ld - (g.lane.queue.flatMap (·.words)).countP (fun w => laneCount w == some true) ∧
      g'.hart.st = g.hart.st - (g.lane.queue.flatMap (·.words)).countP (fun w => laneCount w == some false) ∧
      (∀ j, j ≠ k → t.group j = s.group j) ∧ t.mem = s.mem ∧ t.tags = s.tags ∧ t.teams = s.teams ∧ t.ctxs = s.ctxs)) ∧
  (∀ (s u : State) (k kk : Nat) (g : Group) (a : BitVec 5) (tm : Team) (d : Rec), s.AsGroup k g → s.Ready [] [a] →
    s.Granted (.load (s.c a) (s.c a).cursor.toNat 64) kk u → u.released = true → u.issuingRun k = false →
    let p := u.readRec [⟨kk, 64⟩] ((s.c a).has Perm.loadCap) s.who.mask
    u.readDesc u.who p = .ok d → u.team g.team = some tm →
    (u.contFits g.team tm p d = false → exec (.exitc a) s = .next (u.raiseHere Cause.illegalInsn)) ∧
    (u.contFits g.team tm p d = true → ∃ t g', exec (.exitc a) s = .next t ∧ t.group k = some g' ∧ g'.life = .exiting ∧ g'.hart.pc = g.hart.pc + 4 ∧ g'.lane.queue = [] ∧
      (tm.heir = none → t.team g.team = some { tm with heir := some (p.bytes, p.tags) } ∧ g'.cont = g.cont) ∧
      (tm.heir ≠ none → t.team g.team = some tm ∧ g'.cont = some (p.bytes, p.tags)) ∧
      (∀ j, j ≠ k → t.group j = s.group j) ∧ t.mem = s.mem ∧ t.tags = s.tags))

/-- R155, R156, R286, R355: a trap form with no call outstanding goes on at once with no active element, answers BAD_CALL for a number that is not assigned, and else
    leaves its calls in the trap record and its group Trapped at the next word.
    Where the record keeps the tag of c15, and that BAD_CALL answers at once, are the model's choices (log entries 9 and 30). -/
def Obligations.TrapsDeliverTheirCalls : Prop :=
  (∀ (s : State) (k : Nat) (g : Group) (pd : Option (BitVec 6)) (guard : BitVec 7) (neg : Bool), s.AsGroup k g → s.Ready [1] [15] → s.TrapFree k g → s.trapHeld k = false →
    let i := match pd with | none => Instr.trapAll guard neg | some d => Instr.trapAny d guard neg
    let ks := g.lane.actives ⟨false, guard, neg⟩
    let mask := (ks.map fun i => 2 ^ i).sum
    let setP := fun (s : State) (bits : Nat) => match pd with | none => s | some d => s.putPred k d.toNat bits
    (ks = [] → DidIn s (setP s 0) (exec i s) s.hart) ∧
    (ks ≠ [] → (s.x 1).toNat ∉ callNumbers →
      DidIn s (setP (s.putResults k (ks.map fun i => (i, 0, 1))) mask) (exec i s) s.hart) ∧
    (ks ≠ [] → (s.x 1).toNat ∈ callNumbers → (s.cluster (slotCluster k)).dbg.ctl.getLsbD 0 = false →
      DidIn s (((s.writeTrap (s.trapRecord k) (s.x 1).toNat pd.isSome ((pd.map (·.toNat)).getD 0) ks (s.c 15) g.lane).modGroup k fun g =>
          { g with life := .trapped }).event (slotCluster k) 2 0 (handleOf k g) (BitVec.ofNat 64 (s.trapRecord k))) (exec i s) s.hart)) ∧
  (∀ (s : State) (k : Nat) (g : Group), s.AsGroup k g → s.trapOutstanding (s.trapRecord k) = false → Did s (exec .trapwait s) s.hart) ∧
  (∀ (s t : State) (k : Nat) (g : Group) (past : Bool), s.AsGroup k g → s.trapOutstanding (s.trapRecord k) = true → g.trapReady = true → s.trapHeld k = false →
    s.collectCalls k = (t, past) →
    DidIn s (if past then t else t.modGroup k fun g => { g with life := .trapped }) (exec .trapwait s) s.hart)

/-! ### Control and status registers -/

/-- R59 to R61, R145: what a group reads of its registers, and that a read of lane state waits for the runs and atomics that may still change it; a group writes,
    sets bits in or clears bits of FPCTL and FPSTAT alone, and a write of another takes PRIV_INSN or ILLEGAL_INSN. -/
def Obligations.GroupsReadAndWriteTheirRegisters : Prop :=
  (∀ (s : State) (k : Nat) (g : Group) (d : BitVec 6), s.AsGroup k g →
     (∀ row ∈ groupRegisters, s.Ready [d] [] → (row.1 ∈ laneStateRegisters → g.lane.queue = [] ∧ ∀ p ∈ g.hart.pend, p.fp = false) →
       Did s (exec (.rdcsr d (BitVec.ofNat 12 row.1)) s) (s.hart.setX d (BitVec.ofNat 64 (row.2 s k g)))) ∧
     (∀ n ∈ laneStateRegisters, s.Ready [d] [] → (g.lane.queue ≠ [] ∨ ∃ p ∈ g.hart.pend, p.fp = true) → exec (.rdcsr d (BitVec.ofNat 12 n)) s = .next s) ∧
     (∀ n : BitVec 12, 0x400 ≤ n.toNat → exec (.rdcsr d n) s = .next (s.raiseHere Cause.privInsn)) ∧
     (s.Ready [] [d.setWidth 5] →
       Did s (exec (.rdcsr d 0x070) s) (s.hart.setCap (d.setWidth 5) { g.hart.scode with cursor := g.hart.pc, tag := g.hart.scode.tag && g.hart.scode.inRepr g.hart.pc }) ∧
       Did s (exec (.rdcsr d 0x071) s) (s.hart.setCap (d.setWidth 5) { g.lcode with cursor := g.lane.lastRun.getD (BitVec.ofNat 64 g.lcode.base) })) ∧
     (s.Ready [d] [] → s.hart.st = 0 → ∃ f : BitVec 5, Did s (exec (.rdcsr d 0x014) s) (s.hart.setX d (BitVec.ofNat 64 f.toNat)) ∧
       ∀ i < 5, f.getLsbD i = true ↔ (∃ c, s.ctx g.ctx = some c ∧ c.flags.getLsbD i = true) ∨ ∃ p ∈ s.sliceFlags, p.1 % 4096 = g.ctx ∧ p.2.getLsbD i = true)) ∧
  (∀ (s : State) (k : Nat) (g : Group) (a : BitVec 6), s.AsGroup k g → s.Ready [a] [] →
     (∀ row ∈ [(Instr.wrcsr, fun (_ x : Word) => x), (.setcsr, fun old x => old ||| x), (.clrcsr, fun old x => old &&& ~~~x)],
       (let v := row.2 (BitVec.ofNat 64 g.lane.fpctl.toNat) (s.x a)
        (v.toNat % 8 < 5 → DidIn s (s.modGroup k fun g => { g with lane := { g.lane with fpctl := v.setWidth 5 } }) (exec (row.1 a 0x012) s) s.hart) ∧
        (5 ≤ v.toNat % 8 → exec (row.1 a 0x012) s = .next (s.raiseHere Cause.illegalInsn))) ∧
       (g.lane.queue = [] → (∀ p ∈ g.hart.pend, p.fp = false) →
         DidIn s (s.modGroup k fun g => { g with lane := { g.lane with fpstat := (row.2 (BitVec.ofNat 64 g.lane.fpstat.toNat) (s.x a)).setWidth 5 } })
           (exec (row.1 a 0x013) s) s.hart) ∧
       (∀ n ∈ readOnlyRegisters, exec (row.1 a (BitVec.ofNat 12 n)) s = .next (s.raiseHere Cause.privInsn)) ∧
       (∀ n ∈ [0x001, 0x002, 0x003, 0x004, 0x005, 0x010, 0x011, 0x060], exec (row.1 a (BitVec.ofNat 12 n)) s = .next (s.raiseHere Cause.illegalInsn)) ∧
       (∀ n : BitVec 12, 0x400 ≤ n.toNat → exec (row.1 a n) s = .next (s.raiseHere Cause.privInsn))))

/-- R336, R352, R353, R368, R387: a service core's write of a plain register leaves the register reading the bits it keeps of the value, and a read moves it to s[d]; SEVT
    gives and removes the oldest event, with its handle and argument, and the oldest event that a full queue kept at its source takes its room. -/
def Obligations.ServiceRegistersHoldWhatIsWritten : Prop :=
  ∀ (s : State) (c : Nat), s.AsService c →
    (∀ row ∈ plainRegisters, ∀ a : BitVec 6, s.Ready [a] [] →
      ∃ t, exec (.wrcsr a (BitVec.ofNat 12 row.1)) s = .next t ∧ t.csr row.1 = some (s.x a &&& row.2) ∧ t.hart.pc = s.pc + 4 ∧ t.hart.s = s.hart.s ∧
        t.hart.c = s.hart.c ∧ t.mem = s.mem ∧ t.tags = s.tags ∧ t.groups = s.groups ∧ ∀ j, j ≠ c → t.cluster j = s.cluster j) ∧
    (∀ (d : BitVec 6) (n : BitVec 12) (x : Word), s.Ready [d] [] → n ≠ 0x014 → n ≠ 0x070 → n ≠ 0x071 → n ≠ 0x400 → s.csr n.toNat = some x →
      Did s (exec (.rdcsr d n) s) (s.hart.setX d x)) ∧
    (∀ (d : BitVec 6) (e : Event) (rest : List Event), s.Ready [d] [] → (s.cluster c).svc.events = e :: rest →
      DidIn s (s.modCluster c fun cl => { cl with svc := { cl.svc with events := rest ++ cl.svc.held.take 1, held := cl.svc.held.drop 1, sevtarg := e.arg, sevtgrp := e.grp } })
        (exec (.rdcsr d 0x400) s) (s.hart.setX d (BitVec.ofNat 64 (e.kind.toNat + 256 * e.cause.toNat)))) ∧
    (∀ d : BitVec 6, s.Ready [d] [] → (s.cluster c).svc.events = [] → Did s (exec (.rdcsr d 0x400) s) (s.hart.setX d 0))

/-- R157: `spsize` gives the cluster the least number of scratchpad ways that is no less than what it grants and covers every way allocated;
    ways that become scratchpad hold free bytes. Which context the split then belongs to is the model's reading (log entry 29). -/
def Obligations.ScratchpadSplitsKeepAllocatedWays : Prop :=
  ∀ (s : State) (d a : BitVec 6), s.Present → s.Ready [d, a] [] → s.hart.ld = 0 → s.hart.st = 0 →
    let cl := s.curCluster
    let other := (∃ p ∈ s.teams, p.2.cluster = cl ∧ p.2.ctx ≠ s.who.ctx) ∨ ∃ v ∈ s.disp.saved, v.team.cluster = cl ∧ v.team.ctx ≠ s.who.ctx
    ∃ n ctx, DidIn s ((s.openWays cl (s.cluster cl).split n).modCluster cl fun c => { c with split := n, splitCtx := ctx }) (exec (.spsize d a) s) (s.hart.setX d (BitVec.ofNat 64 n)) ∧
      (other → (s.cluster cl).split ≤ n) ∧ (¬ other → min (s.x a).toNat 60 ≤ n) ∧
      (∀ p ∈ s.teams, p.2.cluster = cl → p.2.ways ≠ 0 → p.2.way0 + p.2.ways ≤ n) ∧
      (∀ m, (other → (s.cluster cl).split ≤ m) → (¬ other → min (s.x a).toNat 60 ≤ m) →
        (∀ p ∈ s.teams, p.2.cluster = cl → p.2.ways ≠ 0 → p.2.way0 + p.2.ways ≤ m) → n ≤ m)

/-! ### Matrix words -/

/-- R189 to R192, R194 to R198, R213: a matrix word enters its queues with its operand's lock registered; `mxfence` closes the open operations into a batch and
    writes its number, and `mxwait` goes on once that batch has retired. -/
def Obligations.MatrixWordsEnterTheirQueuesAndBatches : Prop :=
  (∀ (s : State) (k : Nat) (g : Group) (tm : Team) (pair : Bool), s.AsGroup k g → s.MxReady k g tm pair →
     let room := fun c src => s.wlRoomFor ((s.handleSegs s.who c src).map (·.lo)) = true
     (∀ (a : BitVec 5) (b : BitVec 6) (ty : BitVec 3) (src : MxSrc) (ts : List TlbEntry), s.Ready [b] [a] → LdsDesc (s.x b) →
       s.mxOperand s.who s.pc tm (s.c a) (.lds ty.toNat) ty.toNat pair ((s.x b).getLsbD 7) ((s.x b).getLsbD 6) (s.x b)
         ((if pair then 2 else 1) * weightSize ty.toNat) = .ok (src, ts) →
       s.LockFor (slotCluster k) src.segs → room (s.c a) src →
       ((s.x b).getLsbD 6 = true → (vgetD s.keys ((s.x b).toNat % 64) .reset).state ≠ 0 ∧ (vgetD s.keys ((s.x b).toNat % 64) .reset).ctx = g.ctx) →
       DidIn s (s.mxEntered k g (.lds ty.toNat) pair (a.setWidth 6) b (s.x b) (s.c a) src false ts) (exec (.mxlds a b pair ty) s) s.hart) ∧
     (∀ (acc : BitVec 2) (z flip : Bool) (a : BitVec 5) (b : BitVec 6) (ty : BitVec 3) (src : MxSrc) (ts : List TlbEntry), s.Ready [b] [a] → MmDesc (s.x b) →
       (∀ i ∈ mxCores (slotCore k) pair, let p := ((s.cluster (slotCluster k)).core i).planeTypes
         (if flip then p.2 else p.1) = some ty.toNat) →
       s.mxOperand s.who s.pc tm (s.c a) (.mm acc.toNat ty.toNat z flip) ty.toNat pair ((s.x b).getLsbD 18) false (s.x b) (activSize ty.toNat (mxRows (s.x b))) = .ok (src, ts) →
       s.LockFor (slotCluster k) src.segs → room (s.c a) src →
       DidIn s (s.mxEntered k g (.mm acc.toNat ty.toNat z flip) pair (a.setWidth 6) b (s.x b) (s.c a) src false ts) (exec (.mxmm acc z a b flip pair ty) s) s.hart) ∧
     (∀ (acc : BitVec 2) (a : BitVec 5) (b : BitVec 6) (ty : BitVec 3) (src : MxSrc) (ts : List TlbEntry), s.Ready [b] [a] →
       let line := (if pair then 512 else 256) * mxstBytes ty.toNat
       StDesc (s.x b) line → s.mxRange s.who tm (s.c a) Perm.store Need.write ((mxRows (s.x b) - 1) * bitsOf (s.x b).toNat 51 20 + line) 16 = .ok (src, ts) →
       s.LockFor (slotCluster k) src.segs →
       DidIn s (s.mxEntered k g (.st acc.toNat ty.toNat) pair (a.setWidth 6) b (s.x b) (s.c a) src true ts) (exec (.mxst acc a b pair ty) s) s.hart) ∧
     (∀ acc : BitVec 2, s.LockFor (slotCluster k) [] →
       DidIn s (s.mxEntered k g (.zero acc.toNat) pair 0 0 0 .null ⟨[], none, 0⟩ false []) (exec (.mxzero acc pair) s) s.hart)) ∧
  (∀ (s : State) (k : Nat) (g : Group) (tm : Team), s.AsGroup k g → s.team g.team = some tm → tm.pair.isSome = true →
     (∀ d : BitVec 6, s.Ready [d] [] → s.MxRoom k g tm false → g.hart.mx < 255 →
       let bs : List Batch := g.batches ++ [⟨s.nextId, g.lastClosed + 1, g.openOps, g.openAccs⟩]
       ∃ t g', exec (.mxfence d) s = .next t ∧ t.group k = some g' ∧ g'.lastClosed = g.lastClosed + 1 ∧ g'.openOps = [] ∧ g'.openAccs = [] ∧ g'.hart.pc = g.hart.pc + 4 ∧
         g'.hart.s = (g.hart.setX d (BitVec.ofNat 64 (g.lastClosed + 1).toNat)).s ∧
         (∃ n, g'.batches = bs.drop n ∧ g'.hart.mx = g.hart.mx + 1 - n ∧ (∀ x ∈ bs.take n, ∀ i ∈ x.ops, i ∉ (s.cluster (slotCluster k)).mxIds) ∧
           (∀ x, bs[n]? = some x → ∃ i ∈ x.ops, i ∈ (s.cluster (slotCluster k)).mxIds)) ∧
         t.mem = s.mem ∧ t.tags = s.tags ∧ ∀ j, j ≠ k → t.group j = s.group j) ∧
     (∀ a : BitVec 6, s.Ready [a] [] → s.MxRoom k g tm false →
       let want : BitVec 32 := if (BitVec.ofNat 32 (s.x a).toNat - g.lastClosed).toInt ≤ 0 then BitVec.ofNat 32 (s.x a).toNat else g.lastClosed
       ((g.lastRetired - want).toInt ≥ 0 → Did s (exec (.mxwait a) s) s.hart) ∧ ((g.lastRetired - want).toInt < 0 → exec (.mxwait a) s = .next s)))

/-- R122, R189 to R191, R194 to R197, R213, R397: the head of a core's queue starts once the copies before it are done, `.flip` exchanging the planes, a decrypting
    `mxlds` taking the generation of its key; when it retires, a loaded tile, deciphered if it is to be, stands in the shadow plane, each accumulator element of an `mxmm`
    has its row's products added, an `mxst` has written its rows as its type asks, cleared its elements where C is set, untagged what it wrote and left the rest of memory,
    an accumulator of `mxzero` is zero, and the operation and its locks are gone. One step of the array is a sum of products wrapped to 32 bits, or one exact sum rounded
    once to `.f32` and added to the accumulator, with the special values of R122.
    The scales of a block that no element has are free values (log entries 5 and 42). -/
def Obligations.MatrixOperationsTakeEffectInOrder : Prop :=
  ((∀ (act wt : List Byte) (n rows m acc : Nat), mxStep 4 act n rows wt m acc =
      (BitVec.ofInt 32 ((BitVec.ofNat 32 acc).toInt + ((List.range 64).map fun k => (act.getD (72 * n + k) 0).toInt * (wt.getD (64 * m + k) 0).toInt).sum)).toNat) ∧
   (∀ row ∈ [(0, Fmt.e2m1), (1, .e4m3), (2, .e5m2), (3, .bf16)], ∀ (act wt : List Byte) (n rows m acc : Nat),
      let F := mxFactors row.1 act n rows wt m
      let y := mxStep row.1 act n rows wt m acc
      let infinite := fun k => ∃ f ∈ F k, f.IsInf
      let sign := fun k => ((F k).map Fp.negative).foldl (· ^^ ·) false
      mxFmt row.1 = row.2 ∧
      ((∃ k < 64, ∃ f ∈ F k, f.isNan = true) ∨ (∃ k < 64, infinite k ∧ ∃ f ∈ F k, f.IsZero) ∨ (∃ i < 64, ∃ j < 64, infinite i ∧ infinite j ∧ sign i ≠ sign j) → y = 0x7FC00000) ∧
      ((∀ k < 64, (∀ f ∈ F k, f.isNan = false) ∧ (infinite k → ∀ f ∈ F k, ¬ f.IsZero)) →
        (∀ i < 64, infinite i → (∀ j < 64, infinite j → sign i = sign j) → y = (Fmt.f32.add .rne acc (Fmt.f32.infinity (sign i))).1) ∧
        ((∀ k < 64, ¬ infinite k) →
          let D : ℝ := ((List.range 64).map fun k => ((F k).map Fp.value).prod).sum
          ∃ p, y = (Fmt.f32.add .rne acc p.1).1 ∧ (D = 0 → p.1 = 0) ∧ (D ≠ 0 → Fmt.f32.Rounded .rne false (decide (D < 0)) D p))))) ∧
  ∀ (s : State) (core : Nat) (o : MxOp) (cores : List Nat), s.Canonical → core < 768 → s.mxHead (core / 4) (core % 4) = some (o, cores) → s.heldOp o = false →
    (o.started = false → s.lockClear o.id = true → s.segsSpoilt o.src.segs = false → s.wlRoomFor (o.src.segs.map (·.lo)) = true →
      (∀ ty, o.kind = .lds ty → o.desc.getLsbD 6 = false → exec (.matrixOpStart core) s =
        .next ((s.modHeads (core / 4) cores fun o => { o with started := true }).wlReads (s.whoGroup o.slot) o.id o.src.segs)) ∧
      (∀ ty, o.kind = .lds ty → o.desc.getLsbD 6 = true →
        let n := o.desc.toNat % 64
        let key := vgetD s.keys n .reset
        (∀ gen, key.cur = some gen → key.state = 2 → key.uses < gen.hard → ∃ t, exec (.matrixOpStart core) s = .next t ∧ (vgetD t.keys n .reset).uses = key.uses + 1 ∧
          ∀ c ∈ cores, ∃ q ∈ ((t.cluster (core / 4)).core c).mq.head?, q.id = o.id ∧ q.started = true ∧ q.keyGen = gen.num) ∧
        (key.cur = none ∨ key.state ≠ 2 ∨ (∃ gen, key.cur = some gen ∧ gen.hard ≤ key.uses) → exec (.matrixOpStart core) s = .next s)) ∧
      (∀ acc ty z, o.kind = .mm acc ty z true → ∃ t, exec (.matrixOpStart core) s = .next t ∧
        ∀ c ∈ cores, ((t.cluster (core / 4)).core c).active = ((s.cluster (core / 4)).core c).shadow ∧
          ((t.cluster (core / 4)).core c).shadow = ((s.cluster (core / 4)).core c).active)) ∧
    (o.started = true → ∃ t, exec (.matrixOpRetire core) s = .next t ∧
      (∀ c ∈ cores, ((t.cluster (core / 4)).core c).mq = ((s.cluster (core / 4)).core c).mq.drop 1) ∧
      (∀ cl < 192, ∀ l ∈ (t.cluster cl).locks, l.op ≠ o.id) ∧
      (∀ ty i c, o.kind = .lds ty → o.desc.getLsbD 6 = false → cores[i]? = some c →
        ((t.cluster (core / 4)).core c).shadow =
          ⟨some ty, ((s.mxTile o).drop (i * weightSize ty)).take (weightSize ty), some ⟨o.cap, o.desc, i, o.pair, ty, o.keyGen⟩⟩) ∧
      (∀ ty i c key, o.kind = .lds ty → o.desc.getLsbD 6 = true → cores[i]? = some c →
        (let slot := vgetD s.keys (o.desc.toNat % 64) .reset
         ∃ gen, gen.num = o.keyGen ∧ gen.key = key ∧ (slot.cur = some gen ∨ (slot.prev = some gen ∧ ∀ h, slot.cur = some h → h.num ≠ o.keyGen))) →
        ((t.cluster (core / 4)).core c).shadow =
          ⟨some ty, ((ctrDecrypt key o.src.base.toNat (s.mxTile o)).drop (i * weightSize ty)).take (weightSize ty), some ⟨o.cap, o.desc, i, o.pair, ty, o.keyGen⟩⟩) ∧
      (∀ acc ty z, o.kind = .st acc ty → acc < 3 → ty < 4 → mxCol o.desc + mxRows o.desc ≤ 512 → o.src.segs = [z] →
        let w := if ty = 1 ∨ ty = 2 then 2 else 4
        let stride := bitsOf o.desc.toNat 51 20
        let row := 256 * cores.length * w
        let cleared := fun x => ∃ c ∈ cores, accKey (core / 4) c + acc * 0x80000 ≤ x ∧ x < accKey (core / 4) c + (acc + 1) * 0x80000
        row ≤ stride → (mxRows o.desc - 1) * stride + row ≤ z.len → z.lo + z.len ≤ Config.remoteKey →
        (∀ j < z.len, tagByte (z.lo + j) = none ∧ s.regOf (z.lo + j) = none ∧ worldByte (z.lo + j) = none ∧ ¬ cleared (z.lo + j)) →
        (∀ i c n m, cores[i]? = some c → n < mxRows o.desc → m < 256 →
          let e := s.readNat (accElem (core / 4) c acc m (mxCol o.desc + n)) 4
          let y := match ty with
            | 1 => (Fmt.bf16.round .rne false (Fmt.f32.decode e)).1
            | 2 => (Fmt.f16.round .rne false (Fmt.f32.decode e)).1
            | _ => e
          let x := z.lo + n * stride + (256 * i + m) * w
          (∀ j < w, t.keyByte (x + j) = BitVec.ofNat 8 (y / 2 ^ (8 * j)) ∧ t.keyTag (x + j) = false) ∧
          t.readNat (accElem (core / 4) c acc m (mxCol o.desc + n)) 4 = if o.desc.getLsbD 18 then 0 else e) ∧
        (∀ x < Config.remoteKey, (∀ n < mxRows o.desc, x < z.lo + n * stride ∨ z.lo + n * stride + row ≤ x) → tagByte x = none → worldByte x = none →
          (o.desc.getLsbD 18 = true → ¬ cleared x) → t.keyByte x = s.keyByte x)) ∧
      (∀ acc ty z flip c m n, o.kind = .mm acc ty z flip → acc < 3 → c ∈ cores → m < 256 → o.row ≤ n → n < mxRows o.desc → mxCol o.desc + mxRows o.desc ≤ 512 →
        t.readNat (accElem (core / 4) c acc m (mxCol o.desc + n)) 4 =
          mxStep ty (s.mxTile o) n (mxRows o.desc) ((s.cluster (core / 4)).core c).active.bytes m
            (if z then 0 else s.readNat (accElem (core / 4) c acc m (mxCol o.desc + n)) 4) % 2 ^ 32) ∧
      (∀ acc c i, o.kind = .zero acc → acc < 3 → c ∈ cores → i < 0x80000 → t.keyByte (accKey (core / 4) c + acc * 0x80000 + i) = 0))

/-! ### Copies -/

/-- R48, R207, R210, R213, R235: a copy command that passes its checks is registered with its cluster's engines, counted in cp and among its group's copies; an empty
    block transfer without a ring is done at once. A shape record in another package is asked for there (R265, R266). What earlier runs hold back is the model's choice (log entry 7).
    The order of the checks is the model's choice (log entries 31 and 41). -/
def Obligations.CopyCommandsAreIssued : Prop :=
  ∀ (s : State) (d a b5 : BitVec 5) (b : BitVec 6), s.Present →
    let issued := fun (u : State) (p : Plan) =>
      (u.register u.curCluster p).modCurGroup fun g => { g with copies := g.copies ++ [u.nextId] }
    (∀ (mc : Bool) (fmt : BitVec 3) (p : Plan), s.Ready [] [d, a, b5] →
      s.tcopyPlan s.who s.myCommand (s.c a) (s.c d) (s.c b5) mc fmt.toNat s.pc = .ok p → s.copyReady = true →
      let record := s.shapeSegs s.who (s.c b5)
      let u := s.wlReadNow s.who record
      (s.wlRoomFor (record.map (·.lo)) = false → exec (.tcopy d a b5 mc fmt) s = .next s) ∧
      (s.wlRoomFor (record.map (·.lo)) = true → u.CopyReady p.1 → DidIn s (issued u p) (exec (.tcopy d a b5 mc fmt) s) { s.hart with cp := s.hart.cp + 1 })) ∧
    (∀ (ring : Bool) (ss ds : List Seg) (t1 t2 : List TlbEntry), s.Ready [b] [d, a] →
      let len := (s.x b).toNat % 2 ^ 40
      bitsOf (s.x b).toNat 47 40 = 0 → (ring = false → bitsOf (s.x b).toNat 63 48 = 0) → len ≤ 2 ^ 24 →
      (ring = true → ∃ i tm r, s.myCommand.team = some i ∧ s.team i = some tm ∧ tm.ring = some r) →
      s.resolve s.who (s.c a) [Perm.engSrc] Need.read (s.c a).cursor.toNat len 1 = .ok (ss, t1) →
      s.resolve s.who (s.c d) [Perm.engDst] Need.write (s.c d).cursor.toNat len 1 = .ok (ds, t2) →
      let p : Plan := ({ s.myCommand with isBcopy := true, src := s.c a, dst := s.c d, len := len, srcSegs := ss, targets := s.targets ds,
                                          ring := if ring then some (BitVec.ofNat 16 ((s.x b).toNat / 2 ^ 48)) else none }, t1 ++ t2)
      (len = 0 ∧ ring = false → s.copyReady = true → Did s (exec (.bcopy d a b ring) s) s.hart) ∧
      (len ≠ 0 ∨ ring = true → s.CopyReady p.1 → DidIn s (issued s p) (exec (.bcopy d a b ring) s) { s.hart with cp := s.hart.cp + 1 }))

/-- R207 to R213, R215, R262: an engine operation starts once what it must follow is done, reading its source. A completed one has written the bytes read, the tile made of
    them or the codes packed from them at the targets that still live, the status words, and nothing else; a block transfer carries the tags of whole granules. It is
    gone with its locks and its count; a ring transfer stays until its record is written, in the order of completion.
    The scales of a block that no element has are free values, and targets land whole (log entries 42 and 60). -/
def Obligations.EngineOperationsWriteTheirTargets : Prop :=
  ∀ (s : State) (cl id : Nat) (o : EngOp), s.Canonical → cl < 192 → (s.cluster cl).op id = some o →
    let live := o.targets.filter s.targetLive
    let keys := segKeys (o.targets.flatMap (·.segs) ++ o.status)
    let plain := keys.Nodup ∧ ∀ x ∈ keys, x < Config.remoteKey ∧ tagByte x = none ∧ s.regOf x = none ∧ worldByte x = none
    let left := fun (t : State) => (∀ p ∈ (t.cluster cl).ops, p.id ≠ id) ∧ (∀ c < 192, ∀ l ∈ (t.cluster c).locks, l.op ≠ id) ∧
      ∀ k gen g, o.issuer = .group k gen → s.group k = some g → g.gen = gen →
        ∃ g', t.group k = some g' ∧ g'.copies = g.copies.filter (· ≠ id) ∧ g'.hart.cp = g.hart.cp - 1
    let kept := fun (t : State) => ∀ x < Config.remoteKey, x ∉ segKeys (live.flatMap (·.segs)) → x ∉ segKeys o.status → tagByte x = none → worldByte x = none →
      t.keyByte x = s.keyByte x
    let wrote := fun (t : State) (data : List Byte) => plain → ∀ a ∈ live, ∀ i k, segKey a.segs i = some k → a.off + i < data.length → t.keyByte k = data.getD (a.off + i) 0
    (o.started = false → s.lockClear id = true → s.segsBusy o.srcSegs = false → s.segsSpoilt o.srcSegs = false → s.wlRoomFor (o.srcSegs.map (·.lo)) = true → ∃ t o', exec (.engineOpStart cl id) s = .next t ∧
      (t.cluster cl).op id = some o' ∧ o'.started = true ∧ o'.bytes = s.readSegs o.srcSegs ∧ o'.gtags = (if o.isBcopy then s.sourceTags o else []) ∧
      o'.targets = o.targets ∧ t.mem = s.mem ∧ t.tags = s.tags ∧ t.groups = s.groups) ∧
    (o.isBcopy = false → o.started = true → s.targetsWait o = false → ∃ t, exec (.tcopyComplete cl id) s = .next t ∧ left t ∧ kept t ∧
      let sh := Shape.of ⟨o.shape, []⟩ o.fmt
      let codes := sh.packWrites o.bytes o.lo
      (o.fmt = 0 → wrote t o.bytes) ∧
      (sh.packs = false → wrote t (sh.expand (Config.freeScale s.free) o.bytes o.lo)) ∧
      (sh.pack = true → o.fmt ≠ 0 → plain → ∀ p ∈ codes, ∀ k, s.targetKey o.targets p.1 = some k →
        (mxBits sh.ty = 8 → (codes.map (·.1)).Nodup → t.keyByte k = BitVec.ofNat 8 p.2.1) ∧
        (mxBits sh.ty = 4 → (codes.map fun q => (q.1, q.2.2)).Nodup →
          (t.keyByte k).toNat / (if p.2.2 then 16 else 1) % 16 = p.2.1 % 16) ∧
        (∀ k2, mxBits sh.ty = 16 → s.targetKey o.targets (p.1 + 1) = some k2 → codes.Pairwise (fun p q => p.1 + 2 ≤ q.1 ∨ q.1 + 2 ≤ p.1) →
          (t.keyByte k).toNat + 256 * (t.keyByte k2).toNat = p.2.1 % 65536)) ∧
      (plain → ∀ i a z, o.targets[i]? = some a → o.status = [z] → 8 * o.targets.length ≤ z.len →
        t.readNat (z.lo + 8 * i) 8 = if s.targetLive a then segLen a.segs % 2 ^ 64 else 2 ^ 32)) ∧
    (o.isBcopy = true → o.started = true → o.done = false → s.targetsWait o = false → ∃ t, exec (.bcopyComplete cl id) s = .next t ∧ kept t ∧ wrote t o.bytes ∧
      (o.ring = none → left t) ∧
      (o.ring ≠ none → (t.cluster cl).op id = some { o with done := true, delivered := (live.map fun a => segLen a.segs).sum, gone := o.targets.any fun a => !s.targetLive a }) ∧
      let g0 := wholeGranules o.src.cursor.toNat o.len
      (plain → (∀ a ∈ live, a.off + segLen a.segs ≤ o.bytes.length) → ∀ i < g0.2, ∀ k, s.targetKey o.targets (g0.1 + 16 * i) = some k → k % 16 = 0 → k + 16 ≤ Config.remoteKey →
        (∀ j < 16, tagByte (k + j) = none) →
        (t.keyTag k = true ↔ o.gtags.getD i false = true ∧ o.src.cursor.toNat % 16 = o.dst.cursor.toNat % 16 ∧ o.src.has Perm.loadCap = true ∧
          o.dst.has Perm.storeCap = true ∧ (s.colourMask o.ctx).getLsbD (t.readCap k).colour.toNat = false ∧
          ((t.readCap k).has Perm.global = true ∨ s.inTeamPad o.team k = true)))) ∧
    (∀ team tm, o.done = true → o.team = some team → s.team team = some tm → ((s.cluster cl).ops.find? fun p => p.done && p.team == o.team) = some o →
      let key := wayKey tm.cluster tm.way0 + tm.ring.getD 0 + 16 * tm.ringNext
      (s.keyByte (key + 15)).getLsbD 7 = false →
      ∃ t, exec (.ringRecordWrite cl id) s = .next t ∧ left t ∧ t.team team = some { tm with ringNext := (tm.ringNext + 1) % 256 } ∧
        (key + 16 ≤ Config.remoteKey → (∀ j < 16, tagByte (key + j) = none ∧ s.regOf (key + j) = none ∧ worldByte (key + j) = none) →
          t.readNat key 5 = o.delivered % 2 ^ 40 ∧
          ∀ k gen g, o.issuer = .group k gen → s.group k = some g → o.delivered < 2 ^ 40 → g.index < 16 → g.role < 16 →
            t.readNat key 8 = o.delivered + (if o.gone then 2 ^ 40 else 0) + (o.ring.getD 0).toNat * 2 ^ 48 ∧
            t.readNat (key + 8) 8 = g.index + g.role * 16 + 2 ^ 63))

/-! ### Dependence graphs -/

/-- R217, R219 to R222: the graph words build, close, patch and replay the object at their capability by its state.
    How the state word in memory and the die's copy agree, and the order of the checks, are the model's choices (log entries 13 and 43). -/
def Obligations.GraphWordsActByTheObjectsState : Prop :=
  ∀ (s u : State) (d b : BitVec 6) (a : BitVec 5) (key : Nat), s.Present →
    (∀ old home g segs ts, s.Ready [d] [a] → s.ObjectAt a key u → u.graphState key = (0, old) →
      (home, g) = old.getD (clusterDie s.curCluster, Graph.fresh s.who.ctx) → (u.openGraph = none ∨ u.openGraph = some key) →
      (s.c a).cursor.toNat = (s.c a).base + 0x280 + 128 * g.nodes.length → g.nodes.length < 1024 →
      u.resolve u.who (s.c a) [Perm.load, Perm.store] Need.read (s.c a).cursor.toNat 128 128 = .ok (segs, ts) →
      let r := u.readRec segs ((s.c a).has Perm.loadCap) u.who.mask
      bitsOf (r.word 8).toNat 3 0 ≤ 3 →
      DidIn s (((((((if old.isSome then u else u.dropCopies key).fill s.curCluster ts).wlReadNow u.who segs).setGraph home key { g with nodes := g.nodes ++ [⟨r.bytes.take 64, r.tags.take 4, r.word 8, r.word 9⟩] }).setHeader g.ctx key 0
        (g.nodes.length + 1)).setHeader g.ctx key 8 g.edges.length).setOpenGraph (some key)) (exec (.gnode d a) s) (s.hart.setX d (BitVec.ofNat 64 g.nodes.length))) ∧
    (∀ (x : BitVec 6) home g, s.Ready [x, b] [] → s.openGraph = some key → s.graphAt key = some (home, g) →
      (s.x x).toNat < g.nodes.length → (s.x b).toNat < g.nodes.length → s.x x ≠ s.x b →
      (((s.x x).toNat, (s.x b).toNat) ∈ g.edges → Did s (exec (.gedge x b) s) s.hart) ∧
      (((s.x x).toNat, (s.x b).toNat) ∉ g.edges → g.edges.length < 8192 →
        DidIn s ((s.setGraph home key { g with edges := g.edges ++ [((s.x x).toNat, (s.x b).toNat)] }).setHeader g.ctx key 8 (g.edges.length + 1))
          (exec (.gedge x b) s) s.hart)) ∧
    (∀ home g segs ts, s.Ready [] [a] → s.ObjectAt a key u → u.graphState key = (0, some (home, g)) → u.openGraph = some key →
      (∀ e ∈ g.edges, e.1 < g.nodes.length ∧ e.2 < g.nodes.length) → (u.die home).holds g = true →
      u.resolve u.who (s.c a) [Perm.load, Perm.store] Need.read ((s.c a).base + 0x80) 512 128 = .ok (segs, ts) →
      ((∀ n, ¬ Reaches g.edges n n) → ∃ par, DidIn s (((((u.fill s.curCluster ts).wlReadNow u.who segs).setGraph home key
          { g with state := 1, parA := par, parB := par, targetB := false }).setHeader g.ctx key 0x10 1).setOpenGraph none) (exec (.gclose a) s) s.hart) ∧
      ((∃ n, Reaches g.edges n n) → exec (.gclose a) s = .next (u.raise Cause.illegalInsn (BitVec.ofNat 64 (s.c a).base)))) ∧
    (∀ home g, s.Ready [] [a] → s.ObjectAt a key u → u.graphState key = (1, some (home, g)) →
      DidIn s ((((u.delGraph home key).setHeader g.ctx key 0x10 0).setHeader g.ctx key 0 0).setHeader g.ctx key 8 0) (exec (.gclose a) s) s.hart) ∧
    (∀ home g, s.Ready [d, b] [a] → s.ObjectAt a key u → u.graphState key = (g.state, some (home, g)) → g.state ≠ 0 → (s.x b).toNat < 64 →
      DidIn s (u.setGraph home key (if g.targetB then { g with parB := vset g.parB (s.x b).toNat (s.x d) } else { g with parA := vset g.parA (s.x b).toNat (s.x d) }))
        (exec (.gpatch d a b) s) s.hart) ∧
    (s.Ready [d] [a] → s.ObjectAt a key u → u.released = true → (u.die (clusterDie s.curCluster)).insts.length < 64 →
      (∀ home g, u.graphState key = (2, some (home, g)) → DidIn s (u.queueInstance (clusterDie s.curCluster) home key g) (exec (.grplay d a) s) (s.hart.setX d 1)) ∧
      (∀ p, u.graphState key = (3, some p) → DidIn s u (exec (.grplay d a) s) (s.hart.setX d 2)) ∧
      (∀ p, u.graphState key = (0, p) → DidIn s u (exec (.grplay d a) s) (s.hart.setX d 4)) ∧
      (∀ home g, u.graphState key = (1, some (home, g)) → ∃ t, exec (.grplay d a) s = .next t ∧ t.x d = (s.hart.setX d 0).x d ∧ t.pc = s.pc + 4)) ∧
    (s.Ready [d] [a] → s.ObjectAt a key u → u.released = true → 64 ≤ (u.die (clusterDie s.curCluster)).insts.length →
      DidIn s u (exec (.grplay d a) s) (s.hart.setX d 3))

/-! ### Lane words -/

/-- R167 to R169: the integer forms write into each active element what the tables give from its sources, by the type's sign, and change the lane part alone. -/
def Obligations.LaneIntegerFormsWriteTheirElements : Prop :=
  ∀ (s : State) (v : View) (c : Ctl) (d a : BitVec 6) (x : Src2) (ty : BitVec 4),
    let e := v.e
    let sg := tySigned ty
    (∀ row ∈ laneIntWords, s.LaneReady (row.1 c d a x ty) v →
      LaneDid s v (exec (row.1 c d a x ty) s) (v.l.putGroup c d.toNat e fun k => (row.2 e sg (v.A a e k) (v.B x ty e k)).toNat)) ∧
    (s.LaneReady (.vclz c d a ty) v → LaneDid s v (exec (.vclz c d a ty) s)
      (v.l.putGroup c d.toNat e fun k => if v.a a e k = 0 then e else e - 1 - (v.a a e k).log2)) ∧
    (s.LaneReady (.vpopc c d a ty) v → LaneDid s v (exec (.vpopc c d a ty) s)
      (v.l.putGroup c d.toNat e fun k => (List.range e).countP fun i => (v.a a e k).testBit i)) ∧
    (∀ row ∈ laneWideWords, s.LaneReady (row.1 c d a x ty) v →
      LaneDid s v (exec (row.1 c d a x ty) s) (v.l.putGroup c d.toNat (2 * e) fun k =>
        (BitVec.ofInt (2 * e) (row.2 (valueOf sg (v.A a e k)) (valueOf sg (v.B x ty e k)))).toNat)) ∧
    (∀ row ∈ laneNarrowWords, s.LaneReady (row.1 c d a x ty) v →
      LaneDid s v (exec (row.1 c d a x ty) s) (v.l.putGroup c d.toNat e fun k =>
        (row.2 e sg (v.A a (2 * e) k) (v.b x ty e k % (2 * e))).toNat)) ∧
    (s.LaneReady (.vmacc c d a x ty) v → LaneDid s v (exec (.vmacc c d a x ty) s)
      (v.l.putGroup c d.toNat e fun k => (v.A d e k + v.A a e k * v.B x ty e k).toNat)) ∧
    (s.LaneReady (.vnmsac c d a x ty) v → LaneDid s v (exec (.vnmsac c d a x ty) s)
      (v.l.putGroup c d.toNat e fun k => (v.A d e k - v.A a e k * v.B x ty e k).toNat)) ∧
    (s.LaneReady (.vwmacc c d a x ty) v → LaneDid s v (exec (.vwmacc c d a x ty) s)
      (v.l.putGroup c d.toNat (2 * e) fun k =>
        (v.A d (2 * e) k + BitVec.ofInt (2 * e) (valueOf sg (v.A a e k) * valueOf sg (v.B x ty e k))).toNat))

/-- R107 to R117, R170 to R173: the float forms round each exact result once, under the snapshot's FPCTL and the rounding code, and gather the flags of the active
    elements into FPSTAT. A rounding gives the representable value that the mode selects, with the overflow of R114 and the tininess of R115; sums and products are exact,
    quotients and roots are kept so that one rounding is that of the exact value, and NaNs, infinities, zeros and min and max are as R113 and R116 have them. -/
def Obligations.LaneFloatFormsRoundOnceAndGatherFlags : Prop :=
  ((∀ f ∈ formats, ∀ (env : FpEnv) (sat neg : Bool), env.mode ≤ 4 →
      (∀ (m : Nat) (e : Int), m ≠ 0 → f.Rounded env sat neg (Fp.fin neg m e).value (f.round env sat (.fin neg m e))) ∧
      (∀ e, f.round env sat (.fin neg 0 e) = (f.signBit neg, 0)) ∧
      (∀ sig, f.round env sat (.nan sig) = (f.qnan, if f = .e2m1 then Flags.invalid else 0)) ∧
      f.round env sat (.inf neg) = (if sat then (f.signBit neg + f.maxFinite, Flags.invalid) else if f = .e2m1 then (f.signBit neg + f.maxFinite, Flags.invalid)
        else if f = .e4m3 then (0x7F, Flags.invalid) else (f.infinity neg, 0)) ∧
      (∀ (m n : Nat) (e g : Int) (x y : Bool), m ≠ 0 → n ≠ 0 → m < 2 ^ 53 → n < 2 ^ 53 → (Fp.div (.fin x m e) (.fin y n g)).2 = 0 ∧
        f.Rounded env sat (x ^^ y) ((Fp.fin x m e).value / (Fp.fin y n g).value) (f.round env sat (Fp.div (.fin x m e) (.fin y n g)).1)) ∧
      (∀ (m : Nat) (e : Int), m ≠ 0 → m < 2 ^ 53 → (Fp.sqrt (.fin false m e)).2 = 0 ∧
        f.Rounded env sat false (Real.sqrt (Fp.fin false m e).value) (f.round env sat (Fp.sqrt (.fin false m e)).1))) ∧
   (∀ (mode m n : Nat) (e g : Int) (x y : Bool),
      (∃ z k h, Fp.add mode (.fin x m e) (.fin y n g) = (.fin z k h, 0) ∧ (Fp.fin z k h).value = (Fp.fin x m e).value + (Fp.fin y n g).value ∧
        (k = 0 → z = if m = 0 ∧ n = 0 ∧ x = y then x else decide (mode = 2))) ∧
      (∃ k h, Fp.mul (.fin x m e) (.fin y n g) = (.fin (x ^^ y) k h, 0) ∧ (Fp.fin (x ^^ y) k h).value = (Fp.fin x m e).value * (Fp.fin y n g).value) ∧
      (∀ zeros, Fp.lt zeros (.fin x m e) (.fin y n g) = true ↔
        (Fp.fin x m e).value < (Fp.fin y n g).value ∨ (zeros = true ∧ m = 0 ∧ n = 0 ∧ x = true ∧ y = false))) ∧
   (∀ (mode m : Nat) (e : Int) (x y : Bool), let a := Fp.fin y m e
      Fp.add mode (.inf x) a = (.inf x, 0) ∧ Fp.add mode a (.inf x) = (.inf x, 0) ∧
      Fp.add mode (.inf x) (.inf y) = (if x = y then (.inf x, 0) else (.nan false, Flags.invalid)) ∧
      Fp.mul (.inf x) a = (if m = 0 then (.nan false, Flags.invalid) else (.inf (x ^^ y), 0)) ∧
      Fp.mul a (.inf x) = (if m = 0 then (.nan false, Flags.invalid) else (.inf (x ^^ y), 0)) ∧ Fp.mul (.inf x) (.inf y) = (.inf (x ^^ y), 0) ∧
      Fp.div (.inf x) (.inf y) = (.nan false, Flags.invalid) ∧ Fp.div (.inf x) a = (.inf (x ^^ y), 0) ∧ Fp.div a (.inf x) = (.fin (x ^^ y) 0 0, 0) ∧
      (∀ g, Fp.div a (.fin x 0 g) = if m = 0 then (.nan false, Flags.invalid) else (.inf (x ^^ y), Flags.divZero)) ∧
      (∀ n g, n ≠ 0 → Fp.div (.fin y 0 e) (.fin x n g) = (.fin (x ^^ y) 0 0, 0)) ∧
      Fp.sqrt (.inf x) = (if x then (.nan false, Flags.invalid) else (.inf false, 0)) ∧ Fp.sqrt (.fin y 0 e) = (.fin y 0 0, 0) ∧
      (m ≠ 0 → Fp.sqrt (.fin true m e) = (.nan false, Flags.invalid)) ∧
      (∀ zeros, Fp.lt zeros (.inf x) (.inf y) = (x && !y) ∧ Fp.lt zeros (.inf x) a = x ∧ Fp.lt zeros a (.inf x) = !x)) ∧
   (∀ (mode : Nat) (a b : Fp) (op : Fp → Fp → Fp × Flags), op ∈ [Fp.add mode, Fp.mul, Fp.div] → a.isNan = true ∨ b.isNan = true →
      op a b = (.nan false, if a.isSig = true ∨ b.isSig = true then Flags.invalid else 0) ∧ (a.isNan = true → Fp.sqrt a = (.nan false, if a.isSig then Flags.invalid else 0))) ∧
   (∀ f ∈ formats, ∀ (env : FpEnv) (a b : Nat),
      (let p := Fp.add env.mode (f.val env a) (f.val env b)
       f.add env a b = ((f.round env false p.1).1, p.2 ||| (f.round env false p.1).2)) ∧
      (env.flush f = true ↔ (env.fl16 = true ∧ f = .f16) ∨ (env.flb16 = true ∧ f = .bf16)) ∧
      (env.flush f = false → f.val env a = f.decode a) ∧
      (env.flush f = true → f.val env a = if a / 2 ^ f.fbits % 2 ^ f.ebits = 0 ∧ a % 2 ^ f.fbits ≠ 0 then .fin (a.testBit (f.ebits + f.fbits)) 0 0 else f.decode a)) ∧
   (∀ f ∈ formats, ∀ (env : FpEnv) (a b : Nat) (isMax : Bool), env.flush f = false →
      let r := f.minMax env isMax a b
      let x := f.decode a
      let y := f.decode b
      r.2 = (if x.isSig = true ∨ y.isSig = true then Flags.invalid else 0) ∧ (x.isNan = true → y.isNan = true → r.1 = f.qnan) ∧
      (x.isNan = true → y.isNan = false → r.1 = b) ∧ (x.isNan = false → y.isNan = true → r.1 = a) ∧
      (x.isNan = false → y.isNan = false → (r.1 = a ∨ r.1 = b) ∧ ∀ z ∈ [x, y], (if isMax then Fp.lt true (f.decode r.1) z else Fp.lt true z (f.decode r.1)) = false)) ∧
   (Fmt.f32.decode 0x40500000).value = 3.25 ∧ (Fmt.f16.decode 0x4280).value = 3.25 ∧ (Fmt.bf16.decode 0x4050).value = 3.25 ∧ (Fmt.e4m3.decode 0x45).value = 3.25 ∧
   (Fmt.e5m2.decode 0x42).value = 3 ∧ (Fmt.e2m1.decode 0x5).value = 3 ∧ Fmt.f16.maxValue = 65504 ∧ Fmt.e5m2.maxValue = 57344 ∧ Fmt.e4m3.maxValue = 448 ∧
   Fmt.e2m1.maxValue = 6) ∧
  ∀ (s : State) (v : View) (c : Ctl) (rm : BitVec 3) (d a e : BitVec 6) (x : Src2) (ty dty : BitVec 4),
    let w := v.e
    let f := tyFmt ty
    let env := FpEnv.of v.run.snap.fpctl rm.toNat
    let env0 := FpEnv.of v.run.snap.fpctl 0
    (∀ row ∈ laneFloatWords, s.LaneReady (row.1 c rm d a x ty) v →
      LaneDid s v (exec (row.1 c rm d a x ty) s) (v.l.apply c d w fun k =>
        let p := row.2 env.mode (f.val env (v.a a w k)) (f.val env (v.b x ty w k))
        let r := f.round env false p.1
        (r.1, p.2 ||| r.2))) ∧
    (s.LaneReady (.vfsqrt c rm d a ty) v → LaneDid s v (exec (.vfsqrt c rm d a ty) s) (v.l.apply c d w fun k =>
        let p := Fp.sqrt (f.val env (v.a a w k))
        let r := f.round env false p.1
        (r.1, p.2 ||| r.2))) ∧
    (s.LaneReady (.vfmin c d a x ty) v →
      LaneDid s v (exec (.vfmin c d a x ty) s) (v.l.apply c d w fun k => f.minMax env0 false (v.a a w k) (v.b x ty w k))) ∧
    (s.LaneReady (.vfmax c d a x ty) v →
      LaneDid s v (exec (.vfmax c d a x ty) s) (v.l.apply c d w fun k => f.minMax env0 true (v.a a w k) (v.b x ty w k))) ∧
    (∀ row ∈ laneSignWords, s.LaneReady (row.1 c d a x ty) v →
      LaneDid s v (exec (row.1 c d a x ty) s) (v.l.putGroup c d.toNat w fun k =>
        v.a a w k % 2 ^ (w - 1) + if row.2 ((v.a a w k).testBit (w - 1)) ((v.b x ty w k).testBit (w - 1)) then 2 ^ (w - 1) else 0)) ∧
    (s.LaneReady (.vfabs c d a ty) v → LaneDid s v (exec (.vfabs c d a ty) s) (v.l.putGroup c d.toNat w fun k => v.a a w k % 2 ^ (w - 1))) ∧
    (s.LaneReady (.vfneg c d a ty) v → LaneDid s v (exec (.vfneg c d a ty) s) (v.l.putGroup c d.toNat w fun k => (v.a a w k + 2 ^ (w - 1)) % 2 ^ w)) ∧
    (s.LaneReady (.vfkind c d a ty) v → ∃ g, LaneDid s v (exec (.vfkind c d a ty) s) (v.l.putGroup c d.toNat w g) ∧
      ∀ k, let sub := (v.a a w k) / 2 ^ f.fbits % 2 ^ f.ebits = 0
        g k = (if (v.a a w k).testBit (w - 1) then 128 else 0) + match f.decode (v.a a w k) with
          | .nan sig => if sig then 32 else 16
          | .inf _ => 8
          | .fin _ m _ => if m = 0 then 1 else if sub then 2 else 4) ∧
    (∀ row ∈ laneFusedWords, s.LaneReady (row.1 c rm d a x e ty) v →
      LaneDid s v (exec (row.1 c rm d a x e ty) s)
        (v.l.apply c d w fun k => fusedResult f f env row.2.1 row.2.2 (v.a a w k) (v.b x ty w k) (v.a e w k))) ∧
    (s.LaneReady (.vfwma c rm d a x e ty) v → LaneDid s v (exec (.vfwma c rm d a x e ty) s)
      (v.l.apply c d (2 * w) fun k => fusedResult f (if ty = 12 then .f64 else .f32) env false false (v.a a w k) (v.b x ty w k) (v.a e (2 * w) k))) ∧
    (∀ sat : Bool, let i := if sat then Instr.vcvtSat c rm d a ty dty else .vcvt c rm d a ty dty
      s.LaneReady i v → ∃ g, LaneDid s v (exec i s) (v.l.apply c d (tyWidth dty) g) ∧ ∀ k,
        let y := v.A a (tyWidth ty) k
        let val := if ty.toNat < 8 then Fp.ofInt (valueOf (tySigned ty) y) else f.val env y.toNat
        (ty.toNat < 8 → dty.toNat < 8 → g k = ((if sat then satTo (tySigned dty) (tyWidth dty) (valueOf (tySigned ty) y)
          else BitVec.ofInt (tyWidth dty) (valueOf (tySigned ty) y)).toNat, 0)) ∧
        (8 ≤ ty.toNat → dty.toNat < 8 → g k = cvtF2i val env.mode (tySigned dty) (tyWidth dty)) ∧
        (8 ≤ dty.toNat → g k = (((tyFmt dty).round env sat val).1, ((tyFmt dty).round env sat val).2 ||| if val.isSig then Flags.invalid else 0)))

/-- R174, R175: the compares and the predicate forms write into each active element's bit the result of the test; the float compares raise invalid by R116. -/
def Obligations.ComparesAndPredicateFormsWriteTheirBits : Prop :=
  ∀ (s : State) (v : View) (c : Ctl) (pd pa pb : BitVec 7) (d a : BitVec 6) (x : Src2) (ty : BitVec 4),
    let e := v.e
    let f := tyFmt ty
    let env := FpEnv.of v.run.snap.fpctl 0
    let bit := fun (p : BitVec 7) k => v.l.pbit p.toNat k
    (∀ row ∈ laneCompareWords, s.LaneReady (row.1 c pd a x ty) v →
      LaneDid s v (exec (row.1 c pd a x ty) s)
        (v.l.putPred c pd.toNat fun k => row.2 (valueOf (tySigned ty) (v.A a e k)) (valueOf (tySigned ty) (v.B x ty e k)))) ∧
    (∀ row ∈ laneFloatCompareWords, s.LaneReady (row.1 c pd a x ty) v →
      let A := fun k => f.val env (v.a a e k)
      let B := fun k => f.val env (v.b x ty e k)
      LaneDid s v (exec (row.1 c pd a x ty) s)
        { v.l.putPred c pd.toNat fun k => row.2.1 (A k) (B k) with
          fpstat := v.l.fpstat ||| if (v.l.actives c).any fun k => row.2.2 (A k) || row.2.2 (B k) then Flags.invalid else 0 }) ∧
    (∀ row ∈ lanePredicateWords, s.LaneReady (row.1 c pd pa pb) v →
      LaneDid s v (exec (row.1 c pd pa pb) s) (v.l.putPred c pd.toNat fun k => row.2 (bit pa k) (bit pb k))) ∧
    (s.LaneReady (.vpnot c pd pa) v → LaneDid s v (exec (.vpnot c pd pa) s) (v.l.putPred c pd.toNat fun k => !bit pa k)) ∧
    (s.LaneReady (.vpmov c pd pa) v → LaneDid s v (exec (.vpmov c pd pa) s) (v.l.putPred c pd.toNat (bit pa))) ∧
    (s.LaneReady (.vpset c pd) v → LaneDid s v (exec (.vpset c pd) s) (v.l.putPred c pd.toNat fun _ => true)) ∧
    (s.LaneReady (.vpclr c pd) v → LaneDid s v (exec (.vpclr c pd) s) (v.l.putPred c pd.toNat fun _ => false)) ∧
    (s.LaneReady (.vpfrom c pd a ty) v → LaneDid s v (exec (.vpfrom c pd a ty) s) (v.l.putPred c pd.toNat fun k => v.a a e k != 0)) ∧
    (s.LaneReady (.vpto c d pa ty) v → LaneDid s v (exec (.vpto c d pa ty) s) (v.l.putGroup c d.toNat e fun k => if bit pa k then 1 else 0))

/-- R36, R45, R165, R166, R175 to R177: the lane words that return a scalar write it to the live register and to the snapshots of the runs accepted after their own;
    `vsetl` and `vsetli` set the vector type and VL. -/
def Obligations.LaneScalarsReturnToTheirRegister : Prop :=
  ∀ (s : State) (v : View) (last : Bool) (c : Ctl) (rm : BitVec 3) (d k a vt : BitVec 6) (n : BitVec 16) (pa : BitVec 7) (ty : BitVec 4),
    let e := v.e
    let sg := tySigned ty
    let f := tyFmt ty
    let env := FpEnv.of v.run.snap.fpctl rm.toNat
    let env0 := FpEnv.of v.run.snap.fpctl 0
    let xs := (v.l.actives c).map fun j => v.a a e j
    let word := fun (y : BitVec e) => BitVec.ofInt 64 (valueOf sg y)
    let flagged := fun (fl : Flags) => { v.l with fpstat := v.l.fpstat ||| fl }
    let set := fun (m : Nat) => { v.l with vtype := vt, vl := min m (VT.of vt).vlmax }
    let hits := (v.l.actives c).filter fun j => v.l.pbit pa.toNat j
    (s.LaneReady (.vsetl last d k vt) v → let m := (v.run.snap.x k.toNat).toNat
      LaneReturned s v (exec (.vsetl last d k vt) s) d (BitVec.ofNat 64 (min m (VT.of vt).vlmax)) (set m)) ∧
    (s.LaneReady (.vsetli last d vt n) v →
      LaneReturned s v (exec (.vsetli last d vt n) s) d (BitVec.ofNat 64 (min n.toNat (VT.of vt).vlmax)) (set n.toNat)) ∧
    (s.LaneReady (.vpcnt c d pa) v → LaneReturned s v (exec (.vpcnt c d pa) s) d (BitVec.ofNat 64 hits.length) v.l) ∧
    (s.LaneReady (.vpfirst c d pa) v → ∃ y, LaneReturned s v (exec (.vpfirst c d pa) s) d y v.l ∧
      (hits = [] → y = BitVec.allOnes 64) ∧ ∀ j ∈ hits, (∀ i ∈ hits, j ≤ i) → y = BitVec.ofNat 64 j) ∧
    (s.LaneReady (.vmvx last d a ty) v → LaneReturned s v (exec (.vmvx last d a ty) s) d (word (v.A a e 0)) v.l) ∧
    (s.LaneReady (.vredsum c d a ty) v → LaneReturned s v (exec (.vredsum c d a ty) s) d (word (BitVec.ofNat e xs.sum)) v.l) ∧
    (s.LaneReady (.vredmin c d a ty) v → ∃ y : BitVec e, LaneReturned s v (exec (.vredmin c d a ty) s) d (word y) v.l ∧
      (xs = [] → valueOf sg y = if sg then 2 ^ (e - 1) - 1 else 2 ^ e - 1) ∧
      (xs ≠ [] → y.toNat ∈ xs ∧ ∀ z ∈ xs, valueOf sg y ≤ valueOf sg (BitVec.ofNat e z))) ∧
    (s.LaneReady (.vredmax c d a ty) v → ∃ y : BitVec e, LaneReturned s v (exec (.vredmax c d a ty) s) d (word y) v.l ∧
      (xs = [] → valueOf sg y = if sg then -2 ^ (e - 1) else 0) ∧
      (xs ≠ [] → y.toNat ∈ xs ∧ ∀ z ∈ xs, valueOf sg (BitVec.ofNat e z) ≤ valueOf sg y)) ∧
    (∀ row ∈ laneBitReductions, s.LaneReady (row.1 c d a ty) v → ∃ y : BitVec e, LaneReturned s v (exec (row.1 c d a ty) s) d (word y) v.l ∧
      ∀ i < e, y.getLsbD i = row.2 (xs.map fun z => z.testBit i)) ∧
    (s.LaneReady (.vfredsum c rm d a ty) v → let r := floatFold f env (f.add env) 0 xs
      LaneReturned s v (exec (.vfredsum c rm d a ty) s) d (BitVec.ofNat 64 r.1) (flagged r.2)) ∧
    (s.LaneReady (.vfredmin c d a ty) v → let r := floatFold f env0 (f.minMax env0 false) (f.infinity false) xs
      LaneReturned s v (exec (.vfredmin c d a ty) s) d (BitVec.ofNat 64 r.1) (flagged r.2)) ∧
    (s.LaneReady (.vfredmax c d a ty) v → let r := floatFold f env0 (f.minMax env0 true) (f.infinity true) xs
      LaneReturned s v (exec (.vfredmax c d a ty) s) d (BitVec.ofNat 64 r.1) (flagged r.2))

/-- R176, R178, R179: moves, scans and permutes: what each active element takes, and the two forms, `vmerge` and `vpack`, that write by other rules. -/
def Obligations.MovesScansAndPermutesPlaceTheirElements : Prop :=
  ∀ (s : State) (v : View) (c : Ctl) (rm : BitVec 3) (d a e : BitVec 6) (x : Src2) (ty : BitVec 4),
    let w := v.e
    let sg := tySigned ty
    let f := tyFmt ty
    let env := FpEnv.of v.run.snap.fpctl rm.toNat
    let off := fun k => src2Val x v.l v.run.snap ty w true k
    let upTo := fun k => (v.l.actives c).filter (· ≤ k)
    let group := fun g => v.l.putGroup c d.toNat w g
    let pick := fun i => if i < v.t.vlmax then v.a a w i else 0
    (s.LaneReady (.vmv c d x ty) v → LaneDid s v (exec (.vmv c d x ty) s) (group fun k => v.b x ty w k)) ∧
    (s.LaneReady (.vid c d ty) v → LaneDid s v (exec (.vid c d ty) s) (group fun k => k % 2 ^ w)) ∧
    (s.LaneReady (.vmerge c d a x ty) v → ∃ l, LaneDid s v (exec (.vmerge c d a x ty) s) l ∧ (v.l.vl = 0 → l = v.l) ∧
      (v.l.vl ≠ 0 → v.l.Wrote l d.toNat w v.t.vlmax fun k => match v.l.cls c k with
        | .active => some (v.b x ty w k) | .masked => some (v.a a w k) | .tail => if v.t.tfill then some (2 ^ w - 1) else none | .absent => none)) ∧
    (s.LaneReady (.vpack c d a ty) v → ∃ l, LaneDid s v (exec (.vpack c d a ty) s) l ∧ (v.l.vl = 0 → l = v.l) ∧
      (v.l.vl ≠ 0 → v.l.Wrote l d.toNat w v.t.vlmax fun k => if v.l.isPresent k = false then none
        else match (v.l.actives c)[((List.range k).filter v.l.isPresent).length]? with
          | some j => some (v.a a w j) | none => if v.t.tfill then some (2 ^ w - 1) else none)) ∧
    (s.LaneReady (.vscanAdd c d a ty) v → ∃ g, LaneDid s v (exec (.vscanAdd c d a ty) s) (group g) ∧
      ∀ k ∈ v.l.actives c, g k = ((upTo k).map fun j => v.a a w j).sum % 2 ^ w) ∧
    (s.LaneReady (.vscanMin c d a ty) v → ∃ g, LaneDid s v (exec (.vscanMin c d a ty) s) (group g) ∧
      ∀ k ∈ v.l.actives c, (∃ j ∈ upTo k, g k = v.a a w j) ∧ ∀ j ∈ upTo k, valueOf sg (BitVec.ofNat w (g k)) ≤ valueOf sg (v.A a w j)) ∧
    (s.LaneReady (.vscanMax c d a ty) v → ∃ g, LaneDid s v (exec (.vscanMax c d a ty) s) (group g) ∧
      ∀ k ∈ v.l.actives c, (∃ j ∈ upTo k, g k = v.a a w j) ∧ ∀ j ∈ upTo k, valueOf sg (v.A a w j) ≤ valueOf sg (BitVec.ofNat w (g k))) ∧
    (s.LaneReady (.vfscanAdd c rm d a ty) v → ∃ g, LaneDid s v (exec (.vfscanAdd c rm d a ty) s)
        { group g with fpstat := v.l.fpstat ||| (floatFold f env (f.add env) 0 ((v.l.actives c).map fun j => v.a a w j)).2 } ∧
      ∀ k ∈ v.l.actives c, g k = (floatFold f env (f.add env) 0 ((upTo k).map fun j => v.a a w j)).1) ∧
    (s.LaneReady (.vshup c d a x e ty) v →
      LaneDid s v (exec (.vshup c d a x e ty) s) (group fun k => if off k ≤ k then v.a a w (k - off k) else v.a e w k)) ∧
    (s.LaneReady (.vshdn c d a x e ty) v → LaneDid s v (exec (.vshdn c d a x e ty) s) (group fun k =>
      if k + off k < v.l.vl then v.a a w (k + off k) else if k + off k - v.l.vl < v.t.vlmax then v.a e w (k + off k - v.l.vl) else 0)) ∧
    (s.LaneReady (.vpick c d a x ty) v → LaneDid s v (exec (.vpick c d a x ty) s) (group fun k => pick (off k))) ∧
    (s.LaneReady (.vbcast c d a x ty) v → LaneDid s v (exec (.vbcast c d a x ty) s) (group fun k => pick (off k))) ∧
    (s.LaneReady (.vxchg c d a x ty) v → LaneDid s v (exec (.vxchg c d a x ty) s) (group fun k => pick (k ^^^ off k))) ∧
    (s.LaneReady (.vrev c d a ty) v → LaneDid s v (exec (.vrev c d a ty) s) (group fun k => v.a a w (v.l.vl - 1 - k)))

/-- R46, R72, R163, R164: a destination group is written by class: an active element takes its result, a masked or tail element all ones where its fill bit is set,
    and every other element keeps its value, as does every other register; with VL = 0 nothing is written. -/
def Obligations.DestinationElementsAreWrittenByClass : Prop :=
  ∀ (l : LaneState) (c : Ctl) (n w : Nat) (res : Nat → Nat), w ∈ [4, 8, 16, 32, 64] → l.vt.emul w ≤ 8 → n + l.vt.emul w ≤ 64 →
    (l.vl = 0 → l.putGroup c n w res = l) ∧
    (l.vl ≠ 0 → l.vt.sew ≤ l.vt.lmul * w ∨ l.vt.tfill = false →
      l.Wrote (l.putGroup c n w res) n w l.vt.vlmax fun k => match l.cls c k with
        | .active => some (res k)
        | .masked => if l.vt.mfill then some (2 ^ w - 1) else none
        | .tail => if l.vt.tfill then some (2 ^ w - 1) else none
        | .absent => none) ∧
    (l.vl ≠ 0 → l.vt.lmul * w < l.vt.sew → l.vt.tfill = true → ∀ b < 2048, l.vt.vlmax * w ≤ b →
      ((l.putGroup c n w res).vreg n).bits.getLsbD b = (decide (b < 32 * l.present) || (l.vreg n).bits.getLsbD b))

/-- R48, R70, R71, R181 to R187: a lane load whose elements are granted takes their bytes and stands outstanding, its registers pending; masked and tail elements are
    written at issue, and with no active element its count is given back. A byte of another package is asked for there (R266). Where R70 refuses an element, the group
    stops with the first cause that any element reaches, FLANES holding those with that cause; a first-fault load only where it refuses the first. A word outside its limits takes
    ILLEGAL_INSN, as one with capabilities of the lanes does whose group or VLMAX R71 does not admit. -/
def Obligations.LaneLoadsTakeTheirElements : Prop :=
  ∀ (s u : State) (v : View) (c : Ctl) (o : Ord) (d a b k p : BitVec 6) (q : Auth) (disp : BitVec 32) (ty : BitVec 4) (ks : List (LaneAcc × Nat)),
    let e := v.e
    let any := !ks.isEmpty
    let ids := v.l.actives c
    let bit := fun (l : List (LaneAcc × Nat)) => BitVec.ofNat 2048 ((l.map fun x => 2 ^ x.1.k).sum)
    let got := fun (x : LaneAcc × Nat) => RegWrite.v (d.toNat + x.1.k * e / 2048) (x.1.k * e % 2048) e (u.readNat x.2 (e / 8)) false
    let op := fun i ws => opOf s.nextId true ((laneUses i v.t).pending v.t) [] ws false
    let sent := u.wlLane v.slot ks fun x => .read x.1.acc.n
    ((∀ row ∈ [Instr.vld c o d q disp ty, .vlds c o d b k disp ty, .vldx c o d a q ty, .vldp c o d a disp ty].zip (v.modes false q b k a disp),
        s.LaneReady row.1 v → LaneRefused s v row.1 (ids.map row.2)) ∧
     (∀ at0 : Nat → LaneAcc, s.LaneReady (.vldff c o d p q disp ty) v → (v.modes false q b k a disp)[0]? = some at0 →
        LaneRefused s v (.vldff c o d p q disp ty) ((ids.map at0).take 1)) ∧
     (s.LaneReady (.vldc c o d a q) v → LaneRefused s v (.vldc c o d a q)
        (ids.map fun j => .plain j (.load (v.auth q j) ((v.auth q j).cursor + BitVec.ofNat 64 (v.a a e j)).toNat 16))) ∧
     (∀ i ∈ [Instr.vld c o d q disp ty, .vlds c o d b k disp ty, .vldx c o d a q ty, .vldp c o d a disp ty, .vldff c o d p q disp ty, .vldc c o d a q], LaneUnlawful s i) ∧
     (q.perLane = true → q.k.toNat % 4 ≠ 0 ∨ v.g.vbud < q.k.toNat + 4 ∨ 64 < v.t.vlmax →
        ∀ i ∈ [Instr.vld c o d q disp ty, .vldx c o d a q ty, .vldff c o d p q disp ty, .vldc c o d a q], (laneUses i v.t).legal v.t v.g.vbud v.g.sbud = false)) ∧
    (∀ row ∈ [Instr.vld c o d q disp ty, .vlds c o d b k disp ty, .vldx c o d a q ty, .vldp c o d a disp ty].zip (v.modes false q b k a disp),
      s.LaneReady row.1 v → s.LaneGranted v (ids.map row.2) ks u →
      LaneSent s sent v (exec row.1 s) (op row.1 (ks.map got)) any (v.l.putInactive c d.toNat e)) ∧
    (∀ (n : Nat) (at0 : Nat → LaneAcc), let i := Instr.vldff c o d p q disp ty
      s.LaneReady i v → (v.modes false q b k a disp)[0]? = some at0 → (0 < n ∨ ids = []) →
      (∀ x ∈ (ids.map at0).take n, ∃ r, s.laneReach (s.whoGroup v.slot) x = .ok r) →
      (∀ x, (ids.map at0)[n]? = some x → ∃ err, s.laneReach (s.whoGroup v.slot) x = .error err) →
      s.LaneGranted v ((ids.map at0).take n) ks u →
      LaneSent s sent v (exec i s) (op i (RegWrite.p p.toNat (BitVec.ofNat 2048 ((ids.map fun j => 2 ^ j).sum)) (bit ks) :: ks.map got)) any
        ((ids.drop n).foldl (fun l j => if v.t.mfill then l.setElem d.toNat e j (2 ^ e - 1) else l)
          ((v.l.putInactive c d.toNat e).putPredInactive c p.toNat))) ∧
    (let i := Instr.vldc c o d a q
      let cap := fun (x : LaneAcc × Nat) => { u.readCap x.2 with
        tag := u.keyTag x.2 && x.1.acc.cap.has Perm.loadCap && !(s.colourMask v.g.ctx).getLsbD (u.readCap x.2).colour.toNat }
      s.LaneReady i v → s.LaneGranted v (ids.map fun j => .plain j (.load (v.auth q j) ((v.auth q j).cursor + BitVec.ofNat 64 (v.a a e j)).toNat 16)) ks u →
      LaneSent s sent v (exec i s)
        (op i (ks.map fun x => RegWrite.v (d.toNat + x.1.k / 16) (x.1.k % 16 * 128) 128 (cap x).toBits.toNat (cap x).tag)) any (v.l.putCapsInactive c d.toNat))

/-- R69, R71, R181 to R183, R185 to R187: a lane store whose elements are granted writes them in ascending order, so that the highest element of a byte decides it, and
    stands outstanding, counted in st; the writes to a page that is being moved wait with it (R264), and another package gets a request (R266). A release waits until
    every earlier access of its group is over. Where R70 refuses an element, no element takes effect: the group stops with the first cause that any element reaches, FLANES
    holding those with that cause. A word outside its limits, those of R71 among them, takes ILLEGAL_INSN. -/
def Obligations.LaneStoresWriteTheirElements : Prop :=
  ∀ (s u t : State) (g : Group) (v : View) (c : Ctl) (o : Ord) (d a b k : BitVec 6) (q : Auth) (disp : BitVec 32) (ty : BitVec 4) (ks : List (LaneAcc × Nat)),
    let e := v.e
    let any := !ks.isEmpty
    let ids := v.l.actives c
    let op := fun (left : List Stall) => { opOf s.nextId false [] [] [] false with stores := left }
    let words := [Instr.vst c o d q disp ty, .vsts c o d b k disp ty, .vstx c o d a q ty, .vstp c o d a disp ty]
    ((∀ row ∈ words.zip (v.modes true q b k a disp), s.LaneReady row.1 v → LaneRefused s v row.1 (ids.map row.2)) ∧
     (s.LaneReady (.vstc c o d a q) v → LaneRefused s v (.vstc c o d a q) (ids.map fun j =>
        let x := ((v.auth q j).cursor + BitVec.ofNat 64 (v.a a e j)).toNat
        ⟨j, .store (v.auth q j) x 16, none, s.capShort (s.whoGroup v.slot) (v.l.capElem d.toNat j) (v.auth q j) x⟩)) ∧
     (∀ (qc auth : Cap) (x : Nat) (w : Who), s.capShort w qc auth x = true ↔ qc.tag = true ∧ w.mask.getLsbD qc.colour.toNat = false ∧
        (auth.has Perm.storeCap = false ∨ (qc.has Perm.global = false ∧ ¬(auth.has Perm.window = true ∧ s.inTeamPad w.team (Config.windowKey + x) = true)))) ∧
     (∀ i ∈ Instr.vstc c o d a q :: words, LaneUnlawful s i) ∧
     (q.perLane = true → q.k.toNat % 4 ≠ 0 ∨ v.g.vbud < q.k.toNat + 4 ∨ 64 < v.t.vlmax →
        ∀ i ∈ [Instr.vst c o d q disp ty, .vstx c o d a q ty, .vstc c o d a q], (laneUses i v.t).legal v.t v.g.vbud v.g.sbud = false)) ∧
    (t.group v.slot = some g →
    (∀ row ∈ words.zip (v.modes true q b k a disp),
      s.LaneReady row.1 v → s.LaneGranted v (ids.map row.2) ks u →
      (o.on = true → v.g.hart.pend ≠ [] → exec row.1 s = .next s ∨ exec row.1 s = .next u) ∧
      (∀ left, (o.on = true → v.g.hart.pend = []) → let bs := fun (x : LaneAcc × Nat) => leBytes (e / 8) (v.a d e x.1.k)
        (u.wlLane v.slot ks fun x => .write (bs x) []).performAll (ks.map fun x => ⟨x.2, .put (bs x)⟩) = (t, left) →
        LaneSent s t v (exec row.1 s) (op left) any g.lane)) ∧
    (∀ left, let i := Instr.vstc c o d a q
      let cp := fun (x : LaneAcc × Nat) => v.l.capElem d.toNat x.1.k
      let live := fun (x : LaneAcc × Nat) => (cp x).tag && !(s.colourMask v.g.ctx).getLsbD (cp x).colour.toNat
      let at5 := fun j => ((v.auth q j).cursor + BitVec.ofNat 64 (v.a a e j)).toNat
      s.LaneReady i v → s.LaneGranted v (ids.map fun j => ⟨j, .store (v.auth q j) (at5 j) 16, none, s.capShort (s.whoGroup v.slot) (v.l.capElem d.toNat j) (v.auth q j) (at5 j)⟩) ks u →
      (o.on = true → v.g.hart.pend = []) →
      (u.wlLane v.slot ks fun x => .write (cp x).bytes [live x]).performAll (ks.map fun x => ⟨x.2, .cap (cp x) (live x)⟩) = (t, left) →
      LaneSent s t v (exec i s) (op left) any g.lane))

/-- R187, R230 to R232, R240, R243: `vatom`, `vatom32` and `vlrc` whose elements are granted stand outstanding with their requests, gathered by address and by line in
    element order; without a return they leave the registers and count in st. Of the elements of one address, another package is asked for their sum alone, or for each of
    their exchanges (R125, R266). Where R70 refuses an element, the group stops with the first cause that any element reaches, FLANES holding those with that cause; a word
    outside its limits, those of R71 among them, takes ILLEGAL_INSN. -/
def Obligations.LaneAtomicsAndRoutinesIssueTheirRequests : Prop :=
  ∀ (s u : State) (v : View) (c : Ctl) (scope : BitVec 3) (aop : BitVec 5) (d a b e : BitVec 6) (q : Auth) (nr : Bool) (ks : List (LaneAcc × Nat)),
    let w := v.e
    let any := !ks.isEmpty
    let ids := v.l.actives c
    let addr := fun j => ((v.auth q j).cursor + BitVec.ofNat 64 (v.a a w j)).toNat
    let acc := fun n => ids.map fun j => LaneAcc.plain j (.atomic (v.auth q j) (addr j) n)
    let op := fun i ld atoms lines fp stop => { opOf s.nextId ld ((laneUses i v.t).pending v.t) atoms [] fp with lines := lines, stop := stop }
    let sent := fun (rs : List AtomReq) => rs.foldl (fun t r =>
      let asked := if r.op ∈ [8, 9, 10, 11] then r.elems.map fun x => RemoteKind.atomic (BitVec.ofNat 5 r.op) (BitVec.ofNat 64 x.v) (BitVec.ofNat 64 x.u) (!nr) 0
        else (aggregate r.op r.elems).1.toList.map fun y => .atomic (BitVec.ofNat 5 r.op) (BitVec.ofNat 64 y) 0 (!nr) (aggregate r.op r.elems).2.2
      asked.foldl (fun t m => t.wlSend (u.whoGroup v.slot) t.nextId r.key m) t) u
    let line := ids.map fun j => LaneAcc.plain j ⟨v.auth q j, [Perm.lineRoutine], addr j, 128, 128, Need.line, true, true⟩
    let bytes := if aop.toNat ∈ [1, 3, 5, 7, 9, 11, 14, 15, 18, 19, 21] then 8 else 4
    ((s.LaneReady (.vatom c scope aop d a b e q nr) v → LaneRefused s v (.vatom c scope aop d a b e q nr) (acc bytes)) ∧
     (s.LaneReady (.vatom32 c scope aop d a b q nr) v → LaneRefused s v (.vatom32 c scope aop d a b q nr) (acc 32)) ∧
     (∀ (n : BitVec 6) (stop : Bool), s.LaneReady (.vlrc c d a b e q n stop) v → LaneRefused s v (.vlrc c d a b e q n stop) line) ∧
     (∀ (n : BitVec 6) (stop : Bool), ∀ i ∈ [Instr.vatom c scope aop d a b e q nr, .vatom32 c scope aop d a b q nr, .vlrc c d a b e q n stop], LaneUnlawful s i ∧
        (q.perLane = true → q.k.toNat % 4 ≠ 0 ∨ v.g.vbud < q.k.toNat + 4 ∨ 64 < v.t.vlmax → (laneUses i v.t).legal v.t v.g.vbud v.g.sbud = false))) ∧
    (let i := Instr.vatom c scope aop d a b e q nr;
      s.LaneReady i v → s.LaneGranted v (acc bytes) ks u → ∃ rs, GatheredAtoms aop.toNat (ks.map fun x =>
          (x.1.acc.x, x.2, ⟨v.a b w x.1.k, v.a e w x.1.k, if nr then .none else .v (d.toNat + x.1.k * w / 2048) (x.1.k * w % 2048) w⟩)) rs ∧
        LaneSent s (sent rs) v (exec i s) (op i (!nr) rs [] (decide (20 ≤ aop.toNat) && !nr) false) any (if nr then v.l else v.l.putInactive c d.toNat w)) ∧
    (∀ row ∈ [(0, 0x14, 4), (1, 0x15, 8), (2, 24, 2), (3, 25, 2), (4, 0x00, 4), (5, 0x01, 8)], aop.toNat = row.1 →
      let i := Instr.vatom32 c scope aop d a b q nr
      let n := row.2.2
      s.LaneReady i v → s.LaneGranted v (acc 32) ks u → ∃ rs, GatheredAtoms row.2.1 (ks.flatMap fun x => (List.range (32 / n)).map fun j =>
          (x.1.acc.x + j * n, x.2 + j * n, ⟨(v.l.vreg (b.toNat + x.1.k / 8)).read (x.1.k % 8 * 256 + 8 * n * j) (8 * n), 0,
            if nr then .none else .v (d.toNat + x.1.k / 8) (x.1.k % 8 * 256 + 8 * n * j) (8 * n)⟩)) rs ∧
        LaneSent s (sent rs) v (exec i s) (op i (!nr) rs [] (decide (row.1 < 4) && !nr) false) any (if nr then v.l else v.l.putPackedInactive c d.toNat)) ∧
    (∀ (n : BitVec 6) (stop : Bool), let i := Instr.vlrc c d a b e q n stop
      s.LaneReady i v → s.LaneGranted v line ks u →
      ∃ rs, GatheredLines n.toNat (ks.map fun x => (x.2, ⟨x.1.k, BitVec.ofNat 64 x.1.acc.x, BitVec.ofNat 64 (v.a b 64 x.1.k), BitVec.ofNat 64 (v.a e 64 x.1.k),
          .v (d.toNat + x.1.k / 32) (x.1.k % 32 * 64) 64, .v (d.toNat + v.t.lmul + x.1.k / 32) (x.1.k % 32 * 64) 64⟩)) rs ∧
        LaneSent s (ks.foldl (fun t x => t.wlSend (t.whoGroup v.slot) t.nextId x.2 (.routine n (BitVec.ofNat 64 (v.a b 64 x.1.k)) (BitVec.ofNat 64 (v.a e 64 x.1.k)))) u)
          v (exec i s) (op i true [] rs false stop) any ((v.l.putInactive c d.toNat 64).putInactive c (d.toNat + v.t.lmul) 64))

/-- R49, R154, R188: `vbasket` deposits its active elements in ascending order at the end of their bins and makes its group Exiting; every bin that fills is launched whole,
    oldest first. A deposit into a full Basket first moves the oldest bin to its spill area, and stops the group with CAP_BOUNDS where that has no room. `bflush` launches what a bin holds; a bin without a deposit for 10 µs is launched by an event, and spilled entries return by one, each to its
    place in the order of deposits, which may fill its bin.
    What a spill waits for, and which bin is the oldest, are the model's choices (log entries 33, 40 and 54). -/
def Obligations.BasketEntriesKeepTheirOrder : Prop :=
  (∀ (s : State) (v : View) (c : Ctl) (a b : BitVec 6), s.LaneReady (.vbasket c a b) v → v.g.hart.performed = true →
    let cl := slotCluster v.slot
    let bk := (s.cluster cl).basket
    let es := (v.l.actives c).map fun j => (⟨v.g.ctx, BitVec.ofNat 16 (v.a a 32 j), BitVec.ofNat 256 ((v.l.vreg (b.toNat + j / 8)).read (j % 8 * 256) 256), s.nextId + j⟩ : BasketEntry)
    cl < 192 → (∀ x ∈ es, (s.binReg v.g.ctx x.key).isSome = true) → bk.entries.length + es.length ≤ 4096 →
    ((∀ x ∈ es, (bk.held v.g.ctx x.key ++ es.filter (·.key = x.key)).length < 16) → ∃ t g', exec (.vbasket c a b) s = .next t ∧ t.group v.slot = some g' ∧
      g'.life = .exiting ∧ g'.lane.queue = [] ∧ (t.cluster cl).basket.entries = bk.entries ++ es ∧ (t.cluster cl).basket.ready = bk.ready ∧
      (t.cluster cl).basket.spilled = bk.spilled) ∧
    (∀ x, es = [x] → (bk.held v.g.ctx x.key).length = 15 → ∃ t g', exec (.vbasket c a b) s = .next t ∧ t.group v.slot = some g' ∧ g'.life = .exiting ∧
      (t.cluster cl).basket.ready = bk.ready ++ [⟨v.g.ctx, x.key, (bk.held v.g.ctx x.key).map (·.pay) ++ [x.pay], s.time⟩] ∧
      (t.cluster cl).basket.entries = BasketEntry.others bk.entries v.g.ctx x.key ∧ (t.cluster cl).basket.spilled = bk.spilled) ∧
    ((∀ x ∈ es, (bk.held v.g.ctx x.key).length < 16) → ∃ t g' ls, exec (.vbasket c a b) s = .next t ∧ t.group v.slot = some g' ∧ g'.life = .exiting ∧ g'.lane.queue = [] ∧
      let bk' := (t.cluster cl).basket
      bk'.spilled = bk.spilled ∧ bk'.ready = bk.ready ++ ls ∧ (∀ x ∈ ls, x.pays.length = 16 ∧ x.since = s.time) ∧ bk'.entries.Sublist (bk.entries ++ es) ∧
      (∀ x ∈ es, (bk'.held v.g.ctx x.key).length < 16) ∧
      ∀ ctx key, (ls.filter fun x => x.ctx == ctx && x.key == key).flatMap (·.pays) ++ (bk'.held ctx key).map (·.pay) =
        (bk.held ctx key).map (·.pay) ++ (es.filter fun x => x.ctx == ctx && x.key == key).map (·.pay))) ∧
  (∀ (s : State) (v : View) (c : Ctl) (a b : BitVec 6) (j : Nat) (e0 : BasketEntry), s.LaneReady (.vbasket c a b) v → v.g.hart.performed = true → v.l.actives c = [j] →
    let cl := slotCluster v.slot
    let bk := (s.cluster cl).basket
    let x : BasketEntry := ⟨v.g.ctx, BitVec.ofNat 16 (v.a a 32 j), BitVec.ofNat 256 ((v.l.vreg (b.toNat + j / 8)).read (j % 8 * 256) 256), s.nextId + j⟩
    let s0 := { s with nextId := s.nextId + 64 }
    cl < 192 → (s.binReg v.g.ctx x.key).isSome = true → bk.entries.length = 4096 → bk.entries.head? = some e0 →
    ((bk.held e0.ctx e0.key).foldlM (fun w y => w.spillOne cl y) s0 = none →
      exec (.vbasket c a b) s = .next (s0.raiseLane v Cause.capBounds v.run.addr (BitVec.ofNat 2048 (2 ^ j)))) ∧
    (∀ w, (bk.held e0.ctx e0.key).foldlM (fun w y => w.spillOne cl y) s0 = some w → ((w.cluster cl).basket.held v.g.ctx x.key).length < 15 →
      ∃ t g', exec (.vbasket c a b) s = .next t ∧ t.group v.slot = some g' ∧ g'.life = .exiting ∧
        (t.cluster cl).basket.entries = (w.cluster cl).basket.entries ++ [x] ∧ (t.cluster cl).basket.spilled = (w.cluster cl).basket.spilled ∧
        (t.cluster cl).basket.ready = (w.cluster cl).basket.ready)) ∧
  (∀ (bk b' : Basket) (ctx time : Nat) (key : BitVec 16), (∃ n, b' = Basket.flush time n bk ctx key ∧ n = (bk.bin ctx key).length) →
    b'.entries = BasketEntry.others bk.entries ctx key ∧ b'.spilled = bk.spilled ∧ b'.last = bk.last ∧
    ∃ ls, b'.ready = bk.ready ++ ls ∧ ls.flatMap (·.pays) = (bk.held ctx key).map (·.pay) ∧
      ∀ x ∈ ls, x.ctx = ctx ∧ x.key = key ∧ 0 < x.pays.length ∧ x.pays.length ≤ 16 ∧ x.since = time) ∧
  (∀ (s : State) (k : Nat) (g : Group) (a : BitVec 6), s.AsGroup k g → s.Ready [a] [] →
    let key : BitVec 16 := (s.x a).setWidth 16
    DidIn s (s.modCluster (slotCluster k) fun cl => { cl with basket := Basket.flush s.time (cl.basket.held g.ctx key).length cl.basket g.ctx key }) (exec (.bflush a) s) s.hart) ∧
  (∀ (s : State) (cl ctx : Nat) (key : BitVec 16), let due := mapGetD (s.cluster cl).basket.last (65536 * ctx + key.toNat) 0 + usTime 10
    (due ≤ s.time → exec (.basketBinTimeout cl ctx key) s =
      .next (s.modCluster cl fun cl => { cl with basket := Basket.flush s.time (cl.basket.held ctx key).length cl.basket ctx key })) ∧
    (s.time < due → exec (.basketBinTimeout cl ctx key) s = .next s)) ∧
  (∀ (s : State) (cl first : Nat) (e : BasketEntry) (c : Cap), cl < 192 → s.spillCap e.ctx e.key = some (first, c) →
    ((∀ i < spillRoom c, i ∈ s.spillTaken e.ctx first) → s.spillOne cl e = none) ∧
    (∀ segs ts, s.spillTaken e.ctx first = [] → 0 < spillRoom c → s.spillAt cl e.ctx c 0 true = some (segs, ts) → ∃ t, s.spillOne cl e = some t ∧
      (t.cluster cl).basket.entries = (s.cluster cl).basket.entries.filter (fun x => x.num != e.num) ∧
      (t.cluster cl).basket.spilled = (s.cluster cl).basket.spilled ++ [⟨e.ctx, e.key, 0, e.num⟩] ∧
      ∀ z, segs = [z] → z.len = 64 → s.Canonical → s.writeWaits z.lo 64 = false → (∀ w ∈ s.stalled, w.meets z.lo 64 = false) → z.lo + 64 ≤ Config.remoteKey →
        (∀ j < 64, tagByte (z.lo + j) = none ∧ s.regOf (z.lo + j) = none ∧ worldByte (z.lo + j) = none) → t.readKeys z.lo 64 = e.bytes)) ∧
  (∀ (s : State) (cl ctx : Nat) (e : SpillEntry) (pre post : List SpillEntry) (l r : List BasketEntry) (c : Nat × Cap) (segs : List Seg) (ts : List TlbEntry),
    cl < 192 → let bk := (s.cluster cl).basket
    bk.spilled = pre ++ e :: post → (∀ x ∈ pre, x.ctx ≠ ctx) → e.ctx = ctx → bk.entries.length < 4096 → bk.entries = l ++ r → (∀ x ∈ l, x.num < e.num) → (∀ x ∈ r, e.num < x.num) →
    s.spillCap ctx e.key = some c → s.spillAt cl ctx c.2 e.place false = some (segs, ts) →
    let back : BasketEntry := ⟨ctx, e.key, BitVec.ofNat 256 (leNat ((s.readSegs segs).take 32)), e.num⟩
    ∃ t, exec (.basketSpillReturn cl ctx) s = .next t ∧ (t.cluster cl).basket.spilled = pre ++ post ∧
      ((bk.held ctx e.key).length < 15 → (t.cluster cl).basket.entries = l ++ back :: r ∧ (t.cluster cl).basket.ready = bk.ready) ∧
      ((bk.held ctx e.key).length = 15 → (t.cluster cl).basket.entries = BasketEntry.others bk.entries ctx e.key ∧
        (t.cluster cl).basket.ready = bk.ready ++ [⟨ctx, e.key, ((l ++ back :: r).filter fun x => x.ctx == ctx && x.key == e.key).map (·.pay), s.time⟩]))

/-! ### Line routines, and how operations complete -/

/-- R95, R238, R240 to R242: a routine word writes its register, noting the line granules that it writes, skips forward or ends the invocation, and touches
    nothing else. `lrinst` with a clean descriptor writes the routine to the context's directory, where that can be written, discards the old one at every slice
    and answers 0; with reserved bits set it answers 1 and does nothing. It waits while the directory's page is being moved (R264). -/
def Obligations.RoutinesAreInstalledAndRun : Prop :=
  (∀ (s : State) (d a b n : BitVec 5) (imm : BitVec 16) (pos len : BitVec 6),
     let r := s.rt
     let reg := fun (i : BitVec 5) => vgetD r.regs i.toNat 0
     let wrote := fun y fl => (.next { s with rt := r.wrote d y fl } : Res)
     (∀ row ∈ routineWords, exec (row.1 d a b) s = wrote (row.2 (reg a) (reg b) (reg d)) 0) ∧
     (∀ row ∈ routineFloatWords, let y := row.2.2 ((reg a).toNat % 2 ^ row.2.1) ((reg b).toNat % 2 ^ row.2.1)
       exec (row.1 d a b) s = wrote (BitVec.ofNat 64 y.1) y.2) ∧
     exec (.routineAddi d a imm) s = wrote (BitVec.ofInt 64 ((reg a).toInt + imm.toInt)) 0 ∧
     exec (.routineLi d imm) s = wrote (BitVec.ofInt 64 imm.toInt) 0 ∧
     exec (.routineExt d a pos len) s = wrote (BitVec.ofNat 64 ((reg a).toNat / 2 ^ pos.toNat % 2 ^ (len.toNat + 1))) 0 ∧
     (∃ y : Word, exec (.routineIns d a pos len) s = wrote y 0 ∧ ∀ i < 64, y.getLsbD i =
       if pos.toNat ≤ i ∧ i < pos.toNat + len.toNat + 1 then (reg a).getLsbD (i - pos.toNat) else (reg d).getLsbD i) ∧
     (∀ row ∈ routineSkips, exec (row.1 a b n) s = .next { s with rt := { r with word := r.word + 1 + if row.2 (reg a) (reg b) then n.toNat else 0 } }) ∧
     exec .routineRet s = .next { s with rt := { r with fin := .ret } } ∧ exec .routineRetTc s = .next { s with rt := { r with fin := .retTc } } ∧
     exec .routineFail s = .next { s with rt := { r with fin := .fail } }) ∧
  (∀ (s : State) (k : Nat) (g : Group) (d b : BitVec 6) (a : BitVec 5), s.AsGroup k g → s.Ready [d, b] [a] →
     let x := (s.x b).toNat
     let n := x % 64
     let len := x / 256 % 32 + 1
     (x / 2 ^ 13 ≠ 0 ∨ x / 64 % 4 ≠ 0 → Did s (exec (.lrinst d a b) s) (s.hart.setX d 1)) ∧
     (∀ segs ts, x / 2 ^ 13 = 0 → x / 64 % 4 = 0 → s.resolve s.who (s.c a) [Perm.load] Need.read (s.c a).cursor.toNat (4 * len) 4 = .ok (segs, ts) →
       s.released = true → (∀ z ∈ segs, s.locked s.who true false z.lo z.len = false) → s.segsSpoilt segs = false → s.wlRoomFor (segs.map (·.lo)) = true →
       ((s.c a).has Perm.window = true ∨ s.watch (slotCluster k) g.ctx true false (s.c a).cursor.toNat (4 * len) = none) →
       (∀ out, s.dirEntry g.ctx n Perm.store Need.write = some out → ∀ z ∈ out, s.moving z.lo z.len = false) →
       let u := (s.fill s.curCluster ts).wlReadNow s.who segs
       let code := s.readSegs segs
       let image := code ++ List.replicate (128 - code.length) 0 ++ leBytes 8 (2 ^ 63 + (len - 1)) ++ List.replicate 120 0
       let t := match u.dirEntry g.ctx n Perm.store Need.write with | some out => u.writeSegs out image | none => u
       DidIn s (t.dropRoutines g.ctx (some n)) (exec (.lrinst d a b) s) (s.hart.setX d 0) ∧
       ∀ p ∈ (t.dropRoutines g.ctx (some n)).tables, ∀ e ∈ p.2, e.ctx = g.ctx → e.n ≠ n))

/-- R48, R123 to R125, R224 to R228, R231, R239 to R243: an operation's requests are performed by events of their own. An atomic stores what its table gives from the value
    it finds: of several elements at one address the exchanges one after another, the others by their sum, each with its own result and with the flags of the sum and of the
    stored value alone. The invocations of one line run in their order, each on the line as the one before left it. Once none is left, nor a write that waits for a page being moved (R264), the operation returns, its writes and flags landing and its count given back; an
    invocation commits its written granules. -/
def Obligations.OperationsCompleteByEvents : Prop :=
  ∀ (s : State) (t : Thread) (id : Nat) (p : Pending), (s.hartOf t).op id = some p →
    let h := s.hartOf t
    (p.ld = true → p.atoms = [] → p.lines = [] → p.stores = [] → p.stop = false → ∃ u, exec (.loadReturn t id) s = .next u ∧
      (u.hartOf t).pend = h.pend.filter (fun q => q.id != id) ∧ (u.hartOf t).ld = h.ld - 1 ∧ (u.hartOf t).st = h.st ∧ (u.hartOf t).pc = h.pc ∧
      (∀ n : BitVec 6, n ≠ 0 → (∀ w ∈ p.writes, ∀ m x, w = .s m x → m < 64) → (u.hartOf t).x n = lastWrite n.toNat p.writes (h.x n)) ∧
      (∀ k g, t = .group k → s.group k = some g → ∃ g', u.group k = some g' ∧ g'.life = g.life ∧ g'.lane.fpstat = g.lane.fpstat ||| p.flags) ∧
      u.mem = s.mem ∧ u.tags = s.tags) ∧
    (p.ld = false → p.atoms = [] → p.lines = [] → p.stores = [] → p.stop = false → p.writes = [] → ∃ u, exec (.storeAccept t id) s = .next u ∧
      (u.hartOf t).pend = h.pend.filter (fun q => q.id != id) ∧ (u.hartOf t).st = h.st - 1 ∧ (u.hartOf t).ld = h.ld ∧ (u.hartOf t).s = h.s ∧
      (u.hartOf t).c = h.c ∧ u.mem = s.mem ∧ u.tags = s.tags) ∧
    (∀ n r, p.atoms[n]? = some r → s.migrating r.key = true ∨ s.spoilt r.key (atomSize r.op) = true → exec (.atomicPerform t id n) s = .next s) ∧
    (∀ n r, p.atoms[n]? = some r → s.migrating r.key = false → s.spoilt r.key 8 = false → s.Canonical →
      let plain := fun size => r.key + size ≤ Config.remoteKey ∧ (∀ i < size, tagByte (r.key + i) = none ∧ s.regOf (r.key + i) = none ∧ worldByte (r.key + i) = none) ∧
        ∀ e ∈ r.elems, e.v < 2 ^ (8 * size) ∧ e.u < 2 ^ (8 * size)
      ∃ u q, exec (.atomicPerform t id n) s = .next u ∧ (u.hartOf t).op id = some q ∧ q.atoms = dropAt p.atoms n ∧ q.lines = p.lines ∧
        (∀ row ∈ atomicWords, r.op = row.1 → 8 ≤ row.1 → row.1 ≤ 11 → plain row.2.1 →
          let w := 8 * row.2.1
          let old := BitVec.ofNat w (s.readNat r.key row.2.1)
          let run := r.elems.foldl (fun (acc : BitVec w × List RegWrite) e =>
            ((row.2.2 w acc.1 (BitVec.ofNat w e.v) (BitVec.ofNat w e.u)).getD acc.1, acc.2 ++ e.dst.landed acc.1.toNat)) (old, [])
          u.readNat r.key row.2.1 = run.1.toNat ∧ q.writes = p.writes ++ run.2 ∧ q.flags = p.flags) ∧
        (∀ row ∈ mergedWords, r.op = row.1 → plain row.2.1 → ∀ e es, r.elems = e :: es →
          let old := s.readNat r.key row.2.1
          let sum := fun i => foldFlags row.2.2 (e.v, 0) ((es.take i).map (·.v))
          let stored := row.2.2 old (sum es.length).1
          let fl := (sum es.length).2 ||| stored.2
          u.readNat r.key row.2.1 = stored.1 ∧
          q.writes = p.writes ++ e.dst.landed old ++ es.zipIdx.flatMap (fun y => y.1.dst.landed (row.2.2 old (sum y.2).1).1) ∧
          (p.ld = true → q.flags = p.flags ||| fl) ∧
          (p.ld = false → q.flags = p.flags ∧ (r.key < Config.windowKey → let i := homeSlice r.key * 4096 + s.ctxOf t
            mapGetD u.sliceFlags i 0 = mapGetD s.sliceFlags i 0 ||| fl)))) ∧
    (∀ n r, p.lines[n]? = some r → s.migrating r.key = true ∨ s.spoilt r.key 128 = true → exec (.lineRoutineInvocation t id n) s = .next s) ∧
    (∀ n r, p.lines[n]? = some r → s.migrating r.key = false → s.spoilt r.key 128 = false →
      ∃ u q, exec (.lineRoutineInvocation t id n) s = .next u ∧ (u.hartOf t).op id = some q ∧ q.lines = dropAt p.lines n ∧ q.atoms = p.atoms ∧
        (r.key < Config.remoteKey → s.lookupRoutine (homeSlice r.key) (s.ctxOf t) r.n = none →
          u.mem = s.mem ∧ u.tags = s.tags ∧ q.writes = p.writes ++ r.elems.flatMap fun e => (e.done 0 0x2C).1) ∧
        (∀ entry s1, s.lookupRoutine (homeSlice r.key) (s.ctxOf t) r.n = some (entry, s1) → entry.legal = true → s.Canonical → r.key % 128 = 0 →
          r.key + 128 ≤ Config.remoteKey → (∀ i < 128, tagByte (r.key + i) = none ∧ s.regOf (r.key + i) = none ∧ worldByte (r.key + i) = none) →
          let z := r.elems.foldl (fun (acc : LineImage × List RegWrite) e =>
            let o := acc.1.invoke entry.words e
            (o.1, acc.2 ++ e.dq.landed o.2.1.toNat ++ e.dst.landed o.2.2)) (s.lineImage r.key, [])
          q.writes = p.writes ++ z.2 ∧ (∀ i < 16, u.readNat (r.key + 8 * i) 8 = (vgetD z.1.words i 0).toNat) ∧ ∀ i < 8, u.keyTag (r.key + 16 * i) = vgetD z.1.tagged i false) ∧
        (∀ entry s1 e, r.key < Config.remoteKey → s.lookupRoutine (homeSlice r.key) (s.ctxOf t) r.n = some (entry, s1) → entry.legal = true → r.elems = [e] →
          let o := Routine.run entry.words 32 (s1.startRoutine r.key e.o0 e.o1)
          (o.fin = .fail → u.mem = s.mem ∧ u.tags = s.tags ∧ q.writes = p.writes ++ (e.done (vgetD o.regs 26 0).toNat 0x28).1) ∧
          (o.fin = .ret → (∃ g < 8, o.written.getLsbD g = true ∧ s.keyTag (r.key + 16 * g) = true) →
            u.mem = s.mem ∧ u.tags = s.tags ∧ q.writes = p.writes ++ (e.done (vgetD o.regs 26 0).toNat 0x2A).1) ∧
          (o.fin = .retTc ∨ o.fin = .ret ∧ (∀ g < 8, o.written.getLsbD g = true → s.keyTag (r.key + 16 * g) = false) →
            q.writes = p.writes ++ (e.done (vgetD o.regs 26 0).toNat 0).1 ∧
            (s.Canonical → r.key % 128 = 0 → r.key + 128 ≤ Config.remoteKey → (∀ i < 128, tagByte (r.key + i) = none ∧ s.regOf (r.key + i) = none ∧ worldByte (r.key + i) = none) →
              ∀ i < 16, u.readNat (r.key + 8 * i) 8 = if o.written.getLsbD (i / 2) then (vgetD o.regs i 0).toNat else s.readNat (r.key + 8 * i) 8))))

/-! ### Service cores -/

/-- R7, R56, R61, R75, R160, R264, R339, R352 to R354, R356, R379: a privileged word takes PRIV_INSN in a group; in a service core it has its effect, on the group
    that a current handle names (bits [63:32] and [15] of a handle are not listed, and ignored), and sets the stale bit for a handle or a group that it does not act
    on. A save asked for begins at once unless a deferral holds. The events of the service registers come after.
    The registers that a service core has of its own are the model's reading (log entry 14). -/
def Obligations.PrivilegedWordsActInServiceCores : Prop :=
  (∀ (s : State) (k : Nat) (a : BitVec 6), s.cur = .group k →
    ∀ i ∈ [Instr.sret, .gresume a, .gend a, .gsave a, .tlbinv a, .tlbinvall, .revbcast a, .idle], exec i s = .next (s.raiseHere Cause.privInsn)) ∧
  (∀ (s : State) (c : Nat), s.AsService c →
    let v := (s.cluster c).svc
    let on := fun f => s.modCluster c fun cl => { cl with svc := f cl.svc }
    (v.inHandler = true → exec .sret s = .next { on fun v => { v with inHandler := false, hart := { v.hart with pc := v.sepc } } with free := s.free + 1 }) ∧
    (v.inHandler = false → exec .sret s = .next (s.raiseHere Cause.illegalInsn)) ∧
    (v.events ≠ [] ∨ v.stimer ≠ 0 ∧ v.stimer.toNat ≤ s.cycle.toNat → Did s (exec .idle s) s.hart) ∧
    (v.events = [] → v.stimer = 0 ∨ s.cycle.toNat < v.stimer.toNat → exec .idle s = .next s) ∧
    DidIn s (s.modCluster c fun cl => { cl with tlb := [] }) (exec .tlbinvall s) s.hart ∧
    ∀ a : BitVec 6, s.Ready [a] [] →
      DidIn s (s.modCluster c fun cl => { cl with tlb := cl.tlb.filter fun t =>
        !(t.ctx == (s.x a).toNat % 65536 && t.page == (s.x a).toNat / 65536 % 2 ^ 40 * 65536 / 2 ^ t.size) }) (exec (.tlbinv a) s) s.hart ∧
      (let r := (s.x a).toNat % 2 ^ 52 / 64 * 64
       let ctx := s.readNat r 8 % 65536
       let rel := (s.readNat r 8).testBit 16
       let colours := BitVec.ofNat 256 (s.readNat (r + 32) 32)
       (s.ctx ctx).isSome = true → ∃ t, exec (.revbcast a) s = .next t ∧ t.hart = { s.hart with pc := s.pc + 4 } ∧
         (t.cluster c).svc.revs = v.revs ++ [⟨ctx, rel, colours, BitVec.ofNat 64 r, if rel then [] else s.colourOps ctx colours, s.nextId⟩] ∧
         t.colourMask ctx = if rel then s.colourMask ctx else s.colourMask ctx ||| colours) ∧
      (let stale := fun i => DidIn s (on fun v => { v with stale := true }) (exec i s) s.hart
       ((∀ k g, s.group k = some g → slotCluster k = c → s.x a &&& 0xFFFF7FFF ≠ handleOf k g) → stale (.gresume a) ∧ stale (.gend a) ∧ stale (.gsave a)) ∧
       (∀ k g, s.group k = some g → slotCluster k = c → s.x a &&& 0xFFFF7FFF = handleOf k g →
         let r := s.trapRecord k
         let done := s.trapDone r
         let got := s.trapDelivered r ||| done % 2 ^ 32
         let any := (s.readNat r 8).testBit 8
         (g.life ≠ .stopped → g.life ≠ .trapped → stale (.gresume a) ∧ stale (.gend a)) ∧
         (g.life = .exiting ∨ (∀ tm, s.team g.team = some tm → tm.save.isSome = true) → stale (.gsave a)) ∧
         (s.released = false → g.life = .stopped ∨ g.life = .trapped → exec (.gresume a) s = .next s) ∧
         (s.released = true → g.life = .stopped →
           DidIn s ((s.modCluster c fun cl => { cl with dbg := { cl.dbg with stepctl := 0 } }).modGroup k fun g =>
             { g with life := .running, stepping := { g.stepping with mode := (s.cluster c).dbg.stepctl.toNat, pending := false, first := s.nextId } }) (exec (.gresume a) s) s.hart) ∧
         (g.life = .trapped → s.moving r 0x1000 = true → exec (.gresume a) s = .next s) ∧
         (s.released = true → g.life = .trapped → s.moving r 0x1000 = false → (s.cluster c).dbg.ctl.getLsbD 0 = false →
           ∃ t g', exec (.gresume a) s = .next t ∧ t.group k = some g' ∧ t.hart = { s.hart with pc := s.pc + 4 } ∧
             (g.owed = none → (g'.life = .running ↔ got = s.trapElems r ∨ any = true ∧ got ≠ 0)) ∧
             (∀ i < 32, let new := done.testBit i = true ∧ (s.trapDelivered r).testBit i = false
               g'.lane.elem 8 64 i = (if new then s.readNat (r + 0x680 + 16 * i) 8 else g.lane.elem 8 64 i) ∧
               g'.lane.elem 9 64 i = (if new then s.readNat (r + 0x688 + 16 * i) 8 else g.lane.elem 9 64 i)) ∧
             (any = true → got ≠ 0 → ∀ n, n = s.readNat r 8 / 2 ^ 9 % 128 → 0 < n → n < 96 → vgetD g'.lane.p n 0 = BitVec.ofNat 2048 got)) ∧
         (g.life = .stopped ∨ g.life = .trapped →
           ∃ t g', exec (.gend a) s = .next t ∧ t.group k = some g' ∧ g'.life = .exiting ∧ g'.lane.queue = [] ∧ g'.tokens = Vector.replicate 16 none ∧
             t.hart = { s.hart with pc := s.pc + 4 } ∧ (∀ j, j ≠ k → t.group j = s.group j) ∧
             (s.Canonical → (∀ i < 8, tagByte (r + i) = none ∧ worldByte (r + i) = none) → s.moving r 8 = false → (∀ z ∈ s.stalled, z.meets r 8 = false) →
               (t.readNat r 8).testBit 16 = false) ∧
             ((s.readNat r 8).testBit 16 = true → s.moving r 8 = true →
               (⟨r, .put (leBytes 8 (s.readNat r 8 - 2 ^ 16))⟩ : Stall) ∈ t.stalled)) ∧
         (g.life ≠ .exiting → ∀ tm, s.team g.team = some tm → tm.save = none → ∃ lim ≤ 10000000,
           (∀ p ∈ s.teamGroups g.team, lim ≤ p.2.preempt.toNat) ∧ (lim = 10000000 ∨ ∃ p ∈ s.teamGroups g.team, lim = p.2.preempt.toNat) ∧
           let q : SaveReq := ⟨v.ssavedst, s.time + nsTime lim, false, false, false, 0, 0⟩
           (s.deferred g.team tm = true → DidIn s (s.modTeam g.team fun t => { t with save := some q }) (exec (.gsave a) s) s.hart) ∧
           (s.Canonical → s.deferred g.team tm = false → ∃ t, exec (.gsave a) s = .next t ∧ t.hart = { s.hart with pc := s.pc + 4 } ∧ s.SaveBegun t g.team tm q ∧
             t.mem = s.mem ∧ t.tags = s.tags))))) ∧
  (∀ (s : State) (cl : Nat), cl < 192 →
    let v := (s.cluster cl).svc
    let on := fun f => s.modCluster cl fun c => { c with svc := f c.svc }
    (v.stimer ≠ 0 → v.timerTold = false → v.stimer.toNat ≤ s.cycle.toNat →
      exec (.stimerExpiry cl) s = .next (on fun v => ({ v with timerTold := true } : Service).tell ⟨11, 0, 0, s.cycle⟩)) ∧
    (∀ (d : BitVec 6) (e : Event) (rest : List Event), v.events = e :: rest →
      let h := v.hart.setX d (BitVec.ofNat 64 (e.kind.toNat + 256 * e.cause.toNat))
      exec (.sevtRead cl d) s = .next (on fun v => { v with events := rest ++ v.held.take 1, held := v.held.drop 1, sevtarg := e.arg, sevtgrp := e.grp, hart := h })) ∧
    (∀ d : BitVec 6, v.events = [] → exec (.sevtRead cl d) s = .next (on fun v => { v with hart := v.hart.setX d 0 })) ∧
    (∀ image, exec (.srestoreWrite cl image) s = .next (on fun v => { v with restores := v.restores ++ [image] })) ∧
    (∀ p rest, v.revs = p :: rest → (∀ i ∈ p.waits, s.outstanding i = false) → (p.release = false → s.colourCmds p.ctx p.colours = false) →
      (∀ j < 192, ∀ q ∈ (s.cluster j).svc.revs, q.ctx = p.ctx → p.id ≤ q.id) →
      ∃ t, exec (.revbcastComplete cl) s = .next t ∧ (t.cluster cl).svc.revs = rest ∧ Heard v (t.cluster cl).svc ⟨10, 0, 0, p.addr⟩ ∧
        (p.release = false → t.ctxs = s.ctxs ∧ t.groups = s.groups) ∧
        (p.release = true → ∀ x, s.ctx p.ctx = some x → (∃ x', t.ctx p.ctx = some x' ∧ x'.mask = x.mask &&& ~~~p.colours) ∧
          ∀ k g, s.group k = some g → g.ctx = p.ctx → ∃ g', t.group k = some g' ∧
            ∀ n : BitVec 5, g'.hart.cap n = { g.hart.cap n with tag := (g.hart.cap n).tag && !p.colours.getLsbD (g.hart.cap n).colour.toNat }))) ∧
  (∀ (s : State) (k : Nat) (g : Group) (d : BitVec 6), s.group k = some g →
    (g.hart.st ≠ 0 → exec (.atomflagsRead k d) s = .next s) ∧
    (g.hart.st = 0 → ∃ f : BitVec 5, exec (.atomflagsRead k d) s = .next (s.modGroup k fun g => { g with hart := g.hart.setX d (BitVec.ofNat 64 f.toNat) }) ∧
      ∀ i < 5, f.getLsbD i = true ↔ (∃ c, s.ctx g.ctx = some c ∧ c.flags.getLsbD i = true) ∨ ∃ p ∈ s.sliceFlags, p.1 % 4096 = g.ctx ∧ p.2.getLsbD i = true))

/-! ### Teams -/

/-- R50, R52, R263, R282, R390: an Exiting group with nothing outstanding retires and its slot is free; its continuation joins the queue's; the last of a team without
    an heir releases the team, zeroing what it held in a protected world, the register blocks of groups that retired before included, and takes one team from its grid, which completes with its last. Where the team has an heir,
    what the group held is kept for it.
    The order of the launches is the model's choice (log entry 33). -/
def Obligations.QuietExitingGroupsRetire : Prop :=
  ∀ (s : State) (k : Nat) (g : Group) (tm : Team), s.Canonical → s.group k = some g → s.team g.team = some tm →
    (g.life ≠ .exiting ∨ g.hart.ld ≠ 0 ∨ g.hart.st ≠ 0 ∨ g.hart.cp ≠ 0 ∨ g.hart.mx ≠ 0 ∨ g.hart.pend ≠ [] ∨ g.arrivals ≠ [] ∨ g.copies ≠ [] ∨
        s.issuingRun k = true → exec (.groupRetire k) s = .next s) ∧
    (g.life = .exiting → g.hart.ld = 0 → g.hart.st = 0 → g.hart.cp = 0 → g.hart.mx = 0 → g.hart.pend = [] → g.arrivals = [] → g.copies = [] →
      (s.cluster (slotCluster k)).mxOf k = [] → s.issuingRun k = false → 1 < tm.live ∨ tm.heir = none →
      ∃ t, exec (.groupRetire k) s = .next t ∧ t.group k = none ∧ (∀ j, j ≠ k → (t.group j).isSome = (s.group j).isSome) ∧ t.ctxs = s.ctxs ∧
        (g.cont = none → t.disp.conts = s.disp.conts) ∧
        (∀ b tg, g.cont = some (b, tg) →
          let q := Rec.queueNo ⟨b, tg⟩
          t.disp.conts = s.disp.conts ++ [⟨g.ctx, tm.cluster, q, (s.queue q).tail, b, tg⟩]) ∧
        (1 < tm.live → t.disp.grids = s.disp.grids ∧ t.team g.team = some { tm with live := tm.live - 1, held :=
          if tm.heir.isSome then tm.held ++ [⟨k, g.vbud, g.sbud, g.blocks⟩] else tm.held }) ∧
        (tm.live ≤ 1 → t.team g.team = none ∧
          (tm.grid = none → tm.world ≠ 0 → tm.world ≠ 255 → (∀ i < tm.ways * 0x8000, memGet t.mem (wayKey tm.cluster tm.way0 + i) = 0) ∧
            ∀ h ∈ tm.held, ∀ b ∈ h.blocks, ∀ i < 0x800, memGet t.mem (blockKey tm.cluster (slotCore h.slot) b + i) = 0) ∧
          ∀ n x, tm.grid = some n → mapGet s.disp.grids n = some x → Rising s.disp.grids →
            mapGet t.disp.grids n = if x.live ≤ 1 ∧ x.next = x.total then none else some { x with live := x.live - 1 }))

/-- R16, R30, R58, R59, R271 to R276: the next team of a grid that a queue is placing takes the place found for it: its ways are zero, its barriers new, and its
    group starts with the registers that its packet gives it; the lowest run of free ways and the emptiest core are taken. A team of a grid, of a bin or saved that
    has waited 10 µs asks for the save of the lowest in priority, and of those the latest placed, whose place it fits (R277); the save begins at once unless a
    deferral holds (R56).
    The lowest free run of registers is the model's choice (log entry 8). -/
def Obligations.TeamsTakeTheirPlace : Prop :=
  (∀ (s : State) (q k cl way core kk r : Nat) (pr : Option Nat) (g : Grid) (b : List Byte × List Bool), q < 256 → g.prio < 4 →
    (∀ p < 4, s.restoreOne p = none) → (∀ c < 192, (s.cluster c).basket.ready = []) → (∀ j < 256, j ≠ q → s.tryQueue j = none) →
    mapGet s.disp.heads q = some k → mapGet s.disp.grids k = some g → g.args = some b → descGroups g.drec = [r] →
    s.findSpot (s.gridTeam k g ⟨b.1, b.2⟩) g.pkt (match g.last with | some l => some l | none => s.disp.lastCluster) = some (cl, ⟨way, pr, [(0, core)]⟩) →
    s.freeSlot cl core = some kk →
    let d := g.drec
    let a := netArgs g.net ⟨b.1, b.2⟩
    let pc := BitVec.ofNat 64 ((d.cap 0).base + 4 * roleEntry d r)
    ∃ t tm g', exec .teamPlacement s = .next t ∧ t.team s.nextId = some tm ∧ t.group kk = some g' ∧ (∀ j, j ≠ kk → t.group j = s.group j) ∧
      tm.ctx = g.ctx ∧ tm.cluster = cl ∧ tm.way0 = way ∧ tm.ways = descWays d ∧ tm.pair = pr ∧ tm.nbar = descBars d ∧
      tm.barSlots = descBars d ∧ tm.pairHeld = pr ∧ tm.held = [] ∧ tm.bars = Vector.replicate 16 ⟨1, 0, 0, 0⟩ ∧ tm.slots = [kk] ∧ tm.live = 1 ∧ tm.index = g.next ∧ tm.grid = some k ∧ tm.heir = none ∧
      (∀ i < descWays d * 0x8000, memGet t.mem (wayKey cl way + i) = 0) ∧
      mapGet t.disp.grids k = some { g with args := some (a.bytes, a.tags), next := g.next + 1, live := g.live + 1, last := some cl, waited := s.time } ∧ t.disp.lastCluster = some cl ∧
      (g.next + 1 < g.pkt.teams → mapGet t.disp.heads q = some k) ∧
      g'.life = .running ∧ g'.team = s.nextId ∧ g'.ctx = g.ctx ∧ g'.role = r ∧ g'.index = 0 ∧ g'.vbud = roleV d r ∧ g'.sbud = roleS d r ∧
      g'.hart.pc = pc ∧ g'.hart.scode = { d.cap 0 with cursor := pc } ∧ g'.lcode = d.cap 1 ∧ g'.hart.x 1 = BitVec.ofNat 64 g.next ∧
      (∀ i < 8, g'.hart.x (sreg (2 + i)) = BitVec.ofNat 64 (a.nat (128 + 8 * i) 8)) ∧ (∀ i : BitVec 6, 10 ≤ i.toNat → g'.hart.x i = 0) ∧
      g'.hart.cap 0 = padCap (g.pkt.cap 0).colour cl way (descWays d) ∧ (∀ i < 7, g'.hart.cap (BitVec.ofNat 5 (1 + i)) = a.cap i) ∧
      g'.hart.cap 8 = d.cap 9 ∧ g'.hart.cap 9 = d.cap 10 ∧ (∀ i : BitVec 5, 10 ≤ i.toNat → g'.hart.cap i = .null) ∧
      (∀ i < 64, vgetD g'.lane.v i ⟨0, 0⟩ = ⟨0, 0⟩) ∧ vgetD g'.lane.p 0 0 = BitVec.allOnes 2048 ∧ (∀ i < 96, i ≠ 0 → vgetD g'.lane.p i 0 = 0) ∧
      g'.lane.vl = 64 ∧ g'.lane.vtype = 2 ∧ g'.lane.fpctl = 0 ∧ g'.lane.fpstat = 0 ∧ g'.lane.queue = []) ∧
  (∀ (teams : List (Nat × Team)) (split n w : Nat), 0 < n →
    let free := fun w => w + n ≤ split ∧ ∀ p ∈ teams, p.2.ways = 0 ∨ w + n ≤ p.2.way0 ∨ p.2.way0 + p.2.ways ≤ w
    (freeWays teams split n = some w ↔ free w ∧ ∀ i < w, ¬ free i)) ∧
  (∀ (loads : List (Nat × Nat × Nat)) (v x c : Nat), loads.length = 4 →
    let load := fun i => loads.getD i (32, 2048, 2048)
    let fits := fun i => (load i).1 < 32 ∧ (load i).2.1 + v ≤ 2048 ∧ (load i).2.2 + x ≤ 2048
    (pickCore loads [0, 1, 2, 3] v x = some c ↔ c < 4 ∧ fits c ∧
      ∀ i < 4, fits i → (load c).2.1 ≤ (load i).2.1 ∧ (i < c → (load c).2.1 < (load i).2.1))) ∧
  (∀ (s : State) (q k cl i : Nat) (g : Grid) (l : BinLaunch) (r : BinReg), mapGet s.disp.heads q = some k → mapGet s.disp.grids k = some g →
    (s.cluster cl).basket.ready[i]? = some l → s.binReg l.ctx l.key = some r →
    (∃ w, s.waiting (.queue q) = some w ∧ w.ctx = g.ctx ∧ w.prio = g.prio ∧ w.since = g.waited) ∧
    ∃ w, s.waiting (.bin cl i) = some w ∧ w.ctx = l.ctx ∧ w.prio = (s.queue r.queue).prio ∧ w.since = l.since ∧ w.clusters = [cl]) ∧
  (∀ (s : State) (a : Asker) (w : Waiting), s.Canonical → s.waiting a = some w →
    let cand := fun id v => s.team id = some v ∧ w.prio < v.prio ∧ v.save = none ∧ v.live ≠ 0 ∧ (∀ p ∈ s.teamGroups id, p.2.life ≠ .trapped) ∧
      s.fitsWithout w id v = true
    let room := ∃ cl ∈ w.clusters, w.fitsNow s cl = true
    (s.time < w.since + usTime 10 ∨ room ∨ s.saveDue w = true ∨ (∀ id v, ¬ cand id v) → exec (.dispatchPreemptRequest a) s = .next s) ∧
    (w.since + usTime 10 ≤ s.time → s.placeable w.ctx = true → ¬ room → s.saveDue w = false → (∃ id v, cand id v) →
      ∃ id v x, cand id v ∧ (∀ i w, cand i w → w.prio < v.prio ∨ w.prio = v.prio ∧ w.order ≤ v.order) ∧
        x.dest = (s.cluster v.cluster).svc.ssavedst ∧ x.byDisp = true ∧ x.forced = false ∧ x.started = false ∧
        s.SaveAsked (exec (.dispatchPreemptRequest a) s) id v x))

/-- R55, R56, R200, R264, R277, R294, R379 to R383, R397: a requested save begins once no deferral holds, its groups' issuing runs split; one that PREEMPTLIM forces
    stops a paired `mxmm` at whole rows; one of the dispatcher's falls away where a group has trapped before it began; a drained team is written to its destination and
    gone, with its event, but not while an operation waits for a key's install or a page of the image is being moved; an image that is restored starts a team in a
    free place with what it holds, its capabilities over its scratchpad moved with that, and one that is not valid ends its restore.
    The forms of an image that the manual leaves open are the model's choice (log entries 12, 34 and 44). -/
def Obligations.TeamsAreSavedAndRestored : Prop :=
  (∀ (s : State) (id : Nat) (tm : Team) (q : SaveReq), s.Canonical → s.team id = some tm → tm.save = some q →
    let void := q.byDisp = true ∧ ∃ p ∈ s.teamGroups id, p.2.life = .trapped
    let dropped := s.modTeam id fun t => { t with save := none }
    let held := (∃ n < tm.nbar, (vgetD tm.bars n ⟨0, 0, 0, 0⟩).arr ≠ 0) ∨ ∃ o ∈ s.teamMx id tm, o.pair = true
    (q.started = true ∨ held → exec (.teamSaveStart id) s = .next s) ∧
    (q.started = false → ¬ held → void → exec (.teamSaveStart id) s = .next dropped) ∧
    (q.started = false → ¬ held → ¬ void → ∃ t, exec (.teamSaveStart id) s = .next t ∧ s.SaveBegun t id tm q ∧ t.mem = s.mem ∧ t.tags = s.tags) ∧
    (∀ rows, q.started = true ∨ s.time < q.deadline ∨ ¬ held → exec (.forcedSave id rows) s = .next s) ∧
    (∀ rows, q.started = false → q.deadline ≤ s.time → held → void → exec (.forcedSave id rows) s = .next dropped) ∧
    (∀ rows, q.started = false → q.deadline ≤ s.time → held → ¬ void → ∃ t, exec (.forcedSave id rows) s = .next t ∧
      s.SaveBegun t id tm { q with forced := true, rows := rows } ∧
      (s.mxHead tm.cluster tm.leader = none → t.mem = s.mem ∧ t.tags = s.tags) ∧
      (∀ o cores acc ty z flip, s.mxHead tm.cluster tm.leader = some (o, cores) → o.kind = .mm acc ty z flip → o.pair = true → o.started = true → o.team = id →
        tm.cluster < 192 → acc < 3 → mxCol o.desc + mxRows o.desc ≤ 512 →
        let hi := min (o.row + rows) (mxRows o.desc)
        ∀ c ∈ cores, (((t.cluster tm.cluster).core c).mq.head?.map (·.row)) = some hi ∧
          ∀ m < 256, ∀ n < mxRows o.desc, t.readNat (accElem tm.cluster c acc m (mxCol o.desc + n)) 4 =
            let old := s.readNat (accElem tm.cluster c acc m (mxCol o.desc + n)) 4
            if o.row ≤ n ∧ n < hi then mxStep ty (s.mxTile o) n (mxRows o.desc) ((s.cluster tm.cluster).core c).active.bytes m (if z then 0 else old) % 2 ^ 32
            else old)) ∧
    (q.started = false ∨ (∃ p ∈ s.teamGroups id, p.2.life = .exiting ∨ p.2.hart.pend ≠ [] ∨ p.2.arrivals ≠ [] ∨ p.2.copies ≠ []) ∨
        s.moving (physAddr q.dest) (s.imageSize id tm) = true ∨
        (tm.pair ≠ none ∧ ∃ i ∈ [tm.leader, tm.leader + 1], ∃ o rest, s.coreMx id tm i = o :: rest ∧ (o.pair = false ∨ q.forced = false ∨ s.keyWaits o = true)) →
      exec (.teamSaveComplete id) s = .next s) ∧
    (q.started = true → (∀ p ∈ s.teamGroups id, p.2.life ≠ .exiting ∧ p.2.hart.pend = [] ∧ p.2.arrivals = [] ∧ p.2.copies = []) → s.teamMx id tm = [] →
      s.moving (physAddr q.dest) (s.imageSize id tm) = false → tm.cluster < 192 → (∀ i < 8, s.regOf (s.ctxWord tm.ctx 0x50 + i) = none) →
      let at' := physAddr q.dest
      ∃ t first v, exec (.teamSaveComplete id) s = .next t ∧ t.team id = none ∧
        (∀ k, (t.group k).isSome = true ↔ ∃ g, s.group k = some g ∧ g.team ≠ id) ∧
        t.disp.saved = s.disp.saved.filter (fun v => v.image != q.dest) ++ [v] ∧ v.image = q.dest ∧ v.byDisp = q.byDisp ∧
        v.groups = (s.teamGroups id).map (·.2) ∧ v.handles = (s.teamGroups id).map (fun p => handleOf p.1 p.2) ∧ v.team.ctx = tm.ctx ∧ v.team.bars = tm.bars ∧
        Heard (s.cluster tm.cluster).svc (t.cluster tm.cluster).svc ⟨3, 0, first, q.dest⟩ ∧
        (∀ p ∈ t.sliceFlags, p.1 % 4096 ≠ tm.ctx) ∧
        ((∀ i < 24, tagByte (at' + i) = none ∧ worldByte (at' + i) = none) → (s.cluster tm.cluster).dbg.ctl.getLsbD 0 = false →
          (∀ p ∈ s.teamGroups id, slotCluster p.1 = tm.cluster ∧ (s.trapRecord p.1 + 8 ≤ at' ∨ at' + 24 ≤ s.trapRecord p.1)) →
          t.readNat at' 8 = 0x4D5A5356 ∧ t.readNat (at' + 8) 8 = (tm.ctx + bitNat q.forced * 2 ^ 16 + bitNat tm.pair.isSome * 2 ^ 17 +
            (s.teamGroups id).length * 2 ^ 18 + tm.ways * 2 ^ 23 + tm.nbar * 2 ^ 29) % 2 ^ 64 ∧ t.readNat (at' + 16) 8 = tm.teamId.toNat))) ∧
  (∀ (s : State) (cl : Nat) (image : Word) (rest : List Word), cl < 192 → (s.cluster cl).svc.restores = image :: rest →
    let at' := physAddr image
    let head : Rec := ⟨s.readKeys at' 0x1000, []⟩
    let ctx := s.readNat (at' + 8) 8 % 65536
    let old := (s.savedAt image head).map (·.team)
    let world := match s.ctx ctx with | some c => c.world | none => 0
    let secs := s.sections at' head
    let tm := { readTeam head old world with ctx := ctx }
    let budgets := imageBudgets secs tm.held
    (s.readNat at' 8 ≠ 0x4D5A5356 ∨ s.placeable ctx = false → ∃ t, exec (.teamRestore (some cl)) s = .next t ∧ (t.cluster cl).svc.restores = rest ∧
      Heard (s.cluster cl).svc (t.cluster cl).svc ⟨4, Cause.transInvalid, 0, image⟩ ∧ t.groups = s.groups ∧ t.teams = s.teams ∧ t.mem = s.mem) ∧
    (s.readNat at' 8 = 0x4D5A5356 → s.placeable ctx = true →
      let spot := if (s.die (clusterDie cl)).fatal ∨ s.trapsHeld cl = true then none else s.spotFor ctx tm.ways tm.nbar ((s.readNat (at' + 8) 8).testBit 17) tm.issuer budgets cl none
      (spot = none → exec (.teamRestore (some cl)) s = .next s) ∧
      (∀ sp, spot = some sp → let new := cl * 0x1000000 + sp.way0 * 0x8000
        let m : Moved := match imagePad (s.savedAt image head) secs tm.ways with | some old => (old, tm.ways * 0x8000, new) | none => (new, 0, new)
        ∃ t tm' first v, exec (.teamRestore (some cl)) s = .next t ∧ t.team s.nextId = some tm' ∧ tm'.cluster = cl ∧ tm'.way0 = sp.way0 ∧
        tm'.pair = sp.pair ∧ tm'.ctx = ctx ∧ tm'.ways = s.readNat (at' + 8) 8 / 2 ^ 23 % 64 ∧ (∀ v ∈ t.disp.saved, v.image ≠ image) ∧
        (t.cluster cl).svc.restores = rest ∧ Heard v (t.cluster cl).svc ⟨4, 0, first, image⟩ ∧ t.disp.lastCluster = some cl ∧
        ∀ r core kk, secs = [r] → sp.cores = [(r.nat 0 8 / 8 % 16, core)] → s.freeSlot cl core = some kk →
          ∃ g', t.group kk = some g' ∧ g'.team = s.nextId ∧ (∀ j < 64, vgetD g'.hart.s j 0 = BitVec.ofNat 64 (r.nat (0x100 + 8 * j) 8)) ∧
            (∀ j < 32, vgetD g'.hart.c j .null = (r.savedCap 0x300 0x500 j).relocate m) ∧ g'.hart.scode = r.savedCap 8 0x28 0 ∧ g'.hart.pc = (r.savedCap 8 0x28 0).cursor ∧
            g'.lane.vl = r.nat 0x30 8 ∧ (r.nat 0 8 % 8 < 5 → g'.flanes = BitVec.ofNat 2048 (r.nat 0x600 256))))) ∧
  (∀ (s : State) (p : Nat), p < 4 → (∀ j < p, s.restoreOne j = none ∧ s.placeOne j = none) →
    (∀ t, s.restoreOne p = some t → exec (.teamRestore none) s = .next t) ∧
    (s.restoreOne p = none → s.placeOne p ≠ none → exec (.teamRestore none) s = .next s))

/-- R218, R222, R223, R279: a node of an instance ends when its command or its grid has, and lowers what its successors wait for; a launch node that waits for nothing
    starts, and its packet is posted; the end of the last node counts the replay; a node that fails skips what follows it.
    A queued replay waits, and so does the walker of an object of another package for room on the links (R265). The header is written for the graph's context, where its
    world still reaches the object's page (R389); that a header elsewhere is left as it is, and that the code of NO_QUEUE is a free one, is the model's choice (log
    entries 72 and 5). Where a launch node's events go is the model's choice (log entry 13), and a running package is asked of a post (R346). -/
def Obligations.InstancesWalkTheirGraphs : Prop :=
  (∀ (i : Instance) (g : Graph) (n : Nat), n < i.status.length →
    (let i' := i.endNode g n none
     i'.status = i.status.set n 2 ∧ i'.fail = i.fail ∧ i'.graph = i.graph ∧
       ∀ m < i.preds.length, i'.preds.getD m 0 = i.preds.getD m 0 - (g.edges.filter fun e => e == (n, m)).length) ∧
    (∀ c, g.nodes.length = i.status.length → (∀ e ∈ g.edges, e.1 < g.nodes.length ∧ e.2 < g.nodes.length) →
      let i' := i.endNode g n (some c)
      i'.preds = i.preds ∧ i'.fail = some (i.fail.getD (n, c)) ∧ i'.graph = i.graph ∧ ∀ m < i.status.length,
        (m = n → i'.status.getD m 0 = 2) ∧ (m ≠ n → Reaches g.edges n m → i'.status.getD m 0 = 3) ∧
        (m ≠ n → ¬ Reaches g.edges n m → i'.status.getD m 0 = i.status.getD m 0))) ∧
  (∀ (s : State) (d inst n home : Nat) (i : Instance) (g : Graph) (node : GNode), d < 4 → s.inst d inst = some i → s.graphAt i.graph = some (home, g) →
    g.nodes[n]? = some node → n < i.status.length → i.queued = false →
    (s.objectRoom i.graph = false → exec (.graphNodeEnd d inst n) s = .next s ∧ exec (.graphLaunchPost d inst n) s = .next s) ∧ (s.objectRoom i.graph = true →
    let done := i.status.getD n 2 = 1 ∧ node.sort ≠ 2 ∧ s.nodeCopying (.node d inst n) = false ∨ i.status.getD n 2 = 4 ∧ s.nodeLaunched (d, inst, n) = false
    let i' := i.endNode g n none
    let idle := fun (i : Instance) m => i.status.getD m 2 ≠ 0 ∨ i.preds.getD m 1 ≠ 0
    (¬ done → (∀ m < i.status.length, idle i m) → (∃ x ∈ i.status, x ≠ 2 ∧ x ≠ 3) → exec (.graphNodeEnd d inst n) s = .next s) ∧
    (done → (∀ m < i.status.length, idle i' m) → (∃ x ∈ i'.status, x ≠ 2 ∧ x ≠ 3) →
      exec (.graphNodeEnd d inst n) s = .next (s.modInst d inst fun _ => i')) ∧
    (done → ∀ m next, m < i.status.length → ¬ idle i' m → (∀ j < i.status.length, j ≠ m → idle i' j) → g.nodes[m]? = some next → next.sort = 2 →
      exec (.graphNodeEnd d inst n) s = .next (s.modInst d inst fun _ => { i' with status := i'.status.set m 1 })) ∧
    (done → (∀ x ∈ i'.status, x = 2 ∨ x = 3) → s.queuedFor i.graph = none → Rising (s.die d).insts → ∃ t, exec (.graphNodeEnd d inst n) s = .next t ∧
      t.inst d inst = none ∧ t.graphAt i.graph = some (home, { g with state := 1 }) ∧
      (i.graph < Config.remoteKey → s.headerMay g.ctx i.graph = false → t.mem = s.mem ∧ t.tags = s.tags) ∧
      (s.Canonical → i.graph + 0x28 ≤ Config.windowKey → s.headerMay g.ctx i.graph = true → s.moving i.graph 0x28 = false →
        (∀ z ∈ s.stalled, z.meets i.graph 0x28 = false) → (∀ j < 0x28, tagByte (i.graph + j) = none ∧ worldByte (i.graph + j) = none) →
        t.readNat (i.graph + 0x10) 8 = 1 ∧ t.readNat (i.graph + 0x18) 8 = (s.readNat (i.graph + 0x18) 8 + 1) % 2 ^ 64 ∧
        t.readNat (i.graph + 0x20) 8 = (match i.fail with | some (x, c) => x + 1 + c.toNat * 65536 | none => 0) % 2 ^ 64)) ∧
    (i.status.getD n 2 = 1 → node.sort = 2 →
      let p := node.start (g.par i.copyB)
      let q := s.queue p.queueNo
      (s.running = true ∧ q.isOpen = true ∧ q.ctx = g.ctx ∧ q.held = q.depth → exec (.graphLaunchPost d inst n) s = .next s) ∧
      (s.running = true ∧ q.isOpen = true ∧ q.ctx = g.ctx ∧ q.held ≠ q.depth →
        let t := (s.writeRec (q.slot q.tail.toNat) p).modQueue p.queueNo fun q => { q with tail := q.tail + 1 }
        let posts := mapSet t.disp.posts p.queueNo (mapGetD t.disp.posts p.queueNo [] ++ [⟨d * Config.clustersPerDie, some (d, inst, n), none⟩])
        exec (.graphLaunchPost d inst n) s =
          .next (State.modInst { t with disp := { t.disp with posts := posts } } d inst fun i => { i with status := i.status.set n 4 })) ∧
      (s.running = false ∨ q.isOpen = false ∨ q.ctx ≠ g.ctx → ∃ c ∈ causeCodes, exec (.graphLaunchPost d inst n) s =
        .next (({ s with free := s.free + 1 }.modInst d inst fun i => i.endNode g n (some c)).pump 2 d inst)))))

/-! ### Taking an exception -/

/-- R38, R50, R55, R62, R99, R337, R339 to R341, R351, R353, R356, R386: a fault stops a group before the word with CAUSE, FADDR and FLANES, its issuing run split, and tells its
    service core; it takes a service core to SVEC, or, in the handler, halts it and its die is fatal. A word that is no instruction faults so; a stepped group stops
    once its work has drained, but not once a save of its team has begun; a sample is traced each SMPINT cycles, where no group is resident none.
    FADDR where the manual names none, and the codes of a crash record, are the model's choice (log entries 10, 12 and 45). -/
def Obligations.ExceptionsSaveTheirState : Prop :=
  (∀ (s : State) (k : Nat) (g : Group) (lane : Bool) (cause : BitVec 8) (x : Word) (fl : VBits), s.group k = some g → slotCluster k < 192 →
    (s.cluster (slotCluster k)).dbg.ctl.getLsbD 0 = false →
    let t := s.stopGroup k lane cause x fl
    ∃ g', t.group k = some g' ∧ g'.life = .stopped ∧ g'.hart = { g.hart with cause := BitVec.ofNat 9 (cause.toNat + 256 * bitNat lane), faddr := x } ∧
      g'.flanes = fl ∧ g'.lane = { g.lane with queue := splitQueue (s.issuingRun k) s.cycle g.lane.queue } ∧
      Heard (s.cluster (slotCluster k)).svc (t.cluster (slotCluster k)).svc ⟨1, cause, handleOf k g, 0⟩ ∧ g'.stopAt = s.time ∧
      t.issuingRun k = false ∧
      t.mem = s.mem ∧ t.tags = s.tags ∧ (∀ j, j ≠ k → t.group j = s.group j) ∧ t.ctxs = s.ctxs ∧ t.teams = s.teams) ∧
  (∀ (s : State) (cause : BitVec 8) (x : Word), s.raiseHere cause = s.raise cause s.pc ∧
    (∀ k, s.cur = .group k → s.raise cause x = s.stopGroup k false cause x 0) ∧
    (∀ c, s.AsService c →
      ((s.cluster c).svc.inHandler = false → s.raise cause x = s.modCluster c fun cl => { cl with svc := { cl.svc with
        sepc := cl.svc.hart.pc, inHandler := true, hart := { cl.svc.hart with cause := cause.setWidth 9, faddr := x, pc := cl.svc.svec } } }) ∧
      ((s.cluster c).svc.inHandler = true → ((s.raise cause x).cluster c).svc.released = false ∧
        ((s.raise cause x).die (clusterDie c)).fatal = true ∧ (s.raise cause x).fleet.crash.length = 4096))) ∧
  (∀ (s : State) (w : BitVec 96), s.Present →
    (∀ e, isPrivWord (w.setWidth 32) = false ∨ s.isService = true → decodeScalar (w.setWidth 32) = .error e →
      exec (.unassignedOpcode false w) s = .next (s.raiseHere (match e with | .illegalInsn => Cause.illegalInsn | .reservedEnc => Cause.reservedEnc))) ∧
    (isPrivWord (w.setWidth 32) = true → s.isService = false → exec (.unassignedOpcode false w) s = .next (s.raiseHere Cause.privInsn)) ∧
    (∀ k g r rest e, s.AsGroup k g → g.lane.queue = r :: rest → laneFault (.ofWord w) = some e →
      exec (.unassignedOpcode true w) s =
        .next (s.stopGroup k true (match e with | .illegalInsn => Cause.illegalInsn | .reservedEnc => Cause.reservedEnc) r.addr 0))) ∧
  (∀ (s : State) (k : Nat) (g : Group), s.group k = some g →
    let old := fun i => i < g.stepping.first
    let drained := g.life = .running ∧ (∀ p ∈ g.hart.pend, old p.id) ∧ (∀ i ∈ g.copies, old i) ∧ (∀ a ∈ g.arrivals, old a.id) ∧
      (∀ o ∈ (s.cluster (slotCluster k)).mxOf k, old o.id) ∧ ∀ b ∈ g.batches, old b.id
    (g.stepping.pending = true → drained → s.mayIssue g = true →
      exec (.stepStop k) s = .next (s.stopGroup k (decide (g.stepping.mode = 2)) Cause.step g.stepping.addr 0)) ∧
    (g.stepping.pending = false ∨ ¬ drained ∨ s.mayIssue g = false → exec (.stepStop k) s = .next s)) ∧
  (∀ (s : State) (core slot : Nat) (g : Group), core < 768 → let cl := core / 4
    let d := (s.cluster cl).dbg
    let c := (s.cluster cl).core (core % 4)
    let n := max 1 d.smpint.toNat
    (c.holder = some slot ∨ c.holder = none ∧ c.issuers.head? = some (slot, g.gen)) → slotCluster slot = cl → s.group slot = some g →
    (d.ctl.getLsbD 1 = false ∨ s.cycle.toNat < c.sampleAt → exec (.sampleRecord core) s = .next s) ∧
    (d.ctl.getLsbD 1 = true → c.sampleAt ≤ s.cycle.toNat → ∃ t, exec (.sampleRecord core) s = .next t ∧
      (∃ m, ((t.cluster cl).core (core % 4)).sampleAt = c.sampleAt + n * (m + 1) ∧ c.sampleAt + n * m ≤ s.cycle.toNat ∧ s.cycle.toNat < c.sampleAt + n * (m + 1)) ∧ t.groups.map (·.1) = s.groups.map (·.1) ∧
      (d.ctl.getLsbD 0 = false ∨ (s.cycle.toNat - c.sampleAt) % n ≠ 0 → t.mem = s.mem ∧ t.tags = s.tags) ∧
      (d.ctl.getLsbD 0 = true → (s.cycle.toNat - c.sampleAt) % n = 0 → ∀ n, d.trsize.toNat = 2 ^ n → 6 ≤ n → n ≤ 24 →
        let at' := (physAddr d.trbase + 64 * (d.trhead.toNat % 2 ^ n)) % 2 ^ 52
        (d.trhead - d.trtail = d.trsize ∨ s.pageWorld at' ≠ some g.world → t.mem = s.mem ∧ t.tags = s.tags ∧ (t.cluster cl).dbg.trhead = d.trhead ∧
          (t.cluster cl).dbg.trdrop = if d.trdrop = BitVec.allOnes 64 then d.trdrop else d.trdrop + 1) ∧
        (d.trhead - d.trtail ≠ d.trsize → s.pageWorld at' = some g.world → (t.cluster cl).dbg.trhead = d.trhead + 1 ∧ (t.cluster cl).dbg.trdrop = d.trdrop ∧
          (s.Canonical → s.moving at' 64 = false → (∀ z ∈ s.stalled, z.meets at' 64 = false) → (∀ i < 64, tagByte (at' + i) = none ∧ worldByte (at' + i) = none) →
            t.readNat at' 8 = (1 + cl * 2 ^ 4 + slot / 32 % 4 * 2 ^ 12 + slot % 32 * 2 ^ 14 + g.index * 2 ^ 19 + g.role * 2 ^ 23 + g.ctx * 2 ^ 25) % 2 ^ 64 ∧
            t.readNat (at' + 8) 8 = s.cycle.toNat ∧ t.readNat (at' + 16) 8 = g.hart.pc.toNat ∧ t.readNat (at' + 24) 8 = g.lane.pc.toNat)))))

/-! ### Contexts and pages -/

/-- R368 to R371, R384, R385, R395: an op of SCTXCTL takes a context through its states where they allow it, and else sets the error bit: activation copies the record and
    drops what was cached; a fatal event stops every group, discards the work and queues the dump, whose head names the group that faulted first; the end makes every group Exiting; a release removes what is
    left; the dump of a die's queue is written, its context Dead.
    The forms of a dump that the manual leaves open are the model's choice (log entry 12). -/
def Obligations.ContextsPassThroughTheirStates : Prop :=
  (∀ (s : State) (cl n : Nat), s.Canonical → cl < 192 →
    let x := (s.cluster cl).svc.ctxctl
    let under := fun op => x.getLsbD 63 = true ∧ x.toNat / 2 ^ 16 % 8 = op ∧ x.toNat % 2 ^ 16 = n
    let ended := x &&& 0x3FFFFFFFFFFFFFFF
    let done := fun (t : State) => (t.cluster cl).svc.ctxctl = ended
    let refused := fun i => exec i s =
      .next (s.modCluster cl fun c => { c with svc := { c.svc with ctxctl := ended ||| 0x4000000000000000 } })
    let w := fun off => s.readNat (s.ctxWord n off) 8
    let world := BitVec.ofNat 8 (w 0 / 2 ^ 8)
    let bad := n = 0 ∨ 4096 ≤ n ∨ s.ctxState n ≠ .free ∨ w 0 % 2 = 0 ∨ (world ≠ 0 ∧ world ≠ 255 ∧ ∀ i < 64, ∀ k, k = vgetD s.keys i .reset → k.state = 0 ∨ k.ctx ≠ n)
    let going := s.ctxState n = .live ∨ s.ctxState n = .ending
    (under 0 → bad → refused (.ctxActivate cl n)) ∧
    (under 0 → ¬ bad → ∃ t c, exec (.ctxActivate cl n) s = .next t ∧ done t ∧ t.ctx n = some c ∧ c.state = .live ∧ c.world = world ∧ c.home = w 0 / 2 ^ 16 % 256 ∧
      c.ptbase.toNat = w 8 ∧ c.dir = s.readCap (s.ctxWord n 0x10) ∧ c.mask.toNat = s.readNat (s.ctxWord n 0x30) 32 ∧ c.bins = [] ∧ c.log = [] ∧
      (∀ j < 192, ∀ e ∈ (t.cluster j).tlb, e.ctx ≠ n) ∧ (∀ p ∈ t.tables, ∀ e ∈ p.2, e.ctx ≠ n) ∧ (∀ m, m ≠ n → t.ctx m = s.ctx m) ∧
      t.mem = s.mem ∧ t.groups = s.groups) ∧
    (∀ cause, under 1 → x.toNat / 2 ^ 24 % 256 = cause.toNat →
      (¬ going → refused (.ctxFatal cl n cause)) ∧
      (∀ c, s.ctx n = some c → going → c.home < 192 → ∃ t, exec (.ctxFatal cl n cause) s = .next t ∧ done t ∧ t.ctx n = some { c with state := .dying } ∧
        (∃ handle x, (t.die (clusterDie c.home)).dumps = (s.die (clusterDie c.home)).dumps ++ [⟨n, cause, handle, x, s.cycle, none⟩] ∧
          let faulted := fun (g : Group) => g.ctx = n ∧ g.life = .stopped ∧ ∀ e ∈ [Cause.breakpoint, Cause.step, Cause.msgOverflow], g.hart.cause.setWidth 8 ≠ e
          ((∀ p ∈ s.groups, ¬ faulted p.2) → handle = 0 ∧ x = 0) ∧
          ∀ k g, (k, g) ∈ s.groups → faulted g → (∀ p ∈ s.groups, p.1 ≠ k → faulted p.2 → g.stopAt < p.2.stopAt) →
            handle = handleOf k g ∧ x = g.hart.faddr) ∧
        (∀ p ∈ t.teams, p.2.ctx = n → p.2.save = none ∧ p.2.heir = none) ∧
        (∀ k g, s.group k = some g → g.ctx = n → ∃ g', t.group k = some g' ∧ g'.life = .stopped ∧ g'.hart.pend = [] ∧ g'.hart.ld = 0 ∧ g'.hart.st = 0 ∧
          g'.hart.cp = 0 ∧ g'.arrivals = [] ∧ g'.cont = none) ∧
        (∀ k g, s.group k = some g → g.ctx ≠ n → ∃ g', t.group k = some g' ∧ g'.life = g.life ∧ g'.hart = g.hart) ∧
        (∀ j < 192, ∀ o ∈ (t.cluster j).ops, o.ctx ≠ n) ∧ (∀ p ∈ t.disp.grids, p.2.ctx ≠ n) ∧ (∀ p ∈ t.disp.conts, p.ctx ≠ n) ∧
        (∀ q, (s.queue q).isOpen = true → (s.queue q).ctx = n → (t.queue q).isOpen = false))) ∧
    (under 2 → s.ctxState n ≠ .live → refused (.ctxEnd cl n)) ∧
    (∀ c, under 2 → s.ctx n = some c → c.state = .live → ∃ t, exec (.ctxEnd cl n) s = .next t ∧ done t ∧ t.ctx n = some { c with state := .ending } ∧
      (∀ k g, s.group k = some g → ∃ g', t.group k = some g' ∧ (g.ctx = n → g'.life = .exiting ∧ (g.life ≠ .exiting → g'.lane.queue = [])) ∧
        (g.ctx ≠ n → g'.life = g.life ∧ g'.hart = g.hart)) ∧
      (∀ v ∈ t.disp.saved, v.team.ctx ≠ n) ∧ (∀ p ∈ t.disp.grids, p.2.ctx ≠ n) ∧
      (∀ q, (s.queue q).isOpen = true → (s.queue q).ctx = n → (t.queue q).isOpen = false)) ∧
    (let free := s.ctxState n = .dead ∨ s.ctxState n = .ending ∧ (∀ p ∈ s.groups, p.2.ctx ≠ n) ∧ (∀ p ∈ s.teams, p.2.ctx ≠ n) ∧
       ∀ p ∈ s.edge.queues, p.2.isOpen = true → p.2.ctx ≠ n
     (under 3 → ¬ free → refused (.ctxRelease cl n)) ∧
     (under 3 → free → ∃ t, exec (.ctxRelease cl n) s = .next t ∧ done t ∧ t.ctx n = none ∧ (∀ m, m ≠ n → t.ctx m = s.ctx m) ∧
       (∀ p ∈ t.sliceFlags, p.1 % 4096 ≠ n) ∧ (∀ p ∈ t.tables, ∀ e ∈ p.2, e.ctx ≠ n) ∧ (∀ v ∈ t.disp.saved, v.team.ctx ≠ n) ∧
       (∀ o ∈ t.io.opens, o.ctx ≠ n) ∧ (∀ o ∈ t.io.socks, o.ctx ≠ n) ∧
       ∀ i < 64, let k := vgetD s.keys i .reset
         vgetD t.keys i .reset = if k.state ≠ 0 ∧ k.ctx = n then .reset else k)) ∧
    (under 4 → ¬ going → refused (.ctxClearAtomicFlags cl n)) ∧
    (let due := ∃ p ∈ s.groups, p.2.ctx = n ∧ ∃ q ∈ p.2.hart.pend, q.ld = false ∧ q.atoms ≠ []
     (under 4 → going → due → exec (.ctxClearAtomicFlags cl n) s = .next s) ∧
     (∀ c, under 4 → going → ¬ due → s.ctx n = some c → ∃ t, exec (.ctxClearAtomicFlags cl n) s = .next t ∧ done t ∧
       t.ctx n = some { c with flags := 0 } ∧ (∀ p ∈ t.sliceFlags, p.1 % 4096 ≠ n) ∧ (∀ m, m ≠ n → t.ctx m = s.ctx m)))) ∧
  (∀ (s : State) (die : Nat) (d : Dump) (rest : List Dump) (c : Ctx), s.Canonical → die < 4 → (s.die die).dumps = d :: rest → s.ctx d.ctx = some c →
    let base := s.readNat (s.ctxWord d.ctx 0x58) 8 % 2 ^ 52
    let len := s.readNat (s.ctxWord d.ctx 0x60) 8
    (s.moving base len = true → exec (.dumpWrite die) s = .next s) ∧ (s.moving base len = false → ∃ t, exec (.dumpWrite die) s = .next t ∧ (t.die die).dumps = rest ∧ t.ctx d.ctx = some { c with state := .dead } ∧
      (∀ id tm, s.team id = some tm → tm.ctx = d.ctx → t.team id = none) ∧
      ((∀ p ∈ s.teams, p.2.ctx ≠ d.ctx) → t.groups.map (·.1) = s.groups.map (·.1) ∧
        ((s.die die).fatal = true ∨ len < 0x1000 → t.mem = s.mem ∧ t.tags = s.tags) ∧
        ((s.die die).fatal = false → 0x1000 ≤ len → (∀ i < 40, tagByte (base + i) = none ∧ worldByte (base + i) = none) →
          t.readNat base 8 = 0x4D5A4450 ∧ t.readNat (base + 8) 8 = (d.ctx + d.cause.toNat * 2 ^ 16 + bitNat d.second.isSome * 2 ^ 25) % 2 ^ 64 ∧
          t.readNat (base + 16) 8 = d.handle.toNat ∧ t.readNat (base + 24) 8 = d.faddr.toNat ∧ t.readNat (base + 32) 8 = d.cycle.toNat))))

/-- R264, R378, R387, R391: a migration locks its page, or reports an error; a write to the page or its copy waits; its copy takes bytes and tags; its release moves what waits at the page's lines to the
    copy and performs the writes that waited. The oldest change of world is refused as a whole, or gives every page its new world, zeroed where that is 0, once nothing holds a translation.
    What a busy release and a hole do is the model's choice (log entries 15 and 23). -/
def Obligations.PagesMoveAndChangeWorlds : Prop :=
  ∀ (s : State) (cl : Nat), s.Canonical → cl < 192 →
    let m := (s.cluster cl).svc.mig
    let setMig := fun m => s.modCluster cl fun c => { c with svc := { c.svc with mig := m } }
    (∀ size : BitVec 2,
      let n := pageSize size.toNat
      let a := physAddr m.src / n * n
      let b := physAddr m.dst / n * n
      let fit := size ≠ 3 ∧ m.locked = false ∧ a ≠ b ∧ ∀ i < n / 65536, (s.pageWorld (a + 65536 * i)).isSome = true ∧
        s.pageWorld (a + 65536 * i) = s.pageWorld (b + 65536 * i)
      (fit → exec (.migrationStart cl size) s = .next (setMig { m with page := a, copy := b, size := size.toNat, busy := true, locked := true, error := false })) ∧
      (¬ fit → exec (.migrationStart cl size) s = .next (setMig { m with error := true }))) ∧
    (let n := pageSize m.size
     let a := m.page
     let b := m.copy
     (m.busy = false ∨ s.readsIn a n = true → exec (.migrationCopyDone cl) s = .next s) ∧
     (m.busy = true → s.readsIn a n = false → ∃ t, exec (.migrationCopyDone cl) s = .next t ∧ (t.cluster cl).svc.mig = { m with busy := false } ∧
       (a % n = 0 → b % n = 0 → a + n ≤ Config.windowKey → b + n ≤ Config.windowKey → a ≠ b →
         (∀ i < n, tagByte (a + i) = none ∧ tagByte (b + i) = none ∧ worldByte (a + i) = none ∧ worldByte (b + i) = none) → t.groups = s.groups ∧
         (∀ i < n, t.keyByte (b + i) = s.keyByte (a + i) ∧ t.keyTag (b + i) = s.keyTag (a + i)) ∧
         ∀ k, k < b ∨ b + n ≤ k → tagByte k = none → t.keyByte k = s.keyByte k ∧ t.keyTag k = s.keyTag k)) ∧
     (m.busy = true → exec (.migrationRelease cl) s = .next (setMig { m with error := true })) ∧
     (m.busy = false → m.locked = false → exec (.migrationRelease cl) s = .next s) ∧
     (m.busy = false → m.locked = true → ∃ t, exec (.migrationRelease cl) s = .next t ∧ (t.cluster cl).svc.mig = { m with locked := false } ∧
       (∀ k g, s.group k = some g → ∃ g', t.group k = some g' ∧ g'.hart.s = g.hart.s ∧ g'.life = g.life ∧
         g'.hart.pend.map (fun p => p.atoms.map (·.key)) =
           g.hart.pend.map fun p => p.atoms.map fun x => if a ≤ x.key ∧ x.key < a + n then x.key - a + b else x.key) ∧
       ((∀ p ∈ s.groups, ∀ q ∈ p.2.hart.pend, q.stores = []) → (∀ j < 192, ∀ q ∈ (s.cluster j).svc.hart.pend, q.stores = []) →
         (s.stalled = [] → t.mem = s.mem ∧ t.tags = s.tags ∧ t.stalled = []) ∧
         ∀ key bs, s.stalled = [⟨key, .put bs⟩] → bs ≠ [] → a ≤ key → key + bs.length ≤ a + n → b + n ≤ Config.windowKey →
           (∀ j < 192, j ≠ cl → (s.cluster j).svc.mig.locked = false) →
           t.stalled = [] ∧ ((∀ i < n, tagByte (b + i) = none ∧ worldByte (b + i) = none) → t.readKeys (key - a + b) bs.length = bs)))) ∧
    (m.locked = true → ∀ k w, (k < m.page + pageSize m.size ∧ m.page < k + w ∨ k < m.copy + pageSize m.size ∧ m.copy < k + w) → w ≠ 0 → s.writeWaits k w = true) ∧
    (∀ value : Word,
      let v := (s.cluster cl).svc
      let base := v.wpage.toNat
      let n := v.wcount.toNat
      let new := BitVec.ofNat 8 value.toNat
      let old := BitVec.ofNat 8 (value.toNat / 256)
      let bad := n = 0 ∨ 16384 < n ∨ new = 255 ∨ old = 255 ∨ new = old ∨ (new ≠ 0 ∧ old ≠ 0) ∨
        ∃ i < n, s.pageWorld (base + 65536 * i) ≠ some old ∨ ∃ j < 192, (s.cluster j).svc.mig.covers (base + 65536 * i) 65536 = true
      (v.wresult.getLsbD 63 = false ∨ v.wctl ≠ value ∨ s.fleet.worldq.head? ≠ some cl → exec (.worldChange cl value) s = .next s) ∧
      (∀ rest, v.wresult.getLsbD 63 = true → v.wctl = value → s.fleet.worldq = cl :: rest →
        (bad → exec (.worldChange cl value) s = .next { s.modCluster cl fun c => { c with svc := { c.svc with wresult := 0x4000000000000000 } } with
          fleet := { s.fleet with worldq := rest } }) ∧
        (¬ bad → s.heldIn base (65536 * n) = true → ∃ t, exec (.worldChange cl value) s = .next t ∧ (t.cluster cl).svc.wresult = v.wresult ∧
          t.worlds = s.worlds ∧ t.mem = s.mem ∧ t.tags = s.tags) ∧
        (¬ bad → s.heldIn base (65536 * n) = false → ∃ t, exec (.worldChange cl value) s = .next t ∧ (t.cluster cl).svc.wresult = BitVec.ofNat 64 n ∧ t.fleet.worldq = rest ∧
          (∀ i < n, t.pageWorld (base + 65536 * i) = some new) ∧ (new = 0 → ∀ i < 65536 * n, memGet t.mem (base + i) = 0) ∧
          (new ≠ 0 → t.mem = s.mem ∧ t.tags = s.tags) ∧
          (∀ p, p < base / 65536 ∨ base / 65536 + n ≤ p → mapGetD t.worlds p 0 = mapGetD s.worlds p 0) ∧
          ∀ j < 192, ∀ e ∈ (t.cluster j).tlb, e.pte.getLsbD 58 = true ∨ base + 65536 * n ≤ leafKey e.pte e.size 0 ∨ leafKey e.pte e.size 0 + 2 ^ e.size ≤ base)))

/-! ### Keys and attestation -/

/-- R387, R394 to R400: the ops of KCTL allocate, install, retire and free a key slot or answer why not; a retired key goes once nothing names it. A challenge is accepted
    unless its certificate's rewrite is pending; the next index is kept in flash before the signature is released, an exhausted package answers every one with
    EXHAUSTED, and one that is not done after 2 s ends by a time-out, whatever it waits for; a rewrite takes effect once no accepted challenge names it.
    The report's offsets, a flash record's layout and the answer for a Free slot are the model's choice (log entries 16 and 46). -/
def Obligations.KeysAndChallengesFollowTheirOps : Prop :=
  (∀ (s : State) (cl : Nat), cl < 192 →
    let v := (s.cluster cl).svc
    let k := vgetD s.keys v.ksel .reset
    let under := fun op => ∃ x, v.kctl = some x ∧ x.toNat % 4 = op
    let fin := fun (t : State) (status : BitVec 8) => t.modCluster cl fun c => { c with svc := { c.svc with kctl := none, kstatus := status } }
    let others := fun (t : State) n => ∀ i < 64, i ≠ n → vgetD t.keys i .reset = vgetD s.keys i .reset
    (v.kctl = none → (∀ n, exec (.keyAllocate cl n) s = .next s) ∧ exec (.keyInstall cl) s = .next s ∧ exec (.keyRetirePrevious cl) s = .next s ∧
      exec (.keyFree cl) s = .next s) ∧
    (∀ n x, v.kctl = some x → x.toNat % 4 = 0 → x.toNat / 2 ^ 16 % 2 ^ 16 = n →
      let w := s.keyByte (s.ctxWord n 1)
      let i := .keyAllocate cl n
      let open' := 0 < n ∧ n < 4096 ∧ w ≠ 0 ∧ w ≠ 255
      (¬ open' → exec i s = .next (fin s 4)) ∧
      (open' → (∀ j < 64, (vgetD s.keys j .reset).state ≠ 0) → exec i s = .next (fin s 2)) ∧
      (open' → ∀ j < 64, (vgetD s.keys j .reset).state = 0 → (∀ h < j, (vgetD s.keys h .reset).state ≠ 0) → ∃ t, exec i s = .next t ∧
        vgetD t.keys j .reset = { KeySlot.reset with state := 1, ctx := n, world := w } ∧ others t j ∧
        (t.cluster cl).svc = { v with kctl := none, kstatus := 0, ksel := j } ∧ t.mem = s.mem)) ∧
    (under 1 → let i := .keyInstall cl
      (k.state = 0 → exec i s = .next (fin s 4)) ∧ (k.state ≠ 0 → k.prev.isSome = true → exec i s = .next (fin s 3)) ∧
      (k.state ≠ 0 → k.prev = none → unwrapBlob (s.readKeys (physAddr v.kblob) 2048) k.world = none → exec i s = .next (fin s 1)) ∧
      (∀ key soft hard, k.state ≠ 0 → k.prev = none → v.ksel < 64 → unwrapBlob (s.readKeys (physAddr v.kblob) 2048) k.world = some (key, soft, hard) → ∃ t, exec i s = .next t ∧
        0 < soft ∧ soft < hard ∧ hard ≤ 2 ^ 48 - 1 ∧
        vgetD t.keys v.ksel .reset = { k with state := 2, cur := some ⟨k.gen + 1, key, soft, hard⟩, prev := k.cur, gen := k.gen + 1, uses := 0, retire := false,
                                              softTold := false, hardTold := false } ∧
        others t v.ksel ∧ (t.cluster cl).svc = { v with kctl := none, kstatus := 0 })) ∧
    (under 2 → v.ksel < 64 → ∃ t, exec (.keyRetirePrevious cl) s = .next t ∧ vgetD t.keys v.ksel .reset = { k with retire := k.prev.isSome } ∧ others t v.ksel ∧
      (t.cluster cl).svc = { v with kctl := none, kstatus := 0 }) ∧
    (under 3 → v.ksel < 64 → ∃ t, exec (.keyFree cl) s = .next t ∧ vgetD t.keys v.ksel .reset = .reset ∧ others t v.ksel ∧
      (t.cluster cl).svc = { v with kctl := none, kstatus := 0 }) ∧
    (∀ n < 64, let k := vgetD s.keys n .reset
      (k.retire = true → (∀ p, k.prev = some p → s.genNamed n p.num = false) → ∃ t, exec (.keyPreviousErased n) s = .next t ∧
        vgetD t.keys n .reset = { k with prev := none, retire := false } ∧ others t n ∧ t.clusters = s.clusters) ∧
      (k.retire = false ∨ (∃ p, k.prev = some p ∧ s.genNamed n p.num = true) → exec (.keyPreviousErased n) s = .next s)) ∧
    (∀ addr : Word,
      let at' := addr.toNat % 2 ^ 52 / 64 * 64
      let now := some (s.cycle.toNat, s.time)
      let rec' : Challenge := ⟨some (BitVec.ofNat 64 (addr.toNat / 64 * 64)), s.readKeys at' 32, (s.keyByte (at' + 32)).toNat % 8, s.readNat (at' + 36) 2, BitVec.ofNat 64 (s.readNat (at' + 40) 8),
        s.readNat (at' + 48) 8, none, cl, decide (8 ≤ (s.keyByte (at' + 32)).toNat ∨ s.readNat (at' + 33) 3 ≠ 0 ∨ s.readNat (at' + 38) 2 ≠ 0)⟩
      (∀ c ∈ s.attest.chals, c.since.isSome = true) →
      ∃ t, exec (.achalWrite cl addr) s = .next t ∧ t.attest = { s.attest with chals := s.attest.chals ++
        [if (mapGet s.attest.rewrites rec'.cert).isSome then rec' else { rec' with since := now }] } ∧ t.mem = s.mem) ∧
    (∀ value : Word, let n := value.toNat % 8
      (n = 0 ∨ s.attest.rewrites ≠ [] → exec (.certRewriteRequest cl value) s = .next { s with attest := { s.attest with certErr := true } }) ∧
      (n ≠ 0 → s.attest.rewrites = [] → value.getLsbD 3 = false → exec (.certRewriteRequest cl value) s = .next s) ∧
      (n ≠ 0 → s.attest.rewrites = [] → value.getLsbD 3 = true →
        let at' := value.toNat / 4096 % 2 ^ 36 * 4096
        exec (.certRewriteRequest cl value) s = .next { s with attest := { s.attest with
          certErr := false, rewrites := [(n, s.readKeys (at' + 8) (min (s.readNat at' 8) 8192))] } }))) ∧
  (∀ (s : State) (n : Nat) (b : List Byte), s.attest.rewrites = [(n, b)] →
    ((∃ c ∈ s.attest.chals, c.since.isSome = true ∧ c.cert = n) → exec (.certRewriteEffect n) s = .next s) ∧
    ((∀ c ∈ s.attest.chals, c.since.isSome = true → c.cert ≠ n) → exec (.certRewriteEffect n) s = .next { s with attest := { s.attest with
      rewrites := [], certs := mapSet s.attest.certs n b,
      chals := s.attest.chals.map fun c => if c.since.isSome then c else { c with since := some (s.cycle.toNat, s.time) } } })) ∧
  (∀ (s : State) (c : Challenge) (rest : List Challenge) (since : Nat × Nat), s.attest.chals = c :: rest → c.since = some since → c.cluster < 192 →
    let bad := c.bad = true ∨ (c.addr.isSome = true ∧ c.cap < 4652 + (s.cert c.cert).length) ∨ (c.ctx ≠ 0 ∧ s.ctxState c.ctx ≠ .live)
    let late := since.2 + usTime 2000000 ≤ s.time
    let next := s.attest.index
    let whole := fun i => s.report c i ++ xmssSign i (s.report c i) ++ encapKey ++ leBytes 8 (s.cert c.cert).length ++ s.cert c.cert
    let calm := s.Canonical ∧ s.stalled = [] ∧ ∀ j < 192, (s.cluster j).svc.mig.locked = false
    let status := fun (t : State) (x : Nat) (r : List Byte) => t.attest = { s.attest with chals := rest, signing := none } ∧
      (c.addr = none → t.mem = s.mem) ∧ ∀ at', c.addr = some at' → let key := physAddr at' + 56
      Heard (s.cluster c.cluster).svc (t.cluster c.cluster).svc ⟨12, 0, 0, 3⟩ ∧
      (calm → physAddr c.resp + r.length ≤ Config.windowKey → (∀ j < 8, tagByte (key + j) = none ∧ worldByte (key + j) = none) → t.readNat key 8 = x) ∧
      (calm → physAddr c.resp + r.length ≤ Config.windowKey → (physAddr c.resp + r.length ≤ key ∨ key + 8 ≤ physAddr c.resp) →
        (∀ j < r.length, tagByte (physAddr c.resp + j) = none ∧ worldByte (physAddr c.resp + j) = none) → t.readKeys (physAddr c.resp) r.length = r)
    let quiet := fun (t : State) => t.fleet.alerts = s.fleet.alerts ∧ (c.addr = none → ∃ st, t.fleet.response = [[8, st, 0, 0]])
    (late → (∃ t, exec .challengeResponse s = .next t ∧ status t 4 [] ∧ quiet t) ∧ ∃ t, exec .challengeTimeout s = .next t ∧ status t 4 [] ∧ quiet t) ∧
    (¬ late → exec .challengeTimeout s = .next s) ∧
    (¬ late → s.attest.signing = none → 2 ^ 20 ≤ next → ∃ t, exec .challengeResponse s = .next t ∧ status t 2 [] ∧ quiet t) ∧
    (¬ late → s.attest.signing = none → next < 2 ^ 20 → bad → ∃ t, exec .challengeResponse s = .next t ∧ status t 3 [] ∧ quiet t) ∧
    (¬ late → s.attest.signing = none → next < 2 ^ 20 → ¬ bad → ∃ t, exec .challengeResponse s = .next t ∧
      t.attest = { s.attest with index := next + 1, recs := keepIndex s.attest.recs (next + 1), signing := some next } ∧ t.mem = s.mem ∧
      ((∀ r, newestRecord s.attest.recs = some r → r.2.1 + 1 < 2 ^ 64) → indexAtBoot t.attest.recs = next + 1) ∧
      t.fleet.alerts = s.fleet.alerts ++ (if 2 ^ 20 - (next + 1) = 65536 ∨ 2 ^ 20 - (next + 1) = 4096 then [.signatures (2 ^ 20 - (next + 1))] else [])) ∧
    (∀ i, ¬ late → s.attest.signing = some i → ∃ t, exec .challengeResponse s = .next t ∧ status t 1 (whole i) ∧ t.fleet.alerts = s.fleet.alerts ∧
      (c.addr = none → t.fleet.response = (parts64 (whole i).length (whole i)).map fun d => [8, 0, 0, 0] ++ d)))

/-! ### The edge block, boot, ports -/

/-- R345 to R349, R398, R411 to R413: a doorbell in order moves its queue's tail and one out of order breaks the queue; a register of the edge block keeps the bits it has of what a
    service core writes; a reset package boots the accepted image or waits for another, and a running one goes back to reset, keeping what outlives that.
    What a warm reset keeps, and the doorbell of a closed queue, are the model's choice (log entries 19 and 26). -/
def Obligations.EdgeRegistersAndResets : Prop :=
  (∀ (s : State) (host : Bool) (q : Nat) (v : BitVec 32), q < 256 →
    let d := s.queue q
    let i := Instr.queueDoorbell host q v
    let ordered := (v - d.head).toNat ≤ d.depth ∧ (v - d.tail).toNat < 2 ^ 31
    (host = true → d.hostOwned = false → exec i s = .next { s with edge := { s.edge with hostDiscards := min (2 ^ 64 - 1) (s.edge.hostDiscards + 1) } }) ∧
    (host = false ∨ d.hostOwned = true →
      (d.isOpen = false → exec i s = .next s) ∧
      (d.isOpen = true → ordered → ∃ t, exec i s = .next t ∧ t.queue q = { d with tail := v } ∧ (∀ j, j ≠ q → t.queue j = s.queue j) ∧
        mapGetD t.disp.posts q [] = mapGetD s.disp.posts q [] ++ List.replicate (v - d.tail).toNat ⟨192, none, none⟩ ∧ t.clusters = s.clusters ∧ t.mem = s.mem) ∧
      (d.isOpen = true → ¬ ordered → ∃ t, exec i s = .next t ∧ (t.queue q).isOpen = false ∧ (t.queue q).broken = true ∧ (t.queue q).tail = d.tail ∧
        (∀ j, j ≠ q → t.queue j = s.queue j) ∧ Heard (s.cluster 0).svc (t.cluster 0).svc ⟨13, 0, 0, BitVec.ofNat 64 q⟩))) ∧
  (∀ (s : State) (off : Nat) (v : Word),
    (0x10000 ≤ off ∨ off % 8 ≠ 0 ∨ (0x5000 ≤ off ∧ off < 0x5800) → ∀ host, exec (.registerWrite host off v) s = .next s) ∧
    (∀ q < 256, ∀ row ∈ [(0x6000, BitVec.allOnes 64 <<< 7), (0x6008, BitVec.allOnes 64 <<< 7), (0x6100, (0xFFFF : Word)), (0x7000, 0x3FFFFF),
        (0x1000 + 64 * q, BitVec.allOnes 64), (0x1008 + 64 * q, 0x1FFFF), (0x1010 + 64 * q, 0xFFFFFFFF), (0x1018 + 64 * q, 0xFFFFFFFF),
        (0x1020 + 64 * q, BitVec.allOnes 64 <<< 12)], off = row.1 →
      ∃ t, exec (.registerWrite false off v) s = .next t ∧ t.edgeReg off = v &&& row.2 ∧ (∀ o, o % 8 = 0 → o ≠ off → t.edgeReg o = s.edgeReg o) ∧
        t.mem = s.mem ∧ t.groups = s.groups ∧ t.clusters = s.clusters) ∧
    (off = 8 → exec (.registerWrite false off v) s = .next s) ∧
    (off < 0x10000 → off % 8 = 0 → off < 0x5000 ∨ 0x5800 ≤ off → s.boot.phase ≠ 1 ∨ off < 0x8000 →
      exec (.registerWrite true off v) s = .next { s with edge := { s.edge with hostDiscards := min (2 ^ 64 - 1) (s.edge.hostDiscards + 1) } }) ∧
    (0x8000 ≤ off → off < 0xFFF8 → off % 8 = 0 → s.boot.phase = 1 →
      exec (.registerWrite true off v) s = .next { s with boot := { s.boot with incoming := s.boot.incoming ++ leBytes 8 v.toNat } })) ∧
  (∀ s : State,
    (s.boot.phase = 0 → imageAccepted s.boot.flash s.boot.fused = true → ∃ t, exec .packageReset s = .next t ∧
      t.boot = { s.boot with phase := 2, incoming := [], tcm := imgLoaded s.boot.flash 0, digests := imgBytes s.boot.flash 0x60 96 } ∧ t.edge.bootstat = 4 ∧
      t.attest.index = indexAtBoot s.attest.recs ∧ (∀ c < 192, (t.cluster c).svc.released = true) ∧
      let k := Config.kernelEntry.toNat
      let kernel := imgSection s.boot.flash 1
      (k + kernel.length ≤ Config.fwBase → (∀ p, mapGetD t.worlds p 0 = if p ∈ s.fleet.retired then 255 else 0) ∧
        (s.Canonical → ∀ i < kernel.length, tagByte (k + i) = none → t.keyByte (k + i) = kernel.getD i 0))) ∧
    (s.boot.phase = 0 → imageAccepted s.boot.flash s.boot.fused = false → ∃ t, exec .packageReset s = .next t ∧ t.boot = { s.boot with phase := 1, incoming := [] } ∧
      t.edge.bootstat.getLsbD 0 = true ∧ t.edge.bootstat.getLsbD 5 = true ∧ t.edge.bootstat.getLsbD 2 = false ∧ t.clusters = s.clusters ∧ t.mem = s.mem) ∧
    (∀ i, i = Instr.watchdogReset ∨ i = .packageReset ∧ s.boot.phase ≠ 0 → ∃ t, exec i s = .next t ∧ t.boot.phase = 0 ∧ t.boot.flash = s.boot.flash ∧
      t.boot.fused = s.boot.fused ∧ t.attest.recs = s.attest.recs ∧ t.attest.certs = s.attest.certs ∧ t.attest.chals = [] ∧
      t.io.objects = s.io.objects ∧ t.io.opens = [] ∧ t.io.socks = [] ∧ t.fleet.crash = s.fleet.crash ∧ t.fleet.retired = s.fleet.retired ∧
      t.groups = [] ∧ t.teams = [] ∧ t.ctxs = [] ∧ t.clusters = Vector.replicate 192 .reset ∧ t.keys = Vector.replicate 64 .reset ∧ t.edge = .reset ∧
      t.disp = .reset ∧ t.dies = Vector.replicate 4 .reset)) ∧
  (∀ (b : List Byte) (fused : Nat), imageAccepted b fused = true →
    leNat (b.take 4) = 0x4D5A4657 ∧ leNat ((b.drop 8).take 8) ≤ 63 ∧ fused ≤ leNat ((b.drop 8).take 8) ∧
    shake256 ((b.drop 0x10).take 68) 32 = Config.fusedDigest ∧
    xmssVerify ((b.drop 0x10).take 68) (b.take 0x400) ((b.drop 0x400).take 2820) = true ∧
    ∀ i < 3, leNat ((b.drop (0xC0 + 16 * i)).take 8) % 0x1000 = 0 ∧ shake256 (imgLoaded b i) 32 = (b.drop (0x60 + 32 * i)).take 32)

/-- R124, R264 to R266, R285, R347, R353, R360, R362 to R364, R366, R367, R389, R408, R409: the host reads its registers and reaches the pages of world 0 that BAR2 maps, and no others; a link
    port comes up for the peer that the topology predicts; a request of another package is performed once, within its world and context; a retransmission adds no
    access; a datagram reaches the socket of its port or waits there, a fragment or a
    damaged one is dropped, its count saturates; a tagged launch that finds its slot armed fills its buffer and posts its
    template; a drive's command completes and its data stands at its segments; a port's admin queue reports a drive with no format that serves. What an error that
    nothing corrected has hit is not delivered.
    Frame headers, the order of commands and the queue numbers of events are the model's choice (log entry 18), the loading of an image too (log entry 66). -/
def Obligations.PortsServeTheirPeers : Prop :=
  let plain := fun (s : State) k => k < Config.remoteKey ∧ tagByte k = none ∧ s.regOf k = none ∧ worldByte k = none
  (∀ (s : State) (off n : Nat) (bs : List Byte), 0 < n →
    let at' := fun i => mapGetD s.edge.bar2 ((off + i) / 65536) 0 * 65536 + (off + i) % 65536
    let keys := (List.range n).map at'
    let may := ∀ i < n, (mapGet s.edge.bar2 ((off + i) / 65536)).isSome = true ∧ at' i < 8 * Config.hbmStride ∧ s.pageWorld (at' i) = some 0
    let counted := fun (t : State) => mapGetD t.fleet.counts 0 0 = min (2 ^ 64 - 1) (mapGetD s.fleet.counts 0 0 + 1) ∧ t.mem = s.mem ∧ t.tags = s.tags
    (may → (∃ k ∈ keys, k ∈ s.damaged) → exec (.hostAccess off n .read) s = .next s) ∧
    (may → (∀ k ∈ keys, k ∉ s.damaged) → exec (.hostAccess off n .read) s = .next { s with edge := { s.edge with hostData := keys.map s.keyByte } }) ∧
    (¬ may → ∃ t, exec (.hostAccess off n .read) s = .next t ∧ t.edge.hostData = List.replicate n 255 ∧ counted t) ∧
    (bs.length ≠ n → exec (.hostAccess off n (.write bs)) s = .next s) ∧
    (¬ may → bs.length = n → ∃ t, exec (.hostAccess off n (.write bs)) s = .next t ∧ counted t) ∧
    (may → bs.length = n → (∃ k ∈ keys, s.migrating k = true) → exec (.hostAccess off n (.write bs)) s = .next s) ∧
    (may → bs.length = n → (∀ k ∈ keys, s.migrating k = false) → ∃ t, exec (.hostAccess off n (.write bs)) s = .next t ∧ t.groups = s.groups ∧
      (s.Canonical → keys.Nodup → (∀ i < n, t.keyByte (at' i) = bs.getD i 0 ∧ t.keyTag (at' i) = false) ∧
        ∀ k, k ∉ keys → tagByte k = none → t.keyByte k = s.keyByte k))) ∧
  (∀ (s : State) (off len page : Nat) (phys : Word),
    let reg := if off / 8 = 0 then s.edge.bootstat else if off / 8 = 1 then s.edge.fwver else if off / 8 = 0xE00 then s.edge.wltopo else 0
    let k := phys.toNat / 65536 * 65536
    let mapped := page < 2 ^ 23 ∧ k + 65536 ≤ 8 * Config.hbmStride ∧ s.pageWorld k = some 0
    exec (.hostAccess off len .reg) s = .next { s with edge := { s.edge with hostData := ((leBytes 8 reg.toNat).drop (off % 8)).take len } } ∧
    exec (.hostAccess page 0 (.map phys)) s = .next s ∧
    (∀ t n, exec (.hostAccess page n (.map phys)) s = .next t →
      exec (.hostAccess page (n + 1) (.map phys)) s = .next (t.mapBar2 (page + n) (phys.toNat + 65536 * n))) ∧
    (mapped → exec (.hostAccess page 1 (.map phys)) s = .next { s with edge := { s.edge with bar2 := mapSet s.edge.bar2 page (k / 65536) } }) ∧
    (¬ mapped → exec (.hostAccess page 1 (.map phys)) s = .next s)) ∧
  (∀ (s : State) (ctx : Nat) (image : List Byte) (at' : Nat) (pages : List Word) (ring basket : Word) (spill : Nat),
    let base := BitVec.ofNat 64 at'
    let i := Instr.hostAccess at' spill (.load ctx image pages ring basket)
    (s.ctxState ctx ≠ .live ∨ imageFormed image = false ∨ s.loadKernel ctx image base pages ring basket spill = none → exec i s = .next s) ∧
    (∀ t, s.loadKernel ctx image base pages ring basket spill = some t → exec i s = .next t ∧ s.ctxState ctx = .live ∧ imageFormed image = true ∧
      ∀ p ∈ t.tables, ∀ e ∈ p.2, ∀ r ∈ imageRoutines image, e.ctx ≠ ctx ∨ e.n ≠ r.1)) ∧
  (∀ (s : State) (port pkg dim sec : Nat) (up : Bool), port < 16 → s.boot.phase = 2 →
    let n := s.dimSize (port / 4)
    let w := s.dimStride (port / 4)
    let x := s.ownPackage / w % n
    let peer := s.ownPackage - x * w + (if port % 4 < 2 then (x + 1) % n else (x + n - 1) % n) * w
    let fits := s.packages ≤ 64 ∧ 1 < n ∧ dim = port / 4 ∧ up = decide (2 ≤ port % 4) ∧ pkg = peer ∧ pkg ≠ s.ownPackage ∧ s.boot.fused ≤ sec
    ∃ t, exec (.wlPortBringup port pkg dim up sec) s = .next t ∧ (∀ p < 16, p ≠ port → vgetD t.edge.wlports p ⟨false, false⟩ = vgetD s.edge.wlports p ⟨false, false⟩) ∧
      (fits → vgetD t.edge.wlports port ⟨false, false⟩ = ⟨true, false⟩) ∧ (¬ fits → vgetD t.edge.wlports port ⟨false, false⟩ = ⟨false, true⟩) ∧
      (s.packages ≤ 64 → t.edge.bootstat = s.edge.bootstat) ∧ t.edge.bootstat &&& 0xFF = s.edge.bootstat &&& 0xFF ∧ t.mem = s.mem ∧ t.groups = s.groups) ∧
  (∀ (s : State) (src seq ctx : Nat) (world : BitVec 8) (addr : Word) (kind : RemoteKind),
    let k := addr.toNat
    let n := (RemoteKind.extent kind).1
    let heard := s.otherPackage src = true ∧ s.wlFrom src = true ∧ (∀ r ∈ s.edge.wlreplies, r.src ≠ src ∨ r.seq ≠ seq) ∧ k % (RemoteKind.extent kind).2 = 0
    let may := ∀ i < n, ∃ w, s.pageWorld (k + i) = some w ∧ (w = world ∨ w = 0)
    let live := n = 0 ∨ s.ctxState ctx = .live
    let still := ∀ i < n, s.migrating (k + i) = false
    let sound := s.Canonical ∧ ∀ i < n, plain s (k + i) ∧ k + i < Config.windowKey
    let go := exec (.wlRemoteRequest src seq world ctx addr kind) s
    let replies := fun (t : State) (bs : List Byte) (e : BitVec 8) => go = .next t ∧ ⟨src, seq, bs, e⟩ ∈ t.edge.wlreplies
    (¬ heard → go = .next s) ∧
    (heard → ¬ may → ∃ t, replies t [] Cause.worldMismatch ∧ t.mem = s.mem ∧ t.tags = s.tags) ∧
    (heard → may → ¬ live → ∃ t, replies t [] Cause.transInvalid ∧ t.mem = s.mem ∧ t.tags = s.tags) ∧
    (heard → may → live → RemoteKind.writes kind = true → ¬ still → go = .next s) ∧
    (heard → may → live → RemoteKind.overwrites kind = false → s.spoilt k n = true → go = .next s) ∧
    (heard → may → live → RemoteKind.overwrites kind = true ∨ s.spoilt k n = false →
      (kind = .read n → ∃ t, replies t (s.readKeys k n ++ (List.range (n / 16)).map fun i => BitVec.ofNat 8 (bitNat (s.keyTag (k + 16 * i)))) 0 ∧
        t.mem = s.mem ∧ t.tags = s.tags) ∧
      (∀ bs tg, kind = .write bs tg → still → ∃ t, replies t [] 0 ∧
        (sound → t.readKeys k n = bs ∧ ∀ i < n, let g := (k + i) / 16 * 16
          t.keyTag (k + i) = (decide (k ≤ g ∧ g + 16 ≤ k + n) && tg.getD ((g - (k + (16 - k % 16) % 16)) / 16) false))) ∧
      (∀ op v u ret fl, kind = .atomic op v u ret fl → still →
        let r := atomPerform op.toNat [⟨v.toNat % 2 ^ (8 * n), u.toNat % 2 ^ (8 * n), .none⟩] (s.readNat k n)
        ∃ t, replies t (if ret then leBytes 8 (r.results.headD 0) ++ leBytes 1 (r.flags ||| fl).toNat else []) 0 ∧
          (sound → t.readNat k n = match r.stored with | some x => x % 2 ^ (8 * n) | none => s.readNat k n) ∧
          let at' := homeSlice k * 4096 + ctx
          (k < Config.windowKey → mapGetD t.sliceFlags at' 0 = if ret then mapGetD s.sliceFlags at' 0 else mapGetD s.sliceFlags at' 0 ||| (r.flags ||| fl))) ∧
      (∀ m o0 o1, kind = .routine m o0 o1 → still → s.lookupRoutine (homeSlice k) ctx m.toNat = none →
        ∃ t, replies t (leBytes 8 0 ++ leBytes 8 0x2C ++ [0]) 0 ∧ t.mem = s.mem ∧ t.tags = s.tags) ∧
      (∀ m o0 o1 e t', kind = .routine m o0 o1 → still → s.lookupRoutine (homeSlice k) ctx m.toNat = some (e, t') → e.legal = false →
        ∃ t, replies t (leBytes 8 0 ++ leBytes 8 0x29 ++ [0]) 0 ∧ t.mem = t'.mem ∧ t.tags = t'.tags) ∧
      (∀ m o0 o1 e t', kind = .routine m o0 o1 → still → s.lookupRoutine (homeSlice k) ctx m.toNat = some (e, t') → e.legal = true →
        let r := Routine.run e.words 32 (t'.startRoutine k o0 o1)
        let d := t'.endRoutine k r
        ∃ t, replies t (leBytes 8 (vgetD r.regs 26 0).toNat ++ leBytes 8 d.1 ++ leBytes 1 (if d.1 = 0 then r.flags.toNat else 0)) 0 ∧ t.mem = d.2.mem ∧ t.tags = d.2.tags) ∧
      (∀ tag record, kind = .message tag record →
        let cl := k / 2 ^ 16
        let kern := decide (ctx = 0 ∧ 0xFF00 ≤ tag.toNat)
        let p := (s.cluster cl).port kern ctx
        (192 ≤ cl ∨ (ctx ≠ 0 ∧ s.ctxState ctx ≠ .live) → ∃ t, replies t [] Cause.transInvalid ∧ t.mem = s.mem) ∧
        (cl < 192 → (ctx = 0 ∨ s.ctxState ctx = .live) → (∀ r ∈ p.recvs, r.any = false ∧ r.tag ≠ tag) →
          (p.queue.length < portDepth kern → ∃ t, replies t [1] 0 ∧ (t.cluster cl).port kern ctx = { p with queue := p.queue ++ [⟨tag, record⟩] } ∧ t.mem = s.mem) ∧
          (portDepth kern ≤ p.queue.length → ∃ t, replies t [] Cause.msgOverflow ∧ t.mem = s.mem)) ∧
        (∀ pre r post, cl < 192 → (ctx = 0 ∨ s.ctxState ctx = .live) → p.recvs = pre ++ r :: post → (r.any = true ∨ r.tag = tag) →
          (∀ q ∈ pre, q.any = false ∧ q.tag ≠ tag) →
          (s.writeWaits r.key 16 = true → go = .next s) ∧ (s.writeWaits r.key 16 = false →
          ∃ t, replies t [0] 0 ∧ (t.cluster cl).port kern ctx = { p with recvs := pre ++ post } ∧
            (s.Canonical → (∀ i < 16, plain s (r.key + i)) → t.readNat r.key 16 = record % 2 ^ 128)))))) ∧
  (∀ (s : State) (pkg seq : Nat),
    ((∃ x ∈ s.edge.wlSent, x.pkg = pkg ∧ x.seq = seq) → ∃ t, exec (.wordoLinkRetransmission pkg seq) s = .next t ∧ t.mem = s.mem ∧ t.tags = s.tags ∧
      t.groups = s.groups ∧ t.clusters = s.clusters ∧ t.edge = s.edge ∧
      mapGetD t.fleet.counts 0x180 0 = min (2 ^ 64 - 1) (mapGetD s.fleet.counts 0x180 0 + 1)) ∧
    ((∀ x ∈ s.edge.wlSent, x.pkg ≠ pkg ∨ x.seq ≠ seq) → exec (.wordoLinkRetransmission pkg seq) s = .next s)) ∧
  (∀ (s : State) (port lp : Nat) (form : IpForm) (bs : List Byte), port < 2 → lp < 65536 → s.boot.phase = 2 →
    let i := Instr.ethFrameReceive port lp form bs
    let lost := form = .fragment ∨ form = .damaged ∨ 9020 - (if form = .v6 then 40 else 20) - 8 < bs.length
    let put := fun (o o1 : Sock) => s.io.socks.map fun x => if x.ctx = o.ctx ∧ x.owner = o.owner ∧ x.obj = o.obj then o1 else x
    (lost → ∃ t, exec i s = .next t ∧ vgetD t.io.drops port 0 = min (2 ^ 64 - 1) (vgetD s.io.drops port 0 + 1) ∧ t.io.socks = s.io.socks ∧ t.io.rxq = s.io.rxq) ∧
    (¬ lost → lp = s.edge.ethlport.toNat → exec i s = .next s) ∧
    (¬ lost → lp ≠ s.edge.ethlport.toNat → lp ≠ 4791 → ∃ t, exec i s = .next t ∧
      Heard (s.cluster (lp % 192)).svc (t.cluster (lp % 192)).svc ⟨9, 0, 0, BitVec.ofNat 64 port⟩ ∧
      ((∀ o ∈ s.io.socks, o.roce = true ∨ o.port ≠ lp) → t.io = { s.io with rxq := mapSet s.io.rxq lp (mapGetD s.io.rxq lp [] ++ [bs]) }) ∧
      (∀ pre o post, s.io.socks = pre ++ o :: post → o.roce = false → o.port = lp → (∀ x ∈ pre, x.roce = true ∨ x.port ≠ lp) →
        t.io = { s.io with socks := put o { o with rx := o.rx ++ [bs] } })) ∧
    (¬ lost → lp ≠ s.edge.ethlport.toNat → lp = 4791 →
      let n := fun j => (bs.getD j 0).toNat
      let mine := fun (o : Sock) => o.roce = true ∧ o.obj = n 5 * 65536 + n 6 * 256 + n 7
      let sends := n 0 ≤ 4 ∧ 16 ≤ bs.length
      let seq := n 9 * 65536 + n 10 * 256 + n 11
      (sends → (∀ o ∈ s.io.socks, ¬ mine o) → exec i s = .next s) ∧
      (∀ pre o post, sends → s.io.socks = pre ++ o :: post → mine o → (∀ x ∈ pre, ¬ mine x) → o.owner < 192 →
        (seq ≠ o.psn → exec i s = .next s) ∧
        (seq = o.psn → ∃ t, exec i s = .next t ∧ t.io = { s.io with socks := put o { o with rx := o.rx ++ [(bs.drop 12).take (bs.length - 16)], psn := (o.psn + 1) % 2 ^ 24 } } ∧
          Heard (s.cluster o.owner).svc (t.cluster o.owner).svc ⟨9, 0, 0, BitVec.ofNat 64 port⟩)))) ∧
  (∀ (s : State) (port : Nat) (form : IpForm) (bs : List Byte), port < 2 → s.boot.phase = 2 →
    let i := Instr.taggedLaunchFrame port ⟨form, bs⟩
    let n := fun o k => leNat ((bs.drop o).take k)
    let lost := form = .fragment ∨ form = .damaged ∨ 9020 - (if form = .v6 then 40 else 20) - 8 < bs.length
    let drops := min (2 ^ 64 - 1) (vgetD s.io.drops port 0 + 1)
    let formed := ¬ lost ∧ 16 ≤ bs.length ∧ n 0 4 = 0x4D5A4C31 ∧ n 4 1 < 64 ∧ n 5 3 = 0 ∧ n 8 4 = bs.length - 16
    (¬ formed → ∃ t, exec i s = .next t ∧ vgetD t.io.drops port 0 = drops ∧ t.mem = s.mem ∧ t.disp = s.disp) ∧
    (formed →
      let data := bs.drop 16
      let slot := physAddr (vgetD s.edge.ethslot port 0) + 128 * n 4 1
      let w := s.readNat (slot + 88) 8
      let p := s.readRec [⟨slot, 64⟩] true 0
      let buf := s.readCap (slot + 64)
      let q := s.queue p.queueNo
      let armed := w.testBit 0 = true ∧ data.length ≤ s.readNat (slot + 80) 8 ∧ s.running = true ∧ q.isOpen = true ∧ q.held ≠ q.depth
      let found := s.resolve (s.whoCtx q.ctx 0 false) buf [Perm.store] Need.write buf.cursor.toNat data.length 1
      let word := s.Canonical ∧ ∀ j < 8, plain s (slot + 88 + j)
      (¬ armed ∨ (∃ e, found = .error e) → ∃ t, exec i s = .next t ∧ vgetD t.io.drops port 0 = drops ∧ t.queue p.queueNo = q ∧
        t.disp.posts = s.disp.posts ∧ Heard (s.cluster 0).svc (t.cluster 0).svc ⟨9, 0, 0, BitVec.ofNat 64 (port + 2 ^ 16)⟩ ∧
        (word → s.moving (slot + 88) 8 = false → (∀ z ∈ s.stalled, z.meets (slot + 88) 8 = false) → t.readNat (slot + 88) 8 = w % 2 ^ 32 + min (2 ^ 32 - 1) (w / 2 ^ 32 + 1) * 2 ^ 32)) ∧
      (∀ segs ts, armed → found = .ok (segs, ts) → (s.moving slot 128 = true ∨ ∃ a ∈ segs, s.writeWaits a.lo a.len = true) → exec i s = .next s) ∧
      (∀ segs ts, armed → found = .ok (segs, ts) → s.moving slot 128 = false → (∀ a ∈ segs, s.writeWaits a.lo a.len = false) →
        let c7 := { (buf.setBounds buf.cursor.toNat data.length).1 with tag := buf.tag && (buf.setBounds buf.cursor.toNat data.length).2.1 }
        let keys := segKeys segs
        let entry := fun k => q.slot q.tail.toNat ≤ k ∧ k < q.slot q.tail.toNat + 64
        ∃ t, exec i s = .next t ∧ t.queue p.queueNo = { q with tail := q.tail + 1 } ∧
          mapGetD t.disp.posts p.queueNo [] = mapGetD s.disp.posts p.queueNo [] ++ [⟨192, none, some (c7, BitVec.ofNat 64 data.length)⟩] ∧
          (word → (∀ j < 8, slot + 88 + j ∉ keys ∧ ¬ entry (slot + 88 + j)) → t.readNat (slot + 88) 8 = w - 1) ∧
          (s.Canonical → keys.Nodup → (∀ k ∈ keys, plain s k ∧ ¬ entry k) → ∀ j k, keys[j]? = some k → t.keyByte k = data.getD j 0)))) ∧
  (∀ (s : State) (port cl : Nat) (ok : Bool), cl < 192 →
    let i := Instr.nvmeCompletion port (cl, ok)
    let admin := cl = port % 4 * 48 ∧ port ∈ s.io.admin
    (admin → ∃ t, exec i s = .next t ∧ t.io = { s.io with admin := s.io.admin.filter (· != port) } ∧ t.mem = s.mem ∧ t.tags = s.tags ∧
      Heard (s.cluster cl).svc (t.cluster cl).svc ⟨8, 0, 0, BitVec.ofNat 64 (port + 192 * 2 ^ 8)⟩ ∧
      let unused := (∃ n < 16, (Config.namespaces port n).isSome = true) ∧ ∀ n < 16, supported (16 * port + n) = none
      (ok = true ∧ unused ∧ Alert.drive port ∉ s.fleet.alerts → t.fleet.alerts = s.fleet.alerts ++ [Alert.drive port]) ∧
      (¬ (ok = true ∧ unused ∧ Alert.drive port ∉ s.fleet.alerts) → t.fleet.alerts = s.fleet.alerts)) ∧
    (¬ admin → (∀ c ∈ s.io.cmds, c.port ≠ port ∨ c.shard ≠ cl) → exec i s = .next s) ∧
    (¬ admin → ∀ pre c post, s.io.cmds = pre ++ c :: post → c.port = port → c.shard = cl → (∀ d ∈ pre, d.port ≠ port ∨ d.shard ≠ cl) →
      let wait := (c.op = .read ∧ ∃ a ∈ c.segs, s.writeWaits a.lo a.len = true) ∨ ∃ j, c.job = some j ∧ s.moving j.1 0x1000 = true
      let keys := segKeys c.segs
      (wait → exec i s = .next s) ∧
      (¬ wait → ∃ t, exec i s = .next t ∧ t.io.cmds = pre ++ post ∧ Heard (s.cluster cl).svc (t.cluster cl).svc ⟨8, 0, 0, BitVec.ofNat 64 (port + cl * 2 ^ 8)⟩ ∧
        (c.job = none → (c.op ≠ .read ∨ ok = false → t.mem = s.mem ∧ t.tags = s.tags) ∧
          (c.op = .read → ok = true → s.Canonical → keys.Nodup → (∀ k ∈ keys, plain s k) → ∀ j k, keys[j]? = some k → j < c.bytes.length →
            t.keyByte k = c.bytes.getD j 0)) ∧
        ∀ j e left call, c.job = some (j.at0, j.k) → s.io.jobs = [j] → s.callAt j.at0 j.k j.num = some call → call.first = j.k → j.stage = .busy (left + 2) e →
          t.io.jobs = [{ j with stage := .busy (left + 1) (if ok then e else 8) }]))) ∧
  (∀ (s : State) (port cl : Nat), port < 2 → cl < 192 →
    ((∀ o ∈ s.io.socks, o.owner ≠ cl ∨ o.tx = []) → exec (.ethTransmitCompletion port cl) s = .next s) ∧
    (∀ pre o post, s.io.socks = pre ++ o :: post → o.owner = cl → o.tx ≠ [] → (∀ x ∈ pre, x.owner ≠ cl ∨ x.tx = []) →
      ∃ t, exec (.ethTransmitCompletion port cl) s = .next t ∧
        t.io = { s.io with socks := s.io.socks.map fun x => if x.ctx = o.ctx ∧ x.owner = o.owner ∧ x.obj = o.obj then { o with tx := o.tx.drop 1 } else x } ∧
        Heard (s.cluster cl).svc (t.cluster cl).svc ⟨9, 0, 0, BitVec.ofNat 64 (port + 2 ^ 8)⟩))

/-! ### System calls -/

/-- R264, R286 to R295, R331, R355, R360 to R362, R377, R418 to R420: a service takes the elements of its record that ask the same. Where its shard acts, and no call before it holds
    its object, each call gives the result, has the effect and returns the error that its entry states, at once or when its drives' commands have completed or its wait is over;
    the result and error are recorded for each of its elements, or kept for the shard that forwarded it. A call waits while its trap record's page is being moved, a
    create that has made its object is not checked again, what was never written is read as zero without a command, and an emptied object's commands wait for room.
    What the manual leaves open of a call is the model's choice (log entries 18, 47, 49 and 51). -/
def Obligations.CallsAnswerTheirElements : Prop :=
  (∀ (s : State) (rec k num : Nat) (c : Call), s.callAt rec k num = some c →
    c.at0 = rec ∧ c.num = num ∧ k ∈ c.elems ∧ c.args = s.trapArgs rec k ∧ s.ctxState c.ctx = .live ∧ s.readNat rec 8 % 256 = num ∧ c.elems.Nodup ∧
    ∀ i, i ∈ c.elems ↔ i < 32 ∧ (s.trapElems rec).testBit i = true ∧ (s.trapDone rec).testBit i = false ∧
      (s.trapArgs rec i).take (callUsed num) = c.args.take (callUsed num)) ∧
  (∀ (s : State) (c : Call) (r : Word) (e : Nat), s.Canonical → c.elems.Nodup → (∀ i ∈ c.elems, i < 32) → e < 2 ^ 64 → c.at0 + 0x1000 ≤ Config.windowKey →
    (∀ i < 0x1000, tagByte (c.at0 + i) = none ∧ worldByte (c.at0 + i) = none) →
    let t := s.callDone c r e
    (∀ i ∈ c.elems, t.readNat (c.at0 + 0x680 + 16 * i) 8 = r.toNat ∧ t.readNat (c.at0 + 0x688 + 16 * i) 8 = e) ∧
    (∀ i < 128, (t.trapDone c.at0).testBit i = ((s.trapDone c.at0).testBit i || c.elems.contains i)) ∧ t.groups = s.groups ∧ t.ctxs = s.ctxs ∧ t.io = s.io) ∧
  (∀ (s : State) (c : Call) (r : Word) (e : Nat),
    (s.jobOf c = none → s.callEnd c r e = s.callDone c r e) ∧
    (∀ j, s.jobOf c = some j →
      let others := s.io.jobs.filter fun x => !x.of c
      (j.owner = j.asker → s.callEnd c r e = State.callDone { s with io := { s.io with jobs := others } } c r e) ∧
      (j.owner ≠ j.asker → s.callEnd c r e =
        { s with io := { s.io with jobs := s.io.jobs.map fun x => if x.of c then { x with stage := .ended r e } else x } }) ∧
      ∀ x ok, j.stage = .busy 1 x →
        (ok = true → x = 0 → j.write = none → s.cmdEnd c ok = s.callEnd c j.result 0) ∧
        (∀ i y, ok = true → x = 0 → j.write = some (i, y) →
          s.cmdEnd c ok = State.callEnd { s with io := { s.io with objects := mapSet s.io.objects i { y with time := s.utc } } } c j.result 0) ∧
        (ok = false → s.cmdEnd c ok = s.callEnd c 0 8) ∧ (ok = true → x ≠ 0 → s.cmdEnd c ok = s.callEnd c 0 x))) ∧
  (∀ (s : State) (rec : Word) (k : Nat) (c : Call),
    let acts := fun num => s.callAt rec.toNat k num = some c ∧ s.moving c.at0 0x1000 = false ∧
      (s.jobOf c = none ∧ s.callOwner c = c.cluster ∧ s.earlierCall c = false ∧ s.behind c (s.callObject c) = false ∨
        ∃ j, s.jobOf c = some j ∧ (j.stage = .sent ∨ ∃ t, j.stage = .waiting t) ∧ s.behind c j.obj = false)
    let ends := fun i (t : State) (r : Word) (e : Nat) => exec i s = .next (t.callEnd c r e)
    let works := fun i (t0 : State) (cmds : List NvmeCmd) (r : Word) (w : Option (Nat × Object)) => ∃ t j, exec i s = .next t ∧ t.io.cmds = t0.io.cmds ++ cmds.map (fun x => { x with auth := some (c.ctx, c.c15.colour) }) ∧
      t.io.objects = t0.io.objects ∧ t.mem = t0.mem ∧ t.tags = t0.tags ∧ t.jobOf c = some j ∧ j.stage = .busy cmds.length 0 ∧ j.result = r ∧ j.write = w
    let waits := fun i => ∃ t j, exec i s = .next t ∧ t.jobOf c = some j ∧ t.mem = s.mem ∧ t.io.socks = s.io.socks ∧
      j.stage = .waiting (match (s.jobOf c).map Job.stage with | some (.waiting x) => x | _ => s.time)
    (s.moving c.at0 0x1000 = true → ∀ p ∈ [(2, Instr.memFree rec k), (0x13, .fileClose rec k), (0x22, .sockRecv rec k), (0x23, .sockClose rec k), (0x30, .timeNow rec k),
        (0x31, .logWrite rec k), (0x32, .gridYield rec k)], s.callAt rec.toNat k p.1 = some c → exec p.2 s = .next s) ∧
    (∀ base pages ok, acts 1 → let i := Instr.memAlloc rec k (base, pages) ok
      (c.arg 0 = 0 ∨ 2 ^ 40 < c.arg 0 → ends i s 0 2) ∧
      (∀ slot, 0 < c.arg 0 → c.arg 0 ≤ 2 ^ 40 → s.slotOut c true (c.arg 1) = .ok slot →
        (ok = false → ends i s 0 4) ∧
        (∀ x s0 segs, ok = true → s.ctx c.ctx = some x → let len := exactLen (c.arg 0)
          s.mapRegion c.ctx base.toNat len pages = some s0 → s0.mappedOn c base.toNat len (clusterDie c.cluster) = some segs →
          exactAlign base.toNat (c.arg 0) = base.toNat → x.overlaps base.toNat len = false → s.pagesFree c.ctx (clusterDie c.cluster) pages = true →
          (∀ a ∈ segs, s.moving a.lo a.len = false) →
          ends i (((segs.foldl (fun (s : State) a => s.zeroRange a.lo a.len) s0).modCtx c.ctx fun x => { x with allocs := x.allocs ++ [(base, len)] }).putSlot c slot
            (mkCap 0x4373 c.c15.colour base.toNat len base)) base 0))) ∧
    (∀ v x, acts 2 → s.readSlot c (c.arg 0) = .ok v → s.ctx c.ctx = some x → let i := Instr.memFree rec k
      (v.tag = false ∨ v.otype ≠ 0 ∨ (∀ a ∈ x.allocs, a.1.toNat ≠ v.base) → ends i s 0 2) ∧
      (∀ a n pre post, v.tag = true → v.otype = 0 → x.allocs = pre ++ (a, n) :: post → a.toNat = v.base → (∀ b ∈ pre, b.1.toNat ≠ v.base) →
        ends i (s.modCtx c.ctx fun x => { x with allocs := x.allocs.filter (· != (a, n)), freed := x.freed ++ [(a, n, v.colour)] }) 0 0)) ∧
    (∀ grant, acts 3 → let i := Instr.poolGrow rec k grant
      (c.arg 0 % 0x10000 ≠ 0 ∨ 2 ^ 40 < c.arg 0 → ends i s 0 2) ∧
      (c.arg 0 % 0x10000 = 0 → c.arg 0 ≤ 2 ^ 40 → (grant = none → ends i s 0 4) ∧
        (∀ x pages, grant = some pages → s.ctx c.ctx = some x → let d := clusterDie c.cluster
          let n := vgetD x.pools d 0 + c.arg 0
          pages.length = c.arg 0 / 0x10000 → s.pagesFree c.ctx d pages = true →
          ends i (s.modCtx c.ctx fun x => { x with pools := vset x.pools d n, pages := vmod x.pages d (· ++ pages) }) (BitVec.ofNat 64 n) 0))) ∧
    (∀ obj answer segs slot, acts 0x10 → let i := Instr.fileOpen rec k obj answer
      let denied := answer = .denied
      let fl := c.arg 2
      let bad := c.arg 1 = 0 ∨ 255 < c.arg 1 ∨ 32 ≤ fl ∨ (fl.testBit 3 = true ∧ fl.testBit 1 = false) ∨ (fl.testBit 4 = true ∧ fl.testBit 2 = false)
      let due := fun n => ∃ x, s.io.naming = some x ∧ x.obj = n
      let opens := fun (t : State) slot n len => ends i
          { State.putSlot { t with io := t.io.join c.ctx (n % 256) (n / 256) (fl.testBit 0) (fl.testBit 1) } c slot (mkHandle s.free otFile (n % 256) (n / 256)) with free := s.free + 1 }
          (BitVec.ofNat 64 len) 0
      let made := fun p => ∃ j, s.jobOf c = some j ∧ j.write = some p.1 ∧ j.place = some p.2
      (∀ n x at' auth y, made ((n, x), (at', auth)) → (due n ∨ s.moving at' 16 = true → exec i s = .next s) ∧
        (¬ due n → s.moving at' 16 = false → mapGet s.io.objects n = some y → opens s at' n y.bytes.length)) ∧
      ((∀ p, ¬ made p) → bad → ends i s 0 2) ∧
      ((∀ p, ¬ made p) → ¬ bad → s.callRead c (c.arg 0) (c.arg 1) = .ok segs → s.slotOut c false (c.arg 3) = .ok slot →
        let name := s.readSegs segs
        (∀ n x, s.io.objects.find? (fun p => p.2.name == name) = some (n, x) → mapGet s.io.objects n = some x →
          let many := s.openOf c.ctx (n % 256) (n / 256) = none ∧ 4096 ≤ s.openCount c.ctx
          (due n → exec i s = .next s) ∧
          (¬ due n → (many → ends i s 0 10) ∧ (¬ many → fl.testBit 4 = true → ends i s 0 6) ∧ (¬ many → fl.testBit 4 = false → denied → ends i s 0 7) ∧
            (¬ many → fl.testBit 4 = false → ¬ denied → fl.testBit 3 = false → opens s slot n x.bytes.length) ∧
            (¬ many → fl.testBit 4 = false → ¬ denied → fl.testBit 3 = true → let back := x.backCmds (s.callOwner c)
              let empty : Object := { x with bytes := [], time := s.utc, extents := [], written := [] }
              (s.io.queueRoom (s.callOwner c) back = false → exec i s = .next s) ∧
              (s.io.queueRoom (s.callOwner c) back = true → opens { s with io := { s.io with cmds := s.io.cmds ++ back, objects := mapSet s.io.objects n empty } } slot n 0)))) ∧
        ((∀ p ∈ s.io.objects, p.2.name ≠ name) → let n := c.cluster + 256 * obj
          let many := 4096 ≤ s.openCount c.ctx
          let create := fl.testBit 2 = true
          (many → ends i s 0 10) ∧ (¬ many → ¬ create → ends i s 0 5) ∧ (¬ many → create → denied → ends i s 0 7) ∧
          (¬ many → create → answer = .full → ends i s 0 4) ∧
          (¬ many → create → answer = .ok → s.io.naming = none → obj < 2 ^ 32 → mapGet s.io.objects n = none →
            let x : Object := ⟨name, c.cluster, [], s.utc, [], []⟩
            ∃ t j, exec i s = .next t ∧ t.io.objects = mapSet s.io.objects n x ∧ t.io.naming = some ⟨c.at0, c.first, n, (List.range 192).drop 1, []⟩ ∧
              t.io.dirs = mapSet s.io.dirs n ((List.range 192).drop 1) ∧ t.jobOf c = some j ∧ j.write = some (n, x) ∧
              j.place = some (slot, c.ctx, c.c15.colour) ∧ t.mem = s.mem)))) ∧
    (∀ ext room o x, s.fileIn c (c.arg 0) = .ok (o, x) →
      (∀ shard, acts 0x11 → let i := Instr.fileRead rec k shard
        (s.servedBy c shard = false → exec i s = .next s) ∧ (s.servedBy c shard = true →
        (2 ^ 24 < c.arg 2 → ends i s 0 2) ∧ (c.arg 2 ≤ 2 ^ 24 → o.read = false → ends i s 0 7) ∧
        (∀ dst, c.arg 2 ≤ 2 ^ 24 → o.read = true → s.callWrite c (c.arg 3) (c.arg 2) = .ok dst → let off := c.arg 1
          let n := min (c.arg 2) (x.bytes.length - off)
          let place := fun lo m => takeSegs m (dropSegs (lo - off) dst)
          let cmds := (x.writtenParts off n).map fun p =>
            nvmeCmd o.owner .read p.1 p.2.1 p.2.2 ((x.bytes.drop p.2.1).take p.2.2) (place p.2.1 p.2.2) (some (c.at0, c.first))
          let t := (gapParts x.written off n).foldl (fun (s : State) g => s.callPut c (place g.1 g.2) (List.replicate g.2 0)) s
          (s.io.queueRoom o.owner cmds = false → exec i s = .next s) ∧
          (s.io.queueRoom o.owner cmds = true → (cmds = [] → ends i t (BitVec.ofNat 64 n) 0) ∧ (cmds ≠ [] → works i t cmds (BitVec.ofNat 64 n) none))))) ∧
      (acts 0x12 → let i := Instr.fileWrite rec k ext room
        (2 ^ 24 < c.arg 2 → ends i s 0 2) ∧ (c.arg 2 ≤ 2 ^ 24 → o.write = false → ends i s 0 7) ∧
        (∀ src, c.arg 2 ≤ 2 ^ 24 → o.write = true → s.callRead c (c.arg 3) (c.arg 2) = .ok src → let off := c.arg 1
          let len := c.arg 2
          let full := room = false ∨ (len ≠ 0 ∧ 2 ^ 38 < off + len)
          let all := x.extents ++ ext
          let cmds := (ext.map fun e => nvmeCmd o.owner .writeZeroes e e.off e.len [] [] (some (c.at0, c.first))) ++ (extentParts all off len).map fun p =>
            nvmeCmd o.owner .writeFua p.1 p.2.1 p.2.2 (((s.readSegs src).drop (p.2.1 - off)).take p.2.2) [] (some (c.at0, c.first))
          let fits := s.io.extentsOk x ext = true ∧ gapParts (extentSpans all) off len = [] ∧ s.io.queueRoom o.owner cmds = true
          let n := o.owner + 256 * o.obj
          let y := { x with bytes := spliceBytes x.bytes off (s.readSegs src), time := s.utc, extents := all,
                             written := x.written ++ gapParts x.written off len }
          (full → ends i s 0 4) ∧ (¬ full → ¬ fits → exec i s = .next s) ∧
          (¬ full → fits → (cmds = [] → ends i { s with io := { s.io with objects := mapSet s.io.objects n y } } (BitVec.ofNat 64 len) 0) ∧
            (cmds ≠ [] → works i s cmds (BitVec.ofNat 64 len) (some (n, y)))))) ∧
      (acts 0x13 → ends (.fileClose rec k) { s with io := { s.io with opens := s.io.opens.filter (· != o) } } 0 0) ∧
      (∀ shard, acts 0x14 → s.servedBy c shard = false → exec (.fileStat rec k shard) s = .next s) ∧
      (∀ dst shard, acts 0x14 → s.servedBy c shard = true → s.callWrite c (c.arg 1) 32 = .ok dst → ends (.fileStat rec k shard)
        (s.callPut c dst (leBytes 8 x.bytes.length ++ leBytes 8 x.time.toNat ++ leBytes 8 x.extents.length ++ leBytes 8 (bitNat o.read + 2 * bitNat o.write))) 0 0)) ∧
    (∀ e, acts 0x13 → s.fileIn c (c.arg 0) = .error (.fail e) → ends (.fileClose rec k) s 0 e) ∧
    (∀ obj accepted src slot, acts 0x20 → let i := Instr.sockOpen rec k obj accepted
      (1 < c.arg 0 ∨ 0xFFFF < c.arg 1 → ends i s 0 2) ∧
      (c.arg 0 ≤ 1 → c.arg 1 ≤ 0xFFFF → s.callRead c (c.arg 2) 32 = .ok src → s.slotOut c false (c.arg 3) = .ok slot →
        let many := 4096 ≤ s.openCount c.ctx
        let taken := ∃ o ∈ s.io.socks, o.roce = decide (c.arg 0 = 1) ∧ o.port = c.arg 1
        let owner := if c.arg 0 = 0 then c.arg 1 % 192 else c.cluster
        (many → ends i s 0 10) ∧ (¬ many → taken → ends i s 0 6) ∧ (¬ many → ¬ taken → c.arg 0 = 1 → accepted = false → ends i s 0 11) ∧
        (¬ many → ¬ taken → c.arg 0 = 0 ∨ accepted = true → obj < 2 ^ 32 → (∀ o ∈ s.io.socks, o.owner ≠ owner ∨ o.obj ≠ obj) →
          let o : Sock := ⟨c.ctx, owner, obj, decide (c.arg 0 = 1), c.arg 1, (s.readSegs src).take 18, [], [], false, 0⟩
          ends i { State.putSlot { s with io := { s.io with socks := s.io.socks ++ [o] } } c slot (mkHandle s.free otSock owner obj) with free := s.free + 1 }
            (BitVec.ofNat 64 (c.arg 1)) 0))) ∧
    (∀ o : Sock, s.sockIn c (c.arg 0) = .ok o →
      (∀ ok, acts 0x21 → let i := Instr.sockSend rec k ok
        let most := if o.roce then 2 ^ 24 else 8972
        (most < c.arg 2 → ends i s 0 2) ∧
        (∀ src, c.arg 2 ≤ most → s.callRead c (c.arg 1) (c.arg 2) = .ok src →
          (ok = false → ends i s 0 8) ∧ (ok = true → o.gone = true → ends i s 0 11) ∧
          (ok = true → o.gone = false → ends i { s with io := s.io.setSock { o with tx := o.tx ++ [s.readSegs src] } } (BitVec.ofNat 64 (c.arg 2)) 0))) ∧
      (∀ dst, acts 0x22 → s.callWrite c (c.arg 1) (c.arg 2) = .ok dst → let i := Instr.sockRecv rec k
        (∀ d rest, o.rx = d :: rest → let bs := d.take (c.arg 2)
          let o1 := { o with rx := if o.roce = true ∧ c.arg 2 < d.length then d.drop (c.arg 2) :: rest else rest }
          ends i { s.callPut c (takeSegs bs.length dst) bs with io := s.io.setSock o1 } (BitVec.ofNat 64 bs.length) 0) ∧
        (o.rx = [] → c.arg 3 = 0 → ends i s 0 9) ∧ (o.rx = [] → c.arg 3 ≠ 0 → o.gone = true → ends i s 0 11) ∧
        (o.rx = [] → c.arg 3 ≠ 0 → o.gone = false → waits i)) ∧
      (∀ j since, s.callAt rec.toNat k 0x22 = some c → s.jobOf c = some j → j.stage = .waiting since → o.rx = [] →
        (since + usTime (c.arg 3) ≤ s.time → s.moving c.at0 0x1000 = false → ends (.sockRecvTimeout rec k) s 0 9) ∧
        (s.time < since + usTime (c.arg 3) ∨ s.moving c.at0 0x1000 = true → exec (.sockRecvTimeout rec k) s = .next s)) ∧
      (acts 0x23 → ends (.sockClose rec k) { s with io := { s.io with socks := s.io.socks.filter fun x =>
        !(x.ctx == o.ctx && x.owner == o.owner && x.obj == o.obj) } } 0 0)) ∧
    (acts 0x30 → (1 < c.arg 0 → ends (.timeNow rec k) s 0 2) ∧ (c.arg 0 = 0 → ends (.timeNow rec k) s s.utc 0) ∧
      (c.arg 0 = 1 → ends (.timeNow rec k) s (BitVec.ofNat 64 (s.time / nsTime 1)) 0)) ∧
    (acts 0x31 → let i := Instr.logWrite rec k
      (c.arg 1 = 0 ∨ 4096 < c.arg 1 → ends i s 0 2) ∧
      (0 < c.arg 1 → c.arg 1 ≤ 4096 →
        (∀ src, s.callRead c (c.arg 0) (c.arg 1) = .ok src → ends i (s.modCtx c.ctx fun x => { x with log := x.log ++ [s.readSegs src] }) 0 0) ∧
        (∀ e, s.callRead c (c.arg 0) (c.arg 1) = .error (.fail e) → ends i s 0 e) ∧
        (∀ va, s.callRead c (c.arg 0) (c.arg 1) = .error (.touch va) →
          (∀ t, s.touchPage c.ctx (clusterDie c.cluster) va = some t → exec i s = .next t) ∧
          (s.touchPage c.ctx (clusterDie c.cluster) va = none → ends i s 0 0x101)))) ∧
    (acts 0x32 →
      (∀ id tm, s.Canonical → c.team = some id → s.team id = some tm → tm.save = none → s.waitedFor id tm = true →
        ∃ t q, s.SaveAsked (.next t) id tm q ∧ q.dest = (s.cluster tm.cluster).svc.ssavedst ∧ q.byDisp = false ∧ q.started = false ∧ ends (.gridYield rec k) t 1 0) ∧
      (c.team = none ∨ (∃ id tm, c.team = some id ∧ s.team id = some tm ∧ (tm.save.isSome = true ∨ s.waitedFor id tm = false)) → ends (.gridYield rec k) s 0 0)) ∧
    (s.callAt rec.toNat k 0x33 = some c → s.Canonical → ∃ t, exec (.ctxExit rec k) s = .next t ∧
      (∀ x, s.ctx c.ctx = some x → t.ctx c.ctx = some { x with state := .ending, exitCode := some (c.args.getD 0 0) }) ∧
      ∀ j g, s.group j = some g → g.ctx = c.ctx → ∃ g', t.group j = some g' ∧ g'.life = .exiting))

/-! ### Kernel messages, the management path, the fleet -/

/-- R148, R293, R331, R353, R357 to R359, R361, R374, R383: a kernel message that two shards may exchange takes its sequence number, writes its body, and joins the receiver's
    kernel port, or goes out over Wordo Link; a message that may not be sent, or finds the port full, changes nothing,
    and neither does an answer or a HELLO while the receiver has still to take the last one of that sender. A forwarded call stands at its owner, whose answer
    records its result; a name is added shard by shard; an invalidation takes the receiver's entries and a sweep the tags of its colours; a group whose message has found
    no room runs again once there is some, and is ended after 100 ms.
    The tags, the bodies' layouts and the order of these messages are the model's choice (log entry 17). -/
def Obligations.KernelMessagesReachTheirShard : Prop :=
  (∀ (s : State) (src dst : Nat) (addr : Word) (rest : List Byte), s.boot.phase = 2 → s.shardsMeet src dst = true → s.kernelWay src dst = true →
    let unanswered := fun a b => mapGetD s.io.kseq (a * 32768 + b) 0
    let p := (s.cluster dst).kport
    let sent := fun (i : Instr) (type : Nat) (body : Nat → List Byte) (also : State → Prop) =>
      let answer := type ∈ [3, 5, 7, 9]
      let request := type ∈ [2, 4, 6, 8]
      let may := if answer then unanswered dst src / 256 = type - 1 else request → unanswered src dst < 256
      let seq := if answer then unanswered dst src % 256 else (unanswered src dst + 1) % 256
      let b := body seq
      let record := type + seq * 2 ^ 8 + addr.toNat / 128 % 2 ^ 45 * 2 ^ 16 +
        2 ^ 64 * (src % 256 + (if src < 192 then s.ownPackage else src / 256 - 1) * 2 ^ 16 + 2 ^ 63)
      let unread := ¬ request ∧ ∃ m ∈ p.queue, m.record % 256 ∉ [2, 4, 6, 8] ∧ m.record / 2 ^ 64 % 2 ^ 16 = src % 256 ∧
        m.record / 2 ^ 80 % 2 ^ 8 = (if src < 192 then s.ownPackage else src / 256 - 1) % 2 ^ 8
      let moved := src < 192 ∧ s.moving addr.toNat b.length = true
      (src < 192 → bodyOk src addr b.length = true) →
      (¬ may ∨ unread ∨ moved → exec i s = .next s) ∧
      (may → dst < 192 → p.recvs = [] → 512 ≤ p.queue.length → exec i s = .next s) ∧
      (may → ¬ unread → ¬ moved → (192 ≤ dst ∨ p.recvs = [] ∧ p.queue.length < 512) → ∃ t, exec i s = .next t ∧ also t ∧
        (dst < 192 → (t.cluster dst).kport.queue = p.queue ++ [⟨BitVec.ofNat 16 (0xFF00 + type), record⟩]) ∧
        (192 ≤ dst → mapGetD t.edge.wlSeq (dst / 256 - 1) 0 = mapGetD s.edge.wlSeq (dst / 256 - 1) 0 + 1) ∧
        (answer → mapGetD t.io.kseq (dst * 32768 + src) 0 = seq) ∧ (request → mapGetD t.io.kseq (src * 32768 + dst) 0 = seq + 256 * type) ∧
        (src < 192 → type ≠ 3 → type ≠ 9 → s.Canonical → t.readKeys addr.toNat b.length = b))
    let trivial := fun (_ : State) => True
    sent (.hello src dst addr rest) 1 (fun _ => bodyOf [src] ((s.boot.digests.drop 32).take 32) rest)
      (fun t => ∀ d < 8, src < 192 → src % 48 = 0 → d % 4 = src / 48 → d ∈ t.io.admin) ∧
    (∀ (rec : Word) (k : Nat) (c : Call), s.callAt rec.toNat k (s.readNat rec.toNat 8 % 256) = some c → src = c.cluster → dst = s.callOwner c →
      ((s.jobOf c).isSome = true ∨ dst = src ∨ s.earlierCall c = true → exec (.callFwd rec k addr rest) s = .next s) ∧
      (s.jobOf c = none → dst ≠ src → s.earlierCall c = false →
        sent (.callFwd rec k addr rest) 2 (fun _ => s.fwdBody c rest) fun t => t.io.jobs = s.io.jobs ++ [s.newJob c dst .sent])) ∧
    (∀ (rec : Word) (k : Nat) (j : Job), s.dueReply rec.toNat k = some j → src = j.owner → dst = j.asker →
      ((s.callAt j.at0 j.k j.num).isSome = true → s.moving j.at0 0x1000 = true → exec (.callReply rec k addr rest) s = .next s) ∧
      (s.callAt j.at0 j.k j.num = none ∨ s.moving j.at0 0x1000 = false → sent (.callReply rec k addr rest) 3 (fun _ => s.replyBody j rest) fun t => t.io.jobs = s.io.jobs.erase j ∧
        ∀ r e c, j.stage = .ended r e → s.callAt j.at0 j.k j.num = some c → ∃ u : State, t = u.callDone c r e ∧
          ∀ x, x < addr.toNat ∨ addr.toNat + 128 ≤ x → tagByte x = none → u.keyByte x = s.keyByte x)) ∧
    (∀ n : Naming, src = 0 → s.io.naming = some n →
      let name := match mapGet s.io.objects n.obj with | some x => x.name | none => []
      (dst ∉ n.untold → exec (.nameAdd src dst addr rest) s = .next s) ∧
      (dst ∈ n.untold → sent (.nameAdd src dst addr rest) 4 (fun _ => bodyOf [n.obj, name.length] name rest) fun t =>
        t.io.naming = some { n with untold := n.untold.filter (· ≠ dst), due := n.due ++ [dst] } ∧
        mapGetD t.io.dirs n.obj [] = (mapGetD s.io.dirs n.obj []).filter (· ≠ dst))) ∧
    (∀ n : Naming, dst = 0 → s.io.naming = some n →
      (src ∉ n.due → exec (.nameAck src dst addr rest) s = .next s) ∧
      (src ∈ n.due → sent (.nameAck src dst addr rest) 5 (fun q => bodyOf [q] [] rest) fun t =>
        let due := n.due.filter (· ≠ src)
        (n.untold = [] ∧ due = [] → t.io.naming = none ∧ mapGet t.io.dirs n.obj = none) ∧
        (¬ (n.untold = [] ∧ due = []) → t.io.naming = some { n with due := due }))) ∧
    (∀ (ctx : Nat) (va : Word) (size : BitVec 2), sent (.tlbShoot src dst addr ⟨ctx, va, size, rest⟩) 6 (fun _ => bodyOf [ctx, va.toNat, size.toNat] [] rest) fun t =>
      let n := pageSize size.toNat
      let a := va.toNat / n * n
      dst < 192 → ∀ e, e ∈ (t.cluster dst).tlb ↔ e ∈ (s.cluster dst).tlb ∧ ¬ (e.ctx = ctx ∧ e.page * 2 ^ e.size < a + n ∧ a < (e.page + 1) * 2 ^ e.size)) ∧
    sent (.tlbAck src dst addr rest) 7 (fun q => bodyOf [q] [] rest) trivial ∧
    (∀ (ctx : Nat) (colours : BitVec 256) (release : Bool), sent (.revoke src dst addr ⟨ctx, colours, release, rest⟩) 8
      (fun _ => bodyOf [ctx + bitNat release * 2 ^ 16] (leBytes 32 colours.toNat) rest) trivial) ∧
    (∀ (ctx : Nat) (colours : BitVec 256) (release : Bool), sent (.sweepDone src dst addr ⟨ctx, colours, release, rest⟩) 9
      (fun _ => bodyOf [ctx] (leBytes 32 colours.toNat) rest) fun t =>
      src < 192 → ∃ u : State, t = u.sweep src ctx colours ∧ u.groups = s.groups ∧ u.disp = s.disp ∧ u.dies = s.dies)) ∧
  (∀ (s : State) (cl dst : Nat) (b : ColourBody) (addr rec : Word) (k : Nat) (rest : List Byte), cl < 192 →
    exec (.sweepDone cl cl addr b) s = .next (s.sweep cl b.ctx b.colours) ∧
    (s.io.naming = none ∨ cl ≠ 0 → exec (.nameAdd cl dst addr rest) s = .next s) ∧ (s.io.naming = none ∨ dst ≠ 0 → exec (.nameAck cl dst addr rest) s = .next s) ∧
    (s.dueReply rec.toNat k = none → exec (.callReply rec k addr rest) s = .next s) ∧
    (s.callAt rec.toNat k (s.readNat rec.toNat 8 % 256) = none → exec (.callFwd rec k addr rest) s = .next s)) ∧
  (∀ (s : State) (cl ctx : Nat) (colours : BitVec 256) (g : Nat), s.Canonical → g < Config.windowKey / 16 → (∀ v ∈ s.disp.saved, v.team.cluster ≠ cl ∨ v.team.ctx ≠ ctx) →
    ((∀ j < 192, (s.cluster j).svc.mig.locked = false) → (g ∈ (s.sweep cl ctx colours).tags ↔ g ∈ s.tags ∧ ¬ (colours.getLsbD (s.readCap (16 * g)).colour.toNat = true ∧ (s.sweeps cl ctx (16 * g) = true ∨ s.inPads cl ctx (16 * g) = true)))) ∧
    (s.sweep cl ctx colours).mem = s.mem) ∧
  (∀ (s : State) (k : Nat) (g : Group), s.Canonical → s.group k = some g → slotCluster k < 192 →
    let waits := g.life = .stopped ∧ g.hart.cause = 0x40
    let room := s.roomAt g.ctx g.hart.faddr = true
    (g.hart.faddr.getLsbD 30 = false → (room ↔ ((s.cluster (g.hart.faddr.toNat / 2 ^ 16 % 256)).port false g.ctx).queue.length ≤ 192)) ∧
    (¬ waits → exec (.msgOverflowTimeout k) s = .next s) ∧
    (waits → ¬ room → s.time < g.stopAt + usTime 100000 → exec (.msgOverflowTimeout k) s = .next s) ∧
    (waits → room → ∃ t g', exec (.msgOverflowTimeout k) s = .next t ∧ t.group k = some g' ∧ g'.life = .running ∧ g'.hart = g.hart ∧ g'.lane = g.lane ∧
      t.mem = s.mem ∧ ∀ j, j ≠ k → t.group j = s.group j) ∧
    (waits → ¬ room → g.stopAt + usTime 100000 ≤ s.time → ∃ t g', exec (.msgOverflowTimeout k) s = .next t ∧ t.group k = some g' ∧ g'.life = .exiting ∧ g'.lane.queue = [] ∧
      g'.tokens = Vector.replicate 16 none ∧ (∀ j, j ≠ k → (t.group j).isSome = (s.group j).isSome) ∧
      ∀ c, s.ctx g.ctx = some c → t.ctx g.ctx = some { c with log := c.log ++ [leBytes 8 (handleOf k g).toNat ++ leBytes 8 g.hart.faddr.toNat] }))

/-- R386, R398 to R404, R411, R413, R415: a package that runs serves one management command at a time, each with its status and its bytes; a class command waits for the next
    refill of every die, a challenge for its answer, and only recovery takes an image.
    The widths of the answers' fields are the model's choice (log entries 12 and 20). -/
def Obligations.ManagementCommandsAnswer : Prop :=
  ∀ (s : State) (bytes : List Byte) (first watts off : Nat) (w c : BitVec 8) (fin : Bool),
    let answers := fun i cmd status (parts : List (List Byte)) => exec i s =
      .next { s with fleet := { s.fleet with response := parts.map fun p => BitVec.ofNat 8 cmd :: BitVec.ofNat 8 status :: 0 :: 0 :: p } }
    let busy := s.fleet.pending.isSome = true ∨ ∃ x ∈ s.attest.chals, x.addr = none
    let waits := fun i b => exec i s = .next { s with fleet := { s.fleet with pending := some (b, []) } }
    let commands := [Instr.getInfo, .getTelemetry, .setClass bytes, .setWorldClass w c, .setPowerLimit watts, .getRetired first, .getCrash, .challenge bytes]
    (s.boot.phase ≠ 2 ∨ busy → ∀ i ∈ commands, exec i s = .next s) ∧
    (s.boot.phase = 2 → ¬ busy →
      answers .getInfo 1 0 [leBytes 8 Config.partNumber.toNat ++ leBytes 8 s.edge.fwver.toNat ++ leBytes 8 s.attest.index ++ leBytes 8 (ratedTokens 0) ++
        leBytes 8 (ratedTokens 1)] ∧
      (∃ t rec', exec .getTelemetry s = .next t ∧ t.fleet.response = [[2, 0, 0, 0] ++ rec'] ∧ rec'.length = 512 ∧ leNat (rec'.take 8) = 0x4D5A544C ∧
        leNat ((rec'.drop 8).take 8) = s.cycle.toNat ∧ leNat ((rec'.drop 24).take 4) = s.fleet.limit % 2 ^ 32 ∧
        leNat ((rec'.drop 28).take 4) = s.fleet.mhz % 2 ^ 32 ∧ { t with free := s.free, fleet := s.fleet } = s) ∧
      (s.badClass bytes = true → answers (.setClass bytes) 3 2 [[]]) ∧ (s.badClass bytes = false → waits (.setClass bytes) (3 :: bytes)) ∧
      (let bad := w = 255 ∨ 16 ≤ c.toNat ∨ (s.bucket 0 c.toNat).share = 0 ∨ (s.bucket 1 c.toNat).share = 0
       (bad → answers (.setWorldClass w c) 4 2 [[]]) ∧ (¬ bad → waits (.setWorldClass w c) [4, w, c])) ∧
      (let top := if Config.partM then 3600 else 3200
       (1600 ≤ watts → watts ≤ top → exec (.setPowerLimit watts) s = .next { s with fleet := { s.fleet with limit := watts, response := [[5, 0, 0, 0]] } }) ∧
       (watts < 1600 ∨ top < watts → answers (.setPowerLimit watts) 5 2 [[]])) ∧
      answers (.getRetired first) 6 0 [((s.fleet.retired.drop first).take 7).flatMap fun p => leBytes 8 (p * 65536)] ∧
      (∃ parts : List (List Byte), answers .getCrash 7 0 parts ∧ parts.flatten = s.fleet.crash ∧ parts ≠ [] ∧
        (∀ p ∈ parts, p.length ≤ 64) ∧ ∀ p ∈ parts.dropLast, p.length = 64) ∧
      (leNat ((bytes.drop 36).take 2) ≠ 0 → answers (.challenge bytes) 8 2 [[]]) ∧
      (leNat ((bytes.drop 36).take 2) = 0 → s.attest.rewrites = [] → (∀ x ∈ s.attest.chals, x.since.isSome = true) → ∃ t x, exec (.challenge bytes) s = .next t ∧
        t.attest.chals = s.attest.chals ++ [x] ∧ x.addr = none ∧ x.nonce = bytes.take 32 ∧ x.ctx = 0 ∧ x.since = some (s.cycle.toNat, s.time) ∧ t.fleet = s.fleet)) ∧
    (s.boot.phase = 0 → ∀ part, exec (.recovery off bytes part) s = .next s) ∧ (s.boot.phase ≠ 2 → exec (.recovery off bytes (.image false fin)) s = .next s) ∧
    exec (.recovery off bytes .foreign) s = .next s ∧
    (s.boot.phase ≠ 0 → (w = 0 ∨ 9 < w.toNat → answers (.recovery off bytes (.unassigned w)) w.toNat 1 [[]]) ∧
      (w ≠ 0 → w.toNat ≤ 9 → exec (.recovery off bytes (.unassigned w)) s = .next s)) ∧
    (s.boot.phase ≠ 0 → s.boot.phase ≠ 1 → ∃ t status, exec (.recovery off bytes (.image true fin)) s = .next t ∧ 1 ≤ status ∧ status ≤ 3 ∧
      t.fleet.response = [[9, BitVec.ofNat 8 status, 0, 0]] ∧ t.boot = s.boot ∧ t.edge = s.edge) ∧
    (let image := (s.boot.incoming ++ List.replicate (off - s.boot.incoming.length) 0).take off ++ bytes ++ s.boot.incoming.drop (off + bytes.length)
     (s.boot.phase = 2 → exec (.recovery off bytes (.image false fin)) s = .next { s with boot := if fin then
       { s.boot with flash := if imageAccepted image s.boot.fused then image else s.boot.flash, incoming := [] } else { s.boot with incoming := image } }) ∧
     (s.boot.phase = 1 → (fin = false → exec (.recovery off bytes (.image true fin)) s = .next
        { s with boot := { s.boot with incoming := image }, fleet := { s.fleet with response := [[9, 0, 0, 0]] } }) ∧
      (fin = true → imageAccepted image s.boot.fused = true → ∃ t, exec (.recovery off bytes (.image true fin)) s = .next t ∧ t.boot.phase = 0 ∧ t.boot.flash = image) ∧
      (fin = true → imageAccepted image s.boot.fused = false → ∃ t, exec (.recovery off bytes (.image true fin)) s = .next t ∧
        t.boot = { s.boot with incoming := [] } ∧ t.fleet.response = [[9, 0, 0, 0]])))

/-- R385, R386, R403 to R406, R408 to R413, R415, R417: a refill follows the charges of its period, each line to the class of its world, in their order, fills each enabled class to its cap and the
    pool from what passes the caps, and puts pending class commands into force; errors are counted, their pages retired, and what cannot be corrected is not delivered and ends its context, its die or the
    package; a link that fails nine times in a row goes down; power and heat step the clock and the matrix rows.
    Which causes are not corrected, whose a page is that no context maps, and who wrote a line last are the model's choice (log entries 24 and 50). -/
def Obligations.FleetEventsTakeTheirEffect : Prop :=
  ∀ s : State,
    let count := fun (t : State) (off : Nat) => mapGetD t.fleet.counts off 0
    let raised := fun (t : State) (offs : List Nat) => ∀ o, count t o = if o ∈ offs then min (2 ^ 64 - 1) (count s o + 1) else count s o
    (∀ w : BitVec 8, (s.worldClass w).val = mapGetD s.fleet.classOf w.toNat 0 % 16 ∧ s.lineClass (.fill w) = (if w = 255 then none else some (s.worldClass w)) ∧
      s.lineClass .firmware = none ∧ ∀ a,
        (s.pageWorld a = none ∨ s.pageWorld a = some 255 ∨ w = 255 → s.lineClass (.writeback a w) = none) ∧
        (s.pageWorld a = some 0 → w ≠ 255 → s.lineClass (.writeback a w) = some (s.worldClass w)) ∧
        (∀ p, s.pageWorld a = some p → p ≠ 0 → p ≠ 255 → w ≠ 255 → s.lineClass (.writeback a w) = some (s.worldClass p))) ∧
    (∀ die : Fin 4, let d := s.dies[die]
      let lines := fun kind : Fin 2 => (Config.linesMoved s.free (2 * die + kind)).filterMap s.lineClass
      let spent := fun kind : Fin 2 => chargeLines (lines kind) (d.buckets[kind], d.pool[kind])
      let blocked := fun c : Fin 16 => ∃ kind : Fin 2, let b := (spent kind).1[c]
        b.share ≠ 0 ∧ b.count ≤ 0 ∧ (b.borrow = false ∨ (spent kind).2 = 0)
      (s.cycle.toNat / 1024 < d.refill → exec (.tokenRefill die) s = .next s) ∧
      (d.refill ≤ s.cycle.toNat / 1024 → ∃ t, exec (.tokenRefill die) s = .next t ∧ t.dies[die].refill = d.refill + 1 ∧ (∀ j : Fin 4, j ≠ die → t.dies[j] = s.dies[j]) ∧
        t.mem = s.mem ∧ t.tags = s.tags ∧ t.groups = s.groups ∧ t.clusters = s.clusters ∧
        (∀ c : Fin 16, let moved := ((lines 0).filter (· = c)).length
          count t (0x30 + 8 * c) = (if moved = 0 then count s (0x30 + 8 * c) else min (2 ^ 64 - 1) (count s (0x30 + 8 * c) + moved)) ∧
          (blocked c → count t (0xB0 + 8 * c) = min (2 ^ 64 - 1) (count s (0xB0 + 8 * c) + Config.cyclesHeld s.free (16 * die + c))) ∧
          (¬ blocked c → count t (0xB0 + 8 * c) = count s (0xB0 + 8 * c))) ∧
        (∀ (kind : Fin 2) (b : Fin 16 → Bucket),
          (∀ c : Fin 16, b c = match s.fleet.pending with
            | some (x, ds) => let y := leNat ((x.drop 1).take 1)
              if x.headD 0 = 3 ∧ die.val ∉ ds ∧ kind.val = y / 16 % 2 ∧ c.val = y % 16 then
                { (spent kind).1[c] with share := leNat ((x.drop 3).take 2), cap := leNat ((x.drop 5).take 2), borrow := y.testBit 5 }
              else (spent kind).1[c]
            | none => (spent kind).1[c]) →
          (∀ c : Fin 16, t.dies[die].buckets[kind][c] = if (b c).share = 0 then b c else { b c with count := min ((b c).count + (b c).share) (b c).cap }) ∧
          (t.dies[die].pool[kind] : Int) =
            min ((List.finRange 16).map fun c => if (b c).share = 0 then 0 else max ((b c).count + (b c).share - (b c).cap) 0).sum (ratedTokens kind)) ∧
        { t.fleet with counts := s.fleet.counts, pending := s.fleet.pending, classOf := s.fleet.classOf, response := s.fleet.response } = s.fleet ∧
        (s.fleet.pending = none → t.fleet.pending = none ∧ t.fleet.classOf = s.fleet.classOf ∧ t.fleet.response = s.fleet.response) ∧
        (∀ x ds, s.fleet.pending = some (x, ds) → die.val ∉ ds →
          (ds.length < 3 → t.fleet.pending = some (x, die.val :: ds) ∧ t.fleet.classOf = s.fleet.classOf ∧ t.fleet.response = s.fleet.response) ∧
          (3 ≤ ds.length → t.fleet.pending = none ∧ t.fleet.response = [[x.headD 0, 0, 0, 0]] ∧ ∀ w c, x = [4, w, c] → mapGet t.fleet.classOf w.toNat = some c.toNat)))) ∧
    (∀ (b : Bucket) (pool : Nat), b.charge pool = if 0 < b.count then ({ b with count := b.count - 1 }, pool)
      else if b.borrow = true ∧ 0 < pool then (b, pool - 1) else ({ b with count := max (b.count - 1) (-b.cap) }, pool)) ∧
    (∀ (k : Vector Bucket 16) (pool : Nat) (c : Fin 16) (l : List (Fin 16)), chargeLines [] (k, pool) = (k, pool) ∧
      chargeLines (c :: l) (k, pool) = if k[c].share = 0 then chargeLines l (k, pool)
        else chargeLines l (k.set c.val (k[c].charge pool).1 c.isLt, (k[c].charge pool).2)) ∧
    exec .scrubPass s = .next { s with fleet := { s.fleet with errors := [] } } ∧
    (∀ (addr : Word) (found : ErrorFound) (slot : Option Nat), deviceOf addr.toNat = none → (∀ x, winOf addr.toNat = some x → Config.windowSize ≤ x) →
      exec (.softError addr found slot) s = .next s) ∧
    (∀ (addr : Word) (found : ErrorFound) (slot : Option Nat) (x : Nat), deviceOf addr.toNat = none → winOf addr.toNat = some x → x < Config.windowSize →
      let ok := found = .memory true ∨ found = .sram true ∨ found = .transfer false
      let cl := x / 0x1000000
      let cell := x % 0x1000000
      let core := (cell - 0x200000) / 0x200000
      let inner := (cell - 0x200000) % 0x200000
      let dies := fun ctx => ∀ c, s.ctx ctx = some c → c.state = .live ∨ c.state = .ending → ∃ t c', exec (.softError addr found slot) s = .next t ∧ t.ctx ctx = some c' ∧ c'.state = .dying
      let part := if cell < 0x200000 then some 0x138 else if cell < 0xA00000 then some 0x140 else none
      let lost := ∃ t, exec (.softError addr found slot) s = .next t ∧ { t with fleet := s.fleet } = s ∧ raised t [0x150]
      let holds := fun (t : Team) => t.cluster = cl ∧ (cell < 0x200000 ∧ t.way0 ≤ cell / 0x8000 ∧ cell / 0x8000 < t.way0 + t.ways ∨
        0x200000 ≤ cell ∧ 0x80000 ≤ inner ∧ t.pairHeld = some (core / 2))
      (∀ off, part = some off → ok → ∃ t, exec (.softError addr found slot) s = .next t ∧ { t with fleet := s.fleet } = s ∧ raised t [off]) ∧
      (∀ k g, part.isSome = true → ¬ ok → slot = some k → s.group k = some g → dies g.ctx) ∧
      (part.isSome = true → ¬ ok → s.reader slot addr.toNat = none →
        (0x200000 ≤ cell → inner < 0x80000 → (s.fileOwner cl core (inner / 256) = none → lost) ∧
          ∀ j r g, s.fileOwner cl core (inner / 256) = some (j, r) → s.group j = some g → dies g.ctx) ∧
        (cell < 0x200000 ∨ 0x80000 ≤ inner → ((∀ p ∈ s.teams, ¬ holds p.2) → lost) ∧ ∀ p ∈ s.teams, holds p.2 → (∀ q ∈ s.teams, holds q.2 → q = p) → dies p.2.ctx)) ∧
      (part = none → ((if (planeAt x).2 then ((s.cluster (x / 0x1000000)).core (planeAt x).1).active else ((s.cluster (x / 0x1000000)).core (planeAt x).1).shadow).src = none →
        exec (.softError addr found slot) s = .next s))) ∧
    (∀ (addr : Word) (slot : Option Nat) (dev : Device), deviceOf addr.toNat = some dev →
      let page := addr.toNat / 65536
      let n := mapGetD s.fleet.errors page 0 + 1
      let event : Event := ⟨12, 0, 0, BitVec.ofNat 64 (4 + page % 2 ^ 36 * 65536)⟩
      let listed := fun (t : State) => t.fleet.retired = (if page ∈ s.fleet.retired ∨ 4096 ≤ s.fleet.retired.length then s.fleet.retired else s.fleet.retired ++ [page]) ∧
        (page ∉ s.fleet.retired → t.fleet.listFull = (s.fleet.listFull || decide (4096 ≤ s.fleet.retired.length)) ∧
          Heard (s.cluster (48 * dev.die)).svc (t.cluster (48 * dev.die)).svc event)
      let hit := fun (found : ErrorFound) (t : State) => (found = .memory false → listed t) ∧ (found ≠ .memory false → t.fleet.retired = s.fleet.retired)
      (∃ t, exec (.softError addr (.memory true) slot) s = .next t ∧ mapGet t.fleet.errors page = some n ∧ raised t [0x130] ∧ t.mem = s.mem ∧ t.tags = s.tags ∧ t.groups = s.groups ∧
        t.dies = s.dies ∧ t.damaged = s.damaged ∧ (n ≠ 16 → t.fleet.retired = s.fleet.retired ∧ t.clusters = s.clusters) ∧ (n = 16 → listed t)) ∧
      (∃ t, exec (.softError addr (.sram true) slot) s = .next t ∧ { t with fleet := s.fleet } = s ∧ raised t [0x138]) ∧
      exec (.softError addr (.transfer false) slot) s = .next s ∧
      (∀ k g, slot = some k → s.group k = some g → s.reader slot addr.toNat = some (g.ctx, handleOf k g)) ∧
      (s.kernelData addr.toNat = true ↔ ∀ c ∈ s.ctxs, s.ctxLeaf c.1 addr.toNat = none) ∧
      (∀ found ∈ [ErrorFound.memory false, .sram false, .transfer true],
        (∀ ctx handle, s.reader slot addr.toNat = some (ctx, handle) → ∃ t, exec (.softError addr found slot) s = .next t ∧ hit found t ∧
          ∀ c, s.ctx ctx = some c → c.state = .live ∨ c.state = .ending → c.home < 192 → t.ctx ctx = some { c with state := .dying } ∧
            (t.die (clusterDie c.home)).dumps = (s.die (clusterDie c.home)).dumps ++ [⟨ctx, 0x50, handle, addr, s.cycle, none⟩]) ∧
        (s.reader slot addr.toNat = none → ∃ t, exec (.softError addr found slot) s = .next t ∧ hit found t ∧
          (s.pageWorld addr.toNat = some 255 → t.fleet.pkgFatal = true ∧ t.edge.pcieFatal = true ∧ ∀ j < 4, (t.die j).fatal = true) ∧
          (s.pageWorld addr.toNat ≠ some 255 → s.kernelData addr.toNat = true → (t.die dev.die).fatal = true ∧ (∀ j < 4, j ≠ dev.die → (t.die j).fatal = (s.die j).fatal) ∧
            ∀ c < 192, clusterDie c = dev.die → (t.cluster c).svc.released = false) ∧
          (s.pageWorld addr.toNat ≠ some 255 → s.kernelData addr.toNat = false → t.dies = s.dies ∧ t.ctxs = s.ctxs ∧ t.groups = s.groups ∧ t.mem = s.mem ∧ t.tags = s.tags ∧
            raised t [0x150] ∧ (found = .transfer true → t.damaged = s.damaged) ∧
            (found ≠ .transfer true → ∀ k, (t.spoilt k 1 = true ↔ s.spoilt k 1 = true ∨ k / 64 = addr.toNat / 64)))))) ∧
    (∀ again : Bool,
      (∀ port, (16 ≤ port → exec (.linkCrcError (.wordo port) again) s = .next s) ∧
        (port < 16 → ∃ t, exec (.linkCrcError (.wordo port) again) s = .next t ∧ { t with fleet := s.fleet } = s ∧ raised t [0x148, 0x180])) ∧
      (∃ t, exec (.linkCrcError .cxl again) s = .next t ∧ { t with fleet := s.fleet } = s ∧ raised t [0x148, 0x188]) ∧
      ∀ die link : Nat, let k := 2 ^ 16 * die + link
        let n := if again then mapGetD s.fleet.linkRetry k 0 + 1 else 1
        (4 ≤ die ∨ 2 ^ 16 ≤ link ∨ k ∈ s.fleet.linksDown → exec (.linkCrcError (.die die link) again) s = .next s) ∧
        (die < 4 → link < 2 ^ 16 → k ∉ s.fleet.linksDown → ∃ t, exec (.linkCrcError (.die die link) again) s = .next t ∧
          (n ≤ 8 → (∀ j, mapGet t.fleet.linkRetry j = if j = k then some n else mapGet s.fleet.linkRetry j) ∧ { t with fleet := s.fleet } = s ∧ raised t [0x148, 0x178]) ∧
          (8 < n → t.fleet.linksDown = s.fleet.linksDown ++ [k] ∧ (t.die die).fatal = true ∧ ∀ j < 4, j ≠ die → (t.die j).fatal = (s.die j).fatal))) ∧
    (∀ mw : Nat, ∃ t, exec (.powerControlStep mw) s = .next t ∧ { t with fleet := s.fleet } = s ∧ t.fleet.power = mw ∧ t.fleet.throttle = s.fleet.throttle ∧
      (∀ x, s.fleet.surge = some x → t.fleet.surge = if x ≤ s.time then none else some x) ∧
      (s.fleet.limit * 1000 < mw → t.fleet.mhz = (if s.fleet.mhz ≤ 800 then s.fleet.mhz else max 800 (s.fleet.mhz - 50)) ∧
        t.fleet.halfRows = (s.fleet.halfRows || decide (s.fleet.mhz ≤ 800))) ∧
      (mw < s.fleet.limit * 1000 → s.fleet.throttle = 0 → t.fleet.halfRows = false ∧
        t.fleet.mhz = if s.fleet.halfRows then s.fleet.mhz else min 1600 (s.fleet.mhz + 50)) ∧
      (mw = s.fleet.limit * 1000 ∨ mw < s.fleet.limit * 1000 ∧ s.fleet.throttle ≠ 0 → t.fleet.mhz = s.fleet.mhz ∧ t.fleet.halfRows = s.fleet.halfRows)) ∧
    exec .currentSurge s = .next { s with fleet := { s.fleet with surge := some (s.time + usTime 1000) } } ∧
    (∀ (sensor : Fin 5) (celsius : Int), ∃ t, exec (.thermalThrottle sensor celsius) s = .next t ∧ { t with fleet := s.fleet } = s ∧
      t.fleet.hot = s.fleet.hot.set sensor celsius ∧ t.fleet.limit = s.fleet.limit ∧
      let hot := fun x : Int => ∃ i : Fin 5, x ≤ t.fleet.hot[i]
      let worst := hot 105 ∨ s.fleet.throttle = 2 ∧ hot 100
      let warm := hot 95 ∨ s.fleet.throttle ≠ 0 ∧ hot 93
      (worst → t.fleet.throttle = 2 ∧ t.fleet.mhz = 800 ∧ t.fleet.halfRows = true) ∧
      (¬ worst → warm → t.fleet.throttle = 1 ∧ (s.fleet.throttle = 2 → t.fleet.halfRows = false ∧ t.fleet.mhz = s.fleet.mhz) ∧
        (s.fleet.throttle ≠ 2 → (800 < s.fleet.mhz → t.fleet.mhz = max 800 (s.fleet.mhz - 50) ∧ t.fleet.halfRows = s.fleet.halfRows) ∧
          (s.fleet.mhz ≤ 800 → t.fleet.mhz = s.fleet.mhz ∧ t.fleet.halfRows = true))) ∧
      (¬ worst → ¬ warm → t.fleet.throttle = 0 ∧ t.fleet.mhz = s.fleet.mhz ∧ t.fleet.halfRows = if s.fleet.throttle = 2 then false else s.fleet.halfRows)) ∧
    (∀ (celsius : Int) (flow : Nat), (celsius < 115 ∧ 1000 ≤ flow → exec (.thermalTrip celsius flow) s = .next s) ∧
      (115 ≤ celsius ∨ flow < 1000 → ∃ t, exec (.thermalTrip celsius flow) s = .next t ∧ t.fleet.pkgFatal = true ∧ t.edge.pcieFatal = true ∧ (∀ j < 4, (t.die j).fatal = true) ∧
        ∀ c < 192, (t.cluster c).svc.released = false))

/-! ### Reset, steps, encodings -/

/-- R21, R59, R336, R347, R348, R351, R352, R368, R370, R387, R394, R403, R415: what reset leaves: the registers with the values that the tables give them, nothing resident, no
    context, every key slot free, every queue closed, class 0 alone enabled, the clock at 1.6 GHz; memory, tags and maps in their canonical form. The kernel's entry and the
    part are the model's choice (log entries 3 and 6). -/
def Obligations.ResetLeavesTheStatedValues : Prop :=
  let s := State.reset
  s.Canonical ∧ s.cycle = 0 ∧ s.ctxBase = 0 ∧ (∀ k, s.group k = none ∧ s.team k = none ∧ s.ctx k = none) ∧
  (∀ c < 192, (s.cluster c).split = 48 ∧ (s.cluster c).tlb = [] ∧ (s.cluster c).svc.events = [] ∧ (s.cluster c).svc.held = [] ∧ (s.cluster c).svc.released = false ∧
    (∀ i < 4, ((s.cluster c).core i).mq = [] ∧ ((s.cluster c).core i).holder = none) ∧
    let t := { s with cur := .service c }
    t.csr 0x405 = some Config.kernelEntry ∧ t.csr 0x406 = some (BitVec.ofNat 64 c) ∧ t.csr 0x611 = some 65536 ∧
    ∀ n, n ∈ [0x020, 0x021, 0x060] ∨ (0x401 ≤ n ∧ n < 0x40B ∧ n ≠ 0x405 ∧ n ≠ 0x406) ∨ (0x420 ≤ n ∧ n < 0x426) ∨ (0x500 ≤ n ∧ n < 0x50A) ∨
      (0x600 ≤ n ∧ n < 0x616 ∧ n ≠ 0x611) → t.csr n = some 0) ∧
  (∀ q < 256, (s.queue q).isOpen = false) ∧ s.edgeReg 0 = 0 ∧ s.edgeReg 0x6000 = 0 ∧ s.edgeReg 0x6008 = 0 ∧ s.edgeReg 0x6100 = 24090 ∧
  (∀ i : Fin 64, s.keys[i].state = 0) ∧ s.fleet.mhz = 1600 ∧ (∀ w, mapGetD s.fleet.classOf w 0 = 0) ∧
  (∀ (d : Fin 4) (kind : Fin 2) (c : Fin 16), let b := s.dies[d].buckets[kind][c]
    (c = 0 → b.share = ratedTokens kind ∧ b.cap = ratedTokens kind ∧ b.borrow = true) ∧ (c ≠ 0 → b.share = 0))

/-- The canonical form of memory, tags and maps: every step keeps it, whatever word or event it runs (R73 for the tags; the form is the model's, log entries 2 and 3). -/
def Obligations.StepsKeepTheCanonicalForm : Prop := ∀ s t : State, s.Canonical → step s = .next t → t.Canonical

/-- R32, R34, R40, R43, R79, R99, R337, R345: a step boots a package at reset; else it passes the cycles of its turn and runs what the turn's agent does: a scalar word
    fetched through SCODE, decoded and executed, where the rotation of the core's ready groups has come to it, the next word of the run that holds the issue slot, or an event of its own. The schedule is the model's
    (log entry 4). -/
def Obligations.StepsRunTheDecodedWord : Prop :=
  ∀ s : State, (s.boot.phase = 0 → step s = exec .packageReset s) ∧
    (s.boot.phase ≠ 0 → ∀ cycles act next, s.nextTurn = (⟨cycles, act⟩, next) →
      let s0 := next.tick cycles
      (∀ i, act = .event i → step s = if ownTurn i then exec i s0 else .next s0) ∧
      (∀ (t : Thread) (u : State), u = { s0 with cur := t } →
        ((∃ k g, act = .scalar k ∧ t = .group k ∧ s0.group k = some g ∧ s0.mayIssue g = true ∧ g.stepping.mode ≠ 2 ∧ g.stepping.pending = false ∧ s0.scalarTurn k = true) ∨
          (∃ c, act = .service c ∧ t = .service c ∧ (s0.cluster c).svc.released = true) →
          (∀ e, u.fetch = .error e → step s = .next (u.raiseHere e)) ∧
          (∀ key tl, u.fetch = .ok (key, tl) → u.wlReady key = false ∨ u.spoilt key 4 = true → step s = .next u) ∧
          (∀ key tl w, u.fetch = .ok (key, tl) → u.wlReady key = true → u.spoilt key 4 = false →
            (∀ k g, t = .group k → s0.group k = some g → u.breakpoint k g false u.pc = none) → w = BitVec.ofNat 32 (u.readNat key 4) →
            let v := (u.fill u.curCluster tl.toList).wlReadNow u.who [⟨key, 4⟩]
            (isPrivWord w = true ∧ v.isService = false → step s = .next (v.raiseHere Cause.privInsn)) ∧
            (isPrivWord w = false ∨ v.isService = true → (∀ i, decodeScalar w = .ok i → step s = exec i v) ∧
              (∀ e, decodeScalar w = .error e → step s = exec (.unassignedOpcode false (w.setWidth 96)) v))) ∧
          (∀ key tl k g i, u.fetch = .ok (key, tl) → u.wlReady key = true → u.spoilt key 4 = false → t = .group k → s0.group k = some g → u.breakpoint k g false u.pc = some i →
            step s = .next (((u.fill u.curCluster tl.toList).wlReadNow u.who [⟨key, 4⟩]).debugStop k false (BitVec.ofNat 5 i) u.pc 0)) ∧
          (∀ key, key < Config.remoteKey → u.wlReady key = true ∧ ∀ x : State, x.wlReadNow u.who [⟨key, 4⟩] = x)) ∧
        (∀ k g, act = .scalar k → t = .group k → s0.group k = some g → s0.mayIssue g = false ∨ g.stepping.mode = 2 ∨ g.stepping.pending = true ∨ s0.scalarTurn k = false →
          step s = .next u) ∧
        (∀ k, let c := (s0.cluster (slotCluster k)).core (slotCore k)
          (s0.scalarTurn k = true ↔ c.issued = false ∧ ∀ j < (k % 32 + 63 - c.lastScalar) % 32, s0.scalarReady (k / 32 * 32 + (c.lastScalar + 1 + j) % 32) = false)) ∧
        (∀ k g, act = .lane k → t = .group k → s0.group k = some g →
          let core := (s0.cluster (slotCluster k)).core (slotCore k)
          let may := s0.mayIssue g = true ∧ g.stepping.mode ≠ 1 ∧ g.stepping.pending = false ∧ ∀ p ∈ g.hart.pend, p.stop = false
          (¬ may ∨ (∃ j, core.holder = some j ∧ (j ≠ k ∨ core.left ≠ 0 ∨ core.ending = true)) ∨ core.holder = none ∧ s0.laneWinner k = false → step s = .next u) ∧
          (∀ v : State, may → (core.holder = some k ∧ core.left = 0 ∧ core.ending = false ∧ v = u ∨ core.holder = none ∧ s0.laneWinner k = true ∧
              v = if (s0.cluster (slotCluster k)).dbg.ctl.getLsbD 2 then (u.takeSlot k).trace k 3 0 true else u.takeSlot k) →
            ∀ g' r w ws more, v.group k = some g' → g'.lane.queue = r :: more → r.words = w :: ws → v.breakpoint k g' true r.addr = none →
              (∀ i, decodeLane w = .ok i → step s = exec i v) ∧ (∀ e, decodeLane w = .error e → step s = exec (.unassignedOpcode true w) v)))))

/-- R77, R84 to R87, R174, R97: words written out from their encodings, and the bytes of the worked example of R174, decode to the instructions they stand for. -/
def Obligations.WrittenWordsDecode : Prop :=
  decodeScalar 0b00000100001100010000010100000000 = .ok (.add 3 4 5) ∧
  decodeScalar 0b00011000011000011100000010000011 = .ok (.srai 6 7 3) ∧
  decodeScalar 0b10010000001000000000000000000101 = .ok (.beq 2 0 5) ∧
  decodeScalar 0b11000100000000000000000011111100 = .ok (.waitc 0 0 0 63) ∧
  decodeScalar 0b11001000010000000000000000010011 = .ok (.rdcsr 4 0x013) ∧
  decodeScalar 0b11011100010000011000010100000000 = .ok (.lrinst 4 6 5) ∧
  decodeScalar 0b01110100000000100010100000000000 = .error .reservedEnc ∧
  decodeBytes [0x00, 0x00, 0x00, 0x00, 0x8C, 0x25, 0x00, 0x40, 0x18, 0x04, 0x02, 0x08] = .ok (.vcmpLt ⟨false, 2, false⟩ 70 4 (.sca 9) 6) ∧
  decodeRoutine 0b01100110101000001111111111111111 = .ok (.routineLi 21 0xFFFF)

/-- R77, R78, R88 to R98: every well-formed word decodes to the instruction it encodes, with every operand at every value that the encoding admits. -/
def Obligations.EncodedInstructionsDecode : Prop :=
  ∀ i : Instr, i.wf = true →
    (∀ w, encodeScalar i = some w → decodeScalar w = .ok i) ∧ (∀ w, encodeLane i = some w → decodeLane w = .ok i) ∧
    (∀ w, encodeRoutine i = some w → decodeRoutine w = .ok i) ∧
    (∀ bs, encode i = some bs → encodeRoutine i = none → decodeBytes bs = .ok i)

/-- R77, R78, R88 to R99: a word that decodes is the one encoding of a well-formed instruction: no bit of it is dropped, and no reserved encoding passes for another word. -/
def Obligations.DecodedWordsAreEncodings : Prop :=
  ∀ i : Instr,
    (∀ w, decodeScalar w = .ok i → encodeScalar i = some w ∧ i.wf = true) ∧ (∀ w, decodeLane w = .ok i → encodeLane i = some w ∧ i.wf = true) ∧
    (∀ w, decodeRoutine w = .ok i → encodeRoutine i = some w ∧ i.wf = true)
end

