-- ==== Sys2Proof/Laws/Maps.lean ====
section
/-! SUPPORT. Reading after writing, in sparse maps, vectors, memory and tags; and that writes keep the canonical forms. -/
namespace Sys2Proof.Machine
open Sys2Proof

/-! ### Sparse maps -/

@[simp] theorem mapGet_nil {α : Type} (i : Nat) : mapGet ([] : SMap α) i = none := rfl

theorem mapGet_mapSet {α : Type} (m : SMap α) (i j : Nat) (x : α) : mapGet (mapSet m i x) j = if j = i then some x else mapGet m j := by
  induction m with
  | nil => simp only [mapSet, mapGet]; split <;> (try split) <;> simp_all <;> omega
  | cons p m ih =>
    obtain ⟨k, v⟩ := p
    simp only [mapSet]
    by_cases h1 : i < k
    · simp only [h1, if_true, mapGet]; split_ifs <;> first | rfl | omega
    · by_cases h2 : i = k
      · subst h2; simp only [Nat.lt_irrefl, if_false, if_true, mapGet]; split_ifs <;> first | rfl | omega
      · simp only [h1, h2, if_false, mapGet, ih]; split_ifs <;> first | rfl | omega

theorem mapGet_mapMod {α : Type} (f : α → α) (m : SMap α) (i j : Nat) :
    mapGet (mapMod f m i) j = if j = i then (mapGet m j).map f else mapGet m j := by
  induction m with
  | nil => simp [mapMod, mapGet]
  | cons p m ih =>
    obtain ⟨k, v⟩ := p
    simp only [mapMod]
    by_cases h2 : k = i
    · subst h2; simp only [if_true, mapGet]; split_ifs <;> first | rfl | omega
    · simp only [h2, if_false, mapGet, ih]; split_ifs <;> first | rfl | omega

@[simp] theorem mapGet_mapMod_same {α : Type} (f : α → α) (m : SMap α) (i : Nat) : mapGet (mapMod f m i) i = (mapGet m i).map f := by
  rw [mapGet_mapMod, if_pos rfl]

theorem mapGet_mapMod_ne {α : Type} (f : α → α) (m : SMap α) {i j : Nat} (h : j ≠ i) : mapGet (mapMod f m i) j = mapGet m j := by
  rw [mapGet_mapMod, if_neg h]

@[simp] theorem mapMod_mapMod {α : Type} (f g : α → α) (m : SMap α) (i : Nat) : mapMod g (mapMod f m i) i = mapMod (fun x => g (f x)) m i := by
  induction m with
  | nil => rfl
  | cons p m ih =>
    obtain ⟨k, v⟩ := p
    by_cases h : k = i
    · subst h; simp [mapMod]
    · simp [mapMod, h, ih]

/-- Changes at different keys commute. -/
theorem mapMod_comm {α : Type} (f g : α → α) (m : SMap α) {i j : Nat} (h : i ≠ j) :
    mapMod g (mapMod f m i) j = mapMod f (mapMod g m j) i := by
  induction m with
  | nil => rfl
  | cons p m ih =>
    obtain ⟨k, v⟩ := p
    by_cases h1 : k = i
    · subst h1; simp [mapMod, h]
    · by_cases h2 : k = j
      · subst h2; simp [mapMod, h1]
      · simp [mapMod, h1, h2, ih]

/-- A change that leaves the value at its key alone leaves the map alone. -/
theorem mapMod_id {α : Type} (f : α → α) (m : SMap α) (i : Nat) (h : ∀ x, f x = x) : mapMod f m i = m := by
  induction m with
  | nil => rfl
  | cons p m ih => obtain ⟨k, v⟩ := p; simp only [mapMod, ih, h]; split <;> simp_all

/-- Two changes that agree on every value are one. -/
theorem mapMod_congr {α : Type} {f g : α → α} (m : SMap α) (i : Nat) (h : ∀ x, f x = g x) : mapMod f m i = mapMod g m i := by
  have : f = g := funext h
  rw [this]

/-! ### Vectors -/

@[simp] theorem vgetD_vmod_same {α : Type} {n : Nat} (v : Vector α n) (i : Nat) (f : α → α) (d : α) (h : i < n) :
    vgetD (vmod v i f) i d = f (vgetD v i d) := by simp [vgetD, vmod, h]

theorem vgetD_vmod_ne {α : Type} {n : Nat} (v : Vector α n) {i j : Nat} (f : α → α) (d : α) (h : j ≠ i) :
    vgetD (vmod v i f) j d = vgetD v j d := by
  by_cases h1 : i < n <;> by_cases h2 : j < n <;> simp [vgetD, vmod, h1, h2, Ne.symm h]

@[simp] theorem vmod_vmod {α : Type} {n : Nat} (v : Vector α n) (i : Nat) (f g : α → α) : vmod (vmod v i f) i g = vmod v i fun x => g (f x) := by
  unfold vmod; split <;> simp_all

theorem vmod_comm {α : Type} {n : Nat} (v : Vector α n) {i j : Nat} (f g : α → α) (h : i ≠ j) :
    vmod (vmod v i f) j g = vmod (vmod v j g) i f := by
  by_cases h1 : i < n <;> by_cases h2 : j < n <;> simp [vmod, h1, h2, Ne.symm h, h]
  exact (Vector.set_comm _ _ h)

theorem vmod_id {α : Type} {n : Nat} (v : Vector α n) (i : Nat) (f : α → α) (h : ∀ x, f x = x) : vmod v i f = v := by
  unfold vmod; split <;> simp [h]

@[simp] theorem vgetD_vset_same {α : Type} {n : Nat} (v : Vector α n) (i : Nat) (x d : α) (h : i < n) : vgetD (vset v i x) i d = x := by
  simp [vgetD, vset, h]

theorem vgetD_vset_ne {α : Type} {n : Nat} (v : Vector α n) {i j : Nat} (x d : α) (h : j ≠ i) : vgetD (vset v i x) j d = vgetD v j d := by
  by_cases h1 : i < n <;> by_cases h2 : j < n <;> simp [vgetD, vset, h1, h2, Ne.symm h]

/-! ### Memory -/

/-- The keys of a memory in order, and no entry zero, as propositions. -/
theorem memory_wf_iff (m : List Host.Cell) : Memory.wf m = true ↔ (m.Pairwise fun a b => a.1 < b.1) ∧ ∀ c ∈ m, c.2 ≠ 0 := by
  simp [Memory.wf]

@[simp] theorem memory_wf_nil : Memory.wf [] = true := rfl

theorem memory_wf_tail {c : Host.Cell} {m : List Host.Cell} (h : Memory.wf (c :: m) = true) : Memory.wf m = true := by
  rw [memory_wf_iff] at *; exact ⟨h.1.of_cons, fun x hx => h.2 x (List.mem_cons_of_mem _ hx)⟩

/-- Every key of a written memory was there before, or is the one written. -/
theorem memPut_keys (m : List Host.Cell) (i : Nat) (b : Byte) : ∀ c ∈ memPut m i b, c.1 = i ∨ c ∈ m := by
  induction m with
  | nil => intro c hc; simp only [memPut] at hc; split at hc <;> simp_all
  | cons p m ih =>
    obtain ⟨k, v⟩ := p
    intro c hc
    simp only [memPut] at hc
    split at hc
    · split at hc
      · exact .inr hc
      · rcases List.mem_cons.1 hc with rfl | hc
        · exact .inl rfl
        · exact .inr hc
    · split at hc
      · split at hc
        · exact .inr (List.mem_cons_of_mem _ hc)
        · rcases List.mem_cons.1 hc with rfl | hc
          · exact .inl rfl
          · exact .inr (List.mem_cons_of_mem _ hc)
      · rcases List.mem_cons.1 hc with rfl | hc
        · exact .inr List.mem_cons_self
        · rcases ih c hc with h | h
          · exact .inl h
          · exact .inr (List.mem_cons_of_mem _ h)

/-- A write keeps the canonical form. -/
theorem memPut_wf (m : List Host.Cell) (i : Nat) (b : Byte) (h : Memory.wf m = true) : Memory.wf (memPut m i b) = true := by
  induction m with
  | nil => simp only [memPut]; split <;> simp_all [memory_wf_iff]
  | cons p m ih =>
    obtain ⟨k, v⟩ := p
    have ht := memory_wf_tail h
    rw [memory_wf_iff] at h
    have hk := List.pairwise_cons.1 h.1
    simp only [memPut]
    split_ifs with h1 h2 h2 h3
    · rw [memory_wf_iff]; exact h
    · rw [memory_wf_iff]
      refine ⟨List.pairwise_cons.2 ⟨fun c hc => ?_, h.1⟩, fun c hc => ?_⟩
      · rcases List.mem_cons.1 hc with rfl | hc
        · exact h1
        · exact Nat.lt_trans h1 (hk.1 c hc)
      · rcases List.mem_cons.1 hc with rfl | hc
        · exact h2
        · exact h.2 c hc
    · exact ht
    · rw [memory_wf_iff] at ht ⊢
      refine ⟨List.pairwise_cons.2 ⟨fun c hc => ?_, ht.1⟩, fun c hc => ?_⟩
      · subst h2; exact hk.1 c hc
      · rcases List.mem_cons.1 hc with rfl | hc
        · exact h3
        · exact ht.2 c hc
    · have hr := ih ht
      rw [memory_wf_iff] at hr ⊢
      refine ⟨List.pairwise_cons.2 ⟨fun c hc => ?_, hr.1⟩, fun c hc => ?_⟩
      · rcases memPut_keys m i b c hc with rfl | hc
        · show k < c.1; omega
        · exact hk.1 c hc
      · rcases List.mem_cons.1 hc with rfl | hc
        · exact h.2 _ List.mem_cons_self
        · exact hr.2 c hc

/-- A key below every listed one reads zero. -/
theorem memGet_low (m : List Host.Cell) (i : Nat) (h : ∀ c ∈ m, i < c.1) : memGet m i = 0 := by
  cases m with
  | nil => rfl
  | cons p m =>
    have := h p List.mem_cons_self
    simp only [memGet]; split_ifs <;> first | rfl | omega

/-- Read after write. -/
theorem memGet_memPut (m : List Host.Cell) (i j : Nat) (b : Byte) (h : Memory.wf m = true) :
    memGet (memPut m i b) j = if j = i then b else memGet m j := by
  induction m with
  | nil => simp only [memPut]; split_ifs <;> simp_all [memGet] <;> omega
  | cons p m ih =>
    obtain ⟨k, v⟩ := p
    have hk := (List.pairwise_cons.1 ((memory_wf_iff _).1 h).1).1
    have ih := ih (memory_wf_tail h)
    have low : ∀ x, x ≤ k → memGet m x = 0 := fun x hx => memGet_low m x fun c hc => by have := hk c hc; simp only at this; omega
    simp only [memPut]
    by_cases h1 : i < k
    · by_cases h2 : b = 0
      · simp only [h1, h2, if_true, memGet]
        by_cases h3 : j = i
        · subst h3; rw [if_neg (by omega), if_pos h1, if_pos rfl]
        · rw [if_neg h3]
      · simp only [h1, h2, if_true, if_false, memGet]
        by_cases h3 : j = i
        · subst h3; simp
        · rw [if_neg (Ne.symm h3), if_neg h3]
          by_cases h4 : j < i
          · rw [if_pos h4, if_neg (by omega), if_pos (by omega)]
          · rw [if_neg h4]
    · by_cases h3 : i = k
      · subst h3
        by_cases h2 : b = 0
        · simp only [h2, Nat.lt_irrefl, if_false, if_true, memGet]
          by_cases h4 : j = i
          · subst h4; rw [if_pos rfl]; exact low j (Nat.le_refl j)
          · rw [if_neg h4, if_neg (Ne.symm h4)]
            by_cases h5 : j < i
            · rw [if_pos h5]; exact low j (by omega)
            · rw [if_neg h5]
        · simp only [h2, Nat.lt_irrefl, if_false, if_true, memGet]
          by_cases h4 : j = i
          · subst h4; simp
          · rw [if_neg (Ne.symm h4), if_neg h4, if_neg (Ne.symm h4)]
      · simp only [h1, h3, if_false, memGet, ih]
        by_cases h4 : j = i
        · subst h4; rw [if_neg (Ne.symm h3), if_neg h1]; simp
        · simp only [if_neg h4]

/-- Zero bytes of a memory may be removed below or above a range: the form stays canonical. -/
theorem memFilter_wf (m : List Host.Cell) (p : Host.Cell → Bool) (h : Memory.wf m = true) : Memory.wf (m.filter p) = true := by
  rw [memory_wf_iff] at *
  exact ⟨h.1.filter _, fun c hc => h.2 c (List.mem_of_mem_filter hc)⟩

/-- A list of bytes written keeps the canonical form. -/
theorem memWrite_wf (m : List Host.Cell) (k : Nat) (bs : List Byte) (h : Memory.wf m = true) : Memory.wf (memWrite m k bs) = true := by
  induction bs generalizing m k with
  | nil => exact h
  | cons b bs ih => exact ih _ _ (memPut_wf _ _ _ h)

/-! ### Tags -/

theorem tags_wf_iff (t : List Nat) : Tags.wf t = true ↔ t.Pairwise (· < ·) := by simp [Tags.wf]

@[simp] theorem tags_wf_nil : Tags.wf [] = true := rfl

theorem tagPut_mem (t : List Nat) (g : Nat) (b : Bool) : ∀ x ∈ tagPut t g b, x = g ∨ x ∈ t := by
  induction t with
  | nil => intro x hx; simp only [tagPut] at hx; split at hx <;> simp_all
  | cons k t ih =>
    intro x hx
    simp only [tagPut] at hx
    split_ifs at hx
    · rcases List.mem_cons.1 hx with h | h
      · exact .inl h
      · exact .inr h
    · exact .inr hx
    · exact .inr hx
    · exact .inr (List.mem_cons_of_mem _ hx)
    · rcases List.mem_cons.1 hx with rfl | h
      · exact .inr List.mem_cons_self
      · rcases ih x h with h | h
        · exact .inl h
        · exact .inr (List.mem_cons_of_mem _ h)

/-- A tag written keeps the canonical form. -/
theorem tagPut_wf (t : List Nat) (g : Nat) (b : Bool) (h : Tags.wf t = true) : Tags.wf (tagPut t g b) = true := by
  induction t with
  | nil => simp only [tagPut]; split <;> simp [tags_wf_iff]
  | cons k t ih =>
    rw [tags_wf_iff] at h ⊢
    have hk := List.pairwise_cons.1 h
    simp only [tagPut]
    split_ifs with h1 h2 h2 h3
    · exact List.pairwise_cons.2 ⟨fun x hx => by
        rcases List.mem_cons.1 hx with rfl | hx
        · exact h1
        · exact Nat.lt_trans h1 (hk.1 x hx), h⟩
    · exact h
    · exact h
    · exact hk.2
    · refine List.pairwise_cons.2 ⟨fun x hx => ?_, (tags_wf_iff _).1 (ih ((tags_wf_iff _).2 hk.2))⟩
      rcases tagPut_mem t g b x hx with rfl | hx
      · omega
      · exact hk.1 x hx

theorem tagGet_low (t : List Nat) (g : Nat) (h : ∀ x ∈ t, g < x) : tagGet t g = false := by
  cases t with
  | nil => rfl
  | cons k t => have := h k List.mem_cons_self; simp only [tagGet]; split_ifs <;> first | rfl | omega

/-- Read after write, of tags. -/
theorem tagGet_tagPut (t : List Nat) (g i : Nat) (b : Bool) (h : Tags.wf t = true) :
    tagGet (tagPut t g b) i = if i = g then b else tagGet t i := by
  induction t with
  | nil =>
    by_cases h1 : i = g
    · subst h1; cases b <;> simp [tagPut, tagGet]
    · cases b <;> simp [tagPut, tagGet, h1, Ne.symm h1]
  | cons k t ih =>
    rw [tags_wf_iff] at h
    have hk := List.pairwise_cons.1 h
    have ih := ih ((tags_wf_iff _).2 hk.2)
    have low : ∀ x, x ≤ k → tagGet t x = false := fun x hx => tagGet_low t x fun c hc => by have := hk.1 c hc; omega
    simp only [tagPut]
    by_cases h1 : g < k
    · by_cases h2 : i = g
      · subst h2; cases b
        · simp only [h1, if_true, Bool.false_eq_true, if_false, tagGet]; rw [if_neg (by omega)]
        · simp [h1, tagGet]
      · cases b
        · simp [h1, h2]
        · simp only [h1, if_true, tagGet, if_neg h2, if_neg (Ne.symm h2)]
          by_cases h3 : i < g
          · rw [if_pos h3, if_neg (by omega), if_pos (by omega)]
          · rw [if_neg h3]
    · by_cases h3 : g = k
      · subst h3
        by_cases h2 : i = g
        · subst h2; cases b
          · simp [low i (Nat.le_refl i)]
          · simp [tagGet]
        · cases b
          · simp only [Nat.lt_irrefl, if_false, if_true, Bool.false_eq_true, tagGet, if_neg h2, if_neg (Ne.symm h2)]
            by_cases h4 : i < g
            · rw [if_pos h4, low i (by omega)]
            · rw [if_neg h4]
          · simp [h2]
      · simp only [h1, h3, if_false, tagGet, ih]
        by_cases h2 : i = g
        · subst h2; rw [if_neg (Ne.symm h3), if_neg h1]; simp
        · simp only [if_neg h2]

theorem tagFilter_wf (t : List Nat) (p : Nat → Bool) (h : Tags.wf t = true) : Tags.wf (t.filter p) = true := by
  rw [tags_wf_iff] at *; exact h.filter _

/-- Tags cleared keep the canonical form. -/
theorem tagClear_wf (t : List Nat) (g n : Nat) (h : Tags.wf t = true) : Tags.wf (tagClear t g n) = true := by
  induction n generalizing t g with
  | zero => exact h
  | succ n ih => exact ih _ _ (tagPut_wf _ _ _ h)

end Sys2Proof.Machine
end

