-- ==== Sys2Proof/Laws/State.lean ====
section
/-! SUPPORT. For each update of one part of the state, the fields that it leaves alone. -/
namespace Sys2Proof.Machine
open Sys2Proof

/-! ### `modGroup` -/

@[simp] theorem State.cycle_modGroup (s : State) (k : Nat) (f : Group → Group) : (s.modGroup k f).cycle = s.cycle := rfl
@[simp] theorem State.time_modGroup (s : State) (k : Nat) (f : Group → Group) : (s.modGroup k f).time = s.time := rfl
@[simp] theorem State.turns_modGroup (s : State) (k : Nat) (f : Group → Group) : (s.modGroup k f).turns = s.turns := rfl
@[simp] theorem State.cur_modGroup (s : State) (k : Nat) (f : Group → Group) : (s.modGroup k f).cur = s.cur := rfl
@[simp] theorem State.free_modGroup (s : State) (k : Nat) (f : Group → Group) : (s.modGroup k f).free = s.free := rfl
@[simp] theorem State.nextId_modGroup (s : State) (k : Nat) (f : Group → Group) : (s.modGroup k f).nextId = s.nextId := rfl
@[simp] theorem State.mem_modGroup (s : State) (k : Nat) (f : Group → Group) : (s.modGroup k f).mem = s.mem := rfl
@[simp] theorem State.tags_modGroup (s : State) (k : Nat) (f : Group → Group) : (s.modGroup k f).tags = s.tags := rfl
@[simp] theorem State.stalled_modGroup (s : State) (k : Nat) (f : Group → Group) : (s.modGroup k f).stalled = s.stalled := rfl
@[simp] theorem State.damaged_modGroup (s : State) (k : Nat) (f : Group → Group) : (s.modGroup k f).damaged = s.damaged := rfl
@[simp] theorem State.teams_modGroup (s : State) (k : Nat) (f : Group → Group) : (s.modGroup k f).teams = s.teams := rfl
@[simp] theorem State.clusters_modGroup (s : State) (k : Nat) (f : Group → Group) : (s.modGroup k f).clusters = s.clusters := rfl
@[simp] theorem State.dies_modGroup (s : State) (k : Nat) (f : Group → Group) : (s.modGroup k f).dies = s.dies := rfl
@[simp] theorem State.ctxs_modGroup (s : State) (k : Nat) (f : Group → Group) : (s.modGroup k f).ctxs = s.ctxs := rfl
@[simp] theorem State.ctxBase_modGroup (s : State) (k : Nat) (f : Group → Group) : (s.modGroup k f).ctxBase = s.ctxBase := rfl
@[simp] theorem State.sliceFlags_modGroup (s : State) (k : Nat) (f : Group → Group) : (s.modGroup k f).sliceFlags = s.sliceFlags := rfl
@[simp] theorem State.tables_modGroup (s : State) (k : Nat) (f : Group → Group) : (s.modGroup k f).tables = s.tables := rfl
@[simp] theorem State.rt_modGroup (s : State) (k : Nat) (f : Group → Group) : (s.modGroup k f).rt = s.rt := rfl
@[simp] theorem State.worlds_modGroup (s : State) (k : Nat) (f : Group → Group) : (s.modGroup k f).worlds = s.worlds := rfl
@[simp] theorem State.disp_modGroup (s : State) (k : Nat) (f : Group → Group) : (s.modGroup k f).disp = s.disp := rfl
@[simp] theorem State.edge_modGroup (s : State) (k : Nat) (f : Group → Group) : (s.modGroup k f).edge = s.edge := rfl
@[simp] theorem State.boot_modGroup (s : State) (k : Nat) (f : Group → Group) : (s.modGroup k f).boot = s.boot := rfl
@[simp] theorem State.keys_modGroup (s : State) (k : Nat) (f : Group → Group) : (s.modGroup k f).keys = s.keys := rfl
@[simp] theorem State.attest_modGroup (s : State) (k : Nat) (f : Group → Group) : (s.modGroup k f).attest = s.attest := rfl
@[simp] theorem State.io_modGroup (s : State) (k : Nat) (f : Group → Group) : (s.modGroup k f).io = s.io := rfl
@[simp] theorem State.fleet_modGroup (s : State) (k : Nat) (f : Group → Group) : (s.modGroup k f).fleet = s.fleet := rfl

/-! ### `modTeam` -/

@[simp] theorem State.cycle_modTeam (s : State) (k : Nat) (f : Team → Team) : (s.modTeam k f).cycle = s.cycle := rfl
@[simp] theorem State.time_modTeam (s : State) (k : Nat) (f : Team → Team) : (s.modTeam k f).time = s.time := rfl
@[simp] theorem State.turns_modTeam (s : State) (k : Nat) (f : Team → Team) : (s.modTeam k f).turns = s.turns := rfl
@[simp] theorem State.cur_modTeam (s : State) (k : Nat) (f : Team → Team) : (s.modTeam k f).cur = s.cur := rfl
@[simp] theorem State.free_modTeam (s : State) (k : Nat) (f : Team → Team) : (s.modTeam k f).free = s.free := rfl
@[simp] theorem State.nextId_modTeam (s : State) (k : Nat) (f : Team → Team) : (s.modTeam k f).nextId = s.nextId := rfl
@[simp] theorem State.mem_modTeam (s : State) (k : Nat) (f : Team → Team) : (s.modTeam k f).mem = s.mem := rfl
@[simp] theorem State.tags_modTeam (s : State) (k : Nat) (f : Team → Team) : (s.modTeam k f).tags = s.tags := rfl
@[simp] theorem State.stalled_modTeam (s : State) (k : Nat) (f : Team → Team) : (s.modTeam k f).stalled = s.stalled := rfl
@[simp] theorem State.damaged_modTeam (s : State) (k : Nat) (f : Team → Team) : (s.modTeam k f).damaged = s.damaged := rfl
@[simp] theorem State.groups_modTeam (s : State) (k : Nat) (f : Team → Team) : (s.modTeam k f).groups = s.groups := rfl
@[simp] theorem State.clusters_modTeam (s : State) (k : Nat) (f : Team → Team) : (s.modTeam k f).clusters = s.clusters := rfl
@[simp] theorem State.dies_modTeam (s : State) (k : Nat) (f : Team → Team) : (s.modTeam k f).dies = s.dies := rfl
@[simp] theorem State.ctxs_modTeam (s : State) (k : Nat) (f : Team → Team) : (s.modTeam k f).ctxs = s.ctxs := rfl
@[simp] theorem State.ctxBase_modTeam (s : State) (k : Nat) (f : Team → Team) : (s.modTeam k f).ctxBase = s.ctxBase := rfl
@[simp] theorem State.sliceFlags_modTeam (s : State) (k : Nat) (f : Team → Team) : (s.modTeam k f).sliceFlags = s.sliceFlags := rfl
@[simp] theorem State.tables_modTeam (s : State) (k : Nat) (f : Team → Team) : (s.modTeam k f).tables = s.tables := rfl
@[simp] theorem State.rt_modTeam (s : State) (k : Nat) (f : Team → Team) : (s.modTeam k f).rt = s.rt := rfl
@[simp] theorem State.worlds_modTeam (s : State) (k : Nat) (f : Team → Team) : (s.modTeam k f).worlds = s.worlds := rfl
@[simp] theorem State.disp_modTeam (s : State) (k : Nat) (f : Team → Team) : (s.modTeam k f).disp = s.disp := rfl
@[simp] theorem State.edge_modTeam (s : State) (k : Nat) (f : Team → Team) : (s.modTeam k f).edge = s.edge := rfl
@[simp] theorem State.boot_modTeam (s : State) (k : Nat) (f : Team → Team) : (s.modTeam k f).boot = s.boot := rfl
@[simp] theorem State.keys_modTeam (s : State) (k : Nat) (f : Team → Team) : (s.modTeam k f).keys = s.keys := rfl
@[simp] theorem State.attest_modTeam (s : State) (k : Nat) (f : Team → Team) : (s.modTeam k f).attest = s.attest := rfl
@[simp] theorem State.io_modTeam (s : State) (k : Nat) (f : Team → Team) : (s.modTeam k f).io = s.io := rfl
@[simp] theorem State.fleet_modTeam (s : State) (k : Nat) (f : Team → Team) : (s.modTeam k f).fleet = s.fleet := rfl

/-! ### `modCtx` -/

@[simp] theorem State.cycle_modCtx (s : State) (k : Nat) (f : Ctx → Ctx) : (s.modCtx k f).cycle = s.cycle := rfl
@[simp] theorem State.time_modCtx (s : State) (k : Nat) (f : Ctx → Ctx) : (s.modCtx k f).time = s.time := rfl
@[simp] theorem State.turns_modCtx (s : State) (k : Nat) (f : Ctx → Ctx) : (s.modCtx k f).turns = s.turns := rfl
@[simp] theorem State.cur_modCtx (s : State) (k : Nat) (f : Ctx → Ctx) : (s.modCtx k f).cur = s.cur := rfl
@[simp] theorem State.free_modCtx (s : State) (k : Nat) (f : Ctx → Ctx) : (s.modCtx k f).free = s.free := rfl
@[simp] theorem State.nextId_modCtx (s : State) (k : Nat) (f : Ctx → Ctx) : (s.modCtx k f).nextId = s.nextId := rfl
@[simp] theorem State.mem_modCtx (s : State) (k : Nat) (f : Ctx → Ctx) : (s.modCtx k f).mem = s.mem := rfl
@[simp] theorem State.tags_modCtx (s : State) (k : Nat) (f : Ctx → Ctx) : (s.modCtx k f).tags = s.tags := rfl
@[simp] theorem State.stalled_modCtx (s : State) (k : Nat) (f : Ctx → Ctx) : (s.modCtx k f).stalled = s.stalled := rfl
@[simp] theorem State.damaged_modCtx (s : State) (k : Nat) (f : Ctx → Ctx) : (s.modCtx k f).damaged = s.damaged := rfl
@[simp] theorem State.groups_modCtx (s : State) (k : Nat) (f : Ctx → Ctx) : (s.modCtx k f).groups = s.groups := rfl
@[simp] theorem State.teams_modCtx (s : State) (k : Nat) (f : Ctx → Ctx) : (s.modCtx k f).teams = s.teams := rfl
@[simp] theorem State.clusters_modCtx (s : State) (k : Nat) (f : Ctx → Ctx) : (s.modCtx k f).clusters = s.clusters := rfl
@[simp] theorem State.dies_modCtx (s : State) (k : Nat) (f : Ctx → Ctx) : (s.modCtx k f).dies = s.dies := rfl
@[simp] theorem State.ctxBase_modCtx (s : State) (k : Nat) (f : Ctx → Ctx) : (s.modCtx k f).ctxBase = s.ctxBase := rfl
@[simp] theorem State.sliceFlags_modCtx (s : State) (k : Nat) (f : Ctx → Ctx) : (s.modCtx k f).sliceFlags = s.sliceFlags := rfl
@[simp] theorem State.tables_modCtx (s : State) (k : Nat) (f : Ctx → Ctx) : (s.modCtx k f).tables = s.tables := rfl
@[simp] theorem State.rt_modCtx (s : State) (k : Nat) (f : Ctx → Ctx) : (s.modCtx k f).rt = s.rt := rfl
@[simp] theorem State.worlds_modCtx (s : State) (k : Nat) (f : Ctx → Ctx) : (s.modCtx k f).worlds = s.worlds := rfl
@[simp] theorem State.disp_modCtx (s : State) (k : Nat) (f : Ctx → Ctx) : (s.modCtx k f).disp = s.disp := rfl
@[simp] theorem State.edge_modCtx (s : State) (k : Nat) (f : Ctx → Ctx) : (s.modCtx k f).edge = s.edge := rfl
@[simp] theorem State.boot_modCtx (s : State) (k : Nat) (f : Ctx → Ctx) : (s.modCtx k f).boot = s.boot := rfl
@[simp] theorem State.keys_modCtx (s : State) (k : Nat) (f : Ctx → Ctx) : (s.modCtx k f).keys = s.keys := rfl
@[simp] theorem State.attest_modCtx (s : State) (k : Nat) (f : Ctx → Ctx) : (s.modCtx k f).attest = s.attest := rfl
@[simp] theorem State.io_modCtx (s : State) (k : Nat) (f : Ctx → Ctx) : (s.modCtx k f).io = s.io := rfl
@[simp] theorem State.fleet_modCtx (s : State) (k : Nat) (f : Ctx → Ctx) : (s.modCtx k f).fleet = s.fleet := rfl

/-! ### `modCluster` -/

@[simp] theorem State.cycle_modCluster (s : State) (n : Nat) (f : Cluster → Cluster) : (s.modCluster n f).cycle = s.cycle := rfl
@[simp] theorem State.time_modCluster (s : State) (n : Nat) (f : Cluster → Cluster) : (s.modCluster n f).time = s.time := rfl
@[simp] theorem State.turns_modCluster (s : State) (n : Nat) (f : Cluster → Cluster) : (s.modCluster n f).turns = s.turns := rfl
@[simp] theorem State.cur_modCluster (s : State) (n : Nat) (f : Cluster → Cluster) : (s.modCluster n f).cur = s.cur := rfl
@[simp] theorem State.free_modCluster (s : State) (n : Nat) (f : Cluster → Cluster) : (s.modCluster n f).free = s.free := rfl
@[simp] theorem State.nextId_modCluster (s : State) (n : Nat) (f : Cluster → Cluster) : (s.modCluster n f).nextId = s.nextId := rfl
@[simp] theorem State.mem_modCluster (s : State) (n : Nat) (f : Cluster → Cluster) : (s.modCluster n f).mem = s.mem := rfl
@[simp] theorem State.tags_modCluster (s : State) (n : Nat) (f : Cluster → Cluster) : (s.modCluster n f).tags = s.tags := rfl
@[simp] theorem State.stalled_modCluster (s : State) (n : Nat) (f : Cluster → Cluster) : (s.modCluster n f).stalled = s.stalled := rfl
@[simp] theorem State.damaged_modCluster (s : State) (n : Nat) (f : Cluster → Cluster) : (s.modCluster n f).damaged = s.damaged := rfl
@[simp] theorem State.groups_modCluster (s : State) (n : Nat) (f : Cluster → Cluster) : (s.modCluster n f).groups = s.groups := rfl
@[simp] theorem State.teams_modCluster (s : State) (n : Nat) (f : Cluster → Cluster) : (s.modCluster n f).teams = s.teams := rfl
@[simp] theorem State.dies_modCluster (s : State) (n : Nat) (f : Cluster → Cluster) : (s.modCluster n f).dies = s.dies := rfl
@[simp] theorem State.ctxs_modCluster (s : State) (n : Nat) (f : Cluster → Cluster) : (s.modCluster n f).ctxs = s.ctxs := rfl
@[simp] theorem State.ctxBase_modCluster (s : State) (n : Nat) (f : Cluster → Cluster) : (s.modCluster n f).ctxBase = s.ctxBase := rfl
@[simp] theorem State.sliceFlags_modCluster (s : State) (n : Nat) (f : Cluster → Cluster) : (s.modCluster n f).sliceFlags = s.sliceFlags := rfl
@[simp] theorem State.tables_modCluster (s : State) (n : Nat) (f : Cluster → Cluster) : (s.modCluster n f).tables = s.tables := rfl
@[simp] theorem State.rt_modCluster (s : State) (n : Nat) (f : Cluster → Cluster) : (s.modCluster n f).rt = s.rt := rfl
@[simp] theorem State.worlds_modCluster (s : State) (n : Nat) (f : Cluster → Cluster) : (s.modCluster n f).worlds = s.worlds := rfl
@[simp] theorem State.disp_modCluster (s : State) (n : Nat) (f : Cluster → Cluster) : (s.modCluster n f).disp = s.disp := rfl
@[simp] theorem State.edge_modCluster (s : State) (n : Nat) (f : Cluster → Cluster) : (s.modCluster n f).edge = s.edge := rfl
@[simp] theorem State.boot_modCluster (s : State) (n : Nat) (f : Cluster → Cluster) : (s.modCluster n f).boot = s.boot := rfl
@[simp] theorem State.keys_modCluster (s : State) (n : Nat) (f : Cluster → Cluster) : (s.modCluster n f).keys = s.keys := rfl
@[simp] theorem State.attest_modCluster (s : State) (n : Nat) (f : Cluster → Cluster) : (s.modCluster n f).attest = s.attest := rfl
@[simp] theorem State.io_modCluster (s : State) (n : Nat) (f : Cluster → Cluster) : (s.modCluster n f).io = s.io := rfl
@[simp] theorem State.fleet_modCluster (s : State) (n : Nat) (f : Cluster → Cluster) : (s.modCluster n f).fleet = s.fleet := rfl

/-! ### `modCore` -/

@[simp] theorem State.cycle_modCore (s : State) (n j : Nat) (f : Core → Core) : (s.modCore n j f).cycle = s.cycle := rfl
@[simp] theorem State.time_modCore (s : State) (n j : Nat) (f : Core → Core) : (s.modCore n j f).time = s.time := rfl
@[simp] theorem State.turns_modCore (s : State) (n j : Nat) (f : Core → Core) : (s.modCore n j f).turns = s.turns := rfl
@[simp] theorem State.cur_modCore (s : State) (n j : Nat) (f : Core → Core) : (s.modCore n j f).cur = s.cur := rfl
@[simp] theorem State.free_modCore (s : State) (n j : Nat) (f : Core → Core) : (s.modCore n j f).free = s.free := rfl
@[simp] theorem State.nextId_modCore (s : State) (n j : Nat) (f : Core → Core) : (s.modCore n j f).nextId = s.nextId := rfl
@[simp] theorem State.mem_modCore (s : State) (n j : Nat) (f : Core → Core) : (s.modCore n j f).mem = s.mem := rfl
@[simp] theorem State.tags_modCore (s : State) (n j : Nat) (f : Core → Core) : (s.modCore n j f).tags = s.tags := rfl
@[simp] theorem State.stalled_modCore (s : State) (n j : Nat) (f : Core → Core) : (s.modCore n j f).stalled = s.stalled := rfl
@[simp] theorem State.damaged_modCore (s : State) (n j : Nat) (f : Core → Core) : (s.modCore n j f).damaged = s.damaged := rfl
@[simp] theorem State.groups_modCore (s : State) (n j : Nat) (f : Core → Core) : (s.modCore n j f).groups = s.groups := rfl
@[simp] theorem State.teams_modCore (s : State) (n j : Nat) (f : Core → Core) : (s.modCore n j f).teams = s.teams := rfl
@[simp] theorem State.dies_modCore (s : State) (n j : Nat) (f : Core → Core) : (s.modCore n j f).dies = s.dies := rfl
@[simp] theorem State.ctxs_modCore (s : State) (n j : Nat) (f : Core → Core) : (s.modCore n j f).ctxs = s.ctxs := rfl
@[simp] theorem State.ctxBase_modCore (s : State) (n j : Nat) (f : Core → Core) : (s.modCore n j f).ctxBase = s.ctxBase := rfl
@[simp] theorem State.sliceFlags_modCore (s : State) (n j : Nat) (f : Core → Core) : (s.modCore n j f).sliceFlags = s.sliceFlags := rfl
@[simp] theorem State.tables_modCore (s : State) (n j : Nat) (f : Core → Core) : (s.modCore n j f).tables = s.tables := rfl
@[simp] theorem State.rt_modCore (s : State) (n j : Nat) (f : Core → Core) : (s.modCore n j f).rt = s.rt := rfl
@[simp] theorem State.worlds_modCore (s : State) (n j : Nat) (f : Core → Core) : (s.modCore n j f).worlds = s.worlds := rfl
@[simp] theorem State.disp_modCore (s : State) (n j : Nat) (f : Core → Core) : (s.modCore n j f).disp = s.disp := rfl
@[simp] theorem State.edge_modCore (s : State) (n j : Nat) (f : Core → Core) : (s.modCore n j f).edge = s.edge := rfl
@[simp] theorem State.boot_modCore (s : State) (n j : Nat) (f : Core → Core) : (s.modCore n j f).boot = s.boot := rfl
@[simp] theorem State.keys_modCore (s : State) (n j : Nat) (f : Core → Core) : (s.modCore n j f).keys = s.keys := rfl
@[simp] theorem State.attest_modCore (s : State) (n j : Nat) (f : Core → Core) : (s.modCore n j f).attest = s.attest := rfl
@[simp] theorem State.io_modCore (s : State) (n j : Nat) (f : Core → Core) : (s.modCore n j f).io = s.io := rfl
@[simp] theorem State.fleet_modCore (s : State) (n j : Nat) (f : Core → Core) : (s.modCore n j f).fleet = s.fleet := rfl

/-! ### `modDie` -/

@[simp] theorem State.cycle_modDie (s : State) (n : Nat) (f : Die → Die) : (s.modDie n f).cycle = s.cycle := rfl
@[simp] theorem State.time_modDie (s : State) (n : Nat) (f : Die → Die) : (s.modDie n f).time = s.time := rfl
@[simp] theorem State.turns_modDie (s : State) (n : Nat) (f : Die → Die) : (s.modDie n f).turns = s.turns := rfl
@[simp] theorem State.cur_modDie (s : State) (n : Nat) (f : Die → Die) : (s.modDie n f).cur = s.cur := rfl
@[simp] theorem State.free_modDie (s : State) (n : Nat) (f : Die → Die) : (s.modDie n f).free = s.free := rfl
@[simp] theorem State.nextId_modDie (s : State) (n : Nat) (f : Die → Die) : (s.modDie n f).nextId = s.nextId := rfl
@[simp] theorem State.mem_modDie (s : State) (n : Nat) (f : Die → Die) : (s.modDie n f).mem = s.mem := rfl
@[simp] theorem State.tags_modDie (s : State) (n : Nat) (f : Die → Die) : (s.modDie n f).tags = s.tags := rfl
@[simp] theorem State.stalled_modDie (s : State) (n : Nat) (f : Die → Die) : (s.modDie n f).stalled = s.stalled := rfl
@[simp] theorem State.damaged_modDie (s : State) (n : Nat) (f : Die → Die) : (s.modDie n f).damaged = s.damaged := rfl
@[simp] theorem State.groups_modDie (s : State) (n : Nat) (f : Die → Die) : (s.modDie n f).groups = s.groups := rfl
@[simp] theorem State.teams_modDie (s : State) (n : Nat) (f : Die → Die) : (s.modDie n f).teams = s.teams := rfl
@[simp] theorem State.clusters_modDie (s : State) (n : Nat) (f : Die → Die) : (s.modDie n f).clusters = s.clusters := rfl
@[simp] theorem State.ctxs_modDie (s : State) (n : Nat) (f : Die → Die) : (s.modDie n f).ctxs = s.ctxs := rfl
@[simp] theorem State.ctxBase_modDie (s : State) (n : Nat) (f : Die → Die) : (s.modDie n f).ctxBase = s.ctxBase := rfl
@[simp] theorem State.sliceFlags_modDie (s : State) (n : Nat) (f : Die → Die) : (s.modDie n f).sliceFlags = s.sliceFlags := rfl
@[simp] theorem State.tables_modDie (s : State) (n : Nat) (f : Die → Die) : (s.modDie n f).tables = s.tables := rfl
@[simp] theorem State.rt_modDie (s : State) (n : Nat) (f : Die → Die) : (s.modDie n f).rt = s.rt := rfl
@[simp] theorem State.worlds_modDie (s : State) (n : Nat) (f : Die → Die) : (s.modDie n f).worlds = s.worlds := rfl
@[simp] theorem State.disp_modDie (s : State) (n : Nat) (f : Die → Die) : (s.modDie n f).disp = s.disp := rfl
@[simp] theorem State.edge_modDie (s : State) (n : Nat) (f : Die → Die) : (s.modDie n f).edge = s.edge := rfl
@[simp] theorem State.boot_modDie (s : State) (n : Nat) (f : Die → Die) : (s.modDie n f).boot = s.boot := rfl
@[simp] theorem State.keys_modDie (s : State) (n : Nat) (f : Die → Die) : (s.modDie n f).keys = s.keys := rfl
@[simp] theorem State.attest_modDie (s : State) (n : Nat) (f : Die → Die) : (s.modDie n f).attest = s.attest := rfl
@[simp] theorem State.io_modDie (s : State) (n : Nat) (f : Die → Die) : (s.modDie n f).io = s.io := rfl
@[simp] theorem State.fleet_modDie (s : State) (n : Nat) (f : Die → Die) : (s.modDie n f).fleet = s.fleet := rfl

/-! ### `modHart` -/

@[simp] theorem State.cycle_modHart (s : State) (f : Hart → Hart) : (s.modHart f).cycle = s.cycle := by cases s with | mk cycle time turns cur => cases cur <;> rfl
@[simp] theorem State.time_modHart (s : State) (f : Hart → Hart) : (s.modHart f).time = s.time := by cases s with | mk cycle time turns cur => cases cur <;> rfl
@[simp] theorem State.turns_modHart (s : State) (f : Hart → Hart) : (s.modHart f).turns = s.turns := by cases s with | mk cycle time turns cur => cases cur <;> rfl
@[simp] theorem State.cur_modHart (s : State) (f : Hart → Hart) : (s.modHart f).cur = s.cur := by cases s with | mk cycle time turns cur => cases cur <;> rfl
@[simp] theorem State.free_modHart (s : State) (f : Hart → Hart) : (s.modHart f).free = s.free := by cases s with | mk cycle time turns cur => cases cur <;> rfl
@[simp] theorem State.nextId_modHart (s : State) (f : Hart → Hart) : (s.modHart f).nextId = s.nextId := by cases s with | mk cycle time turns cur => cases cur <;> rfl
@[simp] theorem State.mem_modHart (s : State) (f : Hart → Hart) : (s.modHart f).mem = s.mem := by cases s with | mk cycle time turns cur => cases cur <;> rfl
@[simp] theorem State.tags_modHart (s : State) (f : Hart → Hart) : (s.modHart f).tags = s.tags := by cases s with | mk cycle time turns cur => cases cur <;> rfl
@[simp] theorem State.stalled_modHart (s : State) (f : Hart → Hart) : (s.modHart f).stalled = s.stalled := by cases s with | mk cycle time turns cur => cases cur <;> rfl
@[simp] theorem State.damaged_modHart (s : State) (f : Hart → Hart) : (s.modHart f).damaged = s.damaged := by cases s with | mk cycle time turns cur => cases cur <;> rfl
@[simp] theorem State.teams_modHart (s : State) (f : Hart → Hart) : (s.modHart f).teams = s.teams := by cases s with | mk cycle time turns cur => cases cur <;> rfl
@[simp] theorem State.dies_modHart (s : State) (f : Hart → Hart) : (s.modHart f).dies = s.dies := by cases s with | mk cycle time turns cur => cases cur <;> rfl
@[simp] theorem State.ctxs_modHart (s : State) (f : Hart → Hart) : (s.modHart f).ctxs = s.ctxs := by cases s with | mk cycle time turns cur => cases cur <;> rfl
@[simp] theorem State.ctxBase_modHart (s : State) (f : Hart → Hart) : (s.modHart f).ctxBase = s.ctxBase := by cases s with | mk cycle time turns cur => cases cur <;> rfl
@[simp] theorem State.sliceFlags_modHart (s : State) (f : Hart → Hart) : (s.modHart f).sliceFlags = s.sliceFlags := by cases s with | mk cycle time turns cur => cases cur <;> rfl
@[simp] theorem State.tables_modHart (s : State) (f : Hart → Hart) : (s.modHart f).tables = s.tables := by cases s with | mk cycle time turns cur => cases cur <;> rfl
@[simp] theorem State.rt_modHart (s : State) (f : Hart → Hart) : (s.modHart f).rt = s.rt := by cases s with | mk cycle time turns cur => cases cur <;> rfl
@[simp] theorem State.worlds_modHart (s : State) (f : Hart → Hart) : (s.modHart f).worlds = s.worlds := by cases s with | mk cycle time turns cur => cases cur <;> rfl
@[simp] theorem State.disp_modHart (s : State) (f : Hart → Hart) : (s.modHart f).disp = s.disp := by cases s with | mk cycle time turns cur => cases cur <;> rfl
@[simp] theorem State.edge_modHart (s : State) (f : Hart → Hart) : (s.modHart f).edge = s.edge := by cases s with | mk cycle time turns cur => cases cur <;> rfl
@[simp] theorem State.boot_modHart (s : State) (f : Hart → Hart) : (s.modHart f).boot = s.boot := by cases s with | mk cycle time turns cur => cases cur <;> rfl
@[simp] theorem State.keys_modHart (s : State) (f : Hart → Hart) : (s.modHart f).keys = s.keys := by cases s with | mk cycle time turns cur => cases cur <;> rfl
@[simp] theorem State.attest_modHart (s : State) (f : Hart → Hart) : (s.modHart f).attest = s.attest := by cases s with | mk cycle time turns cur => cases cur <;> rfl
@[simp] theorem State.io_modHart (s : State) (f : Hart → Hart) : (s.modHart f).io = s.io := by cases s with | mk cycle time turns cur => cases cur <;> rfl
@[simp] theorem State.fleet_modHart (s : State) (f : Hart → Hart) : (s.modHart f).fleet = s.fleet := by cases s with | mk cycle time turns cur => cases cur <;> rfl

/-! ### `modCurGroup` -/

@[simp] theorem State.cycle_modCurGroup (s : State) (f : Group → Group) : (s.modCurGroup f).cycle = s.cycle := by cases s with | mk cycle time turns cur => cases cur <;> rfl
@[simp] theorem State.time_modCurGroup (s : State) (f : Group → Group) : (s.modCurGroup f).time = s.time := by cases s with | mk cycle time turns cur => cases cur <;> rfl
@[simp] theorem State.turns_modCurGroup (s : State) (f : Group → Group) : (s.modCurGroup f).turns = s.turns := by cases s with | mk cycle time turns cur => cases cur <;> rfl
@[simp] theorem State.cur_modCurGroup (s : State) (f : Group → Group) : (s.modCurGroup f).cur = s.cur := by cases s with | mk cycle time turns cur => cases cur <;> rfl
@[simp] theorem State.free_modCurGroup (s : State) (f : Group → Group) : (s.modCurGroup f).free = s.free := by cases s with | mk cycle time turns cur => cases cur <;> rfl
@[simp] theorem State.nextId_modCurGroup (s : State) (f : Group → Group) : (s.modCurGroup f).nextId = s.nextId := by cases s with | mk cycle time turns cur => cases cur <;> rfl
@[simp] theorem State.mem_modCurGroup (s : State) (f : Group → Group) : (s.modCurGroup f).mem = s.mem := by cases s with | mk cycle time turns cur => cases cur <;> rfl
@[simp] theorem State.tags_modCurGroup (s : State) (f : Group → Group) : (s.modCurGroup f).tags = s.tags := by cases s with | mk cycle time turns cur => cases cur <;> rfl
@[simp] theorem State.stalled_modCurGroup (s : State) (f : Group → Group) : (s.modCurGroup f).stalled = s.stalled := by cases s with | mk cycle time turns cur => cases cur <;> rfl
@[simp] theorem State.damaged_modCurGroup (s : State) (f : Group → Group) : (s.modCurGroup f).damaged = s.damaged := by cases s with | mk cycle time turns cur => cases cur <;> rfl
@[simp] theorem State.teams_modCurGroup (s : State) (f : Group → Group) : (s.modCurGroup f).teams = s.teams := by cases s with | mk cycle time turns cur => cases cur <;> rfl
@[simp] theorem State.clusters_modCurGroup (s : State) (f : Group → Group) : (s.modCurGroup f).clusters = s.clusters := by cases s with | mk cycle time turns cur => cases cur <;> rfl
@[simp] theorem State.dies_modCurGroup (s : State) (f : Group → Group) : (s.modCurGroup f).dies = s.dies := by cases s with | mk cycle time turns cur => cases cur <;> rfl
@[simp] theorem State.ctxs_modCurGroup (s : State) (f : Group → Group) : (s.modCurGroup f).ctxs = s.ctxs := by cases s with | mk cycle time turns cur => cases cur <;> rfl
@[simp] theorem State.ctxBase_modCurGroup (s : State) (f : Group → Group) : (s.modCurGroup f).ctxBase = s.ctxBase := by cases s with | mk cycle time turns cur => cases cur <;> rfl
@[simp] theorem State.sliceFlags_modCurGroup (s : State) (f : Group → Group) : (s.modCurGroup f).sliceFlags = s.sliceFlags := by cases s with | mk cycle time turns cur => cases cur <;> rfl
@[simp] theorem State.tables_modCurGroup (s : State) (f : Group → Group) : (s.modCurGroup f).tables = s.tables := by cases s with | mk cycle time turns cur => cases cur <;> rfl
@[simp] theorem State.rt_modCurGroup (s : State) (f : Group → Group) : (s.modCurGroup f).rt = s.rt := by cases s with | mk cycle time turns cur => cases cur <;> rfl
@[simp] theorem State.worlds_modCurGroup (s : State) (f : Group → Group) : (s.modCurGroup f).worlds = s.worlds := by cases s with | mk cycle time turns cur => cases cur <;> rfl
@[simp] theorem State.disp_modCurGroup (s : State) (f : Group → Group) : (s.modCurGroup f).disp = s.disp := by cases s with | mk cycle time turns cur => cases cur <;> rfl
@[simp] theorem State.edge_modCurGroup (s : State) (f : Group → Group) : (s.modCurGroup f).edge = s.edge := by cases s with | mk cycle time turns cur => cases cur <;> rfl
@[simp] theorem State.boot_modCurGroup (s : State) (f : Group → Group) : (s.modCurGroup f).boot = s.boot := by cases s with | mk cycle time turns cur => cases cur <;> rfl
@[simp] theorem State.keys_modCurGroup (s : State) (f : Group → Group) : (s.modCurGroup f).keys = s.keys := by cases s with | mk cycle time turns cur => cases cur <;> rfl
@[simp] theorem State.attest_modCurGroup (s : State) (f : Group → Group) : (s.modCurGroup f).attest = s.attest := by cases s with | mk cycle time turns cur => cases cur <;> rfl
@[simp] theorem State.io_modCurGroup (s : State) (f : Group → Group) : (s.modCurGroup f).io = s.io := by cases s with | mk cycle time turns cur => cases cur <;> rfl
@[simp] theorem State.fleet_modCurGroup (s : State) (f : Group → Group) : (s.modCurGroup f).fleet = s.fleet := by cases s with | mk cycle time turns cur => cases cur <;> rfl

end Sys2Proof.Machine
end

