-- ==== Sys2Proof/Laws/Scalar.lean ====
section
/-! SUPPORT. What the shared operations of scalar words do: registers of the current thread, the frame of a word, its issue, its faults. -/
namespace Sys2Proof.Machine
open Sys2Proof

/-! ### The scalar part of the current thread -/

theorem State.present_modHart (s : State) (f : Hart → Hart) (h : s.Present) : (s.modHart f).Present := by
  obtain ⟨cy, time, tu, cur⟩ := s
  cases cur <;> simp_all [State.Present, State.modHart, State.modHartOf, State.modGroup, State.modCluster, State.group]

theorem State.hart_modHart (s : State) (f : Hart → Hart) (h : s.Present) : (s.modHart f).hart = f s.hart := by
  obtain ⟨cy, time, tu, cur⟩ := s
  cases cur with
  | group k =>
    simp only [State.Present, Option.isSome_iff_exists] at h
    obtain ⟨g, hg⟩ := h
    simp only [State.group] at hg
    simp [State.hart, State.hartOf, State.modHart, State.modHartOf, State.modGroup, State.group, hg]
  | service c =>
    simp only [State.Present] at h
    simp [State.hart, State.hartOf, State.modHart, State.modHartOf, State.modCluster, State.cluster, h]

@[simp] theorem State.modHart_modHart (s : State) (f g : Hart → Hart) : (s.modHart f).modHart g = s.modHart fun h => g (f h) := by
  obtain ⟨cy, time, tu, cur⟩ := s
  cases cur <;> simp [State.modHart, State.modHartOf, State.modGroup, State.modCluster]

@[simp] theorem State.rest_modHart (s : State) (f : Hart → Hart) : (s.modHart f).rest = s.rest := by
  simp only [State.rest, State.modHart_modHart, State.cur_modHart]

@[simp] theorem State.issue_cur (s : State) : s.issue.cur = s.cur := by
  obtain ⟨cy, time, tu, cur⟩ := s
  cases cur with
  | service c => rfl
  | group k => simp only [State.issue, State.count]; split <;> split <;> rfl

/-- Issuing a word touches nothing but the record of stepping, the core's rotation and count, and the count of free values. -/
@[simp] theorem State.rest_issue (s : State) : s.issue.rest = s.rest := by
  obtain ⟨cy, time, tu, cur⟩ := s
  cases cur with
  | service c => rfl
  | group k =>
    simp only [State.issue, State.count]
    split <;> split <;>
      simp [State.rest, State.modHart, State.modHartOf, State.modGroup, State.modCore, State.modCluster]

theorem State.hart_issue (s : State) : s.issue.hart = s.hart := by
  obtain ⟨cy, time, tu, cur⟩ := s
  cases cur with
  | service c => rfl
  | group k =>
    have key : ∀ (t : State), (t.modGroup k fun g => { g with stepping := { g.stepping with
        exempt := g.stepping.exempt.filter (·.1), pending := g.stepping.pending || g.stepping.mode == 1, addr := if g.stepping.mode = 1 then g.hart.pc else g.stepping.addr } }).hartOf (.group k)
        = t.hartOf (.group k) := by
      intro t
      simp only [State.hartOf, State.group, State.modGroup, mapGet_mapMod_same]
      cases mapGet t.groups k <;> rfl
    simp only [State.issue, State.count]
    split <;> split <;> exact key _

theorem State.present_issue (s : State) (h : s.Present) : s.issue.Present := by
  obtain ⟨cy, time, tu, cur⟩ := s
  cases cur with
  | service c => exact h
  | group k =>
    simp only [State.Present, State.issue_cur]
    simp only [State.Present] at h
    simp only [State.issue, State.count]
    split <;> split <;> simpa [State.group, State.modGroup, State.modCore, State.modCluster] using h

@[simp] theorem State.rest_advance (s : State) : s.advance.rest = s.rest := by simp [State.advance, State.setPc]

theorem State.hart_advance (s : State) (h : s.Present) : s.advance.hart = { s.hart with pc := s.pc + 4 } := by
  simp only [State.advance, State.setPc, State.hart_modHart _ _ (s.present_issue h), State.hart_issue]

@[simp] theorem State.rest_jump (s : State) (x : Word) : (s.jump x).rest = s.rest := by simp [State.jump, State.setPc]

theorem State.hart_jump (s : State) (x : Word) (h : s.Present) : (s.jump x).hart = { s.hart with pc := x } := by
  simp only [State.jump, State.setPc, State.hart_modHart _ _ (s.present_issue h), State.hart_issue]

@[simp] theorem Hart.setX_pc (h : Hart) (r : BitVec 6) (v : Word) : (h.setX r v).pc = h.pc := by unfold Hart.setX; split <;> rfl

/-! ### The frame of a word -/

/-- A ready word is its body. -/
theorem State.scalarOp_ready (s : State) (xs : List (BitVec 6)) (cs : List (BitVec 5)) (body : State → Res) (h : s.Ready xs cs) :
    s.scalarOp xs cs body = body s := by
  obtain ⟨h1, h2, h3⟩ := h
  have e1 : (xs.any fun r => decide (s.sbud ≤ r.toNat)) = false := by simpa using h1
  have e2 : (xs.any fun r => s.busy.contains (.s r.toNat)) = false := by simpa using h2
  have e3 : (cs.any fun r => s.busy.contains (.c r.toNat)) = false := by simpa using h3
  simp only [State.scalarOp, e1, e2, e3, Bool.or_self, Bool.false_eq_true, if_false]

/-- All that the frame of a word can do: fault for a register beyond the budget, wait for a register, or run the body. -/
theorem State.scalarOp_cases (s : State) (xs : List (BitVec 6)) (cs : List (BitVec 5)) (body : State → Res) :
    ((∃ r ∈ xs, s.sbud ≤ r.toNat) ∧ s.scalarOp xs cs body = .next (s.raiseHere Cause.illegalInsn)) ∨
    ((∀ r ∈ xs, r.toNat < s.sbud) ∧ ((∃ r ∈ xs, RegRef.s r.toNat ∈ s.busy) ∨ (∃ r ∈ cs, RegRef.c r.toNat ∈ s.busy)) ∧ s.scalarOp xs cs body = .next s) ∨
    (s.Ready xs cs ∧ s.scalarOp xs cs body = body s) := by
  by_cases h1 : ∃ r ∈ xs, s.sbud ≤ r.toNat
  · left; refine ⟨h1, ?_⟩
    have e1 : (xs.any fun r => decide (s.sbud ≤ r.toNat)) = true := by simpa using h1
    simp only [State.scalarOp, e1, if_true]
  · right
    have h1' : ∀ r ∈ xs, r.toNat < s.sbud := fun r hr => by
      by_contra h; exact h1 ⟨r, hr, by omega⟩
    by_cases h2 : (∃ r ∈ xs, RegRef.s r.toNat ∈ s.busy) ∨ (∃ r ∈ cs, RegRef.c r.toNat ∈ s.busy)
    · left; refine ⟨h1', h2, ?_⟩
      have e1 : (xs.any fun r => decide (s.sbud ≤ r.toNat)) = false := by simpa using h1'
      have e2 : ((xs.any fun r => s.busy.contains (.s r.toNat)) || (cs.any fun r => s.busy.contains (.c r.toNat))) = true := by
        rcases h2 with ⟨r, hr, hb⟩ | ⟨r, hr, hb⟩
        · rw [Bool.or_eq_true]; left; exact List.any_eq_true.2 ⟨r, hr, by simpa using hb⟩
        · rw [Bool.or_eq_true]; right; exact List.any_eq_true.2 ⟨r, hr, by simpa using hb⟩
      simp only [State.scalarOp, e1, e2, Bool.false_eq_true, if_false, if_true]
    · right
      have hr : s.Ready xs cs := ⟨h1', fun r hr hb => h2 (.inl ⟨r, hr, hb⟩), fun r hr hb => h2 (.inr ⟨r, hr, hb⟩)⟩
      exact ⟨hr, s.scalarOp_ready xs cs body hr⟩

/-- A word that changes the scalar part of its thread and goes on to the next word. -/
theorem did_modHart (s : State) (f : Hart → Hart) (h : s.Present) (hp : (f s.hart).pc = s.hart.pc) :
    Did s (.next (s.modHart f).advance) (f s.hart) := by
  refine ⟨_, rfl, ?_, by simp⟩
  rw [State.hart_advance _ (s.present_modHart f h)]
  simp only [State.pc, State.hart_modHart s f h, hp]

theorem did_setX (s : State) (d : BitVec 6) (v : Word) (h : s.Present) : Did s (.next (s.setX d v).advance) (s.hart.setX d v) :=
  did_modHart s (fun x => x.setX d v) h (by simp)

theorem did_setC (s : State) (d : BitVec 5) (v : Cap) (h : s.Present) : Did s (.next (s.setC d v).advance) (s.hart.setCap d v) :=
  did_modHart s (fun x => x.setCap d v) h rfl

theorem did_advance (s : State) (h : s.Present) : Did s (.next s.advance) s.hart :=
  ⟨_, rfl, State.hart_advance s h, by simp⟩

theorem jumped_jump (s : State) (x : Word) (h : s.Present) : Jumped s (.next (s.jump x)) s.hart x :=
  ⟨_, rfl, State.hart_jump s x h, by simp⟩

/-- A ready word of the arithmetic frame writes its value. -/
theorem did_aluOp (s : State) (d : BitVec 6) (srcs : List (BitVec 6)) (v : State → Word) (h : s.Present) (hr : s.Ready (d :: srcs) []) :
    Did s (s.aluOp d srcs v) (s.hart.setX d (v s)) := by
  rw [State.aluOp, s.scalarOp_ready _ _ _ hr]; exact did_setX s d (v s) h

end Sys2Proof.Machine
end

