-- ==== Sys2Proof/Laws/Memory.lean ====
section
/-! SUPPORT. What the shared operations of scalar memory words do: a granted access, an operation left outstanding, writes by key. -/
namespace Sys2Proof.Machine
open Sys2Proof

/-- An access that goes through, and lacks no permission that its instruction asks for, runs its effect at its key. -/
theorem State.accessOpIf_granted (s u : State) (a : Acc) (k : Nat) (body : Nat → State → Res) (h : s.Granted a k u) : s.accessOpIf a false body = body k u := by
  obtain ⟨⟨t, hc, rfl⟩, hw, hh, hr⟩ := h
  have e1 : (match s.cur with
      | .group g => if a.cap.has Perm.window then none else (s.watch (slotCluster g) s.who.ctx a.rd a.wr a.x a.n).map fun i => (g, i)
      | .service _ => (none : Option (Nat × Nat))) = none := by
    cases hcur : s.cur with
    | service c => rfl
    | group g =>
      rcases hw g hcur with h | h
      · simp [h]
      · simp [h]
  have e2 : (s.isService && physHole k) = false := by
    cases h1 : s.isService <;> cases h2 : physHole k <;> simp_all
  have e3 : (!s.memReady a.wr k a.n) = false := by simp [hr]
  simp only [State.accessOpIf, hc, e2, e3, Bool.false_eq_true, if_false]
  split
  · rename_i heq
    exact absurd (e1.symm.trans heq) (by simp)
  · rfl

/-- The same of an access that asks for nothing beside R70. -/
theorem State.accessOp_granted (s u : State) (a : Acc) (k : Nat) (body : Nat → State → Res) (h : s.Granted a k u) : s.accessOp a body = body k u :=
  s.accessOpIf_granted u a k body h

@[simp] theorem State.fill_cur (s : State) (c : Nat) (ts) : (s.fill c ts).cur = s.cur := by
  unfold State.fill; split <;> rfl
theorem Cluster.fill_hart (c : Cluster) (ts) : (c.fill ts).svc = c.svc := by
  induction ts generalizing c with
  | nil => rfl
  | cons t ts ih => simp only [Cluster.fill]; rw [ih]
theorem State.hart_fill (s : State) (c : Nat) (ts) : (s.fill c ts).hart = s.hart := by
  unfold State.fill
  split
  · rfl
  · obtain ⟨cy, time, tu, cur⟩ := s
    cases cur with
    | group k => rfl
    | service k =>
      simp only [State.hart, State.hartOf, State.cluster, State.modCluster]
      by_cases hc : c = k
      · subst hc
        by_cases hl : c < Config.nClusters
        · rw [vgetD_vmod_same _ _ _ _ hl, Cluster.fill_hart]
        · simp only [vmod, vgetD]; simp [show ¬ c < 192 from hl]
      · rw [vgetD_vmod_ne _ _ _ (Ne.symm hc)]

/-- An operation recorded as outstanding, as a change of the scalar part. -/
def pendF (p : Pending) (h : Hart) : Hart := { h with ld := if p.ld then h.ld + 1 else h.ld, st := if p.ld then h.st else h.st + 1, pend := h.pend ++ [p] }
theorem pendF_eq (p : Pending) (h : Hart) : pendF p h = h.holding p := by
  unfold pendF Hart.holding; cases p.ld <;> simp
theorem State.pendOp_eq (u : State) (p : Pending) : u.pendOp p = { u.modHart (pendF { p with id := u.nextId }) with nextId := u.nextId + 1 } := rfl
theorem State.pend_eq (u : State) (ld regs atoms writes fp) : u.pend ld regs atoms writes fp = u.pendOp (opOf 0 ld regs atoms writes fp) := rfl
theorem State.present_next (u : State) (n) (h : u.Present) : ({ u with nextId := n } : State).Present := h
theorem State.hart_next (u : State) (n) : ({ u with nextId := n } : State).hart = u.hart := rfl
/-- A word that leaves an operation outstanding. -/
theorem did_pendOp (s u : State) (p : Pending) (hu : u.Present) (hh : u.hart = s.hart) (hn : u.nextId = s.nextId) :
    DidIn s { u with nextId := s.nextId + 1 } (.next (u.pendOp p).advance) (s.hart.holding { p with id := s.nextId }) := by
  rw [State.pendOp_eq, hn]
  have hp := State.present_next _ (s.nextId + 1) (u.present_modHart (pendF { p with id := s.nextId }) hu)
  have e := State.hart_next (u.modHart (pendF { p with id := s.nextId })) (s.nextId + 1)
  rw [u.hart_modHart _ hu, pendF_eq, hh] at e
  refine ⟨_, rfl, ?_, ?_⟩
  · rw [State.hart_advance _ hp, State.pc, e]; rfl
  · rw [State.rest_advance]
    refine Eq.trans ?_ (State.rest_modHart { u with nextId := s.nextId + 1 } (pendF { p with id := s.nextId }))
    obtain ⟨cy, time, tu, cur⟩ := u
    cases cur <;> rfl
/-- The same of an operation by its parts. -/
theorem did_pend (s u : State) (ld regs atoms writes fp) (hu : u.Present) (hh : u.hart = s.hart) (hn : u.nextId = s.nextId) :
    DidIn s { u with nextId := s.nextId + 1 } (.next (u.pend ld regs atoms writes fp).advance) (s.hart.holding (opOf s.nextId ld regs atoms writes fp)) := by
  rw [State.pend_eq]; exact did_pendOp s u _ hu hh hn
@[simp] theorem State.fill_nextId (s : State) (c ts) : (s.fill c ts).nextId = s.nextId := by
  unfold State.fill; split <;> rfl
theorem State.fill_present (s : State) (c : Nat) (ts) (h : s.Present) : (s.fill c ts).Present := by
  unfold State.fill; split
  · exact h
  · exact h
theorem State.granted_same {s u : State} {a : Acc} {k : Nat} (h : s.Granted a k u) (hp : s.Present) : u.Present ∧ u.hart = s.hart ∧ u.nextId = s.nextId := by
  obtain ⟨⟨t, hc, rfl⟩, -⟩ := h
  exact ⟨State.fill_present s _ _ hp, State.hart_fill s _ _, by simp⟩

/-! ### Writes by key leave the scalar parts alone -/

theorem State.hartOf_modGroup (s : State) (k : Nat) (f : Group → Group) (hf : ∀ g, (f g).hart = g.hart) (t : Thread) :
    (s.modGroup k f).hartOf t = s.hartOf t := by
  cases t with
  | service c => rfl
  | group j =>
    simp only [State.hartOf, State.group, State.modGroup, mapGet_mapMod]
    by_cases h : j = k
    · subst h; cases mapGet s.groups j <;> simp [hf]
    · simp [h]

theorem State.isSome_modGroup (s : State) (k j : Nat) (f : Group → Group) : ((s.modGroup k f).group j).isSome = (s.group j).isSome := by
  simp only [State.group, State.modGroup, mapGet_mapMod]
  split
  · subst_vars; simp
  · rfl

/-- Two states with the same thread, scalar parts, residency and numbers given out. -/
structure State.SameHarts (s t : State) : Prop where
  cur : t.cur = s.cur
  next : t.nextId = s.nextId
  hart : ∀ x, t.hartOf x = s.hartOf x
  some : ∀ j, (t.group j).isSome = (s.group j).isSome

theorem State.SameHarts.refl (s : State) : s.SameHarts s := ⟨rfl, rfl, fun _ => rfl, fun _ => rfl⟩
theorem State.SameHarts.trans {s t u : State} (h : s.SameHarts t) (i : t.SameHarts u) : s.SameHarts u :=
  ⟨i.cur.trans h.cur, i.next.trans h.next, fun x => (i.hart x).trans (h.hart x), fun j => (i.some j).trans (h.some j)⟩
theorem State.SameHarts.present {s t : State} (h : s.SameHarts t) (hp : s.Present) : t.Present := by
  unfold State.Present at *
  rw [h.cur]
  split <;> simp_all [h.some]
theorem State.SameHarts.here {s t : State} (h : s.SameHarts t) : t.hart = s.hart := by rw [State.hart, State.hart, h.cur, h.hart]

theorem State.sameHarts_modGroup (s : State) (k : Nat) (f : Group → Group) (hf : ∀ g, (f g).hart = g.hart) : s.SameHarts (s.modGroup k f) :=
  ⟨rfl, rfl, s.hartOf_modGroup k f hf, fun j => s.isSome_modGroup k j f⟩
theorem State.sameHarts_keyPut (s : State) (k : Nat) (x : Byte) : s.SameHarts (s.keyPut k x) := by
  unfold State.keyPut
  have plain : ∀ t : State, t.cur = s.cur → t.nextId = s.nextId → t.groups = s.groups → t.clusters = s.clusters → s.SameHarts t := by
    rintro t h1 h2 h3 h4
    exact ⟨h1, h2, fun x => by cases x <;> simp [State.hartOf, State.group, State.cluster, h3, h4], fun _ => by simp [State.group, h3]⟩
  split
  · exact plain _ rfl rfl rfl rfl
  · split
    · exact s.sameHarts_modGroup _ _ fun _ => rfl
    · split
      · exact plain _ rfl rfl rfl rfl
      · split <;> exact plain _ rfl rfl rfl rfl
theorem State.sameHarts_keySetTag (s : State) (k : Nat) (x : Bool) : s.SameHarts (s.keySetTag k x) := by
  unfold State.keySetTag
  split
  · exact ⟨rfl, rfl, fun x => by cases x <;> rfl, fun _ => rfl⟩
  · split
    · exact s.sameHarts_modGroup _ _ fun _ => rfl
    · exact ⟨rfl, rfl, fun x => by cases x <;> rfl, fun _ => rfl⟩
theorem State.sameHarts_putKeys (s : State) (k : Nat) (bs : List Byte) : s.SameHarts (s.putKeys k bs) := by
  induction bs generalizing s k with
  | nil => exact .refl s
  | cons b bs ih => exact (s.sameHarts_keyPut k b).trans (ih _ _)
theorem State.sameHarts_foldl {α : Type} (f : State → α → State) (hf : ∀ (s : State) (a : α), s.SameHarts (f s a)) (l : List α) (s : State) :
    s.SameHarts (l.foldl f s) := by
  induction l generalizing s with
  | nil => exact .refl s
  | cons a l ih => exact (hf s a).trans (ih _)
theorem State.sameHarts_clearTags (s : State) (k n : Nat) : s.SameHarts (s.clearTags k n) := by
  unfold State.clearTags
  split
  · exact .refl s
  · exact State.sameHarts_foldl _ (fun t _ => t.sameHarts_keySetTag _ _) _ s
theorem State.sameHarts_writeKeys (s : State) (k : Nat) (bs : List Byte) : s.SameHarts (s.writeKeys k bs) :=
  (s.sameHarts_clearTags _ _).trans (State.sameHarts_putKeys _ _ _)
theorem State.sameHarts_writeCap (s : State) (k : Nat) (c : Cap) (t : Bool) : s.SameHarts (s.writeCap k c t) :=
  (s.sameHarts_putKeys _ _).trans (State.sameHarts_keySetTag _ _ _)
/-- An event leaves the scalar part of its service core alone. -/
@[simp] theorem Service.tell_hart (v : Service) (e : Event) : (v.tell e).hart = v.hart := by unfold Service.tell; split <;> rfl
theorem State.sameHarts_event (s : State) (cl kind : Nat) (cause : BitVec 8) (grp arg : Word) : s.SameHarts (s.event cl kind cause grp arg) := by
  refine ⟨rfl, rfl, fun x => ?_, fun _ => rfl⟩
  cases x with
  | group k => rfl
  | service c =>
    simp only [State.hartOf, State.event, State.modCluster, State.cluster]
    by_cases h : cl = c
    · subst h
      by_cases hl : cl < Config.nClusters
      · rw [vgetD_vmod_same _ _ _ _ hl]; exact Service.tell_hart _ _
      · simp only [vmod, vgetD]; simp [show ¬ cl < 192 from hl]
    · rw [vgetD_vmod_ne _ _ _ (Ne.symm h)]
theorem State.sameHarts_doorbell (s : State) (q : Nat) (v : BitVec 32) : s.SameHarts (s.doorbell q v) := by
  unfold State.doorbell
  dsimp only
  split
  · exact .refl s
  · split
    · exact State.SameHarts.trans (t := s.modQueue q fun d => { d.close with broken := true })
        ⟨rfl, rfl, fun x => by cases x <;> rfl, fun _ => rfl⟩ (State.sameHarts_event _ _ _ _ _ _)
    · exact ⟨rfl, rfl, fun x => by cases x <;> rfl, fun _ => rfl⟩
theorem State.sameHarts_setEdgeReg (s : State) (off : Nat) (v : Word) : s.SameHarts (s.setEdgeReg off v) := by
  unfold State.setEdgeReg
  split
  · exact ⟨rfl, rfl, fun x => by cases x <;> rfl, fun _ => rfl⟩
  · split
    · dsimp only; split <;> exact ⟨rfl, rfl, fun x => by cases x <;> rfl, fun _ => rfl⟩
    · split
      · exact s.sameHarts_doorbell _ _
      · repeat' split
        all_goals first | exact .refl s | exact ⟨rfl, rfl, fun x => by cases x <;> rfl, fun _ => rfl⟩
theorem State.sameHarts_storeNat (s : State) (k n x : Nat) : s.SameHarts (s.storeNat k n x) := by
  unfold State.storeNat
  split
  · exact s.sameHarts_setEdgeReg _ _
  · exact s.sameHarts_writeKeys _ _

end Sys2Proof.Machine
end

