-- ==== Sys2Proof/Tests/Slice0.lean ====
section
/-! SUPPORT. Tests: ill-formed terms that the checks refuse, words written out from the encoding tables, single steps, and for every obligation
with hypotheses concrete states and operands that meet them. A clause about what an opaque value of Config answers (an image accepted, a blob unwrapped)
has no witness on that value: nothing in Lean can evaluate it. -/
namespace Sys2Proof.Tests
open Sys2Proof Sys2Proof.Machine
set_option Elab.async false

/-! ### Well-formedness -/

/-- R78, R81, R84 to R87: a scalar term with a field value that no encoding admits, one for each check, is not well-formed. -/
theorem test_wf_scalar : ([.fenceAcq 6,
    .ldx 1 2 3 ⟨true, 6⟩ 0,
    .ldx 1 2 3 ⟨false, 1⟩ 0,
    .stx 1 2 3 ⟨false, 2⟩ 0,
    .atom 1 2 3 0 24,
    .atom 1 2 3 6 0,
    .trapAll 96 false,
    .trapAny 0 0 false,
    .trapAny 1 96 false,
    .rdcsr 32 0x070,
    .rdcsr 63 0x071,
    .mxlds 1 2 false 5,
    .mxmm 3 false 1 2 false false 0,
    .mxmm 0 false 1 2 false false 5,
    .mxst 0 1 2 false 4,
    .mxst 3 1 2 false 0,
    .mxzero 3 false,
    .tcopy 1 2 3 false 5] : List Instr).all (fun i => !i.wf) = true := by decide +kernel

/-- R47, R80, R81, R90 to R93: the same for lane terms. -/
theorem test_wf_lane : ([.vadd ⟨false, 96, false⟩ 1 2 (.vec 3) 6,
    .vadd ⟨false, 0, false⟩ 1 2 (.vec 3) 9,
    .vfadd ⟨false, 0, false⟩ 6 1 2 (.vec 3) 0xA,
    .vcvt ⟨false, 0, false⟩ 1 1 2 6 2,
    .vcvt ⟨false, 0, false⟩ 0 1 2 9 6,
    .vcvtSat ⟨false, 0, false⟩ 6 1 2 0xA 6,
    .vcmpEq ⟨false, 0, false⟩ 96 1 (.vec 3) 6,
    .vfcmpEq ⟨false, 0, false⟩ 127 1 (.vec 3) 0xA,
    .vpand ⟨false, 0, false⟩ 1 96 1,
    .vpor ⟨false, 0, false⟩ 1 1 96,
    .vpmov ⟨false, 0, false⟩ 96 1,
    .vpcnt ⟨false, 0, false⟩ 1 96,
    .vpto ⟨false, 0, false⟩ 1 2 9,
    .vmvx false 1 2 9,
    .vld ⟨false, 0, false⟩ ⟨true, 6⟩ 4 ⟨1, false⟩ 0 6,
    .vld ⟨false, 0, false⟩ ⟨false, 1⟩ 4 ⟨1, false⟩ 0 6,
    .vld ⟨false, 0, false⟩ ⟨false, 0⟩ 4 ⟨32, false⟩ 0 6,
    .vlds ⟨false, 0, false⟩ ⟨false, 0⟩ 4 1 32 0 6,
    .vstc ⟨false, 0, false⟩ ⟨false, 0⟩ 4 8 ⟨40, false⟩,
    .vatom ⟨false, 0, false⟩ 0 24 1 2 3 0 ⟨1, false⟩ false,
    .vatom ⟨false, 0, false⟩ 0 0 1 2 3 0 ⟨1, false⟩ true,
    .vatom ⟨false, 0, false⟩ 0 0 1 2 3 4 ⟨1, false⟩ false,
    .vatom ⟨false, 0, false⟩ 7 0 1 2 3 0 ⟨1, false⟩ false,
    .vatom32 ⟨false, 0, false⟩ 0 6 1 2 3 ⟨1, false⟩ false,
    .vatom32 ⟨false, 0, false⟩ 0 0 1 2 3 ⟨1, false⟩ true,
    .vlrc ⟨false, 0, false⟩ 1 2 3 4 ⟨32, false⟩ 0 false,
    .vbasket ⟨false, 96, false⟩ 1 8] : List Instr).all (fun i => !i.wf) = true := by decide +kernel

/-- R96 to R98: the same for routine terms. -/
theorem test_wf_routine : ([.routineAdd 16 0 0,
    .routineAdd 0 27 0,
    .routineAdd 0 0 31,
    .routineLi 17 0,
    .routineLi 27 0,
    .routineExt 0 0 63 1,
    .routineIns 0 0 32 32,
    .routineSkipEq 0 0 0,
    .routineSkipNe 27 0 1,
    .routineAddi 0 27 0] : List Instr).all (fun i => !i.wf) = true := by decide +kernel

/-- The largest values that the same checks admit. -/
theorem test_wf_accepted : ([.fenceAcq 5, .ldx 1 2 3 ⟨true, 5⟩ 0, .atom 1 2 3 5 23, .trapAny 1 95 true, .rdcsr 31 0x070, .mxmm 2 true 1 2 true true 4,
    .mxst 2 1 2 true 3, .tcopy 1 2 3 true 4, .vcmpEq ⟨true, 95, true⟩ 95 63 (.imm 63) 8, .vatom ⟨false, 0, false⟩ 5 0x0B 63 2 3 63 ⟨63, true⟩ false,
    .vcvt ⟨false, 0, false⟩ 5 1 2 0xA 6, .routineExt 26 26 31 32] : List Instr).all (fun i => i.wf) = true := by decide +kernel

/-! ### Decoding -/

/-- R83: scalar words, each field at its place. -/
theorem test_decode_scalar0 :
    decodeScalar 0x04310500 = .ok (.add 3 4 5) ∧
    decodeScalar 0x1861C083 = .ok (.srai 6 7 3) := by decide +kernel

/-- R84: scalar words, each field at its place. -/
theorem test_decode_scalar1 :
    decodeScalar 0x3440C008 = .ok (.ldZ32 4 3 8) ∧
    decodeScalar 0x589087C2 = .ok (.ldx 9 2 7 ⟨true, 4⟩ 2) := by decide +kernel

/-- R85: scalar words, each field at its place. -/
theorem test_decode_scalar2 :
    decodeScalar 0x70418005 = .ok (.msend 4 6 5) ∧
    decodeScalar 0x7C00000C = .ok (.fenceRel 4) ∧
    decodeScalar 0x90200005 = .ok (.beq 2 0 5) ∧
    decodeScalar 0xC0000000 = .ok (.lrun 0 0) ∧
    decodeScalar 0xC40000FC = .ok (.waitc 0 0 0 63) ∧
    decodeScalar 0xB4000000 = .ok (.lqwait) := by decide +kernel

/-- R86, R87: scalar words, each field at its place. -/
theorem test_decode_scalar3 :
    decodeScalar 0xC8400013 = .ok (.rdcsr 4 0x013) ∧
    decodeScalar 0xDC418500 = .ok (.lrinst 4 6 5) ∧
    decodeScalar 0xD4508701 = .ok (.tcopy 5 2 7 false 1) := by decide +kernel

/-- Major fields of R91 to R93: vsetl, vsetli. -/
theorem test_decode_vtype :
    decodeLane 0b000000010000000000000000001001000000000000000000000101000000000000000000000000000000000000101010 = .ok (.vsetl false 9 5 0x2A) ∧
    decodeLane 0b100000010000000100000000001001000000000000000000000000000000000000000000011001000000000000010101 = .ok (.vsetli true 9 0x15 100) := by decide +kernel

/-- Major fields of R91 to R93: vrsub with a scalar, vsll with a constant. -/
theorem test_decode_vint :
    decodeLane 0b000000100000001000000111000100000101000000000000000111011000100000000000000000000000000000000000 = .ok (.vrsub ⟨false, 3, true⟩ 4 5 (.sca 7) 6) ∧
    decodeLane 0b100000100000110100000000001000001001010001000000000000001101000000000000000000000000000000000000 = .ok (.vsll ⟨true, 0, false⟩ 8 9 (.imm 17) 3) := by decide +kernel

/-- Major fields of R91 to R93: vnclip. -/
theorem test_decode_vwiden :
    decodeLane 0b000000110000010100000100000100001000001100000000000000001000000000000000000000000000000000000000 = .ok (.vnclip ⟨false, 2, false⟩ 4 8 (.vec 12) 2) := by decide +kernel

/-- Major fields of R91 to R93: vnmsac. -/
theorem test_decode_vmacc :
    decodeLane 0b000001000000000100000100000100001000001100000000000000001000000000000000000000000000000000000000 = .ok (.vnmsac ⟨false, 2, false⟩ 4 8 (.vec 12) 2) := by decide +kernel

/-- Major fields of R91 to R93: vfsub with rounding code 3, vfsgnjx. -/
theorem test_decode_vfloat :
    decodeLane 0b000001010110000100000100000100001000001100000000000000101000000000000000000000000000000000000000 = .ok (.vfsub ⟨false, 2, false⟩ 3 4 8 (.vec 12) 0xA) ∧
    decodeLane 0b000001010000100100000100000100001000001100000000000000101100000000000000000000000000000000000000 = .ok (.vfsgnjx ⟨false, 2, false⟩ 4 8 (.vec 12) 0xB) := by decide +kernel

/-- Major fields of R91 to R93: vfnma. -/
theorem test_decode_vfused :
    decodeLane 0b000001100100001000000100000100001000001100010000000000101000000000000000000000000000000000000000 = .ok (.vfnma ⟨false, 2, false⟩ 2 4 8 (.vec 12) 16 0xA) := by decide +kernel

/-- Major fields of R91 to R93: vcvt.sat from f32 to s32. -/
theorem test_decode_vcvt :
    decodeLane 0b000001110010000100000100000100001000000000001010000000011000000000000000000000000000000000000000 = .ok (.vcvtSat ⟨false, 2, false⟩ 1 4 8 0xA 6) := by decide +kernel

/-- Major fields of R91 to R93: vcmp.ge into p95. -/
theorem test_decode_vcmp :
    decodeLane 0b000010000000010100000100011111001000001100000000000000011000010000000000000000000000000000000000 = .ok (.vcmpGe ⟨false, 2, false⟩ 95 8 (.vec 12) 6) ∧
    decodeLane 0b000010010000001100000100011111001000001100000000000000101000000000000000000000000000000000000000 = .ok (.vfcmpUnord ⟨false, 2, false⟩ 31 8 (.vec 12) 0xA) := by decide +kernel

/-- Major fields of R91 to R93: vpandn on high predicates, vpcnt. -/
theorem test_decode_vpred :
    decodeLane 0b000010100000001100000100000001000010000011000001000000000000011000000000000000000000000000000000 = .ok (.vpandn ⟨false, 2, false⟩ 65 66 67) ∧
    decodeLane 0b000010100000100000000100000101011110000000000000000000000000001000000000000000000000000000000000 = .ok (.vpcnt ⟨false, 2, false⟩ 5 94) := by decide +kernel

/-- Major fields of R91 to R93: vmerge, vmvx. -/
theorem test_decode_vmove :
    decodeLane 0b000010110000000100000101000100001000000000000000000000011001000000000000000000000000000000000000 = .ok (.vmerge ⟨false, 2, true⟩ 4 8 (.imm 0) 6) ∧
    decodeLane 0b100010110000001100000000000100001000000000000000000000011000000000000000000000000000000000000000 = .ok (.vmvx true 4 8 6) := by decide +kernel

/-- Major fields of R91 to R93: vfredsum, vredxor. -/
theorem test_decode_vred :
    decodeLane 0b000011001000011000000100000100001000000000000000000000101000000000000000000000000000000000000000 = .ok (.vfredsum ⟨false, 2, false⟩ 4 4 8 0xA) ∧
    decodeLane 0b000011000000010100000100000100001000000000000000000000011000000000000000000000000000000000000000 = .ok (.vredxor ⟨false, 2, false⟩ 4 8 6) := by decide +kernel

/-- Major fields of R91 to R93: vscan.max. -/
theorem test_decode_vscan :
    decodeLane 0b000011010000001000000100000100001000000000000000000000011000000000000000000000000000000000000000 = .ok (.vscanMax ⟨false, 2, false⟩ 4 8 6) := by decide +kernel

/-- Major fields of R91 to R93: vshdn with its fill group. -/
theorem test_decode_vperm :
    decodeLane 0b000011100000000100000100000100001000000011001100000000011001000000000000000000000000000000000000 = .ok (.vshdn ⟨false, 2, false⟩ 4 8 (.imm 3) 12 6) := by decide +kernel

/-- Major fields of R91 to R93: vldx acquire at package scope, vldff. -/
theorem test_decode_vload :
    decodeLane 0b000100001011001000000100000100001000000000000000000111011000000000000000000000000000000000000000 = .ok (.vldx ⟨false, 2, false⟩ ⟨true, 3⟩ 4 8 ⟨7, false⟩ 6) ∧
    decodeLane 0b000100000000001100000100000100000000000000001001000111011000000011111111111111111111111111111000 = .ok (.vldff ⟨false, 2, false⟩ ⟨false, 0⟩ 4 9 ⟨7, false⟩ 0xFFFFFFF8 6) := by decide +kernel

/-- Major fields of R91 to R93: vsts, vstc through per-lane capabilities. -/
theorem test_decode_vstore :
    decodeLane 0b000100010000000100000100000100000000001001000000000111011000000000000000000000000000000000010000 = .ok (.vsts ⟨false, 2, false⟩ ⟨false, 0⟩ 4 9 7 16 6) ∧
    decodeLane 0b000100010000110100000100000100001000000000000000001100000000000000000000000000000000000000000000 = .ok (.vstc ⟨false, 2, false⟩ ⟨false, 0⟩ 4 8 ⟨12, true⟩) := by decide +kernel

/-- Major fields of R91 to R93: vatom cas, vatom32 with no return. -/
theorem test_decode_vatom :
    decodeLane 0b000100100100101000000100000100001000001100010000000111000000000000000000000000000000000000000000 = .ok (.vatom ⟨false, 2, false⟩ 2 0x0A 4 8 12 16 ⟨7, false⟩ false) ∧
    decodeLane 0b000100110100010000000100000000001000001100000000001000000000000000000000000000000000000001000001 = .ok (.vatom32 ⟨false, 2, false⟩ 2 4 0 8 12 ⟨8, true⟩ true) := by decide +kernel

/-- Major fields of R91 to R93: vlrc.stop of routine 33, vbasket. -/
theorem test_decode_vlrc :
    decodeLane 0b000101000000000000000100000100001000001100010000000111000000000000000000000000000000000010100001 = .ok (.vlrc ⟨false, 2, false⟩ 4 8 12 16 ⟨7, false⟩ 33 true) ∧
    decodeLane 0b000101010000000000000100000000001001010000000000000000000000000000000000000000000000000000000000 = .ok (.vbasket ⟨false, 2, false⟩ 9 16) := by decide +kernel

/-- R95 to R97: routine words of each layout. -/
theorem test_decode_routine :
    decodeRoutine 0b00100000011001000010100000000000 = .ok (.routineSra 3 4 5) ∧
    decodeRoutine 0b01100010010000001111111111111111 = .ok (.routineAddi 18 0 0xFFFF) ∧
    decodeRoutine 0b01101010100000010000001000001111 = .ok (.routineExt 20 1 8 15) ∧
    decodeRoutine 0b01111000000000010001000000000011 = .ok (.routineSkipLtS64 1 2 3) ∧
    decodeRoutine 0b10000000000000000000000000000001 = .ok (.routineRetTc) ∧
    decodeRoutine 0b10000100000000000000000000000000 = .ok (.routineFail) := by decide +kernel

/-- R96, R98: a write of `o0`, a read of register 27, a skip of no words. -/
theorem test_routine_refused :
    decodeRoutine 0b00000110000000000000000000000000 = .error .illegalInsn ∧
    decodeRoutine 0b00000100011110110000000000000000 = .error .illegalInsn ∧
    decodeRoutine 0b01110000000000010001000000000000 = .error .illegalInsn := by decide +kernel

/-! ### States to test on -/

/-- A group in slot 0 of core 0 as the current thread, with its team, context 1, and the page at 0x10000 mapped to itself. -/
def s0 : State := { State.reset.placeBare with cur := .group 0 }
/-- Its registers changed. -/
def onHart (f : Hart → Hart) : State := s0.modHart f
/-- Its group changed. -/
def onGroup (f : Group → Group) : State := s0.modGroup 0 f
/-- A capability over that page with these permissions. -/
def pageCap (perms : Nat) : Cap := mkCap perms 0 0x10000 0x10000 0x10000
/-- c3 and c4 have every permission but `window` and `system`; s4 = 8, s5 = 5. -/
def s1 : State := onHart fun h => { h with c := (h.c.set 3 (pageCap 0x5FFF)).set 4 (pageCap 0x5FFF), s := (h.s.set 4 8).set 5 5 }
/-- The group of a state. -/
def gOf (s : State) : Group := (s.group 0).getD .bare
/-- The service core of cluster 0 as the current thread, released. -/
def k0 : State := { (s1.modCluster 0 fun c => { c with svc := { c.svc with released := true } }) with cur := .service 0 }

/-- An access goes through with the page's entry in the TLB. -/
def grants (s : State) (a : Acc) (k : Nat) : Bool :=
  (match s.check s.who a with | .ok (j, none) => j == k | _ => false) && s.memReady a.wr k a.n &&
  match s.cur with
  | .group j => s.watch (slotCluster j) s.who.ctx a.rd a.wr a.x a.n == none
  | .service _ => !physHole k

theorem granted (s : State) (a : Acc) (k : Nat) (h : grants s a k = true) : s.Granted a k (s.fill s.curCluster []) := by
  simp only [grants, Bool.and_eq_true] at h
  obtain ⟨⟨h1, h2⟩, h4⟩ := h
  refine ⟨⟨none, ?_, rfl⟩, fun j hj => .inr ?_, ?_, h2⟩
  · split at h1 <;> simp_all
  · rw [hj] at h4; simpa using h4
  · intro ⟨hs, hp⟩
    cases hc : s.cur <;> simp_all [State.isService]

theorem present (s : State) (k : Nat) (g : Group) (h : s.AsGroup k g) : s.Present := by
  simp [State.Present, h.1, h.2]

theorem presentS (s : State) (c : Nat) (h : s.AsService c) : s.Present := by
  simp [State.Present, h.1, h.2]

theorem s1_group : s1.AsGroup 0 (gOf s1) := ⟨rfl, rfl⟩
theorem k0_service : k0.AsService 0 := ⟨rfl, by decide⟩

/-! ### Scalar words: what meets the hypotheses of the statements -/

/-- A budget of four scalar registers: s3 is within it, s4 beyond; c3 and s5 await a load. -/
def sBudget : State := onGroup fun g => { g with sbud := 4 }
def sBusy : State := onHart fun h => h.holding (opOf 7 true [.s 5, .c 3] [] [] false)

theorem witness_scalar_ready : s1.Present ∧ s1.Ready [4, 5, 63] [3, 31] := ⟨present _ _ _ s1_group, by unfold State.Ready; decide +kernel⟩
theorem witness_scalar_budget : (∃ r ∈ [1, 2, 4#6], sBudget.sbud ≤ r.toNat) ∧ ∀ r ∈ [1, 2, 3#6], r.toNat < sBudget.sbud := by decide +kernel
theorem witness_scalar_busy : sBusy.Present ∧ (∀ r ∈ [1, 2, 5#6], r.toNat < sBusy.sbud) ∧ ∃ r ∈ [1, 2, 5#6], RegRef.s r.toNat ∈ sBusy.busy :=
  ⟨present _ 0 (gOf sBusy) ⟨rfl, rfl⟩, by decide +kernel⟩
theorem witness_branches : (∀ row ∈ [(0, 0#64, 0#64), (1, 0, 1), (2, BitVec.allOnes 64, 0), (3, 0, BitVec.allOnes 64), (4, 0, BitVec.allOnes 64), (5, 1, 1)],
    ∃ r, branchWords[row.1]? = some r ∧ r.2 row.2.1 row.2.2) ∧ ∃ r, branchWords[4]? = some r ∧ ¬ r.2 (BitVec.allOnes 64) 0 := by
  refine ⟨?_, _, rfl, by decide⟩
  intro row h
  simp only [List.mem_cons, List.not_mem_nil, or_false] at h
  rcases h with rfl | rfl | rfl | rfl | rfl | rfl <;> exact ⟨_, rfl, by decide⟩
theorem witness_lengths : LeastExp 1024 0 ∧ LeastExp 1025 1 ∧ LeastExp (2 ^ 62) 52 ∧ (2 : Nat) ^ 62 < 2 ^ 62 + 1 := by unfold LeastExp; decide +kernel
theorem witness_derivable : s1.Derivable 3 ∧ spanAt 0x10000 1024 0 = 1024 ∧ spanAt 0x10001 1025 1 ≤ 1024 ∧ 1024 < spanAt 0 (2 ^ 64 - 1) 52 := by
  unfold State.Derivable; decide +kernel
/-- Colour 9 is revoked in context 1, and c3 has it. -/
def sRevoked : State := { s1.modCtx 1 (fun c => { c with mask := 0x200 }) with cur := .group 0 }.modHart fun h => { h with c := h.c.set 3 { pageCap 0x5FFF with colour := 9 } }
theorem witness_revoked : ((sRevoked.c 3).tag = true ∧ sRevoked.who.mask.getLsbD (sRevoked.c 3).colour.toNat = true) ∧ sRevoked.Ready [4] [4, 3] ∧
    (sRevoked.Derivable 4 ∧ (sRevoked.c 3).tag = true) ∧ sRevoked.isService = false := by unfold State.Ready State.Derivable; decide +kernel

/-! ### Scalar memory words -/

theorem witness_loads : s1.Present ∧ s1.Ready [4, 5] [3] ∧ s1.hart.ld < 255 ∧ (∃ k u, s1.Granted (.load (s1.c 3) (dispAddr (s1.c 3) 8) 4) k u) ∧
    ∃ k u, s1.Granted (.load (s1.c 3) ((s1.c 3).cursor + s1.x 4).toNat (2 ^ ((7#3).toNat % 4))) k u :=
  ⟨present _ _ _ s1_group, by unfold State.Ready; decide +kernel, by decide +kernel, ⟨0x10008, _, granted _ _ _ (by decide +kernel)⟩,
    0x10008, _, granted _ _ _ (by decide +kernel)⟩
theorem witness_stores : s1.hart.st < 255 ∧ s1.drained = true ∧ (∃ k u, s1.Granted (.store (s1.c 3) (dispAddr (s1.c 3) 8191) 1) k u) ∧
    ∃ k u, s1.Granted (.store (s1.c 3) ((s1.c 3).cursor + s1.x 4).toNat (2 ^ (3#2).toNat)) k u :=
  ⟨by decide +kernel, by decide +kernel, ⟨0x11FFF, _, granted _ _ _ (by decide +kernel)⟩, 0x10008, _, granted _ _ _ (by decide +kernel)⟩
theorem witness_release_waits : sBusy.Ready [4] [4] ∧ Ord.on ⟨1, 2⟩ = true ∧ sBusy.drained = false := by unfold State.Ready; decide +kernel

/-! ### One step of one word -/

/-- The state after one step that runs this word first. -/
noncomputable def ran (s : State) (nbits w : Nat) : Option State := match step (s.withFetchWord nbits w) with | .next t => some t | _ => none
/-- R129: `add s3, s4, s5` with 8 and 5. -/
theorem test_step_add : (ran s1 32 0x04310500).map (fun t => ((gOf t).hart.s[3], (gOf t).hart.pc)) = some (13, 0x10004) := by decide +kernel
/-- R130: `srai s6, s7, 3` of -16. -/
theorem test_step_srai : (ran (s1.modHart fun h => { h with s := h.s.set 7 (-16) }) 32 0x1861C083).map (fun t => (gOf t).hart.s[6]) = some (-2) := by decide +kernel
/-- R136: `beq s2, s0, +5` is taken, and moves the cursor by 20. -/
theorem test_step_beq : (ran s1 32 0x90200005).map (fun t => (gOf t).hart.pc) = some 0x10014 := by decide +kernel
/-- R131: `ld.z32 s4, 8(c3)` is outstanding after its issue. -/
theorem test_step_load : (ran s1 32 0x3440C008).map (fun t => (gOf t).hart.ld) = some 1 := by decide +kernel
/-- R61, R99: major 0 is unassigned: the group stops, its cursor at the word, and an event is queued. -/
theorem test_step_illegal : (ran s1 32 0).map (fun t => ((gOf t).life, (gOf t).hart.pc, (t.cluster 0).svc.events.length)) = some (Life.stopped, 0x10000, 1) := by decide +kernel
/-- R356: `tlbinvall` on the service core empties its cluster's TLB. -/
theorem test_step_tlbinvall : ((s1.cluster 0).tlb.length, (ran s1 32 0xF0000500).map (fun t => (t.cluster 0).tlb)) = (1, some []) := by decide +kernel
/-- R93, R167: `vadd.s32 v4, v5, 1000` in every lane, from zero. -/
theorem test_step_vadd : (ran s1 96 0x02000010500001A0000003E8).map (fun t => ((gOf t).lane.elem 4 32 0, (gOf t).lane.elem 4 32 63)) = some (1000, 1000) := by decide +kernel

theorem s1_canonical : s1.Canonical := by unfold State.Canonical Rising; decide +kernel
theorem witness_store_reaches : isEdge 0x1000F = false ∧ 0x1000F + 8 ≤ Config.remoteKey ∧ ∀ i < 8, tagByte (0x1000F + i) = none ∧ s1.regOf (0x1000F + i) = none := by
  decide +kernel
/-- c5 may not store capabilities; c6 is not `global`. -/
def sCaps : State := s1.modHart fun h => { h with c := (h.c.set 5 (pageCap 0x5FDF)).set 6 (pageCap 0x1FFF) }
theorem witness_capability_words : sCaps.AsGroup 0 (gOf sCaps) ∧ sCaps.Ready [] [4, 5, 6, 3] ∧ isEdge 0x10010 = false ∧ sCaps.hart.ld < 255 ∧ sCaps.hart.st < 255 ∧
    (∀ a ∈ [3, 5#5], ∃ u, sCaps.Granted (.load (sCaps.c a) ((sCaps.c a).cursor + BitVec.ofInt 64 (16 * (1#14).toInt)).toNat 16) 0x10010 u) ∧
    (∀ a ∈ [3, 5#5], ∃ u, sCaps.Granted (.store (sCaps.c a) ((sCaps.c a).cursor + BitVec.ofInt 64 (16 * (1#14).toInt)).toNat 16) 0x10010 u ∧
      u.inTeamPad sCaps.who.team 0x10010 = false) ∧
    ((sCaps.c 4).tag = true ∧ sCaps.who.mask.getLsbD (sCaps.c 4).colour.toNat = false) ∧ (sCaps.c 3).has Perm.storeCap = true ∧ (sCaps.c 4).has Perm.global = true ∧
    (sCaps.c 5).has Perm.storeCap = false ∧ (sCaps.c 6).has Perm.global = false := by
  refine ⟨⟨rfl, rfl⟩, by unfold State.Ready; decide +kernel, by decide +kernel, by decide +kernel, by decide +kernel, ?_, ?_, by decide +kernel⟩
  · intro a h; simp only [List.mem_cons, List.not_mem_nil, or_false] at h; rcases h with rfl | rfl <;> exact ⟨_, granted _ _ _ (by decide +kernel)⟩
  · intro a h; simp only [List.mem_cons, List.not_mem_nil, or_false] at h; rcases h with rfl | rfl <;> exact ⟨_, granted _ _ _ (by decide +kernel), by decide +kernel⟩
theorem witness_atomics : s1.Ready [5, 0, 4] [3] ∧ (∃ u, s1.Granted (.atomic (s1.c 3) (s1.c 3).cursor.toNat 8) 0x10000 u) ∧
    ∃ u, s1.Granted (.atomic (s1.c 3) (s1.c 3).cursor.toNat 4) 0x10000 u :=
  ⟨by unfold State.Ready; decide +kernel, ⟨_, granted _ _ _ (by decide +kernel)⟩, _, granted _ _ _ (by decide +kernel)⟩
theorem witness_fences : s1.hart.ld = 0 ∧ s1.hart.st = 0 ∧ sBusy.hart.ld ≠ 0 ∧ sBusy.isService = false ∧ ¬ (1#6 = 63 ∨ sBusy.hart.ld ≤ (0#6).toNat) ∧
    (sBusy.hart.ld ≤ (1#6).toNat) ∧ (gOf s1).lane.queue = [] := by decide +kernel

/-! ### Runs, barriers, messages -/

/-- The words of a run of one word at 0x10000, its last bit set; s4 names it. -/
def sRun : State := (s1.storeNat 0x1000B 1 0x80).modHart fun h => { h with s := h.s.set 4 0x10000 }
theorem witness_run : sRun.AsGroup 0 (gOf sRun) ∧ sRun.Ready [4] [] ∧ (gOf sRun).lane.queue.length < 4 ∧ (gOf sRun).hart.pend = [] ∧
    (∃ ws ts, sRun.fetchLane sRun.who (gOf sRun).lcode 0x10000 sRun.pc 24 0x10000 [] [] = .ok (ws, ts) ∧ ws.length = 1) ∧
    (BitVec.ofNat 64 ((gOf sRun).lcode.base + (sRun.x 4).toNat + 4 * (0#14).toNat) : Word) = 0x10000 := by
  refine ⟨⟨rfl, rfl⟩, by unfold State.Ready; decide +kernel, by decide +kernel, by decide +kernel, ⟨[BitVec.ofNat 96 (2 ^ 95)], [], ?_, rfl⟩, by decide +kernel⟩
  decide +kernel
/-- A team whose barrier 3 expects `exp` arrivals, with one of them in, and whose group has these copies. -/
def sBar (exp : Nat) (pend : Nat) (copies : List Nat) : State :=
  (onGroup fun g => { g with copies := copies }).modTeam 0 fun t => { t with bars := t.bars.set 3 ⟨exp, 1, pend, 7⟩ }
theorem witness_barriers : ∀ s ∈ [sBar 2 0 [], sBar 5 0 [], sBar 2 254 [9], sBar 2 255 [9]], s.AsGroup 0 (gOf s) ∧ (gOf s).arriving 3 = false ∧ (gOf s).released = true ∧
    ∃ tm, s.team (gOf s).team = some tm ∧ 3 < tm.nbar ∧ tm.bars[3].arr = 1 := by
  intro s h; simp only [List.mem_cons, List.not_mem_nil, or_false] at h
  rcases h with rfl | rfl | rfl | rfl <;> exact ⟨⟨rfl, rfl⟩, by decide +kernel, by decide +kernel, _, rfl, by decide +kernel, by decide +kernel⟩
theorem witness_arrived : BarWord.Arrived ⟨2, 1, 0, 7⟩ ⟨2, 0, 0, 8⟩ ∧ BarWord.Arrived ⟨5, 1, 0, 7⟩ ⟨5, 2, 0, 7⟩ := by unfold BarWord.Arrived; decide
theorem witness_tokens : ((7 : BitVec 32) - 7).toInt ≥ 0 ∧ ((7 : BitVec 32) - 8).toInt < 0 := by decide
/-- A deferred arrival at barrier 3 whose copies have completed. -/
def sArrival : State := (onGroup fun g => { g with copies := [8], arrivals := [⟨7, 3, [9]⟩] }).modTeam 0 fun t => { t with bars := t.bars.set 3 ⟨2, 1, 1, 7⟩ }
theorem witness_arrival : ∃ x, (gOf sArrival).arrivals = x :: [] ∧ x.bar = 3 ∧ (∀ i ∈ x.ops, i ∉ (gOf sArrival).copies) ∧
    BarWord.Arrived ((sArrival.barOf (gOf sArrival) 3)) ⟨2, 0, 1, 8⟩ :=
  ⟨_, rfl, rfl, by decide +kernel, by unfold BarWord.Arrived; decide +kernel⟩
/-- Parked at barrier 0, of generation 0, with this token; and parked in `mrecv`. -/
def sParked (tok : BitVec 32) : State := onGroup fun g => { g with life := .parked (.bar 0), tokens := g.tokens.set 0 (some tok) }
def sRecv (q : List Msg) : State :=
  (onGroup fun g => { g with life := .parked (.recv 4 false 9 (pageCap 0x5FFF)) }).setPort 0 false 1 ⟨[], q⟩
theorem witness_wakes : (∀ tok ∈ [0, 1], ∃ t, vgetD (gOf (sParked tok)).tokens 0 none = some t) ∧ (((sParked 0).barOf (gOf (sParked 0)) 0).gen - 0).toInt ≥ 0 ∧
    (((sParked 1).barOf (gOf (sParked 1)) 0).gen - 1).toInt < 0 ∧ (gOf (sParked 0)).arriving 0 = false ∧
    (∃ m ∈ (((sRecv [⟨9, 1⟩]).cluster (slotCluster 0)).port false 1).queue, m.tag = 9) ∧
    ∀ m ∈ (((sRecv [⟨8, 1⟩]).cluster (slotCluster 0)).port false 1).queue, m.tag ≠ 9 := by
  refine ⟨?_, by decide +kernel⟩
  intro tok h; simp only [List.mem_cons, List.not_mem_nil, or_false] at h; rcases h with rfl | rfl <;> exact ⟨_, rfl⟩
/-- c6 names port 9 of cluster 0, with the message permission; its port has these receives and this queue. -/
def sPort (p : Port) : State := (s1.modHart fun h => { h with c := h.c.set 6 { mkCap 0x1000 0 0 (2 ^ 31) 9 with tag := true } }).setPort 0 false 1 p
theorem witness_sends : ∀ s ∈ [sPort ⟨[⟨0, false, 8, 0x10000⟩, ⟨1, true, 0, 0x10010⟩], []⟩, sPort ⟨[], List.replicate 255 ⟨9, 1⟩⟩, sPort ⟨[], List.replicate 256 ⟨9, 1⟩⟩],
    s.AsGroup 0 (gOf s) ∧ s.Ready [4, 5] [6] ∧ capCause s.who (s.c 6) [Perm.message] (s.c 6).cursor.toNat 1 1 = none ∧ s.portOk (s.c 6).cursor.toNat = true ∧
    (s.c 6).cursor.getLsbD 30 = false ∧ s.released = true ∧ s.migrating 0x10010 = false := by
  intro s h; simp only [List.mem_cons, List.not_mem_nil, or_false] at h
  rcases h with rfl | rfl | rfl <;> exact ⟨⟨rfl, rfl⟩, by unfold State.Ready; decide +kernel, by decide +kernel⟩
theorem witness_receives : ∀ s ∈ [sPort ⟨[], [⟨8, 1⟩, ⟨5, 2⟩]⟩, sPort ⟨[], []⟩, sPort ⟨(List.range 64).map fun i => ⟨i, false, 1, 0x10000⟩, []⟩],
    s.AsGroup 0 (gOf s) ∧ s.Ready [4, 5] [3] ∧ ∃ u, s.Granted (.store (s.c 3) (s.c 3).cursor.toNat 16) 0x10000 u := by
  intro s h; simp only [List.mem_cons, List.not_mem_nil, or_false] at h
  rcases h with rfl | rfl | rfl <;> exact ⟨⟨rfl, rfl⟩, by unfold State.Ready; decide +kernel, _, granted _ _ _ (by decide +kernel)⟩

theorem isOk {ε α : Type} (e : Except ε α) (h : (match e with | .ok _ => true | .error _ => false) = true) : ∃ p, e = .ok p := by
  cases e <;> simp_all

/-! ### Launching, leaving, calling, registers -/

/-- A packet at 0x10000 whose descriptor, at 0x10100, has n groups; c3 names it. -/
def sPacket (n : Nat) : State := ({ s1 with edge := { s1.edge with bootstat := 0x10 } }.writeCap 0x10000 { pageCap 0x5FFF with cursor := 0x10100 } true).storeNat 0x10140 1 n
/-- Queue 0 open for a context, with two entries and this tail. -/
def sQueue (ctx : Word) (tail : BitVec 32) : State := (sPacket 1).modQueue 0 fun _ => ⟨0x8001000000020000, ctx, 0, tail, 0, false⟩
theorem witness_posts : ∀ s ∈ [sPacket 1, sQueue 2 0, sQueue 1 2, sQueue 1 1], s.AsGroup 0 (gOf s) ∧ s.Ready [4] [3] ∧
    ∃ u, s.Granted (.load (s.c 3) (s.c 3).cursor.toNat 64) 0x10000 u ∧ u.released = true := by
  intro s h; simp only [List.mem_cons, List.not_mem_nil, or_false] at h
  rcases h with rfl | rfl | rfl | rfl <;> exact ⟨⟨rfl, rfl⟩, by unfold State.Ready; decide +kernel, _, granted _ _ _ (by decide +kernel), by decide +kernel⟩
theorem witness_queues : (sPacket 1).running = true ∧ s1.running = false ∧ (∀ s ∈ [sPacket 1, sQueue 2 0, sQueue 1 2, sQueue 1 1], (s.readRec [⟨0x10000, 64⟩] true 0).queueNo = 0) ∧ ((sPacket 1).queue 0).isOpen = false ∧
    ((sQueue 2 0).queue 0).ctx ≠ 1 ∧ (((sQueue 1 2).queue 0).isOpen = true ∧ ((sQueue 1 2).queue 0).ctx = 1 ∧ ((sQueue 1 2).queue 0).held = ((sQueue 1 2).queue 0).depth) ∧
    (((sQueue 1 1).queue 0).isOpen = true ∧ ((sQueue 1 1).queue 0).ctx = 1 ∧ ((sQueue 1 1).queue 0).held ≠ ((sQueue 1 1).queue 0).depth) := by decide +kernel
theorem witness_continuations : ∀ n ∈ [1, 5], ∃ d tm, (sPacket n).readDesc (sPacket n).who ((sPacket n).readRec [⟨0x10000, 64⟩] true (sPacket n).who.mask) = .ok d ∧
    (sPacket n).team 0 = some tm ∧ (sPacket n).contFits (gOf (sPacket n)).team tm ((sPacket n).readRec [⟨0x10000, 64⟩] true (sPacket n).who.mask) d = decide (n = 1) ∧ (sPacket n).issuingRun 0 = false := by
  intro n h; simp only [List.mem_cons, List.not_mem_nil, or_false] at h
  rcases h with rfl | rfl <;> exact ⟨_, _, rfl, rfl, by decide +kernel, by decide +kernel⟩
/-- 64-bit elements at LMUL 1, VL = n, s1 = num; and the trap record of slot 0 valid, with element 0 in it. -/
def sTrap (n : Nat) (num : Word) : State := onGroup fun g => { g with lane := { g.lane with vtype := 3, vl := n }, hart := { g.hart with s := g.hart.s.set 1 num } }
def sCalled : State := ((sTrap 32 1).storeNat 2 1 1).storeNat 8 1 1
theorem witness_traps : (∀ s ∈ [sTrap 0 1, sTrap 32 0, sTrap 32 0x33], s.Ready [1] [15] ∧ s.TrapFree 0 (gOf s)) ∧ (gOf (sTrap 0 1)).lane.actives ⟨false, 0, false⟩ = [] ∧
    (gOf (sTrap 32 0)).lane.actives ⟨false, 0, false⟩ ≠ [] ∧ (0 ∉ callNumbers ∧ 0x33 ∈ callNumbers) ∧ ((sTrap 32 0x33).cluster 0).dbg.ctl.getLsbD 0 = false ∧
    (sCalled.trapOutstanding (sCalled.trapRecord 0) = true ∧ (gOf sCalled).trapReady = true) := by unfold State.Ready State.TrapFree; decide +kernel
theorem witness_call_collected : ∃ t past, sCalled.collectCalls 0 = (t, past) := ⟨_, _, rfl⟩
theorem witness_registers : (gOf s1).lane.queue = [] ∧ (gOf s1).hart.pend = [] ∧ (gOf sBusy).hart.pend ≠ [] ∧ (0 : Nat) % 8 < 5 ∧ 5 ≤ (5 : Nat) % 8 ∧ s1.hart.st = 0 := by decide +kernel
theorem witness_service_registers : k0.AsService 0 ∧ k0.Ready [4] [] ∧ (∃ x, k0.csr 0x403 = some x) ∧ (k0.cluster 0).svc.events = [] ∧
    (((k0.event 0 1 0 5 6).cluster 0).svc.events = [⟨1, 0, 5, 6⟩]) := by
  exact ⟨k0_service, by unfold State.Ready; decide +kernel, ⟨_, rfl⟩, by decide +kernel⟩
theorem witness_split : s1.hart.ld = 0 ∧ s1.hart.st = 0 ∧ (∃ p ∈ s1.teams, p.2.cluster = s1.curCluster ∧ p.2.ways ≠ 0) ∧
    (∃ p ∈ (s1.modTeam 0 fun t => { t with ctx := 7 }).teams, p.2.ctx ≠ s1.who.ctx) := by decide +kernel

/-! ### Matrix words and copies -/

/-- A team with 20 ways, c7 a window over them, s4 = x, and core 0's active plane of type 1. -/
def sMatrix (x : Word) : State :=
  ((s1.modTeam 0 fun t => { t with ways := 20 }).modHart fun h => { h with c := h.c.set 7 (mkCap 0x7FFF 0 0 0xA0000 0), s := h.s.set 4 x }).modCore 0 0 fun c =>
    { c with active := ⟨some 1, [], none⟩ }
theorem witness_matrix_words : ∃ tm, (sMatrix 0).team 0 = some tm ∧ (sMatrix 0).MxReady 0 (gOf (sMatrix 0)) tm false ∧ (sMatrix 0).Ready [4] [7] ∧
    LdsDesc ((sMatrix 0).x 4) ∧ MmDesc ((sMatrix 0).x 4) ∧ StDesc ((sMatrix 0x40000000).x 4) 1024 ∧ ¬ MmDesc 0x3FFFF ∧
    (∃ p, (sMatrix 0).mxOperand (sMatrix 0).who (sMatrix 0).pc tm ((sMatrix 0).c 7) (.lds 1) 1 false false false 0 (weightSize 1) = .ok p ∧ (sMatrix 0).LockFor 0 p.1.segs) ∧
    (∃ p, (sMatrix 0).mxOperand (sMatrix 0).who (sMatrix 0).pc tm ((sMatrix 0).c 7) (.mm 0 1 false false) 1 false false false 0 (activSize 1 1) = .ok p ∧ (sMatrix 0).LockFor 0 p.1.segs) ∧
    (∃ p, (sMatrix 0x40000000).mxRange (sMatrix 0).who tm ((sMatrix 0).c 7) Perm.store Need.write 1024 16 = .ok p ∧ (sMatrix 0).LockFor 0 p.1.segs) ∧
    ((sMatrix 0).cluster 0 |>.core 0).planeTypes.1 = some 1 ∧ (gOf (sMatrix 0)).hart.mx < 255 := by
  refine ⟨_, rfl, ?_, by unfold State.Ready; decide +kernel, by unfold LdsDesc; decide +kernel, by unfold MmDesc; decide +kernel, by unfold StDesc; decide +kernel,
    by unfold MmDesc; decide +kernel, ⟨_, rfl, by unfold State.LockFor; decide +kernel⟩, ⟨_, rfl, by unfold State.LockFor; decide +kernel⟩,
    ⟨_, rfl, by unfold State.LockFor; decide +kernel⟩, by decide +kernel⟩
  exact ⟨⟨rfl, by decide +kernel, by decide +kernel, by decide +kernel, .inl (by decide +kernel)⟩, by decide +kernel, by decide +kernel⟩
theorem witness_batches : ((0 : BitVec 32) - 0).toInt ≥ 0 ∧ ((0 : BitVec 32) - 1).toInt < 0 := by decide
/-- An operation at the head of core 0's queue. -/
def sMx (kind : MxKind) (desc : Word) (started : Bool) : State :=
  s1.modCore 0 0 fun c => { c with mq := [⟨9, 0, 0, 1, kind, false, desc, .null, ⟨[], none, 0⟩, started, 0, 0, 0, 0⟩] }
theorem witness_matrix_heads : ∀ s ∈ [sMx (.lds 1) 0 false, sMx (.mm 0 1 false true) 0 false, sMx (.lds 1) 0 true, sMx (.mm 2 1 true true) 0x3FFFE true,
    sMx (.zero 2) 0 true], s.Canonical ∧ ∃ o, s.mxHead 0 0 = some (o, [0]) ∧ s.heldOp o = false ∧ s.lockClear o.id = true := by
  intro s h; simp only [List.mem_cons, List.not_mem_nil, or_false] at h
  rcases h with rfl | rfl | rfl | rfl | rfl <;> exact ⟨by unfold State.Canonical Rising; decide +kernel, _, rfl, by decide +kernel, by decide +kernel⟩
/-- A length word in s4; and a shape record of one element at 0x10000. -/
def sCopy (x : Word) : State := s1.modHart fun h => { h with s := h.s.set 4 x }
theorem witness_copies : ∀ x ∈ [0, 0x40, 0xFFFF00000000FFFF#64], s1.AsGroup 0 (gOf s1) ∧ (sCopy x).Ready [4] [3, 4] ∧ bitsOf ((sCopy x).x 4).toNat 47 40 = 0 ∧
    ((sCopy x).x 4).toNat % 2 ^ 40 ≤ 2 ^ 24 ∧
    (∃ p, (sCopy x).resolve (sCopy x).who ((sCopy x).c 3) [Perm.engSrc] Need.read ((sCopy x).c 3).cursor.toNat (((sCopy x).x 4).toNat % 2 ^ 40) 1 = .ok p) ∧
    ∃ p, (sCopy x).resolve (sCopy x).who ((sCopy x).c 4) [Perm.engDst] Need.write ((sCopy x).c 4).cursor.toNat (((sCopy x).x 4).toNat % 2 ^ 40) 1 = .ok p := by
  intro x h; simp only [List.mem_cons, List.not_mem_nil, or_false] at h
  rcases h with rfl | rfl | rfl <;>
    exact ⟨⟨rfl, rfl⟩, by unfold State.Ready; decide +kernel, by decide +kernel, by decide +kernel, isOk _ (by decide +kernel), isOk _ (by decide +kernel)⟩
def sShape : State := s1.storeNat 0x10000 1 4
theorem witness_tensor_copy : (∃ p, sShape.tcopyPlan sShape.who sShape.myCommand (sShape.c 3) (sShape.c 3) (sShape.c 4) false 0 sShape.pc = .ok p) ∧
    sShape.hart.cp < 255 ∧ sShape.fencePassed = true ∧ (sShape.cluster 0).locks = [] := ⟨isOk _ (by decide +kernel), by decide +kernel⟩
theorem witness_ring : ∃ i tm r, s1.myCommand.team = some i ∧ s1.team i = some tm ∧ tm.ring = some r := ⟨_, _, _, rfl, rfl, rfl⟩
/-- An operation of cluster 0: a copy of 16 bytes from 0x10000 to 0x10100. -/
def sEngine (f : EngOp → EngOp) : State :=
  s1.modCluster 0 fun c => { c with ops := [f { EngOp.blank (.group 0 1) (some 0) 1 with
    id := 9, isBcopy := true, len := 16, srcSegs := [⟨0x10000, 16⟩], targets := [⟨0, [⟨0x10100, 16⟩], 0, [], none, true⟩] }] }
theorem witness_engine : ∀ s ∈ [sEngine id, sEngine fun o => { o with started := true, bytes := leBytes 16 5 }, sEngine fun o => { o with started := true, isBcopy := false },
    sEngine fun o => { o with done := true, ring := some 3 }], s.Canonical ∧ ∃ o, (s.cluster 0).op 9 = some o ∧ s.lockClear 9 = true ∧ s.segsBusy o.srcSegs = false ∧
      s.targetsWait o = false ∧ (∀ a ∈ o.targets, s.targetLive a = true) ∧ ((s.cluster 0).ops.find? fun p => p.done && p.team == o.team) = (if o.done then some o else none) ∧
      (s.keyByte (wayKey 0 0 + 15)).getLsbD 7 = false := by
  intro s h; simp only [List.mem_cons, List.not_mem_nil, or_false] at h
  rcases h with rfl | rfl | rfl | rfl <;> exact ⟨by unfold State.Canonical Rising; decide +kernel, _, rfl, by decide +kernel⟩

/-! ### Dependence graphs -/

theorem objectAt (s : State) (a : BitVec 5) (key : Nat) (h : (authCause s.who (s.c a) [Perm.load, Perm.store] == none && (s.c a).base % 128 == 0 &&
    (s.c a).covers (s.c a).base 0x280 && (match s.reach s.who ⟨s.c a, [Perm.load, Perm.store], (s.c a).base, 0x280, 128, [2, 3], true, true⟩ with
      | .ok (k, none) => k == key | _ => false) && s.memReady true key 0x280 && !s.moving key 0x280 && s.objectRoom key) = true) : s.ObjectAt a key (s.fill s.curCluster []) := by
  simp only [Bool.and_eq_true, Bool.not_eq_true', beq_iff_eq] at h
  obtain ⟨⟨⟨⟨⟨⟨h1, h2⟩, h3⟩, h4⟩, h5⟩, h6⟩, h7⟩ := h
  refine ⟨h1, h2, h3, ⟨none, ?_, rfl⟩, h5, h6, h7⟩
  split at h4 <;> simp_all
/-- A graph of two nodes at 0x10000, in this state, with these edges; c3 has its cursor at the next node, s4 = 0, s5 = 1. -/
def graphOf (st : Nat) (es : List (Nat × Nat)) : Graph := { Graph.fresh 1 with state := st, nodes := List.replicate 2 ⟨[], [], 0, 0⟩, edges := es }
def sGraph (st : Nat) (es : List (Nat × Nat)) : State :=
  ((((s1.modDie 0 fun d => { d with graphs := [(0x10000, graphOf st es)] }).setHeader 1 0x10000 0x10 st).modGroup 0 fun g =>
    { g with openGraph := if st = 0 then some 0x10000 else none })).modHart fun h => { h with c := h.c.set 3 { pageCap 0x5FFF with cursor := 0x10380 }, s := (h.s.set 4 0).set 5 1 }
theorem witness_graphs : ∀ s ∈ [sGraph 0 [], sGraph 0 [(0, 1)], sGraph 1 [], sGraph 2 [], sGraph 3 []], s.Ready [4, 5] [3] ∧ s.AsGroup 0 (gOf s) ∧
    ∃ u, s.ObjectAt 3 0x10000 u ∧ u.released = true ∧ (u.die (clusterDie s.curCluster)).insts.length < 64 := by
  intro s h; simp only [List.mem_cons, List.not_mem_nil, or_false] at h
  rcases h with rfl | rfl | rfl | rfl | rfl <;>
    exact ⟨by unfold State.Ready; decide +kernel, ⟨rfl, rfl⟩, _, objectAt _ _ _ (by decide +kernel), by decide +kernel, by decide +kernel⟩
theorem witness_graph_states : (∀ st ∈ [0, 1, 2, 3], ((sGraph st []).graphState 0x10000) = (st, some (0, graphOf st []))) ∧ (s1.graphState 0x10000) = (0, none) ∧
    (sGraph 0 []).openGraph = some 0x10000 ∧ ((sGraph 0 []).c 3).cursor.toNat = ((sGraph 0 []).c 3).base + 0x280 + 128 * 2 ∧
    (0, 1) ∉ (graphOf 0 []).edges ∧ (0, 1) ∈ (graphOf 0 [(0, 1)]).edges ∧ ((sGraph 0 []).die 0).holds (graphOf 0 []) = true := by decide +kernel
theorem witness_node_read : ∃ p, (sGraph 0 []).resolve (sGraph 0 []).who ((sGraph 0 []).c 3) [Perm.load, Perm.store] Need.read 0x10380 128 128 = .ok p :=
  isOk _ (by decide +kernel)
theorem witness_acyclic : (∀ n, ¬ Reaches [] n n) ∧ ∃ n, Reaches [(0, 1), (1, 0)] n n := by
  refine ⟨?_, 0, .step (b := 1) (.edge (by decide)) (by decide)⟩
  intro n h; cases h <;> simp_all

/-! ### Lane words -/

/-- A Head run that holds the issue slot, taken with the scalars of `s1`; this vector type and VL. -/
def laneRun : Run := ⟨0, [0], 0x10000, ⟨s1.hart.s, s1.hart.c, 0⟩, some 0, true⟩
def sLane (vt : BitVec 6) (vl : Nat) : State := s1.modGroup 0 fun g =>
  { g with lane := { g.lane with vtype := vt, vl := vl, queue := [laneRun] }, priv := pageCap 0x5FFF, privW := 8 }
def laneView (vt : BitVec 6) (vl : Nat) : View := ⟨0, gOf (sLane vt vl), laneRun⟩
/-- All elements, not the last word of its run. -/
def all : Ctl := ⟨false, 0, false⟩
/-- Whether a word keeps its limits, and no register that it names awaits a load. -/
def legal (v : View) (i : Instr) : Bool :=
  (laneUses i v.t).legal v.t v.g.vbud v.g.sbud && ((laneUses i v.t).reads v.t ++ (laneUses i v.t).writes v.t).all fun x => decide (x ∉ v.g.hart.pendRegs)
theorem laneReady (vt : BitVec 6) (vl : Nat) (is : List Instr) (h : is.all (legal (laneView vt vl)) = true) :
    ∀ i ∈ is, (sLane vt vl).LaneReady i (laneView vt vl) := by
  intro i hi
  have := List.all_eq_true.1 h i hi
  simp only [legal, Bool.and_eq_true, List.all_eq_true, decide_eq_true_eq] at this
  exact ⟨rfl, rfl, rfl, this.1, this.2⟩
theorem witness_integer_forms : ∀ i ∈ laneIntWords.map (fun row => row.1 all 8 16 (.vec 24) 6) ++ laneWideWords.map (fun row => row.1 all 8 16 (.imm 63) 6) ++
    laneNarrowWords.map (fun row => row.1 all 8 16 (.sca 4) 6) ++ [.vclz all 8 16 2, .vpopc all 8 16 2, .vmacc all 8 16 (.lit 7) 6, .vnmsac all 8 16 (.vec 24) 2,
      .vwmacc all 8 16 (.vec 24) 6], (sLane 2 64).LaneReady i (laneView 2 64) := laneReady _ _ _ (by decide +kernel)
theorem witness_float_forms : ∀ i ∈ laneFloatWords.map (fun row => row.1 all 0 8 16 (.vec 24) 12) ++ laneSignWords.map (fun row => row.1 all 8 16 (.vec 24) 12) ++
    laneFusedWords.map (fun row => row.1 all 0 8 16 (.vec 24) 32 12) ++ [.vfsqrt all 1 8 16 12, .vfmin all 8 16 (.vec 24) 12, .vfmax all 8 16 (.sca 4) 12,
      .vfabs all 8 16 12, .vfneg all 8 16 12, .vfkind all 8 16 12, .vfwma all 0 8 16 (.vec 24) 32 12] ++
    ([(2, 6), (6, 12), (12, 2), (12, 10), (12, 14)].flatMap fun p => [.vcvt all 0 8 16 p.1 p.2, .vcvtSat all 0 8 16 p.1 p.2]),
    (sLane 2 64).LaneReady i (laneView 2 64) := laneReady _ _ _ (by decide +kernel)
theorem witness_predicate_forms : ∀ i ∈ laneCompareWords.map (fun row => row.1 all 3 16 (.vec 24) 6) ++ laneFloatCompareWords.map (fun row => row.1 all 3 16 (.vec 24) 12) ++
    lanePredicateWords.map (fun row => row.1 all 3 4 95) ++ [.vpnot all 3 4, .vpmov all 3 4, .vpset all 0, .vpclr all 3, .vpfrom all 3 16 2, .vpto all 8 3 2],
    (sLane 2 64).LaneReady i (laneView 2 64) := laneReady _ _ _ (by decide +kernel)
/-- The words that return a scalar. -/
def returning : List Instr := laneBitReductions.map (fun row => row.1 all 4 16 2) ++ [.vsetl true 4 5 2, .vsetli false 4 2 64, .vpcnt all 4 3, .vpfirst all 4 3,
  .vmvx false 0 16 6, .vredsum all 4 16 6, .vredmin all 4 16 6, .vredmax all 4 16 2, .vfredsum all 0 4 16 12, .vfredmin all 4 16 12, .vfredmax all 4 16 12]
theorem witness_returning_forms : (∀ i ∈ returning, (sLane 2 64).LaneReady i (laneView 2 64)) ∧ ∀ i ∈ returning, (sLane 2 0).LaneReady i (laneView 2 0) :=
  ⟨laneReady _ _ _ (by decide +kernel), laneReady _ _ _ (by decide +kernel)⟩
/-- Moves, scans and permutes. -/
def moving : List Instr := [.vmv all 8 (.imm 1) 2, .vid all 8 2, .vmerge all 8 16 (.vec 24) 12, .vpack all 8 16 2, .vscanAdd all 8 16 2, .vscanMin all 8 16 6,
  .vscanMax all 8 16 2, .vfscanAdd all 0 8 16 12, .vshup all 8 16 (.imm 1) 32 2, .vshdn all 8 16 (.sca 4) 32 2, .vpick all 8 16 (.vec 24) 2,
  .vbcast all 8 16 (.imm 3) 2, .vxchg all 8 16 (.imm 1) 2, .vrev all 8 16 2]
theorem witness_moving_forms : (∀ i ∈ moving, (sLane 2 64).LaneReady i (laneView 2 64)) ∧ ∀ i ∈ moving, (sLane 2 0).LaneReady i (laneView 2 0) :=
  ⟨laneReady _ _ _ (by decide +kernel), laneReady _ _ _ (by decide +kernel)⟩
theorem witness_element_classes : ∀ l ∈ [(gOf (sLane 2 0)).lane, (gOf (sLane 2 5)).lane, (gOf (sLane 0x13 3)).lane], 32 ∈ [4, 8, 16, 32, 64] ∧ l.vt.emul 32 ≤ 8 ∧ 8 + l.vt.emul 32 ≤ 64 := by
  decide +kernel
theorem witness_element_clauses : (gOf (sLane 2 0)).lane.vl = 0 ∧ ((gOf (sLane 2 5)).lane.vl ≠ 0 ∧ (gOf (sLane 2 5)).lane.vt.tfill = false) ∧
    ((gOf (sLane 0x13 3)).lane.vt.lmul * 32 < (gOf (sLane 0x13 3)).lane.vt.sew ∧ (gOf (sLane 0x13 3)).lane.vt.tfill = true) := by decide +kernel

/-- The accesses of a lane word go through with the page's entry in the TLB. -/
theorem laneGranted (s : State) (v : View) (es : List LaneAcc) (h : (match s.laneChecks (s.whoGroup v.slot) es with
    | .ok (ks, _) => s.laneHits v (ks.map (·.1)) == [] && s.laneReady v ks | .error _ => false) = true) : ∃ ks u, s.LaneGranted v es ks u := by
  split at h
  · next ks ts he =>
    simp only [Bool.and_eq_true, beq_iff_eq] at h
    exact ⟨ks, _, ⟨ts, he, rfl⟩, h.1, h.2⟩
  · exact absurd h (by decide)
def unordered : Sys2Proof.Ord := ⟨false, 0⟩
theorem witness_lane_loads : ∀ i ∈ [Instr.vld all unordered 8 ⟨3, false⟩ 4 2, .vlds all unordered 8 4 3 0 2, .vldx all unordered 8 16 ⟨3, false⟩ 2,
    .vldp all unordered 8 16 0 2, .vldff all unordered 8 5 ⟨3, false⟩ 0 2, .vldc all unordered 8 16 ⟨3, false⟩], (sLane 2 3).LaneReady i (laneView 2 3) :=
  laneReady _ _ _ (by decide +kernel)
theorem witness_lane_loads_granted : ∀ row ∈ (laneView 2 3).modes false ⟨3, false⟩ 4 3 16 0, ∃ ks u,
    (sLane 2 3).LaneGranted (laneView 2 3) (((laneView 2 3).l.actives all).map row) ks u := by
  intro row h; simp only [View.modes, List.mem_cons, List.not_mem_nil, or_false] at h
  rcases h with rfl | rfl | rfl | rfl <;> exact laneGranted _ _ _ (by decide +kernel)
theorem witness_first_fault : ∃ at0, ((laneView 2 3).modes false ⟨3, false⟩ 4 3 16 0xFFFC)[0]? = some at0 ∧ (∃ r, (sLane 2 3).laneReach ((sLane 2 3).whoGroup 0) (at0 0) = .ok r) ∧
    ∃ err, (sLane 2 3).laneReach ((sLane 2 3).whoGroup 0) (at0 1) = .error err :=
  ⟨_, rfl, ⟨(0x1FFFC, none), by decide +kernel⟩, Cause.capBounds, by decide +kernel⟩
theorem witness_lane_stores : ∀ i ∈ [Instr.vst all unordered 8 ⟨3, false⟩ 4 2, .vsts all unordered 8 4 3 0 2, .vstx all unordered 8 16 ⟨3, false⟩ 2,
    .vstp all unordered 8 16 0 2, .vstc all unordered 8 16 ⟨3, false⟩], (sLane 2 3).LaneReady i (laneView 2 3) := laneReady _ _ _ (by decide +kernel)
theorem witness_lane_stores_granted : ∀ row ∈ (laneView 2 3).modes true ⟨3, false⟩ 4 3 16 0, ∃ ks u,
    (sLane 2 3).LaneGranted (laneView 2 3) (((laneView 2 3).l.actives all).map row) ks u := by
  intro row h; simp only [View.modes, List.mem_cons, List.not_mem_nil, or_false] at h
  rcases h with rfl | rfl | rfl | rfl <;> exact laneGranted _ _ _ (by decide +kernel)
theorem witness_lane_requests : (∀ i ∈ [Instr.vatom all 0 0 8 16 24 32 ⟨3, false⟩ false, .vatom32 all 0 5 8 16 24 ⟨3, false⟩ false],
      (sLane 2 2).LaneReady i (laneView 2 2)) ∧
    ∀ i ∈ [Instr.vatom all 0 9 8 16 24 32 ⟨3, false⟩ true, .vlrc all 8 16 24 32 ⟨3, false⟩ 63 false], (sLane 3 2).LaneReady i (laneView 3 2) :=
  ⟨laneReady _ _ _ (by decide +kernel), laneReady _ _ _ (by decide +kernel)⟩
theorem witness_lane_requests_granted : (∃ ks u, (sLane 2 2).LaneGranted (laneView 2 2) (((laneView 2 2).l.actives all).map fun j =>
      .plain j (.atomic ((laneView 2 2).auth ⟨3, false⟩ j) 0x10000 4)) ks u) ∧
    (∃ ks u, (sLane 3 2).LaneGranted (laneView 3 2) (((laneView 3 2).l.actives all).map fun j =>
      .plain j ⟨(laneView 3 2).auth ⟨3, false⟩ j, [Perm.lineRoutine], 0x10000, 128, 128, Need.line, true, true⟩) ks u) :=
  ⟨laneGranted _ _ _ (by decide +kernel), laneGranted _ _ _ (by decide +kernel)⟩

/-! ### The Basket, routines, how operations complete -/

/-- A descriptor whose spill area is the page. -/
def spillDesc : List Byte := List.replicate 48 0 ++ (pageCap 0x5FFF).bytes
/-- `n` entries of bin 0 and a spilled one in cluster 0's Basket, bin 0 registered; one active element, whose key is 0. -/
def sBasket (n : Nat) : State :=
  ((sLane 2 1).modCtx 1 fun c => { c with bins := [⟨0, 1, 0, 0, [], [], spillDesc, [false, false, false, true], [], []⟩] }).modCluster 0 fun c =>
    { c with basket := { c.basket with entries := (List.range n).map fun i => ⟨1, 0, 0, i + 1⟩, spilled := [⟨1, 0, 5, 0⟩] } }
def basketView (n : Nat) : View := ⟨0, gOf (sBasket n), laneRun⟩
theorem witness_basket : ∀ n ∈ [0, 13, 15], legal (basketView n) (.vbasket ⟨true, 0, false⟩ 16 24) = true ∧ (sBasket n).cur = .group 0 ∧ (basketView n).g.hart.performed = true ∧
    ((basketView n).l.actives ⟨true, 0, false⟩) = [0] ∧ ((sBasket n).binReg 1 (BitVec.ofNat 16 ((basketView n).a 16 32 0))).isSome = true ∧
    (n = 15 → (((sBasket n).cluster 0).basket.held 1 0).length = 15) := by decide +kernel
theorem witness_basket_times : mapGetD (s1.cluster 0).basket.last 65536 0 + usTime 10 ≤ usTime 20 ∧
    ∀ n ∈ [14, 15], let b := ((sBasket n).cluster 0).basket
      b.spilled = [] ++ ⟨1, 0, 5, 0⟩ :: [] ∧ b.entries = [] ++ b.entries ∧ (∀ x ∈ b.entries, 0 < x.num) ∧ (b.held 1 0).length = n ∧ b.entries.length < 4096 := by decide +kernel
/-- The context's spill area: a place is taken, or, with nothing spilled, none. -/
def sSpill : State := (sBasket 14).modCluster 0 fun c => { c with basket := { c.basket with spilled := [] } }
theorem witness_spills : ((sBasket 14).spillAt 0 1 (pageCap 0x5FFF) 5 false).isSome = true ∧ (sBasket 14).spillCap 1 0 = some (0, pageCap 0x5FFF) ∧
    sSpill.Canonical ∧ sSpill.spillCap 1 0 = some (0, pageCap 0x5FFF) ∧ sSpill.spillTaken 1 0 = [] ∧ 0 < spillRoom (pageCap 0x5FFF) ∧
    sSpill.spillAt 0 1 (pageCap 0x5FFF) 0 true = some ([⟨0x10000, 64⟩], []) ∧ sSpill.moving 0x10000 64 = false ∧
    ∀ j < 64, tagByte (0x10000 + j) = none ∧ sSpill.regOf (0x10000 + j) = none ∧ worldByte (0x10000 + j) = none :=
  ⟨by decide +kernel, by decide +kernel, by unfold State.Canonical Rising; decide +kernel, by decide +kernel, by decide +kernel, by decide +kernel, by decide +kernel,
    by decide +kernel, by decide +kernel⟩
theorem witness_spill_full : let s := (sBasket 1).modCtx 1 fun c => { c with bins := [⟨0, 1, 0, 0, [], [], [], [], [], []⟩] }
    ∃ c, s.spillCap 1 0 = some (0, c) ∧ ∀ i < spillRoom c, i ∈ s.spillTaken 1 0 := ⟨_, rfl, by decide +kernel⟩
theorem witness_installs : (0x2000 : Nat) / 2 ^ 13 ≠ 0 ∧ (0x40 : Nat) / 64 % 4 ≠ 0 ∧ s1.released = true ∧
    s1.resolve s1.who (s1.c 3) [Perm.load] Need.read (s1.c 3).cursor.toNat 4 4 = .ok ([⟨0x10000, 4⟩], []) ∧ s1.locked s1.who true false 0x10000 4 = false ∧
    s1.wlReady 0x10000 = true ∧
    s1.watch (slotCluster 0) (gOf s1).ctx true false (s1.c 3).cursor.toNat 4 = none ∧ s1.dirEntry (gOf s1).ctx 0 Perm.store Need.write = none :=
  by decide +kernel
/-- The outstanding operation 7 of the group: with one atomic, or with one invocation of routine 2, whose word is `w`. -/
def sAtom : State := onHart fun h => h.holding (opOf 7 true [.s 5] [⟨0x10000, 0, [⟨1, 0, .s 5 true⟩]⟩] [] false)
def sLine (es : List RtEntry) : State := { onHart fun h => h.holding { opOf 7 true [.v 8] [] [] false with lines := [⟨0x10000, 2, [⟨0, 0x10000, 1, 2, .v 8 0 64, .v 9 0 64⟩]⟩] } with
  tables := [(homeSlice 0x10000, es)] }
def sStored : State := onHart fun h => h.holding (opOf 7 false [] [] [] false)
theorem witness_returns : (∃ p, (sBusy.hartOf (.group 0)).op 7 = some p ∧ p.ld = true ∧ p.atoms = [] ∧ p.lines = [] ∧ p.stores = [] ∧ p.stop = false) ∧
    (∃ p, (sStored.hartOf (.group 0)).op 7 = some p ∧ p.ld = false ∧ p.atoms = [] ∧ p.lines = [] ∧ p.stores = [] ∧ p.stop = false ∧ p.writes = []) ∧
    (∃ p r e, (sAtom.hartOf (.group 0)).op 7 = some p ∧ p.atoms[0]? = some r ∧ r.elems = [e] ∧ sAtom.migrating r.key = false ∧ sAtom.Canonical ∧
      r.key + 4 ≤ Config.remoteKey ∧ (∀ i < 4, tagByte (r.key + i) = none ∧ sAtom.regOf (r.key + i) = none ∧ worldByte (r.key + i) = none) ∧ e.v < 2 ^ 32) :=
  ⟨⟨_, rfl, rfl, rfl, rfl, rfl, rfl⟩, ⟨_, rfl, rfl, rfl, rfl, rfl, rfl, rfl⟩, _, _, _, rfl, rfl, rfl, by decide +kernel, by unfold State.Canonical Rising; decide +kernel, by decide +kernel⟩
theorem witness_invocations : (∃ p r, ((sLine []).hartOf (.group 0)).op 7 = some p ∧ p.lines[0]? = some r ∧ r.key < Config.remoteKey ∧ (sLine []).migrating r.key = false) ∧
    ((sLine []).lookupRoutine (homeSlice 0x10000) 1 2).isNone = true ∧
    (∀ p ∈ [(Instr.routineRet, RtEnd.ret), (.routineRetTc, .retTc), (.routineFail, .fail)],
      let s := sLine [⟨1, 2, true, [BitVec.ofNat 32 (leNat ((encode p.1).getD []))]⟩]
      ((s.lookupRoutine (homeSlice 0x10000) 1 2).map fun e => (e.1.legal, (Routine.run e.1.words 32 (e.2.startRoutine 0x10000 1 2)).fin)) = some (true, p.2)) :=
  ⟨⟨_, _, rfl, rfl, by decide +kernel, by decide +kernel⟩, by decide +kernel, by decide +kernel⟩

/-! ### Service cores -/

/-- The service core of cluster 0, with s4 = x, and the group in slot 0 in this state. -/
def kWith (x : Word) (life : Life) : State :=
  (((s1.modGroup 0 fun g => { g with life := life }).modCluster 0 fun c => { c with svc := { c.svc with released := true, inHandler := true, stimer := 9 } }) |> fun s =>
    ({ s with cur := .service 0 } : State)).modHart fun h => { h with s := h.s.set 4 x }
theorem witness_service_core : (∀ life ∈ [.running, .trapped, .stopped, .exiting], let s := kWith 0x10000 life
    s.AsService 0 ∧ s.Ready [4] [] ∧ s.released = true ∧ s.x 4 = handleOf 0 (gOf s) ∧ (gOf s).life = life ∧ (s.cluster 0).dbg.ctl.getLsbD 0 = false ∧
    (s.cluster 0).svc.inHandler = true ∧ (s.cluster 0).svc.events = [] ∧ s.cycle.toNat < (s.cluster 0).svc.stimer.toNat) ∧
    (∀ i < 16, (kWith 0x10000 .trapped).regOf ((kWith 0x10000 .trapped).trapRecord 0 + 0x28 + i) = none) ∧ (k0.cluster 0).svc.inHandler = false ∧
    (kWith 0 .stopped).x 4 ≠ handleOf 0 (gOf (kWith 0 .stopped)) ∧ (k0.cluster 0).svc.stimer = 0 := by
  unfold State.AsService State.Ready; decide +kernel
theorem witness_saves : ∃ tm, (kWith 0x10000 .running).team (gOf (kWith 0x10000 .running)).team = some tm ∧ tm.save = none ∧ tm.live = 1 := ⟨_, rfl, rfl, rfl⟩
/-- A record at 0x20000 that names context 1. -/
def kRecord : State := (kWith 0x20000 .running).storeNat 0x20000 8 1
theorem witness_revocation : kRecord.readNat 0x20000 8 % 65536 = 1 ∧ (kRecord.ctx 1).isSome = true := by decide +kernel
/-- A phase broadcast by cluster 0 that waits for nothing; an event; STIMER reached. -/
def kEvents : State := { k0.modCluster 0 fun c => { c with svc := { c.svc with stimer := 5, revs := [⟨1, true, 0x200, 0x20000, [], 3⟩], events := [⟨1, 2, 3, 4⟩] } } with cycle := 5 }
theorem witness_service_events : let v := (kEvents.cluster 0).svc
    v.stimer ≠ 0 ∧ v.timerTold = false ∧ v.stimer.toNat ≤ kEvents.cycle.toNat ∧ v.events = ⟨1, 2, 3, 4⟩ :: [] ∧
    (∃ p, v.revs = p :: [] ∧ p.waits = [] ∧ p.release = true ∧ (kEvents.ctx p.ctx).isSome = true) ∧ (gOf sStored).hart.st ≠ 0 ∧ (gOf s1).hart.st = 0 :=
  ⟨by decide +kernel, by decide +kernel, by decide +kernel, rfl, ⟨_, rfl, by decide +kernel, by decide +kernel, by decide +kernel⟩, by decide +kernel, by decide +kernel⟩

/-! ### Teams -/

/-- The group in slot 0 is Exiting, with this continuation; its team has `live` groups left and belongs to this grid. -/
def sExit (live : Nat) (cont : Option (List Byte × List Bool)) (grid : Option Nat) : State :=
  (s1.modGroup 0 fun g => { g with life := .exiting, cont := cont }).modTeam 0 fun t => { t with live := live, grid := grid, world := 3 }
theorem witness_retirement : ∀ s ∈ [sExit 1 none none, sExit 2 (some ([], [])) none, sExit 1 none (some 4)], s.Canonical ∧ ∃ g tm, s.group 0 = some g ∧ s.team g.team = some tm ∧
    g.life = .exiting ∧ g.hart.ld = 0 ∧ g.hart.st = 0 ∧ g.hart.cp = 0 ∧ g.hart.mx = 0 ∧ g.hart.pend = [] ∧ g.arrivals = [] ∧ g.copies = [] ∧
    (s.cluster 0).mxOf 0 = [] ∧ tm.heir = none := by
  intro s h; simp only [List.mem_cons, List.not_mem_nil, or_false] at h
  rcases h with rfl | rfl | rfl <;> exact ⟨by unfold State.Canonical Rising; decide +kernel, _, _, rfl, rfl, by decide +kernel⟩
/-- A grid of one team of one group and one way, for any die; queue 5 is placing it. -/
def aGrid : Grid :=
  { ctx := 1, gridId := 0, queue := 5, prio := 0, cluster := 0, hostArgs := false, packet := List.replicate 64 0, ptags := [],
    desc := List.replicate 64 0 ++ [1] ++ List.replicate 63 0 ++ [1] ++ List.replicate 127 0, dtags := [], args := some (List.replicate 192 0, []),
    next := 0, total := 1, live := 0, last := none, node := none, net := none, waited := 0 }
def sPlacing : State := { s1 with edge := { s1.edge with bootstat := 0x10 }, disp := { s1.disp with heads := [(5, 0)], grids := [(0, aGrid)] } }
theorem witness_placement : descGroups aGrid.drec = [0] ∧ (∀ p < 4, (sPlacing.restoreOne p).isNone = true) ∧ (∀ c < 192, (sPlacing.cluster c).basket.ready = []) ∧
    (∀ j < 256, j ≠ 5 → (sPlacing.tryQueue j).isNone = true) ∧
    (∃ cl way pr core, sPlacing.findSpot (sPlacing.gridTeam 0 aGrid ⟨List.replicate 192 0, []⟩) aGrid.pkt none = some (cl, ⟨way, pr, [(0, core)]⟩) ∧
      (sPlacing.freeSlot cl core).isSome = true) :=
  ⟨by decide +kernel, by decide +kernel, by decide +kernel, by decide +kernel, 0, 1, none, 1, by decide +kernel, by decide +kernel⟩
theorem witness_spots : (0 : Nat) < 1 ∧ freeWays [(0, Team.bare)] 48 1 = some 1 ∧ freeWays [(0, Team.bare)] 48 48 = none ∧
    pickCore [(1, 8, 16), (0, 0, 0), (0, 0, 0), (32, 0, 0)] [0, 1, 2, 3] 2048 16 = some 1 := by decide +kernel
/-- Every way of every cluster is held by a team of priority 3. -/
def sFull : State := { sPlacing with time := usTime 20, teams := (List.range 192).map fun c => (c, { Team.bare with cluster := c, ways := 48, prio := 3, slots := [] }) }
theorem witness_preemption : sFull.Canonical ∧ ∃ w, sFull.waiting (.queue 5) = some w ∧ sPlacing.time < w.since + usTime 10 ∧ w.since + usTime 10 ≤ sFull.time ∧
    sFull.placeable w.ctx = true ∧ (∀ cl ∈ w.clusters, w.fitsNow sFull cl = false) ∧ sFull.saveDue w = false ∧
    (∃ v, sFull.team 7 = some v ∧ w.prio < v.prio ∧ v.save = none ∧ v.live ≠ 0 ∧ (∀ p ∈ sFull.teamGroups 7, p.2.life ≠ .trapped) ∧ sFull.fitsWithout w 7 v = true) :=
  ⟨by unfold State.Canonical Rising; decide +kernel, _, rfl, by decide +kernel, by decide +kernel, by decide +kernel, by decide +kernel, by decide +kernel,
    _, rfl, by decide +kernel⟩
theorem witness_waiting_bin : let s := sPlacing.modCtx 1 (fun c => { c with bins := [⟨0, 1, 0, 0, [], [], [], [], [], []⟩] }) |>.modCluster 2 fun c =>
      { c with basket := { c.basket with ready := [⟨1, 0, [], 7⟩] } }
    mapGet s.disp.heads 5 = some 0 ∧ mapGet s.disp.grids 0 = some aGrid ∧ (s.cluster 2).basket.ready[0]? = some ⟨1, 0, [], 7⟩ ∧ (s.binReg 1 0).isSome = true := by
  decide +kernel
/-- A team with a save requested, and a barrier with an arrival. -/
def sSave (started : Bool) (arr : Nat) : State :=
  s1.modTeam 0 fun t => { t with save := some ⟨0x20000, 0, started, false, false, 0, 0⟩, bars := t.bars.set 15 ⟨2, arr, 0, 0⟩ }
theorem witness_save_requests : ∀ p ∈ [(true, 0), (false, 0), (false, 1)], (sSave p.1 p.2).Canonical ∧ ∃ tm q, (sSave p.1 p.2).team 0 = some tm ∧ tm.save = some q ∧ q.started = p.1 ∧
    q.deadline ≤ (sSave p.1 p.2).time ∧ 15 < tm.nbar ∧ (vgetD tm.bars 15 ⟨0, 0, 0, 0⟩).arr = p.2 ∧ (sSave p.1 p.2).teamMx 0 tm = [] ∧
    (sSave p.1 p.2).mxHead tm.cluster tm.leader = none ∧ (∀ x ∈ (sSave p.1 p.2).teamGroups 0, x.2.life ≠ .exiting ∧ x.2.hart.pend = [] ∧ x.2.arrivals = [] ∧ x.2.copies = []) ∧
    (∀ i < 8, (sSave p.1 p.2).regOf ((sSave p.1 p.2).ctxWord tm.ctx 0x50 + i) = none) := by
  intro p h; simp only [List.mem_cons, List.not_mem_nil, or_false] at h
  rcases h with rfl | rfl | rfl <;> exact ⟨by unfold State.Canonical Rising; decide +kernel, _, _, rfl, rfl, by decide +kernel⟩
/-- An image of context 1 with one group at 0x20000, to be restored in cluster 1; and one without its number. -/
def sImage (magic : Nat) : State :=
  ((s1.storeNat 0x20000 8 magic).storeNat 0x20008 8 (1 + 2 ^ 18)).modCluster 1 fun c => { c with svc := { c.svc with restores := [0x20000] } }
theorem witness_restores : (∀ m ∈ [0, 0x4D5A5356], ((sImage m).cluster 1).svc.restores = [0x20000] ∧ (sImage m).readNat 0x20000 8 = m ∧
      (sImage m).readNat 0x20008 8 % 65536 = 1 ∧ (sImage m).placeable 1 = true) ∧
    (let s := sImage 0x4D5A5356
     let head : Rec := ⟨s.readKeys 0x20000 0x1000, []⟩
     let secs := s.sections 0x20000 head
     let tm := readTeam head none 0
     s.savedAt 0x20000 head = none ∧ secs.length = 1 ∧ (s.die (clusterDie 1)).fatal = false ∧
       ∃ sp, s.spotFor 1 tm.ways tm.nbar false tm.issuer (imageBudgets secs tm.held) 1 none = some sp ∧ sp.cores = [(10, 0)] ∧ s.freeSlot 1 0 = some 128) ∧
    (∀ j < 4, (s1.restoreOne j).isNone = true ∧ (s1.placeOne j).isNone = true) ∧ (sPlacing.placeOne 0).isSome = true :=
  ⟨by decide +kernel, ⟨by decide +kernel, by decide +kernel, by decide +kernel, ⟨0, none, [(10, 0)]⟩, by decide +kernel, rfl, by decide +kernel⟩, by decide +kernel, by decide +kernel⟩

/-! ### Graph instances, exceptions, contexts, pages -/

/-- A graph of a copy node before a launch node, and its replay 3 on die 0, with these statuses and predecessor counts; queue 0 of context 1, open, with a tail. -/
def walkGraph : Graph := { graphOf 2 [(0, 1)] with nodes := [⟨[], [], 0, 0⟩, ⟨List.replicate 64 0, [], 2, 0⟩] }
def sWalk (status preds : List Nat) (q : Queue) : State :=
  ({ s1 with edge := { s1.edge with bootstat := 0x10 } }.modDie 0 fun d => { d with graphs := [(0x10000, walkGraph)], insts := [(3, ⟨false, 0x10000, false, preds, status, none⟩)] }).modQueue 0 fun _ => q
def openQueue (tail : BitVec 32) : Queue := ⟨0x8001000000020000, 1, 0, tail, 0, false⟩
theorem witness_walk : ∀ p ∈ [([1, 0], [0, 1], openQueue 0), ([2, 4], [0, 0], openQueue 0), ([2, 1], [0, 0], openQueue 2), ([2, 1], [0, 0], Queue.closed)],
    ∃ i g node, (sWalk p.1 p.2.1 p.2.2).inst 0 3 = some i ∧ (sWalk p.1 p.2.1 p.2.2).graphAt i.graph = some (0, g) ∧ g.nodes[1]? = some node ∧ node.sort = 2 ∧ i.status.length = 2 ∧ i.queued = false ∧
      (sWalk p.1 p.2.1 p.2.2).queuedFor i.graph = none ∧ (sWalk p.1 p.2.1 p.2.2).running = true ∧ Rising ((sWalk p.1 p.2.1 p.2.2).die 0).insts := by
  intro p h; simp only [List.mem_cons, List.not_mem_nil, or_false] at h
  rcases h with rfl | rfl | rfl | rfl <;>
    exact ⟨_, _, _, rfl, rfl, rfl, by decide +kernel, by decide +kernel, by decide +kernel, by decide +kernel, by decide +kernel, by unfold Rising; decide +kernel⟩
theorem witness_nodes : (sWalk [1, 0] [0, 1] (openQueue 0)).nodeCopying (.node 0 3 0) = false ∧ (sWalk [2, 4] [0, 0] (openQueue 0)).nodeLaunched (0, 3, 1) = false ∧
    (openQueue 2).held = (openQueue 2).depth ∧ (openQueue 0).held ≠ (openQueue 0).depth ∧ (openQueue 0).isOpen = true ∧ Queue.closed.isOpen = false ∧
    (walkGraph.nodes.length = 2 ∧ ∀ e ∈ walkGraph.edges, e.1 < 2 ∧ e.2 < 2) ∧ Reaches walkGraph.edges 0 1 := by
  exact ⟨by decide +kernel, by decide +kernel, by decide, by decide, by decide, by decide, by decide, .edge (by decide)⟩
/-- A word that is no instruction, a reserved one, and a privileged one; lane words likewise. -/
theorem witness_unassigned : decodeScalar 0 = .error .illegalInsn ∧ decodeScalar 0xB4000001 = .error .reservedEnc ∧ isPrivWord 0 = false ∧
    (∃ e, laneFault (.ofWord 0xFC0000000000000000000000) = some e) ∧ (k0.cluster 0).svc.inHandler = false ∧ ((kWith 0 .running).cluster 0).svc.inHandler = true :=
  ⟨by decide +kernel, by decide +kernel, by decide +kernel, ⟨.illegalInsn, by decide +kernel⟩, by decide +kernel, by decide +kernel⟩
/-- A stepped group whose work has drained; and a trace whose buffer of 64 entries holds `n`. -/
def sStepped : State := onGroup fun g => { g with stepping := ⟨1, true, 0x10000, 1, none⟩ }
def sTrace (n : Word) : State := s1.modCluster 0 fun c => { c with dbg := { c.dbg with ctl := 3, trbase := 0x20000, trsize := 64, trhead := n } }
theorem witness_stepping : (gOf sStepped).stepping.pending = true ∧ (gOf sStepped).life = .running ∧ (gOf sStepped).hart.pend = [] ∧ (gOf sStepped).copies = [] ∧ (gOf sStepped).arrivals = [] ∧ (gOf sStepped).batches = [] ∧
    (sStepped.cluster 0).mxOf 0 = [] ∧ (gOf s1).stepping.pending = false := by decide +kernel
theorem witness_samples : ∀ n ∈ [0, 63, 64], let s := sTrace (BitVec.ofNat 64 n)
    let d := (s.cluster 0).dbg
    ((s.cluster 0).core 0).sampleAt ≤ s.cycle.toNat ∧ d.ctl.getLsbD 1 = true ∧ d.trsize.toNat = 2 ^ 6 ∧ s.group (((s.cluster 0).core 0).holder.getD (0 * 32 + ((s.cluster 0).core 0).lastScalar)) = none ∧
    s.pageWorld (d.trbase.toNat / 64 * 64 + 64 * (d.trhead.toNat % 2 ^ 6)) = some 0 := by decide +kernel
theorem witness_sampled : ∃ g, ((sTrace 0).modCore 0 0 fun c => { c with holder := some 0 }).group 0 = some g ∧
    ((((sTrace 0).modCore 0 0 fun c => { c with holder := some 0 }).cluster 0).core 0).holder.getD 31 = 0 := ⟨_, rfl, by decide +kernel⟩
/-- SCTXCTL of cluster 0 asks for an op on context n; context 1 stands so; the record of context n, at 64 KiB x n, has its low bit set. -/
def sCtl (op n : Nat) (st : CtxState) : State :=
  let x : Word := BitVec.ofNat 64 (2 ^ 63 + op * 2 ^ 16 + n)
  ((s1.modCtx 1 fun c => { c with state := st }).storeNat (s1.ctxWord n 0) 8 1).modCluster 0 fun c => { c with svc := { c.svc with ctxctl := x } }
theorem witness_context_ops : ∀ p ∈ [(0, 2, CtxState.live), (0, 0, .live), (0, 4095, .live), (0, 4096, .live), (1, 1, .live), (1, 1, .dead), (2, 1, .live), (2, 1, .ending),
      (3, 1, .dead), (3, 1, .live), (4, 1, .ending)], let s := sCtl p.1 p.2.1 p.2.2
    let x := (s.cluster 0).svc.ctxctl
    s.Canonical ∧ x.getLsbD 63 = true ∧ x.toNat / 2 ^ 16 % 8 = p.1 ∧ x.toNat % 2 ^ 16 = p.2.1 ∧ s.ctxState 1 = p.2.2 := by
  unfold State.Canonical Rising; decide +kernel
theorem witness_activation : let s := sCtl 0 2 .live
    s.ctxState 2 = .free ∧ s.readNat (s.ctxWord 2 0) 8 % 2 = 1 ∧ (BitVec.ofNat 8 (s.readNat (s.ctxWord 2 0) 8 / 2 ^ 8)) = 0 := by decide +kernel
/-- A dump of context 1 waits at die 0. -/
def sDump : State := s1.modDie 0 fun d => { d with dumps := [⟨1, 0x14, 5, 6, 7, none⟩] }
theorem witness_dump : sDump.Canonical ∧ (∃ d c, (sDump.die 0).dumps = d :: [] ∧ sDump.ctx d.ctx = some c) ∧ (sDump.die 0).fatal = false :=
  ⟨by unfold State.Canonical Rising; decide +kernel, ⟨_, _, rfl, rfl⟩, by decide +kernel⟩
/-- A migration of the page at 0x10000 to 0x30000; a world change of two pages at 0x20000. -/
def sMig (busy locked : Bool) : State := s1.modCluster 0 fun c => { c with svc := { c.svc with mig := ⟨0x10000, 0x30000, 0x10000, 0x30000, 0, busy, locked, false⟩ } }
theorem witness_migration : ∀ p ∈ [(false, false), (true, true), (false, true)], (sMig p.1 p.2).Canonical ∧ (sMig p.1 p.2).heldIn 0x10000 65536 = false ∧
    (((sMig p.1 p.2).cluster 0).svc.mig.busy = p.1 ∧ ((sMig p.1 p.2).cluster 0).svc.mig.locked = p.2) ∧
    (sMig p.1 p.2).pageWorld 0x10000 = some 0 ∧ (sMig p.1 p.2).pageWorld 0x30000 = some 0 := by
  unfold State.Canonical Rising; decide +kernel
def sWorld (count value : Word) : State := s1.modCluster 0 fun c => { c with svc := { c.svc with wpage := 0x20000, wcount := count, wresult := 2 ^ 63, wctl := value } }
theorem witness_worlds : (∀ p ∈ [(2, 7), (0, 7), (2, 0xFF), (2, 0)], let s := sWorld (BitVec.ofNat 64 p.1) (BitVec.ofNat 64 p.2)
      (s.cluster 0).svc.wresult.getLsbD 63 = true ∧ (s.cluster 0).svc.wctl.toNat = p.2) ∧
    (∀ i < 2, (sWorld 2 7).pageWorld (0x20000 + 65536 * i) = some 0 ∧ (sWorld 2 7).migrating (0x20000 + 65536 * i) = false) ∧
    (sWorld 2 7).heldIn 0x20000 (65536 * 2) = false := by decide +kernel

/-! ### Keys, edge, ports -/

/-- KCTL asks for an op; key slot 0 stands so; the record of context 1 gives it world 3. -/
def sKey (op : Nat) (k : KeySlot) : State :=
  let s := s1.storeNat (s1.ctxWord 1 1) 1 3
  { s.modCluster 0 fun c => { c with svc := { c.svc with kctl := some (BitVec.ofNat 64 (op + 2 ^ 16)), kblob := 0x20000 } } with keys := s.keys.set 0 k }
def heldKey : KeySlot := { KeySlot.reset with state := 2, ctx := 1, world := 3, cur := some ⟨1, [], 1, 2⟩, prev := some ⟨0, [], 1, 2⟩, gen := 1, retire := true }
theorem witness_keys : (∀ op < 4, ∃ x, ((sKey op heldKey).cluster 0).svc.kctl = some x ∧ x.toNat % 4 = op ∧ x.toNat / 2 ^ 16 % 2 ^ 16 = 1) ∧
    (sKey 0 heldKey).keyByte ((sKey 0 heldKey).ctxWord 1 1) = 3 ∧ (vgetD (sKey 0 heldKey).keys 1 .reset).state = 0 ∧ (vgetD (sKey 0 heldKey).keys 0 .reset).state ≠ 0 ∧
    (sKey 2 heldKey).genNamed 0 0 = false ∧ (s1.cluster 0).svc.kctl = none := by
  refine ⟨?_, by decide +kernel⟩
  intro op h
  have : op = 0 ∨ op = 1 ∨ op = 2 ∨ op = 3 := by omega
  rcases this with rfl | rfl | rfl | rfl <;> exact ⟨_, rfl, by decide +kernel, by decide +kernel⟩
theorem witness_bad_blob : unwrapBlob (List.replicate 2047 0 ++ [1]) 3 = none := by
  unfold unwrapBlob
  split
  · rfl
  · split
    · rfl
    · exact if_pos (.inl (by decide +kernel))
/-- A challenge accepted at reset, and one that waits for certificate 2, which is being rewritten. -/
def aChallenge : Challenge := ⟨some 0x20000, [], 2, 0, 0x30000, 100000, some (0, 0), 0, false⟩
def sChal (l : List Challenge) (rw : SMap (List Byte)) (time : Nat) : State := { s1 with attest := { s1.attest with index := 5, chals := l, rewrites := rw }, time := time }
theorem witness_challenges : (sChal [aChallenge] [] 0).attest.chals = aChallenge :: [] ∧ (¬ aChallenge.cap < 4652 + ((sChal [aChallenge] [] 0).cert 2).length) ∧
    (sChal [aChallenge] [] 0).attest.index < 2 ^ 20 ∧ (0 + usTime 2000000 ≤ (sChal [aChallenge] [] (usTime 2000000)).time) ∧ (sChal [aChallenge] [] 0).time < 0 + usTime 2000000 ∧
    (sChal [aChallenge] [(2, [])] 0).attest.rewrites = [(2, [])] ∧ (∀ c ∈ (sChal [] [(2, [])] 0).attest.chals, c.cert ≠ 2) := by decide +kernel
theorem witness_doorbells : ∀ p ∈ [(0, 0), (0, 2), (2, 4)], let d := openQueue (BitVec.ofNat 32 p.1)
    d.isOpen = true ∧ (((BitVec.ofNat 32 p.2 - d.head).toNat ≤ d.depth ∧ (BitVec.ofNat 32 p.2 - d.tail).toNat < 2 ^ 31) ↔ p.2 ≤ 2) ∧ d.hostOwned = false := by decide
theorem witness_edge_registers : (∀ row ∈ [0x6000, 0x6008, 0x6100, 0x7000, 0x1000, 0x1020 + 64 * 255], row < 0x10000 ∧ row % 8 = 0 ∧ (row < 0x5000 ∨ 0x5800 ≤ row)) ∧
    ¬ (0x5000 : Nat) < 0x5000 ∧ s1.boot.phase = 2 ∧ State.reset.boot.phase = 0 := by decide +kernel
/-- The blank flash is refused; whether any image is accepted rests on the free value of the fused digest. -/
theorem witness_refused_image : State.reset.boot.phase = 0 ∧ imageAccepted State.reset.boot.flash State.reset.boot.fused = false := by
  refine ⟨rfl, ?_⟩
  simp [imageAccepted, State.reset, Config.flashImage]
/-- In a topology of two packages, with the ports of dimension 0 up, the page at 0x20000 mapped as page 0 of BAR2, a request to package 1 not acknowledged,
    a UDP and a reliable socket, and a command of shard 2 at port 3. -/
def sNet : State :=
  { s1 with edge := { s1.edge with wltopo := 1, wlports := ((List.range 4).foldl (fun v p => vset v p ⟨true, false⟩) s1.edge.wlports), bar2 := [(0, 2)],
                                   wlSent := [⟨1, 7, 3, 0, 0, 1, .read 8⟩] },
            io := { s1.io with socks := [⟨1, 9, 0, false, 9, [], [], [[]], false, 0⟩, ⟨1, 4, 5, true, 0, [], [], [], false, 6⟩],
                               cmds := [⟨3, 2, .read, 48, 0, 1, [7], [⟨0x20000, 1⟩], none, none⟩] } }
theorem witness_host : (∀ i < 8, (mapGet sNet.edge.bar2 ((8 + i) / 65536)).isSome = true ∧
      let k := mapGetD sNet.edge.bar2 ((8 + i) / 65536) 0 * 65536 + (8 + i) % 65536
      k < 8 * Config.hbmStride ∧ sNet.pageWorld k = some 0 ∧ sNet.migrating k = false) ∧ mapGet sNet.edge.bar2 1 = none ∧
    (3 < 2 ^ 23 ∧ 0x30000 + 65536 ≤ 8 * Config.hbmStride ∧ sNet.pageWorld 0x30000 = some 0) := by decide +kernel
theorem witness_network : sNet.otherPackage 1 = true ∧ sNet.wlFrom 1 = true ∧ sNet.packages ≤ 64 ∧ 1 < sNet.dimSize 0 ∧ sNet.edge.wlreplies = [] ∧ sNet.ctxState 1 = .live ∧
    sNet.ctxState 2 ≠ .live ∧ (∀ i < 16, sNet.pageWorld (0x20000 + i) = some 0 ∧ sNet.migrating (0x20000 + i) = false) ∧
    sNet.pageWorld 0xFFFFFFFF0000 = none ∧ (sNet.boot.phase = 2 ∧ 9 ≠ sNet.edge.ethlport.toNat ∧ 4791 ≠ sNet.edge.ethlport.toNat) ∧
    sNet.lookupRoutine (homeSlice 0x20000) 1 2 = none ∧ ((sNet.cluster 5).port false 1).recvs = [] ∧ ((sNet.cluster 5).port false 1).queue.length < portDepth false ∧
    (∃ x ∈ sNet.edge.wlSent, x.pkg = 1 ∧ x.seq = 7) ∧ ∀ x ∈ sNet.edge.wlSent, x.pkg ≠ 1 ∨ x.seq ≠ 8 := by decide +kernel
theorem witness_sockets : (∃ o rest, sNet.io.socks = [] ++ o :: rest ∧ o.roce = false ∧ o.port = 9 ∧ o.owner = 9 ∧ o.tx ≠ []) ∧
    (∃ pre o, sNet.io.socks = pre ++ o :: [] ∧ o.roce = true ∧ o.obj = 0 * 65536 + 0 * 256 + 5 ∧ o.psn = 6 ∧ o.owner < 192 ∧ ∀ x ∈ pre, x.roce = false) ∧
    (∃ c, sNet.io.cmds = [] ++ c :: [] ∧ c.port = 3 ∧ c.shard = 2 ∧ c.op = .read ∧ c.job = none ∧ ∀ a ∈ c.segs, sNet.moving a.lo a.len = false) :=
  ⟨⟨_, _, rfl, by decide +kernel⟩, ⟨[_], _, rfl, by decide +kernel⟩, _, rfl, by decide +kernel⟩
/-- A launch frame for slot 0 with one byte, whose slot at 0x20000 is armed, with a buffer at 0x10000. -/
def launchBytes : List Byte := leBytes 4 0x4D5A4C31 ++ leBytes 4 0 ++ leBytes 4 1 ++ leBytes 4 0 ++ [7]
def sSlot (tail : BitVec 32) : State :=
  let s := ((s1.modQueue 0 fun _ => openQueue tail).writeCap 0x20040 (pageCap 0x5FFF) true).storeNat 0x20050 8 16 |>.storeNat 0x20058 8 1
  { s with edge := { s.edge with bootstat := 0x10, ethslot := s.edge.ethslot.set 0 0x20000 } }
theorem witness_launch_frames : launchFrame launchBytes = some (0, [7]) ∧ launchFrame [] = none ∧
    (∀ tail ∈ [0, 2], let s := sSlot (BitVec.ofNat 32 tail)
      let buf := s.readCap 0x20040
      (vgetD s.edge.ethslot 0 0).toNat = 0x20000 ∧ (s.readRec [⟨0x20000, 64⟩] true 0).queueNo = 0 ∧ (s.readNat 0x20058 8).testBit 0 = true ∧ 1 ≤ s.readNat 0x20050 8 ∧
      s.running = true ∧ (s.queue 0).isOpen = true ∧ (((s.queue 0).held ≠ (s.queue 0).depth) ↔ tail = 0) ∧ buf.tag = true ∧ s.moving 0x20000 128 = false) ∧
    (sSlot 0).resolve ((sSlot 0).whoCtx 1 0 false) ((sSlot 0).readCap 0x20040) [Perm.store] Need.write ((sSlot 0).readCap 0x20040).cursor.toNat 1 1 = .ok ([⟨0x10000, 1⟩], []) ∧
    (sSlot 0).moving 0x10000 1 = false := by decide +kernel

/-! ### Calls, kernel messages, the fleet -/

/-- Element 0 of slot 0's trap record calls `num` with these arguments, its call buffer this one; an object open as file 0, its first 64 KiB in an extent, and a socket 0,
    with handles in the page at 0x100 and 0x110; the context's page tables lie at 0x100000. -/
def sCallIn (c15 : Cap) (num : Nat) (args : List Nat) : State :=
  let s := ((s1.storeNat 0 8 (num + 2 ^ 16)).storeNat 8 8 1).writeKeys 0x38 c15.bytes
  let s := (s.keySetTag 0x30 true).writeKeys 0x80 (args.flatMap (leBytes 8))
  let s := (s.writeCap 0x10100 ⟨0, otFile, 0, 0, 0, 0, 0, true⟩ true).writeCap 0x10110 ⟨0, otSock, 0, 0, 0, 0, 0, true⟩ true
  { s.modCtx 1 (fun c => { c with ptbase := 0x100000 }) with io := { s.io with
    objects := [(0, ⟨[1], 0, [5, 6], 0, [], [(0, 2)]⟩)], opens := [⟨1, 0, 0, true, true⟩], socks := [⟨1, 0, 0, false, 9, [], [[4]], [], false, 0⟩] } }
/-- With the page as the call buffer, and with the team's scratchpad. -/
def sCall (num : Nat) (args : List Nat) : State := sCallIn (pageCap 0x5FFF) num args
def sPadCall (num : Nat) (args : List Nat) : State := sCallIn (mkCap 0x7FFF 0 0 0x8000 0) num args
/-- The call that a state makes. -/
def callIn (s : State) (num : Nat) : Call := (s.callAt 0 0 num).getD ⟨0, 0, 0, 0, none, none, [], [], .null⟩
/-- Calls with their arguments. -/
def someCalls : List (Nat × List Nat) := [(1, [16, 0x200]), (1, [0, 0]), (2, [0x100]), (3, [0x10000]), (3, [7]), (0x11, [0x100, 0, 2, 0x300]), (0x12, [0x100, 0, 2, 0x300]),
  (0x13, [0x100]), (0x14, [0x100, 0x300]), (0x21, [0x110, 0x300, 2]), (0x22, [0x110, 0x300, 2, 5]), (0x23, [0x110]), (0x30, [0]), (0x30, [2]), (0x31, [0x300, 2]), (0x31, [0, 0]),
  (0x32, []), (0x33, [3])]
/-- Whether a call stands to be served by its shard. -/
def ready (s : State) (num : Nat) : Bool :=
  let c := callIn s num
  (s.callAt 0 0 num).isSome && c.elems == [0] && (s.jobOf c).isNone && s.callOwner c == c.cluster && !s.earlierCall c && !s.behind c (s.callObject c) && (s.ctx c.ctx).isSome
theorem witness_calls : (∀ p ∈ someCalls, ready (sCall p.1 p.2) p.1 = true) ∧
    ∀ p ∈ [(0x10, [0, 1, 7, 0x200]), (0x10, [0, 0, 7, 0x200]), (0x20, [0, 192, 0, 0x200]), (0x20, [2, 192, 0, 0x200])], ready (sPadCall p.1 p.2) p.1 = true := by decide +kernel
theorem witness_call_ranges : (∃ segs, (sPadCall 0x10 [0, 1, 7, 0x200]).callRead (callIn (sPadCall 0x10 [0, 1, 7, 0x200]) 0x10) 0 1 = .ok segs) ∧
    (∃ slot, (sPadCall 0x10 [0, 1, 7, 0x200]).slotOut (callIn (sPadCall 0x10 [0, 1, 7, 0x200]) 0x10) false 0x200 = .ok slot) ∧
    (∃ slot, (sPadCall 0x20 [0, 192, 0, 0x200]).slotOut (callIn (sPadCall 0x20 [0, 192, 0, 0x200]) 0x20) false 0x200 = .ok slot) ∧
    (∃ segs, (sPadCall 0x20 [0, 192, 0, 0x200]).callRead (callIn (sPadCall 0x20 [0, 192, 0, 0x200]) 0x20) 0 32 = .ok segs) ∧
    (∃ slot, (sCall 1 [16, 0x200]).slotOut (callIn (sCall 1 [16, 0x200]) 1) true 0x200 = .ok slot) ∧
    (∃ v, (sCall 2 [0x100]).readSlot (callIn (sCall 2 [0x100]) 2) 0x100 = .ok v) ∧
    (∃ p, (sCall 0x11 [0x100, 0, 2, 0x300]).fileIn (callIn (sCall 0x11 [0x100, 0, 2, 0x300]) 0x11) 0x100 = .ok p) ∧
    (∃ o, (sCall 0x22 [0x110, 0x300, 2, 5]).sockIn (callIn (sCall 0x22 [0x110, 0x300, 2, 5]) 0x22) 0x110 = .ok o) ∧
    (∃ segs, (sCall 0x11 [0x100, 0, 2, 0x300]).callWrite (callIn (sCall 0x11 [0x100, 0, 2, 0x300]) 0x11) 0x300 2 = .ok segs) :=
  ⟨isOk _ (by decide +kernel), isOk _ (by decide +kernel), isOk _ (by decide +kernel), isOk _ (by decide +kernel), isOk _ (by decide +kernel), isOk _ (by decide +kernel),
    isOk _ (by decide +kernel), isOk _ (by decide +kernel), isOk _ (by decide +kernel)⟩
/-- The object of file 0, with and without its first 64 KiB in an extent. -/
def anObject (es : List Extent) : Object := ⟨[1], 0, [5, 6], 0, es, [(0, 2)]⟩
theorem witness_call_commands : extentParts [⟨0, 0, 0, 0x10000⟩] 0 2 = [(⟨0, 0, 0, 0x10000⟩, 0, 2)] ∧ gapParts (extentSpans [⟨0, 0, 0, 0x10000⟩]) 0 2 = [] ∧
    extentParts [] 0 2 = [] ∧ gapParts [] 0 2 = [(0, 2)] ∧
    s1.io.queueRoom 0 [nvmeCmd 0 .read ⟨0, 0, 0, 0x10000⟩ 0 2 [5, 6] [⟨0x10300, 2⟩] (some (0, 0))] = true ∧
    ({ s1.io with cmds := List.replicate 256 (nvmeCmd 0 .flush ⟨0, 0, 0, 0⟩ 0 1 [] [] none) } : Io).queueRoom 0 [nvmeCmd 0 .read ⟨0, 0, 0, 0x10000⟩ 0 2 [5, 6] [⟨0x10300, 2⟩] (some (0, 0))] = false := by decide +kernel
theorem witness_allocation : let s := sCall 1 [16, 0x200]
    (∃ s0, s.mapRegion 1 0x10000 (exactLen 16) [0x400000, 0x410000, 0x420000, 0x430000, 0x440000] = some s0 ∧
      (s0.mappedOn (callIn s 1) 0x10000 (exactLen 16) 0).isSome = true) ∧ exactAlign 0x10000 16 = 0x10000 ∧
    Ctx.bare.overlaps 0x10000 (exactLen 16) = false ∧ s.pagesFree 1 0 [0x400000, 0x410000, 0x420000, 0x430000, 0x440000] = true ∧ s.pagesFree 1 0 [0x400000] = true ∧
    (sCall 0x32 []).waitedFor 0 Team.bare = false := ⟨⟨_, rfl, by decide +kernel⟩, by decide +kernel⟩
/-- The call of `sock.recv` with nothing received, under way: waiting, or forwarded to shard 0 and ended. -/
def sJob (j : JobStage) (asker : Nat) : State :=
  let s := sCall 0x22 [0x110, 0x300, 2, 5]
  { s with io := { s.io with jobs := [⟨0, 0, 0x22, [0xFF2, 0, 0], 0, asker, j, 7, none, none⟩], socks := [⟨1, 0, 0, false, 9, [], [], [], false, 0⟩] }, time := usTime 5 }
theorem witness_jobs : (∃ j, (sJob (.waiting 0) 0).jobOf (callIn (sJob (.waiting 0) 0) 0x22) = some j ∧ j.stage = .waiting 0 ∧ j.owner = j.asker) ∧
    (∃ j, (sJob (.busy 1 0) 3).jobOf (callIn (sJob (.busy 1 0) 3) 0x22) = some j ∧ j.stage = .busy 1 0 ∧ j.owner ≠ j.asker) ∧
    0 + usTime 5 ≤ (sJob (.waiting 0) 0).time ∧ (sJob .sent 0).behind (callIn (sJob .sent 0) 0x22) [0xFF2, 0, 0] = false ∧
    (∃ j, (sJob (.ended 7 0) 3).dueReply 0 0 = some j ∧ j.owner = 0 ∧ j.asker = 3) ∧ (sJob .sent 0).dueReply 0 0 = none :=
  ⟨⟨_, rfl, rfl, rfl⟩, ⟨_, rfl, rfl, by decide +kernel⟩, by decide +kernel, by decide +kernel, ⟨_, rfl, rfl, rfl⟩, by decide +kernel⟩
theorem witness_kernel_messages : bodyOk 0 0x20000 128 = true ∧ s1.shardsMeet 0 1 = true ∧ s1.kernelWay 0 1 = true ∧ (s1.cluster 1).kport.recvs = [] ∧
    (s1.cluster 1).kport.queue.length < 512 ∧ s1.boot.phase = 2 ∧ mapGetD s1.io.kseq (0 * 32768 + 1) 0 < 256 ∧ s1.disp.saved = [] ∧
    (let s := { s1 with io := { s1.io with kseq := [(1 * 32768 + 0, 2 * 256 + 5)] } }
     mapGetD s.io.kseq (1 * 32768 + 0) 0 / 256 = 3 - 1) ∧
    (let s := sPadCall 0x20 [0, 1, 0, 0x200]
     let c := callIn s 0x20
     (s.callAt 0 0 (s.readNat 0 8 % 256)).isSome = true ∧ s.jobOf c = none ∧ s.callOwner c = 1 ∧ c.cluster = 0 ∧ s.earlierCall c = false) ∧
    sNet.shardsMeet 5 (2 * 256 + 5) = true ∧ sNet.kernelWay 5 (2 * 256 + 5) = true ∧ sNet.shardsMeet (2 * 256 + 5) 5 = true ∧ sNet.kernelWay (2 * 256 + 5) 5 = true := by decide +kernel
/-- A name that shards 1 and 2 are still to hear of, and 3 has to acknowledge. -/
theorem witness_naming : let n : Naming := ⟨0, 0, 0, [1, 2], [3]⟩
    1 ∈ n.untold ∧ 3 ∉ n.untold ∧ 3 ∈ n.due ∧ 1 ∉ n.due := by decide
/-- Stopped by MSG_OVERFLOW at the start, for port 9 of cluster 0, whose queue holds so many messages. -/
def sOverflow (n : Nat) : State :=
  { (onGroup fun g => { g with life := .stopped, hart := { g.hart with cause := 0x40, faddr := 9 } }).setPort 0 false 1 ⟨[], List.replicate n ⟨9, 1⟩⟩ with time := usTime 200000 }
theorem witness_overflow : (sOverflow 193).Canonical ∧ (gOf (sOverflow 193)).life = .stopped ∧ (gOf (sOverflow 193)).hart.cause = 0x40 ∧
    (gOf (sOverflow 193)).stopAt + usTime 100000 ≤ (sOverflow 193).time ∧ (sOverflow 193).roomAt 1 9 = false ∧ (sOverflow 192).roomAt 1 9 = true :=
  ⟨by unfold State.Canonical Rising; decide +kernel, by decide +kernel⟩
theorem witness_commands : s1.boot.phase = 2 ∧ s1.fleet.pending = none ∧ s1.badClass (1 :: List.replicate 15 0) = false ∧ s1.badClass [0xFF, 0xFF, 0xFF, 0xFF, 0xFF] = true ∧
    (let s := s1.modDie 0 fun d => { d with buckets := Vector.replicate 2 (Vector.replicate 16 ⟨1, 1, true, 0⟩) }
     (s.bucket 0 3).share ≠ 0 ∧ (s.bucket 1 3).share ≠ 0) ∧ (s1.bucket 0 15).share = 0 ∧ s1.attest.rewrites = [] ∧ s1.attest.chals = [] := by decide +kernel
/-- A command of a context reads the page at 0x20000. -/
theorem witness_readers : let s := s1.modCluster 3 fun c => { c with ops := [{ EngOp.blank (.group 0 1) (some 0) 1 with started := false, srcSegs := [⟨0x20000, 16⟩] }] }
    (s.reader none 0x20004).map (·.1) = some 1 ∧ s.reader none 0x30000 = none ∧ (s1.reader (some 0) 0x30000).isSome = true := by decide +kernel
theorem witness_refills : s1.dies[0].refill ≤ s1.cycle.toNat / 1024 ∧ s1.cycle.toNat / 1024 < 1 ∧ (∃ dev, deviceOf (0x20000 : Word).toNat = some dev) ∧
    ({ s1.fleet with pending := some ([4, 3, 0], [1, 2, 3]) } : Fleet).pending = some ([4, 3, 0], [1, 2, 3]) ∧ s1.pageWorld 0x20000 ≠ some 255 ∧
    mapGetD s1.fleet.linkRetry 0 0 + 1 ≤ 8 ∧ s1.fleet.throttle = 0 ∧
    (∀ x ∈ [0, 0x200000, 0xA00000], deviceOf (BitVec.ofNat 64 (Config.windowKey + x)).toNat = none ∧ winOf (BitVec.ofNat 64 (Config.windowKey + x)).toNat = some x ∧ x < Config.windowSize) ∧
    deviceOf (BitVec.allOnes 64).toNat = none ∧ winOf (BitVec.allOnes 64).toNat = none ∧ s1.ctxState (gOf s1).ctx = .live ∧ ((s1.cluster 0).core 0).active.src = none := by
  refine ⟨by decide +kernel, by decide +kernel, ⟨_, rfl⟩, by decide +kernel⟩

/-! ### What is refused, and what waits -/

theorem firstOf_unique : ∀ {ts : List (Prop × BitVec 8)} {a b : BitVec 8}, FirstOf ts a → FirstOf ts b → a = b
  | [], _, _, h, _ => h.elim
  | _ :: _, _, _, .inl h, .inl k => h.2.trans k.2.symm
  | _ :: _, _, _, .inl h, .inr k => absurd h.1 k.1
  | _ :: _, _, _, .inr h, .inl k => absurd k.1 h.1
  | _ :: _, _, _, .inr h, .inr k => firstOf_unique h.2 k.2
theorem firstOf_some : ∀ {ts : List (Prop × BitVec 8)} {a : BitVec 8}, FirstOf ts a → ¬ NoneOf ts
  | [], _, h => h.elim
  | _ :: _, _, .inl h => fun n => n _ (List.mem_cons_self ..) h.1
  | _ :: _, _, .inr h => fun n => firstOf_some h.2 fun t m => n t (List.mem_cons_of_mem _ m)
theorem elemCause_unique {s : State} {k : Nat} {e : LaneAcc} {a b : BitVec 8} (h : s.elemCause k e a) (g : s.elemCause k e b) : a = b := by
  rcases h with h | ⟨n, h⟩ <;> rcases g with g | ⟨m, g⟩
  · exact firstOf_unique h g
  · exact absurd m (firstOf_some h)
  · exact absurd n (firstOf_some g)
  · exact Except.error.inj (h.symm.trans g)

/-- R70: scalar accesses that are refused, each with the first cause reached: by the tests of the authority, or by the page table. -/
theorem witness_refused : (∀ row ∈ [({ pageCap 0x5FFF with tag := false }, 0x10000, Cause.capTag), ({ pageCap 0x5FFF with colour := 9 }, 0x10000, Cause.capRevoked),
      ({ pageCap 0x5FFF with otype := 5 }, 0x10000, Cause.capSealed), (pageCap 0, 0x10000, Cause.capPerm), (pageCap 0xDFFF, 0x10000, Cause.capPerm),
      (pageCap 0x5FFF, 0x1FFFC, Cause.capBounds), (pageCap 0x5FFF, 0x10004, Cause.align)],
      FirstOf ((Acc.load row.1 row.2.1 8).tests sRevoked.who) row.2.2 ∧ FirstOf ((Acc.store row.1 row.2.1 8).tests sRevoked.who) row.2.2) ∧
    NoneOf ((Acc.load (mkCap 0x5FFF 0 0 0x30000 0x20000) 0x20000 8).tests s1.who) ∧
    s1.reach s1.who (.load (mkCap 0x5FFF 0 0 0x30000 0x20000) 0x20000 8) = .error Cause.transInvalid := by
  refine ⟨?_, ?_, by decide +kernel⟩
  · intro row h
    simp only [List.mem_cons, List.not_mem_nil, or_false] at h
    rcases h with rfl | rfl | rfl | rfl | rfl | rfl | rfl <;>
      (simp only [FirstOf, Acc.tests, authTests, Acc.Outside, List.cons_append, List.nil_append]; decide +kernel)
  · simp only [NoneOf, Acc.tests, authTests, Acc.Outside, List.cons_append, List.nil_append, List.forall_mem_cons, List.not_mem_nil, false_implies, implies_true, and_true]
    decide +kernel
/-- The page's TLB entry with this one for its word; a range of the page locked. -/
def sLeaf (bits : Word) : State := s1.modCluster 0 fun c => { c with tlb := c.tlb.map fun t => { t with pte := t.pte ^^^ bits }, locks := [⟨9, [⟨0x10000, 16⟩], true⟩] }
def leafAcc : Acc := .load (pageCap 0x5FFF) 0x10000 8
theorem witness_leaf_tests : (∀ p ∈ [(4#64, Cause.permRead), (0x40, Cause.permPriv), (0, Cause.rangeLock)], ∃ t, ((sLeaf p.1).cluster 0).tlbHit 1 0x10000 = some t ∧
      t.size ≤ 30 ∧ t.pte.getLsbD 58 = false ∧ bitsOf t.pte.toNat 51 8 * 256 + 0x10000 % 2 ^ t.size = 0x10000 ∧
      FirstOf (leafTests false Need.read t.pte ++ [(sLeaf p.1).lockTest (sLeaf p.1).who leafAcc 0x10000]) p.2) ∧
    (sLeaf 0).who.svc = false ∧ (sLeaf 0).who.priv = false := by
  refine ⟨?_, by decide +kernel⟩
  intro p h
  simp only [List.mem_cons, List.not_mem_nil, or_false] at h
  rcases h with rfl | rfl | rfl <;> refine ⟨_, rfl, by decide +kernel, by decide +kernel, by decide +kernel, ?_⟩ <;>
    (simp only [FirstOf, leafTests, State.lockTest, List.cons_append, List.nil_append]; decide +kernel)

/-- R55, R70: of four elements the second is out of bounds and the last misaligned: the group stops with CAP_BOUNDS for the second alone. -/
def someElems : List LaneAcc := [(0, 0x10000), (1, 0x1FFFE), (2, 0x10008), (3, 0x10002)].map fun p => LaneAcc.plain p.1 (.load (pageCap 0x5FFF) p.2 4)
theorem elemFirst {s : State} {k : Nat} {e : LaneAcc} {c : BitVec 8} (h : FirstOf (e.tests (s.whoGroup k)) c) : s.elemCause k e c := .inl h
theorem elemNone {s : State} {k : Nat} {e : LaneAcc} (h : NoneOf (e.tests (s.whoGroup k))) (r : ∃ p, s.reach (s.whoGroup k) e.acc = .ok p) (c : BitVec 8) : ¬ s.elemCause k e c := by
  rintro (g | ⟨_, g⟩)
  · exact firstOf_some g h
  · obtain ⟨p, hp⟩ := r
    exact absurd (hp.symm.trans g) (by simp)
theorem witness_lane_refused : let s := sLane 2 4
    ∃ x ∈ someElems, x.k = 1 ∧ s.elemCause 0 x Cause.capBounds ∧ (∀ y ∈ someElems, ∀ c', s.elemCause 0 y c' → causeOrder.idxOf Cause.capBounds ≤ causeOrder.idxOf c') ∧
      ∀ y ∈ someElems, s.elemCause 0 y Cause.capBounds → x.k ≤ y.k := by
  have none0 : ∀ y ∈ [LaneAcc.plain 0 (.load (pageCap 0x5FFF) 0x10000 4), .plain 2 (.load (pageCap 0x5FFF) 0x10008 4)], ∀ c, ¬ (sLane 2 4).elemCause 0 y c := by
    intro y h
    simp only [List.mem_cons, List.not_mem_nil, or_false] at h
    rcases h with rfl | rfl <;> refine elemNone ?_ (isOk _ (by decide +kernel)) <;>
      (simp only [NoneOf, LaneAcc.tests, LaneAcc.plain, authTests, Acc.Outside, List.cons_append, List.nil_append, List.forall_mem_cons, List.not_mem_nil, false_implies,
        implies_true, and_true]
       decide +kernel)
  have b1 : (sLane 2 4).elemCause 0 (.plain 1 (.load (pageCap 0x5FFF) 0x1FFFE 4)) Cause.capBounds := elemFirst (by
    simp only [FirstOf, LaneAcc.tests, LaneAcc.plain, authTests, Acc.Outside, List.cons_append, List.nil_append]; decide +kernel)
  have b3 : (sLane 2 4).elemCause 0 (.plain 3 (.load (pageCap 0x5FFF) 0x10002 4)) Cause.align := elemFirst (by
    simp only [FirstOf, LaneAcc.tests, LaneAcc.plain, authTests, Acc.Outside, List.cons_append, List.nil_append]; decide +kernel)
  refine ⟨_, List.mem_cons_of_mem _ (List.mem_cons_self ..), rfl, b1, ?_, ?_⟩
  · intro y h c' g
    simp only [someElems, List.map_cons, List.map_nil, List.mem_cons, List.not_mem_nil, or_false] at h
    rcases h with rfl | rfl | rfl | rfl
    · exact absurd g (none0 _ (by simp) _)
    · rw [← elemCause_unique b1 g]
    · exact absurd g (none0 _ (by simp) _)
    · rw [← elemCause_unique b3 g]; decide
  · intro y h g
    simp only [someElems, List.map_cons, List.map_nil, List.mem_cons, List.not_mem_nil, or_false] at h
    rcases h with rfl | rfl | rfl | rfl
    · exact absurd g (none0 _ (by simp) _)
    · exact Nat.le_refl _
    · exact absurd g (none0 _ (by simp) _)
    · exact absurd (elemCause_unique b3 g) (by decide)
theorem witness_lane_unlawful : let v := laneView 2 3
    (sLane 2 3).cur = .group v.slot ∧ (sLane 2 3).group v.slot = some v.g ∧ v.g.lane.queue.head? = some v.run ∧
    (∀ i ∈ [Instr.vld all unordered 8 ⟨5, true⟩ 4 2, .vst all unordered 8 ⟨62, true⟩ 4 2, .vatom all 0 0 8 16 24 32 ⟨6, true⟩ false, .vlrc all 8 16 24 32 ⟨7, true⟩ 3 false],
      (laneUses i v.t).legal v.t v.g.vbud v.g.sbud = false) := ⟨rfl, rfl, rfl, by decide +kernel⟩

/-- c6 names port 9 of cluster 3 of package 1, to which so many requests are not acknowledged. -/
def sFar (n : Nat) : State :=
  { (sNet.modHart fun h => { h with c := h.c.set 6 { mkCap 0x1000 0 0 (2 ^ 31) 0x41030009 with tag := true } }) with
    edge := { sNet.edge with wlSent := List.replicate n ⟨1, 7, 3, 0, 0, 1, .read 8⟩ } }
theorem witness_remote_sends : ∀ n ∈ [1, 63, 64], let s := sFar n
    s.Present ∧ s.Ready [4, 5] [6] ∧ NoneOf ((⟨s.c 6, [Perm.message], (s.c 6).cursor.toNat, 1, 1, [], false, false⟩ : Acc).tests s.who) ∧ s.portOk (s.c 6).cursor.toNat = true ∧
    s.released = true ∧ (s.c 6).cursor.getLsbD 30 = true ∧ bitsOf (s.c 6).cursor.toNat 29 24 = 1 ∧ (s.wlRoom 1 = true ↔ n ≠ 64) ∧
    s.portOk 0x41C00009 = false := by
  intro n h
  simp only [NoneOf, Acc.tests, authTests, Acc.Outside, List.cons_append, List.nil_append, List.forall_mem_cons, List.not_mem_nil, false_implies, implies_true, and_true]
  simp only [List.mem_cons, List.not_mem_nil, or_false] at h
  refine ⟨present _ 0 (gOf (sFar n)) ⟨rfl, rfl⟩, ?_⟩
  rcases h with rfl | rfl | rfl <;> (unfold State.Ready; decide +kernel)
/-- Requests for which the links have room, or have not; a byte that an error has hit. -/
theorem witness_rooms : (sFar 0).wlRoomFor (List.replicate 65 (2 ^ 56 + 2 ^ 52 + 0x10000)) = true ∧ (sFar 1).wlRoomFor (List.replicate 65 (2 ^ 56 + 2 ^ 52 + 0x10000)) = false ∧
    (sFar 64).wlReady (2 ^ 56 + 2 ^ 52) = false ∧ (sFar 64).objectRoom (2 ^ 56 + 2 ^ 52 + 0x10000) = false ∧
    { s1 with damaged := [0x10003] }.segsSpoilt [⟨0x10000, 12⟩] = true ∧ { s1 with damaged := [0x10003] }.spoilt 0x10000 4 = true ∧
    s1.segsSpoilt [⟨0x10000, 12⟩] = false := by decide +kernel

/-! ### Matrix heads and roundings -/

/-- A head of kind `.st` of one row, and a decrypting `mxlds`, under way or not, with key slot 0 in this state. -/
def sStHead : State := s1.modCore 0 0 fun c => { c with mq := [⟨9, 0, 0, 1, .st 0 0, false, 0x40040000, .null, ⟨[⟨0x20000, 1024⟩], none, 0x20000⟩, true, 0, 0, 0, 0⟩] }
theorem witness_store_head : sStHead.Canonical ∧ ∃ o, sStHead.mxHead 0 0 = some (o, [0]) ∧ sStHead.heldOp o = false ∧ o.started = true ∧ o.src.segs = [⟨0x20000, 1024⟩] ∧
    o.kind = .st 0 0 ∧ mxRows o.desc = 1 ∧ mxCol o.desc = 0 ∧ bitsOf o.desc.toNat 51 20 = 1024 ∧ o.desc.getLsbD 18 = true ∧
    ∀ j < 1024, tagByte (0x20000 + j) = none ∧ sStHead.regOf (0x20000 + j) = none ∧ worldByte (0x20000 + j) = none ∧ ¬ (accKey 0 0 ≤ 0x20000 + j) :=
  ⟨by unfold State.Canonical Rising; decide +kernel, _, rfl, by decide +kernel⟩
def sDecrypt (started : Bool) (k : KeySlot) : State := { sMx (.lds 1) 0x40 started with keys := s1.keys.set 0 k }
theorem witness_decrypting : ∀ p ∈ [(false, heldKey), (false, { heldKey with uses := 2 }), (false, { heldKey with cur := none }), (true, { heldKey with gen := 0, cur := some ⟨0, [], 1, 2⟩, prev := none })],
    (sDecrypt p.1 p.2).Canonical ∧ (∃ o, (sDecrypt p.1 p.2).mxHead 0 0 = some (o, [0]) ∧ o.desc.getLsbD 6 = true ∧ o.started = p.1 ∧ o.keyGen = 0 ∧ (sDecrypt p.1 p.2).lockClear o.id = true) ∧
    (p = (false, heldKey) → p.2.cur = some ⟨1, [], 1, 2⟩ ∧ p.2.state = 2 ∧ p.2.uses < 2) := by
  intro p h
  simp only [List.mem_cons, List.not_mem_nil, or_false] at h
  rcases h with rfl | rfl | rfl | rfl <;> exact ⟨by unfold State.Canonical Rising; decide +kernel, ⟨_, rfl, by decide +kernel⟩, by decide +kernel⟩
/-- An operation that waits for an install, in a forced save. -/
theorem witness_key_waits : s1.keyWaits ⟨9, 0, 0, 1, .lds 1, true, 0x41, .null, ⟨[], none, 0⟩, false, 0, 0, 0, 0⟩ = true := by decide +kernel
/-- R113: 1 lies between 2^0 and 2^1, and is its own rounding. -/
theorem witness_rounding : (1 : ℝ) ≠ 0 ∧ (2 : ℝ) ^ ((-23 : ℤ) + Fmt.f32.fbits) ≤ |1| ∧ |(1 : ℝ)| < 2 ^ ((-23 : ℤ) + Fmt.f32.fbits + 1) ∧ RoundsTo 0 (-23) 1 1 ∧
    RoundsTo 0 (max (-23) (1 - Fmt.f32.bias - Fmt.f32.fbits)) 1 1 := by
  have r : RoundsTo 0 (-23) 1 1 := ⟨2 ^ 23, by norm_num, by norm_num⟩
  have e : max (-23 : ℤ) (1 - Fmt.f32.bias - Fmt.f32.fbits) = -23 := by decide
  refine ⟨one_ne_zero, ?_, ?_, r, e ▸ r⟩
  · have : (-23 : ℤ) + Fmt.f32.fbits = 0 := by decide
    rw [this]; norm_num
  · have : (-23 : ℤ) + Fmt.f32.fbits + 1 = 1 := by decide
    rw [this]; norm_num
/-- R122: the terms of D with a NaN, and with only finite factors. -/
theorem witness_products : (∃ f ∈ mxFactors 3 [0xC0, 0x7F] 0 1 [] 0 0, f.isNan = true) ∧
    ∀ k < 64, ∀ f ∈ mxFactors 3 [] 0 1 [] 0 k, f.isNan = false ∧ f ≠ .inf true ∧ f ≠ .inf false := by decide +kernel
/-- An infinite band scale and elements and scales that are no zeros. -/
theorem bytesAt_replicate (n off k : Nat) (h : off + k ≤ n) : bytesAt (List.replicate n 0x22) off k = leNat (List.replicate k 0x22) := by
  simp only [bytesAt, List.drop_replicate, List.take_replicate]
  congr 2
  omega
theorem notZero (x : Fp) (h : (match x with | .fin _ m _ => m != 0 | _ => true) = true) : ¬ x.IsZero := by
  rintro ⟨s, e, rfl⟩; simp at h
theorem witness_infinite_products : ∀ k < 64, let F := mxFactors 0 (List.replicate 40 0x22 ++ [0x80, 0x7F]) 0 1 (List.replicate 10248 0x22) 0 k
    Fp.inf false ∈ F ∧ ∀ f ∈ F, f.isNan = false ∧ ¬ f.IsZero ∧ f.negative = false := by
  intro k hk
  have a : ∀ k < 64, lineElem (List.replicate 40 0x22 ++ [0x80, 0x7F]) 0 0 k = 2 ∧ bytesAt (List.replicate 40 0x22 ++ [0x80, 0x7F]) (32 + k / 8) 1 = 0x22 := by decide +kernel
  have b : lineElem (List.replicate 10248 0x22) 0 0 k = 2 := by
    show bytesAt (List.replicate 10248 0x22) (0 + k / 2) 1 / 16 ^ (k % 2) % 16 = 2
    rw [bytesAt_replicate _ _ _ (by omega)]
    rcases Nat.mod_two_eq_zero_or_one k with h | h <;> rw [h] <;> decide
  have c : bytesAt (List.replicate 10248 0x22) (256 * 32 + 8 * 0 + k / 8) 1 = 0x22 := (bytesAt_replicate _ _ _ (by omega)).trans (by decide)
  have d : bytesAt (List.replicate 10248 0x22) (256 * 32 + 2048 + 2 * (0 / 64)) 2 = 0x2222 := (bytesAt_replicate _ _ _ (by omega)).trans (by decide)
  have F : mxFactors 0 (List.replicate 40 0x22 ++ [0x80, 0x7F]) 0 1 (List.replicate 10248 0x22) 0 k =
      [Fmt.e2m1.decode 2, Fmt.e2m1.decode 2, Fmt.e3m5.decode 0x22, Fmt.e3m5.decode 0x22, Fmt.bf16.decode 0x7F80, Fmt.bf16.decode 0x2222] := by
    unfold mxFactors
    simp only [show mxLine 0 = 32 from rfl, show mxFmt 0 = .e2m1 from rfl, Nat.zero_mul, Nat.zero_add, (a k hk).1, (a k hk).2, b]
    rw [c, d]
    rfl
  rw [F]
  have G : ∀ f ∈ [Fmt.e2m1.decode 2, Fmt.e2m1.decode 2, Fmt.e3m5.decode 0x22, Fmt.e3m5.decode 0x22, Fmt.bf16.decode 0x7F80, Fmt.bf16.decode 0x2222],
      f.isNan = false ∧ (match f with | .fin _ m _ => m != 0 | _ => true) = true ∧ f.negative = false := by decide +kernel
  exact ⟨by decide +kernel, fun f hf => ⟨(G f hf).1, notZero f (G f hf).2.1, (G f hf).2.2⟩⟩

/-- A page being moved: the one at `p`, by cluster 3. -/
def movingAt (s : State) (p : Nat) : State := s.modCluster 3 fun c => { c with svc := { c.svc with mig := ⟨0, 0x700000, p, 0x700000, 0, true, true, false⟩ } }
/-- What waits for a page that is being moved: a trap record, a message's buffer, the image of a save, a dump, a directory's record; a call and its answer. -/
theorem witness_moving_pages : (movingAt (kWith 0x10000 .trapped) 0).moving ((kWith 0x10000 .trapped).trapRecord 0) 0x1000 = true ∧
    (movingAt (sTrap 32 1) 0).trapHeld 0 = true ∧ (sTrap 32 1).trapHeld 0 = false ∧
    (movingAt (sPort ⟨[⟨0, false, 8, 0x10000⟩, ⟨1, true, 0, 0x10010⟩], []⟩) 0x10000).writeWaits 0x10010 16 = true ∧
    (sPort ⟨[⟨0, false, 8, 0x10000⟩, ⟨1, true, 0, 0x10010⟩], []⟩).writeWaits 0x10010 16 = false ∧
    (movingAt (sSave true 0) 0x20000).moving 0x20000 ((sSave true 0).imageSize 0 (sSave true 0 |>.team 0 |>.getD .bare)) = true ∧
    (let s := movingAt (sDump.storeNat (sDump.ctxWord 1 0x60) 8 0x1000) 0
     s.moving (s.readNat (s.ctxWord 1 0x58) 8 % 2 ^ 52) (s.readNat (s.ctxWord 1 0x60) 8) = true) ∧
    sDump.moving (sDump.readNat (sDump.ctxWord 1 0x58) 8 % 2 ^ 52) (sDump.readNat (sDump.ctxWord 1 0x60) 8) = false ∧
    (movingAt (sCall 0x30 [0]) 0).moving (callIn (sCall 0x30 [0]) 0x30).at0 0x1000 = true ∧ ((movingAt (sCall 0x30 [0]) 0).callAt 0 0 0x30).isSome = true := by decide +kernel

/-- Two elements of one address, exchanged or merged; two invocations of one line by a routine that adds. -/
def sAtoms (op : Nat) : State := onHart fun h => h.holding (opOf 7 true [.s 5, .s 6] [⟨0x10000, op, [⟨1, 0, .s 5 true⟩, ⟨2, 1, .s 6 true⟩]⟩] [] false)
theorem witness_gathered : (∀ op ∈ [8, 10, 0, 4, 0x14], ∃ p r, ((sAtoms op).hartOf (.group 0)).op 7 = some p ∧ p.atoms[0]? = some r ∧ r.op = op ∧ r.elems = [⟨1, 0, .s 5 true⟩, ⟨2, 1, .s 6 true⟩] ∧
      (sAtoms op).migrating r.key = false ∧ (sAtoms op).spoilt r.key 8 = false ∧ (sAtoms op).Canonical ∧ r.key + 8 ≤ Config.remoteKey ∧
      ∀ i < 8, tagByte (r.key + i) = none ∧ (sAtoms op).regOf (r.key + i) = none ∧ worldByte (r.key + i) = none) ∧
    (∀ op ∈ [8, 10], op ∈ atomicWords.map (·.1)) ∧ ∀ op ∈ [0, 4, 0x14], op ∈ mergedWords.map (·.1) := by
  refine ⟨?_, by decide +kernel, by decide +kernel⟩
  intro op h
  simp only [List.mem_cons, List.not_mem_nil, or_false] at h
  rcases h with rfl | rfl | rfl | rfl | rfl <;>
      exact ⟨_, _, rfl, rfl, rfl, rfl, by decide +kernel, by decide +kernel, by unfold State.Canonical Rising; decide +kernel, by decide +kernel, by decide +kernel⟩
noncomputable def sLines : State :=
  { onHart fun h => h.holding { opOf 7 true [.v 8] [] [] false with
      lines := [⟨0x10000, 2, [⟨0, 0x10000, 1, 2, .v 8 0 64, .v 9 0 64⟩, ⟨1, 0x10000, 3, 4, .v 8 64 64, .v 9 64 64⟩]⟩] } with
    tables := [(homeSlice 0x10000, [⟨1, 2, true, [BitVec.ofNat 32 (leNat ((encode (.routineAdd 0 16 17)).getD [])), BitVec.ofNat 32 (leNat ((encode .routineRet).getD []))]⟩])] }
theorem witness_invocations_of_a_line : sLines.Canonical ∧ (∃ p r, (sLines.hartOf (.group 0)).op 7 = some p ∧ p.lines[0]? = some r ∧ r.elems.length = 2 ∧ sLines.migrating r.key = false ∧
      sLines.spoilt r.key 128 = false ∧ r.key % 128 = 0 ∧ ∀ i < 128, tagByte (r.key + i) = none ∧ sLines.regOf (r.key + i) = none ∧ worldByte (r.key + i) = none) ∧
    ((sLines.lookupRoutine (homeSlice 0x10000) 1 2).map fun e => e.1.legal) = some true :=
  ⟨by unfold State.Canonical Rising; decide +kernel, ⟨_, _, rfl, rfl, by decide +kernel⟩, by decide +kernel⟩

/-- Three active elements of bin 0 at a Basket that holds `n` of it; a Basket full of bin 1 after one entry of bin 0, with bins 0 and 1 registered, and spill areas or none. -/
def sFills (n : Nat) : State := ((sBasket n).modGroup 0 fun g => { g with lane := { g.lane with vl := 3 } })
def sFullBasket (d : List Byte) : State :=
  ((sLane 2 1).modCtx 1 fun c => { c with bins := [⟨0, 2, 0, 0, [], [], d, [false, false, false, true], [], []⟩] }).modCluster 0 fun c =>
    { c with basket := { c.basket with entries := ⟨1, 0, 0, 1⟩ :: List.replicate 4095 ⟨1, 1, 0, 2⟩ } }
theorem witness_fills : ∀ n ∈ [12, 14, 15], let v : View := ⟨0, gOf (sFills n), laneRun⟩
    legal v (.vbasket ⟨true, 0, false⟩ 16 24) = true ∧ v.g.hart.performed = true ∧ v.l.actives ⟨true, 0, false⟩ = [0, 1, 2] ∧ (∀ j < 3, BitVec.ofNat 16 (v.a 16 32 j) = 0) ∧
    ((sFills n).binReg 1 0).isSome = true ∧ (((sFills n).cluster 0).basket.held 1 0).length = n := by decide +kernel
theorem witness_full_basket : (let s := sFullBasket spillDesc
      let v : View := ⟨0, gOf s, laneRun⟩
      legal v (.vbasket ⟨true, 0, false⟩ 16 24) = true ∧ v.g.hart.performed = true ∧ v.l.actives ⟨true, 0, false⟩ = [0] ∧ (s.cluster 0).basket.entries.length = 4096 ∧
      (s.cluster 0).basket.entries.head? = some ⟨1, 0, 0, 1⟩ ∧ (s.binReg 1 0).isSome = true ∧ (s.cluster 0).basket.held 1 0 = [⟨1, 0, 0, 1⟩] ∧
      (s.spillOne 0 ⟨1, 0, 0, 1⟩).isSome = true) ∧ ((sFullBasket []).spillOne 0 ⟨1, 0, 0, 1⟩).isNone = true := by decide +kernel

/-- A group that owes a stop; a group whose team's save has begun; a save of the dispatcher whose group has trapped; a team whose retired group left blocks to its heir. -/
theorem witness_saves_begun : (gOf (onGroup fun g => { g with life := .parked (.bar 0), owed := some (Cause.capTag, 0x10000, 1) })).owed = some (Cause.capTag, 0x10000, 1) ∧
    (sSave true 0).mayIssue (gOf (sSave true 0)) = false ∧ s1.mayIssue (gOf s1) = true ∧
    (let s := ((sSave false 0).modTeam 0 fun t => { t with save := t.save.map fun q => { q with byDisp := true } }).modGroup 0 fun g => { g with life := .trapped }
     ∃ tm q, s.team 0 = some tm ∧ tm.save = some q ∧ q.byDisp = true ∧ q.started = false ∧ ∃ p ∈ s.teamGroups 0, p.2.life = .trapped) ∧
    (let s := (sExit 1 none none).modTeam 0 fun t => { t with held := [⟨33, 8, 8, [2]⟩] }
     ∃ tm, s.team 0 = some tm ∧ tm.held = [⟨33, 8, 8, [2]⟩] ∧ tm.heir = none) := by
  refine ⟨by decide +kernel, by decide +kernel, by decide +kernel, ⟨_, _, rfl, rfl, by decide +kernel, by decide +kernel, ?_⟩, _, rfl, rfl, by decide +kernel⟩
  exact ⟨_, .head _, by decide +kernel⟩
/-- A graph of a context of world 3 in a page of world 4, and of world 3. -/
theorem witness_headers : let s := fun (w : BitVec 8) => ({ (sWalk [1, 0] [0, 1] (openQueue 0)).modCtx 1 fun c => { c with world := 3 } with worlds := [(1, w)] } : State)
    (s 4).headerMay 1 0x10000 = false ∧ (s 3).headerMay 1 0x10000 = true := by decide +kernel
/-- The first in the order of arrival of the requests to change worlds; a context whose group has faulted. -/
theorem witness_orders : ({ sWorld 2 7 with fleet := { s1.fleet with worldq := [0, 5] } }).fleet.worldq = 0 :: [5] ∧
    (let s := sCtl 1 1 .live |>.modGroup 0 fun g => { g with life := .stopped, hart := { g.hart with cause := 0x10, faddr := 6 } }
     ∀ p ∈ s.groups, p.1 = 0 ∧ p.2.ctx = 1 ∧ p.2.life = .stopped ∧ ∀ e ∈ [Cause.breakpoint, Cause.step, Cause.msgOverflow], p.2.hart.cause.setWidth 8 ≠ e) := by decide +kernel

/-- A challenge at its second step, one over its time, and one at an exhausted package. -/
theorem witness_challenge_steps : let s := { sChal [aChallenge] [] 0 with attest := { (sChal [aChallenge] [] 0).attest with signing := some 5, index := 6 } }
    s.attest.signing = some 5 ∧ s.attest.chals = aChallenge :: [] ∧ aChallenge.since = some (0, 0) ∧ aChallenge.cluster < 192 ∧
    ({ s1.attest with index := 2 ^ 20 } : Attest).index ≥ 2 ^ 20 ∧ s1.stalled = [] ∧ s1.attest.signing = none ∧
    aChallenge.addr = some 0x20000 ∧ ({ aChallenge with addr := none } : Challenge).addr = none ∧
    physAddr aChallenge.resp + 0 ≤ Config.windowKey ∧ ∀ j < 8, tagByte (physAddr 0x20000 + 56 + j) = none ∧ worldByte (physAddr 0x20000 + 56 + j) = none := by decide +kernel
/-- A byte that an error has hit, which the host asks for; a port at whose admin queue a command is outstanding; a damaged datagram, one over the MTU, and
    a launch frame. -/
theorem witness_ports : (let s := { sNet with damaged := [0x20008] }
      ∃ k ∈ (List.range 8).map fun i => mapGetD s.edge.bar2 ((8 + i) / 65536) 0 * 65536 + (8 + i) % 65536, k ∈ s.damaged) ∧
    (({ s1.io with admin := [5] } : Io).admin = [5] ∧ 48 = 5 % 4 * 48) ∧ s1.io.admin = [] ∧ 9020 - 20 - 8 < (List.replicate 8993 (0 : Byte)).length ∧
    9020 - 40 - 8 < (List.replicate 8973 (0 : Byte)).length ∧ launchBytes.length = 17 := by
  refine ⟨⟨0x20008, by decide +kernel, by decide +kernel⟩, ⟨rfl, rfl⟩, by decide +kernel, by rw [List.length_replicate]; decide, by rw [List.length_replicate]; decide, by decide +kernel⟩
/-- The link between dies that has failed eight times in a row. -/
theorem witness_ninth_failure : let s := { s1 with fleet := { s1.fleet with linkRetry := [(2 ^ 16 * 1 + 2, 8)] } }
    (2 ^ 16 * 1 + 2 : Nat) ∉ s.fleet.linksDown ∧ 8 < mapGetD s.fleet.linkRetry (2 ^ 16 * 1 + 2) 0 + 1 := by decide +kernel
/-- Addresses of the stores of a cluster: a way that the team holds and one that none does, a register of the group's and one of none, an accumulator, a plane; pages of the
    service kernel, of a context and of the firmware. -/
theorem witness_errors : (∀ x ∈ [0, 0x80000, 0x200000, 0x210000, 0x280000, 0xA00000], winOf (BitVec.ofNat 64 (Config.windowKey + x)).toNat = some x ∧ s1.reader none (Config.windowKey + x) = none) ∧
    (s1.fileOwner 0 0 0).isSome = true ∧ (s1.fileOwner 0 0 255).isNone = true ∧
    (∃ p ∈ (sMatrix 0).teams, p.2.cluster = 0 ∧ p.2.way0 ≤ 0 ∧ 0 < p.2.way0 + p.2.ways) ∧ (∀ p ∈ s1.teams, ¬ (p.2.cluster = 5)) ∧
    s1.kernelData 0x20000 = true ∧ s1.reader none 0x20000 = none ∧ s1.pageWorld 0x20000 = some 0 ∧ ({ s1 with worlds := [(2, 255)] }).pageWorld 0x20000 = some 255 ∧
    mapGetD ({ s1.fleet with errors := [(2, 15)] } : Fleet).errors 2 0 + 1 = 16 := by
  refine ⟨by decide +kernel, by decide +kernel, by decide +kernel, ⟨_, .head _, by decide +kernel⟩, by decide +kernel⟩
/-- A page that a context's tables map, which nothing reads. -/
theorem witness_context_page : ∃ s0, (sCall 1 [16, 0x200]).mapRegion 1 0x10000 (exactLen 16) [0x400000, 0x410000, 0x420000, 0x430000, 0x440000] = some s0 ∧
    s0.kernelData 0x440004 = false ∧ s0.reader none 0x440004 = none ∧ s0.pageWorld 0x440004 = some 0 := ⟨_, rfl, by decide +kernel⟩
/-- An answer of the same sender that the shard has not read. -/
theorem witness_unread : let m : Msg := ⟨0xFF03, 3 + 2 ^ 64 * (1 + 2 ^ 63)⟩
    let s := s1.modCluster 0 fun c => { c with kport := ⟨[], [m]⟩ }
    (s.cluster 0).kport.queue = [m] ∧ m.record % 256 ∉ [2, 4, 6, 8] ∧ m.record / 2 ^ 64 % 2 ^ 16 = 1 := by decide +kernel
/-- A create whose object is made and that waits for its name's acknowledgements, or has them; ranges never written; the queue at a drive with no room for the commands of an
    emptied object. -/
theorem witness_creates : (let s := sCall 0x10 [0, 1, 7, 0x200]
      let s := { s with io := { s.io with jobs := [⟨0, 0, 0x10, [0x10], 0, 0, .sent, 0, some (0, ⟨[1], 0, [], 0, [], []⟩), some (0x20000, 1, 0)⟩] } }
      ∃ j, s.jobOf (callIn s 0x10) = some j ∧ j.write = some (0, ⟨[1], 0, [], 0, [], []⟩) ∧ j.place = some (0x20000, 1, 0) ∧ s.moving 0x20000 16 = false) ∧
    (Object.writtenParts ⟨[1], 0, [5, 6, 7, 8], 0, [⟨0, 0, 0, 0x10000⟩], [(2, 2)]⟩ 0 4 = [(⟨0, 0, 0, 0x10000⟩, 2, 2)] ∧ gapParts [(2, 2)] 0 4 = [(0, 2)]) ∧
    ({ s1.io with cmds := List.replicate 256 (nvmeCmd 0 .flush ⟨0, 0, 0, 0⟩ 0 1 [] [] none) } : Io).queueRoom 0 ((anObject [⟨0, 0, 0, 0x10000⟩]).backCmds 0) = false ∧
    s1.io.queueRoom 0 ((anObject [⟨0, 0, 0, 0x10000⟩]).backCmds 0) = true := ⟨⟨_, rfl, by decide +kernel⟩, by decide +kernel⟩
/-- A fetch that finds a damaged word. -/
theorem witness_fetch_waits : let s := { s1 with damaged := [0x10002] }
    (match s.fetch with | .ok (k, _) => k == 0x10000 && s.spoilt k 4 | .error _ => false) = true := by decide +kernel

/-! ### Steps -/

/-- What a step fetches and who takes the turn. -/
theorem witness_scalar_step : let s := State.reset.withFetchWord 32 0x04310500
    s.boot.phase ≠ 0 ∧ s.nextTurn.1 = ⟨0, .scalar 0⟩ ∧ s.mayIssue (gOf s) = true ∧ (gOf s).stepping = ⟨0, false, 0, 0, none⟩ ∧ s.scalarTurn 0 = true ∧
    (match s.fetch with | .ok (k, none) => s.readNat k 4 == 0x04310500 | _ => false) = true := by decide +kernel
theorem witness_lane_step : let s := State.reset.withFetchWord 96 (2 ^ 95)
    s.nextTurn.1 = ⟨0, .lane 0⟩ ∧ s.mayIssue (gOf s) = true ∧ ((s.cluster 0).core 0).holder = some 0 ∧ (gOf s).hart.pend = [] ∧ (gOf s).lane.queue.length = 1 := by decide +kernel
theorem witness_service_step : let s := State.reset.withFetchWord 32 0xF0000000
    (s.cluster 0).svc.released = true ∧ s.nextTurn.1.cycles = 0 := by decide +kernel

end Sys2Proof.Tests
end

section
/-! SUPPORT. Numbers as bytes and as sets of bits; fields of vector registers read after writes. -/
namespace Sys2Proof.Machine
open Sys2Proof

/-! ### Numbers as bytes and as sets of bits -/

theorem leNat_lt (bs : List Byte) : leNat bs < 256 ^ bs.length := by
  induction bs with
  | nil => simp [leNat]
  | cons b bs ih =>
    have hb := b.isLt
    simp only [leNat, List.length_cons, Nat.pow_succ]
    omega

@[simp] theorem length_leBytes (n x : Nat) : (leBytes n x).length = n := by
  induction n generalizing x with
  | zero => rfl
  | succ n ih => simp [leBytes, ih]

@[simp] theorem leNat_leBytes (n x : Nat) : leNat (leBytes n x) = x % 256 ^ n := by
  induction n generalizing x with
  | zero => simp [leBytes, leNat, Nat.mod_one]
  | succ n ih =>
    have h : x % 256 ^ (n + 1) = x % 256 + 256 * (x / 256 % 256 ^ n) := by rw [Nat.pow_succ']; exact Nat.mod_mul
    rw [leBytes, leNat, ih, BitVec.toNat_ofNat, h]

theorem State.readNat_lt (s : State) (k n : Nat) : s.readNat k n < 256 ^ n := by
  simpa [State.readNat, State.readKeys] using leNat_lt (s.readKeys k n)

/-- A sum of distinct powers of two has exactly their bits. -/
theorem testBit_sum_pow (p : Nat → Bool) (n : Nat) :
    (((List.range n).filter p).map fun i => 2 ^ i).sum < 2 ^ n ∧
    ∀ j, (((List.range n).filter p).map fun i => 2 ^ i).sum.testBit j = (decide (j < n) && p j) := by
  induction n with
  | zero => simp
  | succ n ih =>
    obtain ⟨hlt, hbit⟩ := ih
    rw [List.range_succ, List.filter_append, List.map_append, List.sum_append]
    by_cases hp : p n
    · simp only [List.filter_cons, hp, if_true, List.filter_nil, List.map_cons, List.map_nil, List.sum_cons, List.sum_nil, Nat.add_zero]
      refine ⟨by rw [Nat.pow_succ]; omega, fun j => ?_⟩
      have hor := Nat.two_pow_add_eq_or_of_lt hlt 1
      rw [Nat.mul_one] at hor
      rw [Nat.add_comm, hor, Nat.testBit_or, hbit, Nat.testBit_two_pow]
      by_cases hj : n = j
      · subst hj; simp [hp]
      · simp [hj, show j < n + 1 ↔ j < n by omega]
    · simp only [List.filter_cons, hp, Bool.false_eq_true, if_false, List.filter_nil, List.map_nil, List.sum_nil, Nat.add_zero]
      refine ⟨by rw [Nat.pow_succ]; omega, fun j => ?_⟩
      rw [hbit]
      by_cases hj : n = j
      · subst hj; simp [hp]
      · simp [show j < n + 1 ↔ j < n by omega]

theorem bitsOf_eq (x hi lo : Nat) : bitsOf x hi lo = x / 2 ^ lo % 2 ^ (hi + 1 - lo) := by rw [bitsOf, Nat.shiftRight_eq_div_pow]

/-! ### Elements of vector registers -/

/-- What a field reads after a write to the same place. -/
theorem VReg.read_write_same (v : VReg) (b w x : Nat) (h : b + w ≤ 2048) : (v.write b w x).read b w = x % 2 ^ w := by
  apply Nat.eq_of_testBit_eq; intro i
  simp only [VReg.read, VReg.write, Nat.testBit_mod_two_pow, Nat.testBit_shiftRight, BitVec.testBit_toNat, BitVec.getLsbD_or, BitVec.getLsbD_and,
    BitVec.getLsbD_not, BitVec.getLsbD_ofNat, Nat.testBit_mul_two_pow, Nat.testBit_two_pow_sub_one]
  by_cases hi : i < w
  · simp [hi, show b + i < 2048 by omega]
  · simp [hi]

/-- A write leaves fields that share no bit with it alone. -/
theorem VReg.read_write_apart (v : VReg) (b w x b' w' : Nat) (h : b + w ≤ b' ∨ b' + w' ≤ b) : (v.write b w x).read b' w' = v.read b' w' := by
  apply Nat.eq_of_testBit_eq; intro i
  simp only [VReg.read, VReg.write, Nat.testBit_mod_two_pow, Nat.testBit_shiftRight, BitVec.testBit_toNat, BitVec.getLsbD_or, BitVec.getLsbD_and,
    BitVec.getLsbD_not, BitVec.getLsbD_ofNat, Nat.testBit_mul_two_pow, Nat.testBit_two_pow_sub_one]
  by_cases hi : i < w'
  · rcases h with h | h
    · have h1 : ¬ b' + i - b < w := by omega
      by_cases h2 : b' + i < 2048
      · simp [hi, h1, h2]
      · simp [h2, BitVec.getLsbD_of_ge _ _ (Nat.not_lt.1 h2)]
    · have h1 : ¬ b ≤ b' + i := by omega
      by_cases h2 : b' + i < 2048
      · simp [hi, h1, h2]
      · simp [h2, BitVec.getLsbD_of_ge _ _ (Nat.not_lt.1 h2)]
  · simp [hi]

/-- A 64-bit element of one register after the write of another, or of itself. -/
theorem LaneState.elem_setElem (l : LaneState) {n m i j : Nat} (x : Nat) (hn : n < 64) (hi : i < 32) (hj : j < 32) :
    (l.setElem n 64 j x).elem m 64 i = if m = n ∧ i = j then x % 2 ^ 64 else l.elem m 64 i := by
  have ei : i * 64 / 2048 = 0 := by omega
  have ej : j * 64 / 2048 = 0 := by omega
  have mi : i * 64 % 2048 = i * 64 := by omega
  have mj : j * 64 % 2048 = j * 64 := by omega
  simp only [LaneState.elem, LaneState.setElem, LaneState.vreg, ei, ej, mi, mj, Nat.add_zero]
  by_cases hm : m = n
  · subst hm
    rw [vgetD_vmod_same _ _ _ _ hn]
    by_cases hij : i = j
    · subst hij; simp [VReg.read_write_same _ _ _ _ (show i * 64 + 64 ≤ 2048 by omega)]
    · rw [VReg.read_write_apart _ _ _ _ _ _ (by omega)]; simp [hij]
  · rw [vgetD_vmod_ne _ _ _ hm]; simp [hm]

end Sys2Proof.Machine
end

section
/-! SUPPORT. Clusters, groups and maps read after a change; what writes by key leave alone; physical memory read back. -/
namespace Sys2Proof.Machine
open Sys2Proof

/-! ### Clusters and groups read after a change -/

@[simp] theorem State.cluster_modCluster_same (s : State) (c : Nat) (f : Cluster → Cluster) (h : c < Config.nClusters) :
    (s.modCluster c f).cluster c = f (s.cluster c) := vgetD_vmod_same _ _ _ _ h

theorem State.cluster_modCluster_ne (s : State) {c d : Nat} (f : Cluster → Cluster) (h : d ≠ c) : (s.modCluster c f).cluster d = s.cluster d :=
  vgetD_vmod_ne _ _ _ h

/-- A part of a cluster that a change keeps. -/
theorem State.cluster_modCluster_part {α : Type} (s : State) (c d : Nat) (f : Cluster → Cluster) (part : Cluster → α) (h : ∀ x, part (f x) = part x) :
    part ((s.modCluster c f).cluster d) = part (s.cluster d) := by
  by_cases hd : d = c
  · subst hd
    by_cases hl : d < Config.nClusters
    · rw [s.cluster_modCluster_same d f hl, h]
    · have e : (s.modCluster d f).cluster d = s.cluster d := by simp [State.cluster, vgetD, show ¬ d < 192 from hl]
      rw [e]
  · rw [s.cluster_modCluster_ne f hd]

/-- Changes that make the same of the cluster as it stands are one. -/
theorem State.modCluster_congr (s : State) (c : Nat) (f g : Cluster → Cluster) (h : f (s.cluster c) = g (s.cluster c)) : s.modCluster c f = s.modCluster c g := by
  have e : vmod s.clusters c f = vmod s.clusters c g := by
    by_cases hl : c < Config.nClusters
    · simp only [State.cluster, vgetD, show c < 192 from hl, dif_pos] at h
      simp only [vmod, show c < 192 from hl, dif_pos, h]
    · simp only [vmod, show ¬ c < 192 from hl, dif_neg, not_false_iff]
  simp only [State.modCluster, e]

@[simp] theorem State.modCluster_modCluster (s : State) (c : Nat) (f g : Cluster → Cluster) : (s.modCluster c f).modCluster c g = s.modCluster c fun x => g (f x) := by
  simp only [State.modCluster, vmod_vmod]

@[simp] theorem State.group_modGroup_same (s : State) (k : Nat) (f : Group → Group) : (s.modGroup k f).group k = (s.group k).map f := mapGet_mapMod_same _ _ _

theorem State.group_modGroup_ne (s : State) {k j : Nat} (f : Group → Group) (h : j ≠ k) : (s.modGroup k f).group j = s.group j := mapGet_mapMod_ne _ _ h

@[simp] theorem State.cluster_modTeam (s : State) (k c : Nat) (f : Team → Team) : (s.modTeam k f).cluster c = s.cluster c := rfl
@[simp] theorem State.cluster_modCtx (s : State) (k c : Nat) (f : Ctx → Ctx) : (s.modCtx k f).cluster c = s.cluster c := rfl
@[simp] theorem State.group_modCore (s : State) (c n j : Nat) (f : Core → Core) : (s.modCore c n f).group j = s.group j := rfl
@[simp] theorem State.team_modTeam_same (s : State) (k : Nat) (f : Team → Team) : (s.modTeam k f).team k = (s.team k).map f := mapGet_mapMod_same _ _ _
@[simp] theorem State.ctx_modCtx_same (s : State) (k : Nat) (f : Ctx → Ctx) : (s.modCtx k f).ctx k = (s.ctx k).map f := mapGet_mapMod_same _ _ _

/-- In a map with rising keys, what is listed is what is found. -/
theorem mem_iff_mapGet {α : Type} {m : SMap α} (h : Rising m) (k : Nat) (x : α) : (k, x) ∈ m ↔ mapGet m k = some x := by
  induction m with
  | nil => simp
  | cons p m ih =>
    obtain ⟨i, v⟩ := p
    obtain ⟨hlow, hm⟩ := List.pairwise_cons.1 h
    simp only [List.mem_cons, Prod.mk.injEq, mapGet, ih hm]
    by_cases hi : i = k
    · subst hi
      have : ¬ mapGet m i = some x := fun hx => absurd (hlow (i, x) ((ih hm).2 hx)) (by simp)
      simp [this, eq_comm]
    · rw [if_neg hi]
      by_cases hk : k < i
      · have : ¬ mapGet m k = some x := fun hx => absurd (hlow (k, x) ((ih hm).2 hx)) (by simp only; omega)
        simp [hk, this, Ne.symm hi]
      · simp [hk, Ne.symm hi]

/-- A map whose values are changed one by one, read. -/
theorem mapGet_map {α β : Type} (m : SMap α) (f : Nat → α → β) (k : Nat) : mapGet (m.map fun p => (p.1, f p.1 p.2)) k = (mapGet m k).map (f k) := by
  induction m with
  | nil => rfl
  | cons p m ih =>
    obtain ⟨i, v⟩ := p
    simp only [List.map_cons, mapGet, ih]
    by_cases hi : i = k
    · subst hi; simp
    · simp only [hi, if_false]; split <;> rfl

/-! ### What a write by key leaves alone -/

/-- One state is another after writes by key: they change memory, tags, what waits, what is damaged, and vector registers that a window holds. -/
def State.Stored (s t : State) : Prop :=
  ∃ mem tags stalled damaged groups, t = { s with mem := mem, tags := tags, stalled := stalled, damaged := damaged, groups := groups } ∧
    ∀ j, ∃ v, mapGet groups j = (s.group j).map fun g => { g with lane := { g.lane with v := v } }

theorem State.Stored.group {s t : State} (h : s.Stored t) (j : Nat) : ∃ v, t.group j = (s.group j).map fun g => { g with lane := { g.lane with v := v } } := by
  obtain ⟨m, tg, st, d, gs, rfl, hg⟩ := h; exact hg j

/-- Writes that leave every group alone. -/
theorem State.Stored.of_groups {s : State} (mem tags stalled damaged) : s.Stored { s with mem := mem, tags := tags, stalled := stalled, damaged := damaged } :=
  ⟨mem, tags, stalled, damaged, s.groups, rfl, fun j => by
    cases hg : s.group j with
    | none => exact ⟨Vector.replicate 64 ⟨0, 0⟩, hg⟩
    | some g => exact ⟨g.lane.v, hg⟩⟩

theorem State.Stored.refl (s : State) : s.Stored s := .of_groups s.mem s.tags s.stalled s.damaged

theorem State.Stored.trans {s t u : State} (h : s.Stored t) (i : t.Stored u) : s.Stored u := by
  obtain ⟨m, tg, st, d, gs, rfl, hg⟩ := h
  obtain ⟨m', tg', st', d', gs', rfl, hg'⟩ := i
  refine ⟨m', tg', st', d', gs', rfl, fun j => ?_⟩
  obtain ⟨v, hv⟩ := hg j
  obtain ⟨v', hv'⟩ := hg' j
  refine ⟨v', ?_⟩
  rw [hv', show State.group _ j = mapGet gs j from rfl, hv]
  cases s.group j <;> rfl

theorem State.stored_modGroup (s : State) (k : Nat) (f : Group → Vector VReg 64) :
    s.Stored (s.modGroup k fun g => { g with lane := { g.lane with v := f g } }) := by
  refine ⟨s.mem, s.tags, s.stalled, s.damaged, _, rfl, fun j => ?_⟩
  rw [mapGet_mapMod]
  cases hg : mapGet s.groups j with
  | none => exact ⟨Vector.replicate 64 ⟨0, 0⟩, by simp [State.group, hg]⟩
  | some g =>
    by_cases hj : j = k
    · exact ⟨f g, by rw [State.group, hg, if_pos hj]; rfl⟩
    · exact ⟨g.lane.v, by rw [State.group, hg, if_neg hj]; rfl⟩

theorem State.stored_keyPut (s : State) (k : Nat) (x : Byte) : s.Stored (s.keyPut k x) := by
  unfold State.keyPut
  split
  · exact .of_groups _ s.tags s.stalled s.damaged
  · split
    · exact s.stored_modGroup _ _
    · split
      · exact .of_groups s.mem _ s.stalled s.damaged
      · split
        · exact .refl s
        · exact .of_groups _ s.tags s.stalled _

theorem State.stored_keySetTag (s : State) (k : Nat) (b : Bool) : s.Stored (s.keySetTag k b) := by
  unfold State.keySetTag
  split
  · exact .of_groups s.mem _ s.stalled s.damaged
  · split
    · exact s.stored_modGroup _ _
    · exact .of_groups s.mem _ s.stalled s.damaged

theorem State.stored_foldl {α : Type} (f : State → α → State) (hf : ∀ (s : State) (a : α), s.Stored (f s a)) (l : List α) (s : State) : s.Stored (l.foldl f s) := by
  induction l generalizing s with
  | nil => exact .refl s
  | cons a l ih => exact (hf s a).trans (ih _)

theorem State.stored_putKeys (s : State) (k : Nat) (bs : List Byte) : s.Stored (s.putKeys k bs) := by
  induction bs generalizing s k with
  | nil => exact .refl s
  | cons b bs ih => exact (s.stored_keyPut k b).trans (ih _ _)

theorem State.stored_clearTags (s : State) (k n : Nat) : s.Stored (s.clearTags k n) := by
  unfold State.clearTags
  split
  · exact .refl s
  · exact State.stored_foldl _ (fun t _ => t.stored_keySetTag _ _) _ s

theorem State.stored_writeKeys (s : State) (k : Nat) (bs : List Byte) : s.Stored (s.writeKeys k bs) :=
  (s.stored_clearTags _ _).trans (State.stored_putKeys _ _ _)

theorem State.stored_agentPut (s : State) (k : Nat) (bs : List Byte) : s.Stored (s.agentPut k bs) := by
  unfold State.agentPut State.agentWrite
  split
  · exact .of_groups s.mem s.tags _ s.damaged
  · exact s.stored_writeKeys _ _

theorem State.stored_recordPut (s : State) (a off : Nat) (bs : List Byte) : s.Stored (s.recordPut a off bs) :=
  (s.stored_writeKeys _ _).trans (State.stored_keySetTag _ _ _)

section
variable {s t : State} (h : s.Stored t)
include h
theorem State.Stored.cur : t.cur = s.cur := by obtain ⟨_, _, _, _, _, rfl, -⟩ := h; rfl
theorem State.Stored.cycle : t.cycle = s.cycle := by obtain ⟨_, _, _, _, _, rfl, -⟩ := h; rfl
theorem State.Stored.clusters : t.clusters = s.clusters := by obtain ⟨_, _, _, _, _, rfl, -⟩ := h; rfl
theorem State.Stored.cluster (c : Nat) : t.cluster c = s.cluster c := by rw [State.cluster, h.clusters]; rfl
theorem State.Stored.ctxs : t.ctxs = s.ctxs := by obtain ⟨_, _, _, _, _, rfl, -⟩ := h; rfl
theorem State.Stored.nextId : t.nextId = s.nextId := by obtain ⟨_, _, _, _, _, rfl, -⟩ := h; rfl
theorem State.Stored.worlds : t.worlds = s.worlds := by obtain ⟨_, _, _, _, _, rfl, -⟩ := h; rfl
end

/-! ### Writes of physical memory -/

theorem not_remoteKey_le {k : Nat} (h : k < Config.windowKey) : ¬ Config.remoteKey ≤ k := by
  have : Config.windowKey < Config.remoteKey := by decide
  omega

/-- A key below the window region names no vector register. -/
theorem State.regOf_low (s : State) {k : Nat} (h : k < Config.windowKey) : s.regOf k = none := by
  have e : winOf k = none := by
    unfold winOf; rw [if_neg]; omega
  simp only [State.regOf, e]

theorem State.groups_keyPut_low (s : State) {k : Nat} (x : Byte) (h : k < Config.windowKey) : (s.keyPut k x).groups = s.groups := by
  simp only [State.keyPut, s.regOf_low h]
  split
  · rfl
  · split
    · rfl
    · split <;> rfl

theorem State.groups_keySetTag_low (s : State) {k : Nat} (b : Bool) (h : k < Config.windowKey) : (s.keySetTag k b).groups = s.groups := by
  simp only [State.keySetTag, s.regOf_low h]; split <;> rfl

theorem State.groups_putKeys_low (s : State) {k : Nat} (bs : List Byte) (h : k + bs.length ≤ Config.windowKey) : (s.putKeys k bs).groups = s.groups := by
  induction bs generalizing s k with
  | nil => rfl
  | cons b bs ih =>
    rw [List.length_cons] at h
    rw [State.putKeys, ih _ (by omega), s.groups_keyPut_low b (by omega)]

/-- Tags cleared in physical memory: groups and bytes stay. -/
theorem State.clearTags_low (s : State) {k n : Nat} (h : k + n ≤ Config.windowKey) : (s.clearTags k n).groups = s.groups ∧ (s.clearTags k n).mem = s.mem := by
  have key : ∀ (l : List Nat) (t : State), (∀ i ∈ l, (k / 16 + i) * 16 < Config.windowKey) →
      (l.foldl (fun s i => s.keySetTag ((k / 16 + i) * 16) false) t).groups = t.groups ∧
      (l.foldl (fun s i => s.keySetTag ((k / 16 + i) * 16) false) t).mem = t.mem := by
    intro l
    induction l with
    | nil => exact fun t _ => ⟨rfl, rfl⟩
    | cons i l ih =>
      intro t hl
      have hi := hl i List.mem_cons_self
      obtain ⟨h1, h2⟩ := ih (t.keySetTag ((k / 16 + i) * 16) false) fun j hj => hl j (List.mem_cons_of_mem _ hj)
      refine ⟨h1.trans (t.groups_keySetTag_low _ hi), h2.trans ?_⟩
      simp only [State.keySetTag, t.regOf_low hi]; split <;> rfl
  unfold State.clearTags
  split
  · exact ⟨rfl, rfl⟩
  · refine key _ s fun i hi => ?_
    rw [List.mem_range] at hi
    omega

theorem State.groups_writeKeys_low (s : State) {k : Nat} (bs : List Byte) (h : k + bs.length ≤ Config.windowKey) : (s.writeKeys k bs).groups = s.groups := by
  rw [State.writeKeys, State.groups_putKeys_low _ _ h, (s.clearTags_low h).1]

theorem State.groups_agentPut_low (s : State) {k : Nat} (bs : List Byte) (h : k + bs.length ≤ Config.windowKey) : (s.agentPut k bs).groups = s.groups := by
  unfold State.agentPut State.agentWrite
  split
  · rfl
  · exact s.groups_writeKeys_low bs h

/-- A byte of physical memory depends on memory, tags and page worlds alone. -/
theorem State.keyByte_low_congr {s t : State} {k : Nat} (h : k < Config.windowKey) (hm : t.mem = s.mem) (ht : t.tags = s.tags) (hw : t.worlds = s.worlds) :
    t.keyByte k = s.keyByte k := by
  have e : ¬ Config.remoteKey ≤ k := not_remoteKey_le h
  simp only [State.keyByte, e, if_false, t.regOf_low h, s.regOf_low h, hm, ht, State.pageWorld, hw]

theorem State.readNat_low_congr {s t : State} {k n : Nat} (h : k + n ≤ Config.windowKey) (hm : t.mem = s.mem) (ht : t.tags = s.tags) (hw : t.worlds = s.worlds) :
    t.readNat k n = s.readNat k n := by
  have e : t.readKeys k n = s.readKeys k n :=
    List.map_congr_left fun i hi => State.keyByte_low_congr (by rw [List.mem_range] at hi; omega) hm ht hw
  rw [State.readNat, State.readNat, e]

/-- A key of plain memory: below the window region, no byte of a tag region, none of the page ownership table. -/
def PlainKey (k : Nat) : Prop := k < Config.windowKey ∧ tagByte k = none ∧ worldByte k = none

theorem State.keyByte_plain (s : State) {k : Nat} (h : PlainKey k) : s.keyByte k = memGet s.mem k := by
  obtain ⟨hl, ht, hw⟩ := h
  have e : ¬ Config.remoteKey ≤ k := not_remoteKey_le hl
  simp only [State.keyByte, e, if_false, s.regOf_low hl, ht, hw]

theorem State.mem_keyPut_plain (s : State) {k : Nat} (x : Byte) (h : PlainKey k) : (s.keyPut k x).mem = memPut s.mem k x := by
  obtain ⟨hl, ht, hw⟩ := h
  have e : ¬ Config.remoteKey ≤ k := not_remoteKey_le hl
  simp only [State.keyPut, e, if_false, s.regOf_low hl, ht, hw]

theorem State.mem_putKeys_plain (s : State) {k : Nat} (bs : List Byte) (h : ∀ i < bs.length, PlainKey (k + i)) : (s.putKeys k bs).mem = memWrite s.mem k bs := by
  induction bs generalizing s k with
  | nil => rfl
  | cons b bs ih =>
    rw [State.putKeys, memWrite, ih _ fun i hi => by rw [Nat.add_right_comm]; exact h (i + 1) (by simpa using hi)]
    rw [s.mem_keyPut_plain b (by simpa using h 0 (by simp))]

/-- Read after write, of a list of bytes. -/
theorem memGet_memWrite (m : List Host.Cell) (k j : Nat) (bs : List Byte) (h : Memory.wf m = true) :
    memGet (memWrite m k bs) j = if k ≤ j then bs.getD (j - k) (memGet m j) else memGet m j := by
  induction bs generalizing m k with
  | nil => simp [memWrite]
  | cons b bs ih =>
    rw [memWrite, ih _ _ (memPut_wf _ _ _ h), memGet_memPut _ _ _ _ h]
    by_cases hj : j = k
    · subst hj; simp
    · by_cases hk : k ≤ j
      · obtain ⟨d, rfl⟩ : ∃ d, j = k + (d + 1) := ⟨j - k - 1, by omega⟩
        simp [show k + 1 ≤ k + (d + 1) by omega, show k + (d + 1) - (k + 1) = d by omega]
      · simp [hk, hj, show ¬ k + 1 ≤ j by omega]

/-- Bytes of plain memory read back after they are written. -/
theorem State.readNat_writeKeys_plain (s : State) {k : Nat} (bs : List Byte) (hm : Memory.wf s.mem = true) (h : ∀ i < bs.length, PlainKey (k + i)) :
    (s.writeKeys k bs).readNat k bs.length = leNat bs := by
  cases hb : bs.length with
  | zero => rw [List.length_eq_zero_iff.1 hb]; rfl
  | succ n =>
    have hlast := (h n (by omega)).1
    have emem : (s.writeKeys k bs).mem = memWrite s.mem k bs := by
      rw [State.writeKeys, State.mem_putKeys_plain _ _ h, (s.clearTags_low (by omega)).2]
    have e : (s.writeKeys k bs).readKeys k bs.length = bs := by
      refine List.ext_getElem (by simp [State.readKeys]) fun i h1 h2 => ?_
      simp only [State.readKeys, List.getElem_map, List.getElem_range]
      rw [State.keyByte_plain _ (h i h2), emem, memGet_memWrite _ _ _ _ hm]
      simp [h2]
    rw [← hb, State.readNat, e]

end Sys2Proof.Machine
end

section
/-! SUPPORT. A service core as the current thread: its word's completion, what keeps the scalar parts of service cores, handles and the frame of the forms on them. -/
namespace Sys2Proof.Machine
open Sys2Proof

/-! ### Service cores as the current thread -/

theorem State.AsService.present {s : State} {c : Nat} (h : s.AsService c) : s.Present := by
  obtain ⟨hc, hl⟩ := h
  simp only [State.Present, hc]; exact hl

theorem State.AsService.hart {s : State} {c : Nat} (h : s.AsService c) : s.hart = (s.svc c).hart := by
  obtain ⟨hc, -⟩ := h
  simp only [State.hart, hc]; rfl

theorem State.privOp_service {s : State} {c : Nat} (h : s.AsService c) (body : Nat → Res) : s.privOp body = body c := by
  obtain ⟨hc, -⟩ := h
  simp only [State.privOp, hc]

theorem State.privOp_group {s : State} {k : Nat} (h : s.cur = .group k) (body : Nat → Res) : s.privOp body = .next (s.raiseHere Cause.privInsn) := by
  simp only [State.privOp, h]

/-- A service core's word done counts a free value and moves its PC. -/
theorem State.advance_service {s : State} {c : Nat} (h : s.cur = .service c) :
    s.advance = { s with free := s.free + 1 }.modCluster c fun cl => { cl with svc := { cl.svc with hart := { cl.svc.hart with pc := s.pc + 4 } } } := by
  simp only [State.advance, State.issue, h, State.setPc, State.modHart, State.modHartOf]

/-- What a service core's own word changes by its completion: the count of free values and its PC. -/
structure State.AdvancedFrom (s t : State) : Prop where
  groups : t.groups = s.groups
  teams : t.teams = s.teams
  ctxs : t.ctxs = s.ctxs
  mem : t.mem = s.mem
  tags : t.tags = s.tags
  stalled : t.stalled = s.stalled
  worlds : t.worlds = s.worlds
  cycle : t.cycle = s.cycle
  time : t.time = s.time
  cores : ∀ c, (t.cluster c).cores = (s.cluster c).cores
  revs : ∀ c, (t.svc c).revs = (s.svc c).revs

theorem State.advancedFrom {s : State} {c : Nat} (h : s.cur = .service c) : s.AdvancedFrom s.advance := by
  rw [s.advance_service h]
  refine ⟨rfl, rfl, rfl, rfl, rfl, rfl, rfl, rfl, rfl, fun d => ?_, fun d => ?_⟩
  · exact State.cluster_modCluster_part _ c d _ (·.cores) fun _ => rfl
  · exact State.cluster_modCluster_part _ c d _ (fun x => x.svc.revs) fun _ => rfl

@[simp] theorem State.svc_modSvc_same (s : State) {c : Nat} (f : Service → Service) (h : c < Config.nClusters) : (s.modSvc c f).svc c = f (s.svc c) := by
  rw [State.modSvc, State.svc, s.cluster_modCluster_same c _ h]; rfl

/-- Two states with the same thread and the same scalar parts of the service cores. -/
structure State.SameServices (s t : State) : Prop where
  cur : t.cur = s.cur
  hart : ∀ c, (t.svc c).hart = (s.svc c).hart

theorem State.SameServices.refl (s : State) : s.SameServices s := ⟨rfl, fun _ => rfl⟩
theorem State.SameServices.trans {s t u : State} (h : s.SameServices t) (i : t.SameServices u) : s.SameServices u :=
  ⟨i.cur.trans h.cur, fun c => (i.hart c).trans (h.hart c)⟩
theorem State.SameServices.of_clusters {s t : State} (h : t.cur = s.cur) (hc : t.clusters = s.clusters) : s.SameServices t :=
  ⟨h, fun c => by rw [State.svc, State.cluster, hc]; rfl⟩
theorem State.Stored.sameServices {s t : State} (h : s.Stored t) : s.SameServices t := .of_clusters h.cur h.clusters
theorem State.sameServices_modCluster (s : State) (c : Nat) (f : Cluster → Cluster) (h : ∀ x, (f x).svc.hart = x.svc.hart) : s.SameServices (s.modCluster c f) :=
  ⟨rfl, fun d => s.cluster_modCluster_part c d f (fun x => x.svc.hart) h⟩
theorem State.sameServices_modSvc (s : State) (c : Nat) (f : Service → Service) (h : ∀ v, (f v).hart = v.hart) : s.SameServices (s.modSvc c f) :=
  s.sameServices_modCluster c _ fun _ => h _
theorem State.sameServices_modCore (s : State) (c n : Nat) (f : Core → Core) : s.SameServices (s.modCore c n f) := s.sameServices_modCluster c _ fun _ => rfl
theorem State.sameServices_modGroup (s : State) (k : Nat) (f : Group → Group) : s.SameServices (s.modGroup k f) := .of_clusters rfl rfl
theorem State.sameServices_modTeam (s : State) (k : Nat) (f : Team → Team) : s.SameServices (s.modTeam k f) := .of_clusters rfl rfl
theorem State.sameServices_event (s : State) (cl kind : Nat) (cause : BitVec 8) (grp arg : Word) : s.SameServices (s.event cl kind cause grp arg) :=
  s.sameServices_modCluster cl _ fun x => x.svc.tell_hart _
theorem State.SameServices.asService {s t : State} {c : Nat} (h : s.SameServices t) (hs : s.AsService c) : t.AsService c := ⟨h.cur.trans hs.1, hs.2⟩

theorem State.SameServices.here {s t : State} {c : Nat} (h : s.SameServices t) (hs : s.AsService c) : t.hart = s.hart := by
  rw [(h.asService hs).hart, hs.hart, h.hart]

/-- A word of a service core that left the scalar parts alone, completed. -/
theorem State.SameServices.hart_advance {s t : State} {c : Nat} (h : s.SameServices t) (hs : s.AsService c) : t.advance.hart = { s.hart with pc := s.pc + 4 } := by
  rw [State.hart_advance _ (h.asService hs).present, State.pc, h.here hs, State.pc]

theorem State.SameServices.didIn {s t : State} {c : Nat} (h : s.SameServices t) (hs : s.AsService c) : DidIn s t (.next t.advance) s.hart :=
  ⟨_, rfl, h.hart_advance hs, by simp⟩

/-! ### Handles (R354) -/

/-- Bits [31:16] and [14:0] of a word. -/
theorem toNat_and_handleMask (x : Word) : (x &&& 0xFFFF7FFF).toNat = 2 ^ 16 * (x.toNat / 2 ^ 16 % 2 ^ 16) + x.toNat % 2 ^ 15 := by
  have hm : (0xFFFF7FFF : Word).toNat = 2 ^ 16 * (2 ^ 16 - 1) + (2 ^ 15 - 1) := by decide
  rw [BitVec.toNat_and, hm]
  apply Nat.eq_of_testBit_eq; intro i
  rw [Nat.testBit_and, Nat.testBit_two_pow_mul_add _ (by omega), Nat.testBit_two_pow_mul_add _ (by omega)]
  by_cases hi : i < 16
  · simp only [hi, if_true, Nat.testBit_two_pow_sub_one, Nat.testBit_mod_two_pow, Bool.and_comm]
  · simp only [hi, if_false, Nat.testBit_two_pow_sub_one, Nat.testBit_mod_two_pow, Nat.testBit_div_two_pow, Bool.and_comm]
    rw [show i - 16 + 16 = i by omega]

theorem toNat_handleOf {k : Nat} (g : Group) (h : slotCluster k < Config.nClusters) : (handleOf k g).toNat = placeOf k + g.gen.toNat * 65536 := by
  have hg := g.gen.isLt
  have hc : slotCore k < 4 := Nat.mod_lt _ (by omega)
  have hl : slotCluster k < 192 := h
  rw [handleOf, BitVec.toNat_ofNat, Nat.mod_eq_of_lt]
  simp only [placeOf]
  omega

/-- The slot that bits [14:0] of a handle name (R354). -/
def handlePlace (x : Nat) : Nat := bitsOf x 7 0 * 128 + bitsOf x 9 8 * 32 + bitsOf x 14 10

theorem handlePlace_eq (x : Nat) : handlePlace x = x % 256 * 128 + x / 256 % 4 * 32 + x / 1024 % 32 := by
  simp only [handlePlace, bitsOf_eq, Nat.pow_zero, Nat.div_one, Nat.reduceAdd, Nat.reduceSub, Nat.reducePow]

/-- Bits [14:0] of a number by their fields. -/
theorem mod_two_pow_fifteen (x : Nat) : x % 2 ^ 15 = x % 256 + x / 256 % 4 * 256 + x / 1024 % 32 * 1024 := by
  have h1 : x / 1024 = x / 256 / 4 := by omega
  have h2 : x / 32768 = x / 256 / 4 / 32 := by omega
  omega

theorem placeOf_handlePlace (x : Nat) : placeOf (handlePlace x) = x % 2 ^ 15 := by
  rw [handlePlace_eq, mod_two_pow_fifteen]
  have ha := Nat.mod_lt x (show 256 > 0 by omega)
  have hb := Nat.mod_lt (x / 256) (show 4 > 0 by omega)
  have hc := Nat.mod_lt (x / 1024) (show 32 > 0 by omega)
  generalize x % 256 = a at *
  generalize x / 256 % 4 = b at *
  generalize x / 1024 % 32 = c at *
  have h1 : (a * 128 + b * 32 + c) / 128 = a := by omega
  have h2 : (a * 128 + b * 32 + c) / 32 = a * 4 + b := by omega
  simp only [placeOf, slotCluster, slotCore, h1, h2]
  omega

theorem handlePlace_of_placeOf {x k : Nat} (h : x % 2 ^ 15 = placeOf k) (hk : slotCluster k < Config.nClusters) : handlePlace x = k := by
  have hl : slotCluster k < 192 := hk
  have hd : k = slotCluster k * 128 + slotCore k * 32 + k % 32 := by simp only [slotCluster, slotCore]; omega
  have hn : slotCore k < 4 := Nat.mod_lt _ (by omega)
  rw [mod_two_pow_fifteen, placeOf] at h
  obtain ⟨h1, h2, h3⟩ : x % 256 = slotCluster k ∧ x / 256 % 4 = slotCore k ∧ x / 1024 % 32 = k % 32 := by
    have ha := Nat.mod_lt x (show 256 > 0 by omega)
    have hb := Nat.mod_lt (x / 256) (show 4 > 0 by omega)
    have hc := Nat.mod_lt (x / 1024) (show 32 > 0 by omega)
    have hr := Nat.mod_lt k (show 32 > 0 by omega)
    clear hd
    generalize x % 256 = a at *
    generalize x / 256 % 4 = b at *
    generalize x / 1024 % 32 = c at *
    generalize k % 32 = r at *
    omega
  rw [handlePlace_eq, h1, h2, h3, ← hd]

theorem placeOf_lt {k : Nat} (h : slotCluster k < Config.nClusters) : placeOf k < 2 ^ 15 := by
  have hl : slotCluster k < 192 := h
  have hc : slotCore k < 4 := Nat.mod_lt _ (by omega)
  simp only [placeOf]
  omega

/-- The slot that a handle names is that of the group of this cluster which has it. -/
theorem State.handleSlot_eq_some_iff (s : State) {c k : Nat} (x : Word) (hc : c < Config.nClusters) :
    s.handleSlot c x = some k ↔ ∃ g, s.group k = some g ∧ slotCluster k = c ∧ x &&& 0xFFFF7FFF = handleOf k g := by
  have hgen : bitsOf x.toNat 31 16 = x.toNat / 2 ^ 16 % 2 ^ 16 := bitsOf_eq _ _ _
  have key : s.handleSlot c x = match s.group (handlePlace x.toNat) with
      | some g => if bitsOf x.toNat 31 16 = g.gen.toNat ∧ slotCluster (handlePlace x.toNat) = c then some (handlePlace x.toNat) else none
      | none => none := rfl
  rw [key]
  constructor
  · intro h
    split at h
    next g hg =>
      split at h
      next hcur =>
        obtain ⟨hg1, hcl⟩ := hcur
        obtain rfl := Option.some.inj h
        refine ⟨g, hg, hcl, BitVec.eq_of_toNat_eq ?_⟩
        rw [toNat_and_handleMask, toNat_handleOf g (by rw [hcl]; exact hc), placeOf_handlePlace, ← hgen, hg1]
        omega
      next => cases h
    next => cases h
  · rintro ⟨g, hg, rfl, hx⟩
    have hn := congrArg BitVec.toNat hx
    rw [toNat_and_handleMask, toNat_handleOf g hc, ← hgen] at hn
    have hp := placeOf_lt hc
    have hk : handlePlace x.toNat = k := handlePlace_of_placeOf (by omega) hc
    have hg2 : bitsOf x.toNat 31 16 = g.gen.toNat := by omega
    simp only [hk, hg, hg2, and_self, if_true]

/-- A handle form that a service core can issue. -/
structure State.HandleForm (s : State) (c : Nat) (a : BitVec 6) : Prop where
  service : s.AsService c
  ready : s.Ready [a] []

/-- The operand of a handle form names the group in a slot. -/
structure State.Names (s : State) (c : Nat) (a : BitVec 6) (k : Nat) (g : Group) : Prop extends s.HandleForm c a where
  here : s.group k = some g
  home : slotCluster k = c
  handle : s.x a &&& 0xFFFF7FFF = handleOf k g

/-- The stale bit set (R354). -/
def State.markStale (s : State) (c : Nat) : State := s.modSvc c fun v => { v with stale := true }

theorem State.handleOp_unnamed {s : State} {c : Nat} {a : BitVec 6} (h : s.HandleForm c a)
    (hn : ∀ k g, s.group k = some g → slotCluster k = c → s.x a &&& 0xFFFF7FFF ≠ handleOf k g) (accepts : State → Group → Bool)
    (body : State → Nat → Group → Res) : s.handleOp a accepts body = .next (s.markStale c).advance := by
  have e : s.handleSlot c (s.x a) = none := by
    refine Option.eq_none_iff_forall_ne_some.2 fun k hk => ?_
    obtain ⟨g, hg, hc, hx⟩ := (s.handleSlot_eq_some_iff _ h.service.2).1 hk
    exact hn k g hg hc hx
  rw [State.handleOp, State.privOp_service h.service, State.scalarOp_ready _ _ _ _ h.ready, e]
  rfl

/-- A form on a current handle: its body where it accepts the group, else the stale bit. -/
theorem State.handleOp_named {s : State} {c : Nat} {a : BitVec 6} {k : Nat} {g : Group} (h : s.Names c a k g) (accepts : State → Group → Bool)
    (body : State → Nat → Group → Res) :
    s.handleOp a accepts body = if accepts s g then body s k g else .next (s.markStale c).advance := by
  have e : s.handleSlot c (s.x a) = some k := (s.handleSlot_eq_some_iff _ h.service.2).2 ⟨g, h.here, h.home, h.handle⟩
  rw [State.handleOp, State.privOp_service h.service, State.scalarOp_ready _ _ _ _ h.ready, e]
  simp only [Option.bind_some, h.here, Option.map_some]
  rfl

theorem State.sameServices_markStale (s : State) (c : Nat) : s.SameServices (s.markStale c) := s.sameServices_modSvc c _ fun _ => rfl

theorem State.didIn_markStale {s : State} {c : Nat} (h : s.AsService c) : DidIn s (s.markStale c) (.next (s.markStale c).advance) s.hart :=
  (s.sameServices_markStale c).didIn h

end Sys2Proof.Machine
end

section
/-! SUPPORT. The privileged words that name no group: `sret`, `idle`, the TLB words, `revbcast` (R75, R160, R356). -/
namespace Sys2Proof.Machine
open Sys2Proof

theorem bitsOf_low (x hi : Nat) : bitsOf x hi 0 = x % 2 ^ (hi + 1) := by rw [bitsOf_eq, Nat.pow_zero, Nat.div_one, Nat.sub_zero]

/-! ### Privileged words in a group (R160) -/

theorem privileged_in_group {s : State} {k : Nat} (a : BitVec 6) (h : s.cur = .group k) :
    ∀ i ∈ [Instr.sret, .gresume a, .gend a, .gsave a, .tlbinv a, .tlbinvall, .revbcast a, .idle], exec i s = .next (s.raiseHere Cause.privInsn) := by
  intro i hi
  simp only [List.mem_cons, List.not_mem_nil, or_false] at hi
  rcases hi with rfl | rfl | rfl | rfl | rfl | rfl | rfl | rfl <;> exact State.privOp_group h _

/-! ### `sret`, `idle` and the TLB words (R356) -/

theorem sret_in_handler {s : State} {c : Nat} (h : s.AsService c) (hv : (s.cluster c).svc.inHandler = true) :
    exec .sret s = .next { s.modSvc c fun v => { v with inHandler := false, hart := { v.hart with pc := v.sepc } } with free := s.free + 1 } := by
  obtain ⟨hc, -⟩ := id h
  rw [show exec .sret s = execSret s from rfl, execSret, State.privOp_service h, State.svc, if_pos hv]
  simp only [State.issue, hc, State.exceptionReturn, State.modSvc, State.modCluster]

theorem sret_outside_handler {s : State} {c : Nat} (h : s.AsService c) (hv : (s.cluster c).svc.inHandler = false) :
    exec .sret s = .next (s.raiseHere Cause.illegalInsn) := by
  rw [show exec .sret s = execSret s from rfl, execSret, State.privOp_service h, State.svc, hv]; rfl

/-- Whether `idle` goes on: an event waits, or CYCLE has reached a nonzero STIMER. -/
theorem idle_eq {s : State} {c : Nat} (h : s.AsService c) :
    exec .idle s = .next (if !(s.svc c).events.isEmpty || ((s.svc c).stimer != 0 && (s.svc c).stimer.toNat ≤ s.cycle.toNat) then s.advance else s) := by
  rw [show exec .idle s = execIdle s from rfl, execIdle, State.privOp_service h]

theorem idle_goes_on {s : State} {c : Nat} (h : s.AsService c)
    (hv : (s.cluster c).svc.events ≠ [] ∨ (s.cluster c).svc.stimer ≠ 0 ∧ (s.cluster c).svc.stimer.toNat ≤ s.cycle.toNat) : Did s (exec .idle s) s.hart := by
  have e : (!(s.svc c).events.isEmpty || ((s.svc c).stimer != 0 && (s.svc c).stimer.toNat ≤ s.cycle.toNat)) = true := by
    rcases hv with hv | ⟨h1, h2⟩
    · simp [State.svc, hv]
    · simpa [State.svc, h2] using Or.inr h1
  rw [idle_eq h, if_pos e]
  exact did_advance s h.present

theorem idle_waits {s : State} {c : Nat} (h : s.AsService c) (he : (s.cluster c).svc.events = [])
    (ht : (s.cluster c).svc.stimer = 0 ∨ s.cycle.toNat < (s.cluster c).svc.stimer.toNat) : exec .idle s = .next s := by
  have e : (!(s.svc c).events.isEmpty || ((s.svc c).stimer != 0 && (s.svc c).stimer.toNat ≤ s.cycle.toNat)) = false := by
    rcases ht with ht | ht
    · simp [State.svc, he, ht]
    · simp [State.svc, he, Nat.not_le.2 ht]
  rw [idle_eq h, e]; rfl

theorem didIn_tlbinvall {s : State} {c : Nat} (h : s.AsService c) : DidIn s (s.modCluster c fun cl => { cl with tlb := [] }) (exec .tlbinvall s) s.hart := by
  rw [show exec .tlbinvall s = execTlbinvall s from rfl, execTlbinvall, State.privOp_service h]
  exact (s.sameServices_modCluster c (fun cl => { cl with tlb := [] }) fun _ => rfl).didIn h

theorem didIn_tlbinv {s : State} {c : Nat} {a : BitVec 6} (h : s.HandleForm c a) :
    DidIn s (s.modCluster c fun cl => { cl with tlb := cl.tlb.filter fun t =>
      !(t.ctx == (s.x a).toNat % 65536 && t.page == (s.x a).toNat / 65536 % 2 ^ 40 * 65536 / 2 ^ t.size) }) (exec (.tlbinv a) s) s.hart := by
  rw [show exec (.tlbinv a) s = execTlbinv a s from rfl, execTlbinv, State.privOp_service h.service, State.scalarOp_ready _ _ _ _ h.ready]
  have e1 : bitsOf (s.x a).toNat 15 0 = (s.x a).toNat % 65536 := bitsOf_low _ _
  have e2 : bitsOf (s.x a).toNat 55 16 = (s.x a).toNat / 65536 % 2 ^ 40 := bitsOf_eq _ _ _
  simp only [e1, e2]
  exact State.SameServices.didIn (s.sameServices_modCluster c (fun cl => { cl with tlb := cl.tlb.filter fun t =>
    !(t.ctx == (s.x a).toNat % 65536 && t.page == (s.x a).toNat / 65536 % 2 ^ 40 * 65536 / 2 ^ t.size) }) fun _ => rfl) h.service

/-! ### Revoked colours (R75, R356) -/

theorem State.stored_setCtxMask (s : State) (ctx : Nat) (m : BitVec 256) : (s.modCtx ctx fun c => { c with mask := m }).Stored (s.setCtxMask ctx m) :=
  State.stored_agentPut _ _ _

/-- The mask of a context that is there, once set. -/
theorem State.ctx_setCtxMask (s : State) (ctx : Nat) (m : BitVec 256) : (s.setCtxMask ctx m).ctx ctx = (s.ctx ctx).map fun c => { c with mask := m } := by
  rw [State.ctx, (s.stored_setCtxMask ctx m).ctxs]; exact mapGet_mapMod_same _ _ _

theorem State.cluster_setCtxMask (s : State) (ctx c : Nat) (m : BitVec 256) : (s.setCtxMask ctx m).cluster c = s.cluster c :=
  (s.stored_setCtxMask ctx m).cluster c

theorem State.colourMask_setCtxMask (s : State) {ctx : Nat} (m : BitVec 256) (h : (s.ctx ctx).isSome = true) : (s.setCtxMask ctx m).colourMask ctx = m := by
  obtain ⟨x, hx⟩ := Option.isSome_iff_exists.1 h
  simp only [State.colourMask, s.ctx_setCtxMask, hx, Option.map_some]

/-- A group after the mask of a context is set, its vector registers aside. -/
theorem State.group_setCtxMask (s : State) (ctx k : Nat) (m : BitVec 256) :
    ∃ v, (s.setCtxMask ctx m).group k = (s.group k).map fun g => { g with lane := { g.lane with v := v } } := (s.stored_setCtxMask ctx m).group k

/-- The phase that a revocation record begins. -/
def State.phaseOf (s : State) (r : Nat) : RevPhase :=
  let ctx := s.readNat r 8 % 65536
  let rel := (s.readNat r 8).testBit 16
  let colours := BitVec.ofNat 256 (s.readNat (r + 32) 32)
  ⟨ctx, rel, colours, BitVec.ofNat 64 r, if rel then [] else s.colourOps ctx colours, s.nextId⟩

/-- A phase queued at a cluster, under the next number. -/
def State.queuePhase (s : State) (c : Nat) (p : RevPhase) : State :=
  { s.modSvc c fun v => { v with revs := v.revs ++ [p] } with nextId := s.nextId + 1 }

theorem State.sameServices_queuePhase (s : State) (c : Nat) (p : RevPhase) : s.SameServices (s.queuePhase c p) :=
  (s.sameServices_modSvc c (fun v => { v with revs := v.revs ++ [p] }) fun _ => rfl).trans (.of_clusters rfl rfl)

theorem State.revs_queuePhase (s : State) {c : Nat} (p : RevPhase) (hc : c < Config.nClusters) : ((s.queuePhase c p).svc c).revs = (s.svc c).revs ++ [p] :=
  congrArg (·.revs) (s.svc_modSvc_same (fun v => { v with revs := v.revs ++ [p] }) hc)

/-- A revocation record taken: its phase queued; the colours of a broadcast added to the context's mask. -/
theorem State.startRevoke_eq (s : State) (c r : Nat) :
    s.startRevoke c r = if (s.phaseOf r).release then s.queuePhase c (s.phaseOf r)
      else (s.queuePhase c (s.phaseOf r)).setCtxMask (s.phaseOf r).ctx (s.colourMask (s.phaseOf r).ctx ||| (s.phaseOf r).colours) := by
  have e : bitsOf (s.readNat r 8) 15 0 = s.readNat r 8 % 65536 := bitsOf_low _ _
  rw [State.startRevoke, e]; rfl

theorem State.sameServices_setCtxMask (s : State) (ctx : Nat) (m : BitVec 256) : s.SameServices (s.setCtxMask ctx m) :=
  State.SameServices.trans (t := s.modCtx ctx fun c => { c with mask := m }) (.of_clusters rfl rfl) (s.stored_setCtxMask ctx m).sameServices

theorem State.sameServices_startRevoke (s : State) (c r : Nat) : s.SameServices (s.startRevoke c r) := by
  rw [s.startRevoke_eq]
  split
  · exact s.sameServices_queuePhase c _
  · exact (s.sameServices_queuePhase c _).trans (State.sameServices_setCtxMask _ _ _)

theorem State.revs_startRevoke (s : State) {c : Nat} (r : Nat) (hc : c < Config.nClusters) :
    ((s.startRevoke c r).svc c).revs = (s.svc c).revs ++ [s.phaseOf r] := by
  rw [s.startRevoke_eq]
  split
  · exact s.revs_queuePhase _ hc
  · rw [State.svc, State.cluster_setCtxMask]; exact s.revs_queuePhase _ hc

theorem State.colourMask_startRevoke (s : State) (c r : Nat) (h : (s.ctx (s.phaseOf r).ctx).isSome = true) :
    (s.startRevoke c r).colourMask (s.phaseOf r).ctx =
      if (s.phaseOf r).release then s.colourMask (s.phaseOf r).ctx else s.colourMask (s.phaseOf r).ctx ||| (s.phaseOf r).colours := by
  rw [s.startRevoke_eq]
  split
  · rfl
  · exact State.colourMask_setCtxMask _ _ h

theorem revbcast_queues {s : State} {c : Nat} {a : BitVec 6} (h : s.HandleForm c a) {r : Nat} (hr : r = (s.x a).toNat % 2 ^ 52 / 64 * 64)
    (hx : (s.ctx (s.phaseOf r).ctx).isSome = true) :
    ∃ t, exec (.revbcast a) s = .next t ∧ t.hart = { s.hart with pc := s.pc + 4 } ∧ (t.cluster c).svc.revs = (s.cluster c).svc.revs ++ [s.phaseOf r] ∧
      t.colourMask (s.phaseOf r).ctx =
        if (s.phaseOf r).release then s.colourMask (s.phaseOf r).ctx else s.colourMask (s.phaseOf r).ctx ||| (s.phaseOf r).colours := by
  have hs := s.sameServices_startRevoke c r
  have ha := State.advancedFrom (hs.asService h.service).1
  refine ⟨(s.startRevoke c r).advance, ?_, hs.hart_advance h.service, (ha.revs c).trans (s.revs_startRevoke r h.service.2), ?_⟩
  · rw [show exec (.revbcast a) s = execRevbcast a s from rfl, execRevbcast, State.privOp_service h.service, State.scalarOp_ready _ _ _ _ h.ready, physAddr, ← hr]
  · rw [← s.colourMask_startRevoke c r hx, State.colourMask, State.ctx, ha.ctxs]; rfl

end Sys2Proof.Machine
end

section
/-! SUPPORT. The events of the service registers, and the end of a revocation phase (R61, R75, R352, R353). -/
namespace Sys2Proof.Machine
open Sys2Proof

/-! ### Events of the service registers (R61, R352, R353) -/

theorem stimerExpiry_tells {s : State} {c : Nat} (h0 : (s.cluster c).svc.stimer ≠ 0) (ht : (s.cluster c).svc.timerTold = false)
    (hc : (s.cluster c).svc.stimer.toNat ≤ s.cycle.toNat) :
    exec (.stimerExpiry c) s = .next (s.modSvc c fun v => ({ v with timerTold := true } : Service).tell ⟨11, 0, 0, s.cycle⟩) := by
  have e : ¬((s.cluster c).svc.stimer = 0 ∨ (s.cluster c).svc.timerTold = true ∨ s.cycle.toNat < (s.cluster c).svc.stimer.toNat) := by
    rintro (h | h | h)
    · exact h0 h
    · rw [ht] at h; cases h
    · omega
  rw [show exec (.stimerExpiry c) s = execStimerExpiry c s from rfl, execStimerExpiry]
  simp only [State.svc, if_neg e, State.modSvc, State.event, State.modCluster_modCluster]
  rfl

theorem sevtRead_event {s : State} {c : Nat} (d : BitVec 6) {e : Event} {rest : List Event} (he : (s.cluster c).svc.events = e :: rest) :
    exec (.sevtRead c d) s = .next (s.modSvc c fun v => { v with
      events := rest ++ v.held.take 1, held := v.held.drop 1, sevtarg := e.arg, sevtgrp := e.grp,
      hart := (s.cluster c).svc.hart.setX d (BitVec.ofNat 64 (e.kind.toNat + 256 * e.cause.toNat)) }) := by
  rw [show exec (.sevtRead c d) s = execSevtRead c d s from rfl, execSevtRead]
  simp only [State.takeEvent, State.svc, he, State.setSvcX, State.modHartOf, State.modSvc, State.modCluster_modCluster, Nat.mul_comm]
  exact congrArg _ (s.modCluster_congr c _ _ rfl)

theorem sevtRead_none {s : State} {c : Nat} (d : BitVec 6) (he : (s.cluster c).svc.events = []) :
    exec (.sevtRead c d) s = .next (s.modSvc c fun v => { v with hart := v.hart.setX d 0 }) := by
  rw [show exec (.sevtRead c d) s = execSevtRead c d s from rfl, execSevtRead]
  simp only [State.takeEvent, State.svc, he, State.setSvcX, State.modHartOf, State.modSvc]

/-- The atomic flags of a context: those in its record and those of every slice (R61). -/
theorem State.getLsbD_atomFlags (s : State) (n i : Nat) :
    (s.atomFlags n).getLsbD i = true ↔ (∃ c, s.ctx n = some c ∧ c.flags.getLsbD i = true) ∨ ∃ p ∈ s.sliceFlags, p.1 % 4096 = n ∧ p.2.getLsbD i = true := by
  have fold : ∀ (l : List (Nat × BitVec 5)) (f : BitVec 5),
      (l.foldl (fun f p => f ||| p.2) f).getLsbD i = true ↔ f.getLsbD i = true ∨ ∃ p ∈ l, p.2.getLsbD i = true := by
    intro l
    induction l with
    | nil => simp
    | cons p l ih => intro f; simp only [List.foldl_cons, ih, BitVec.getLsbD_or, Bool.or_eq_true, List.exists_mem_cons_iff, or_assoc]
  rw [State.atomFlags, fold]
  cases s.ctx n <;> simp [and_assoc]

theorem atomflagsRead_waits {s : State} {k : Nat} {g : Group} (d : BitVec 6) (hg : s.group k = some g) (h : g.hart.st ≠ 0) :
    exec (.atomflagsRead k d) s = .next s := by
  rw [show exec (.atomflagsRead k d) s = execAtomflagsRead k d s from rfl, execAtomflagsRead]
  simp only [hg, if_pos h]

theorem atomflagsRead_reads {s : State} {k : Nat} {g : Group} (d : BitVec 6) (hg : s.group k = some g) (h : g.hart.st = 0) :
    exec (.atomflagsRead k d) s = .next (s.modGroup k fun x => { x with hart := x.hart.setX d (BitVec.ofNat 64 (s.atomFlags g.ctx).toNat) }) := by
  have e : (s.atomFlags g.ctx).setWidth 64 = BitVec.ofNat 64 (s.atomFlags g.ctx).toNat := by rw [BitVec.ofNat_toNat]
  rw [show exec (.atomflagsRead k d) s = execAtomflagsRead k d s from rfl, execAtomflagsRead]
  simp only [hg, h, ne_eq, not_true_eq_false, if_false, State.modHartOf, e]

/-! ### A revocation phase complete (R75, R356) -/

/-- Two states with the same service registers and the same revoked colours. -/
structure State.SameColours (s t : State) : Prop where
  svc : ∀ c, t.svc c = s.svc c
  mask : ∀ n, (t.ctx n).map (·.mask) = (s.ctx n).map (·.mask)

theorem State.SameColours.refl (s : State) : s.SameColours s := ⟨fun _ => rfl, fun _ => rfl⟩
theorem State.SameColours.trans {s t u : State} (h : s.SameColours t) (i : t.SameColours u) : s.SameColours u :=
  ⟨fun c => (i.svc c).trans (h.svc c), fun n => (i.mask n).trans (h.mask n)⟩
theorem State.SameColours.foldl {α : Type} {f : State → α → State} (hf : ∀ (s : State) (a : α), s.SameColours (f s a)) (l : List α) (s : State) :
    s.SameColours (l.foldl f s) := by
  induction l generalizing s with
  | nil => exact .refl s
  | cons a l ih => exact (hf s a).trans (ih _)
theorem State.Stored.sameColours {s t : State} (h : s.Stored t) : s.SameColours t :=
  ⟨fun c => by rw [State.svc, h.cluster]; rfl, fun n => by rw [State.ctx, h.ctxs]; rfl⟩
theorem State.sameColours_modCluster (s : State) (c : Nat) (f : Cluster → Cluster) (h : ∀ x, (f x).svc = x.svc) : s.SameColours (s.modCluster c f) :=
  ⟨fun d => s.cluster_modCluster_part c d f (·.svc) h, fun _ => rfl⟩
theorem State.sameColours_modCore (s : State) (c n : Nat) (f : Core → Core) : s.SameColours (s.modCore c n f) := s.sameColours_modCluster c _ fun _ => rfl
theorem State.sameColours_modCtx (s : State) (k : Nat) (f : Ctx → Ctx) (h : ∀ x, (f x).mask = x.mask) : s.SameColours (s.modCtx k f) := by
  refine ⟨fun _ => rfl, fun n => ?_⟩
  rw [State.ctx, State.modCtx, mapGet_mapMod]
  split
  · rw [Option.map_map, State.ctx]; exact congrArg (fun f => Option.map f _) (funext h)
  · rfl

/-- Clusters changed one by one in what is not their service registers. -/
theorem State.sameColours_mapClusters (s : State) (f : Cluster → Cluster) (teams : SMap Team) (disp : Disp) (h : ∀ x, (f x).svc = x.svc) :
    s.SameColours { s with teams := teams, clusters := s.clusters.map f, disp := disp } := by
  refine ⟨fun c => ?_, fun _ => rfl⟩
  simp only [State.svc, State.cluster, vgetD, Vector.getElem_map]
  split
  · exact h _
  · rfl

theorem State.sameColours_dropTag (s : State) (k : Nat) : s.SameColours (s.dropTag k) := by
  refine (s.stored_keySetTag k false).sameColours.trans (State.SameColours.foldl (fun t c => ?_) _ _)
  dsimp only
  split
  · exact (t.stored_keySetTag _ _).sameColours
  · exact .refl t

theorem State.sameColours_stripTrap (s : State) (colours : BitVec 256) (a : Nat) : s.SameColours (s.stripTrap colours a) := by
  unfold State.stripTrap
  split
  · exact s.sameColours_dropTag _
  · exact .refl s

theorem State.sameColours_stripRecords (s : State) (ctx : Nat) (colours : BitVec 256) : s.SameColours (s.stripRecords ctx colours) := by
  unfold State.stripRecords
  extract_lets t traps pairs planes disp rest
  have h1 : s.SameColours traps := State.SameColours.foldl (fun u p => u.sameColours_stripTrap colours _) _ s
  have h2 : traps.SameColours planes :=
    State.SameColours.foldl (fun u p => State.SameColours.foldl (fun w n => w.sameColours_modCore _ _ _) _ u) _ traps
  have h3 : planes.SameColours rest := State.sameColours_mapClusters _ _ _ _ fun _ => rfl
  exact h1.trans (h2.trans (h3.trans (rest.sameColours_modCtx _ _ fun _ => rfl)))

/-- The oldest phase of a cluster ends: what it waited for is over, and no earlier phase of its context is under way. -/
structure State.PhaseDue (s : State) (c : Nat) (p : RevPhase) (rest : List RevPhase) : Prop where
  oldest : (s.cluster c).svc.revs = p :: rest
  ended : ∀ i ∈ p.waits, s.outstanding i = false
  drives : p.release = false → s.colourCmds p.ctx p.colours = false
  first : ∀ j < 192, ∀ q ∈ (s.cluster j).svc.revs, q.ctx = p.ctx → p.id ≤ q.id

/-- A context's records and groups without the tags of released colours (R75 step 3). -/
def State.stripped (s : State) (ctx : Nat) (colours : BitVec 256) : State :=
  { s.stripRecords ctx colours with groups := s.groups.map fun q => if q.2.ctx = ctx then (q.1, q.2.strip colours) else q }

theorem State.sameColours_stripped (s : State) (ctx : Nat) (colours : BitVec 256) : s.SameColours (s.stripped ctx colours) :=
  (s.sameColours_stripRecords ctx colours).trans ⟨fun _ => rfl, fun _ => rfl⟩

theorem State.group_stripped (s : State) {k : Nat} (colours : BitVec 256) {g : Group} (hg : s.group k = some g) :
    (s.stripped g.ctx colours).group k = some (g.strip colours) := by
  have hmap : (s.stripped g.ctx colours).groups = s.groups.map fun q => (q.1, if q.2.ctx = g.ctx then q.2.strip colours else q.2) :=
    List.map_congr_left fun q _ => by split <;> rfl
  have hget := mapGet_map s.groups (fun _ x => if x.ctx = g.ctx then x.strip colours else x) k
  rw [show mapGet s.groups k = some g from hg, Option.map_some, if_pos rfl] at hget
  rw [State.group, hmap]; exact hget

/-- What a release clears: the tags of registers and records, the colours' bits, and the memory freed under them (R75 step 3). -/
def State.releaseColours (s : State) (ctx : Nat) (colours : BitVec 256) : State :=
  ((s.stripped ctx colours).setCtxMask ctx (s.colourMask ctx &&& ~~~colours)).modCtx ctx fun c =>
    { c with freed := c.freed.filter fun f => !colours.getLsbD f.2.2.toNat }

theorem revbcastComplete_eq {s : State} {c : Nat} {p : RevPhase} {rest : List RevPhase} (h : s.PhaseDue c p rest) :
    exec (.revbcastComplete c) s = .next
      (let s1 := s.modSvc c fun v => { v with revs := rest }
       (if p.release then s1.releaseColours p.ctx p.colours else s1).event c 10 0 0 p.addr) := by
  obtain ⟨ho, he, hd, hf⟩ := h
  have e1 : (p.waits.any fun i => s.outstanding i) = false := List.any_eq_false.2 fun i hi => by simp [he i hi]
  have e2 : (!p.release && s.colourCmds p.ctx p.colours) = false := by
    cases hp : p.release with
    | true => rfl
    | false => simp [hd hp]
  have e3 : (s.clusters.toList.any fun c => c.svc.revs.any fun q => q.ctx == p.ctx && decide (q.id < p.id)) = false := by
    refine List.any_eq_false.2 fun x hx => ?_
    obtain ⟨j, hj, rfl⟩ := Vector.mem_iff_getElem.1 (Vector.mem_toList_iff.1 hx)
    have ej : s.cluster j = s.clusters[j] := by simp only [State.cluster, vgetD, hj, dif_pos]
    rw [Bool.not_eq_true, List.any_eq_false]
    rintro q hq hlt
    rw [Bool.and_eq_true, beq_iff_eq, decide_eq_true_eq] at hlt
    exact absurd (hf j hj q (by rw [ej]; exact hq) hlt.1) (Nat.not_le.2 hlt.2)
  rw [show exec (.revbcastComplete c) s = execRevbcastComplete c s from rfl, execRevbcastComplete, State.svc, ho]
  simp only [e1, e2, e3, Bool.or_self, Bool.false_eq_true, if_false]
  cases p.release <;> rfl

theorem State.svc_releaseColours (s : State) (ctx c : Nat) (colours : BitVec 256) : (s.releaseColours ctx colours).svc c = s.svc c := by
  rw [State.releaseColours, State.svc, State.cluster_modCtx, State.cluster_setCtxMask]
  exact (s.sameColours_stripped ctx colours).svc c

theorem State.mask_releaseColours (s : State) {ctx : Nat} (colours : BitVec 256) {x : Ctx} (hx : s.ctx ctx = some x) :
    ∃ x', (s.releaseColours ctx colours).ctx ctx = some x' ∧ x'.mask = x.mask &&& ~~~colours := by
  have h := (s.sameColours_stripped ctx colours).mask ctx
  rw [hx, Option.map_some, Option.map_eq_some_iff] at h
  obtain ⟨y, hy, -⟩ := h
  have hm : s.colourMask ctx = x.mask := by rw [State.colourMask, hx]
  rw [State.releaseColours, State.ctx_modCtx_same, State.ctx_setCtxMask, hy, hm]
  exact ⟨_, rfl, rfl⟩

theorem Group.cap_strip (colours : BitVec 256) (g : Group) (n : BitVec 5) :
    (g.strip colours).hart.cap n = { g.hart.cap n with tag := (g.hart.cap n).tag && !colours.getLsbD (g.hart.cap n).colour.toNat } := by
  have e : (g.strip colours).hart.cap n = (g.hart.cap n).strip colours := by simp only [Hart.cap, Group.strip, Vector.getElem_map]
  rw [e, Cap.strip]
  cases h : colours.getLsbD (g.hart.cap n).colour.toNat <;> simp

theorem State.caps_releaseColours (s : State) {k : Nat} (colours : BitVec 256) {g : Group} (hg : s.group k = some g) :
    ∃ g', (s.releaseColours g.ctx colours).group k = some g' ∧
      ∀ n : BitVec 5, g'.hart.cap n = { g.hart.cap n with tag := (g.hart.cap n).tag && !colours.getLsbD (g.hart.cap n).colour.toNat } := by
  obtain ⟨v, hv⟩ := (s.stripped g.ctx colours).group_setCtxMask g.ctx k (s.colourMask g.ctx &&& ~~~colours)
  rw [s.group_stripped colours hg, Option.map_some] at hv
  exact ⟨_, hv, g.cap_strip colours⟩

/-- What the end of a phase leaves: the phases after it, and its event (R75, R356). -/
theorem revbcastComplete_effect {s : State} {c : Nat} {p : RevPhase} {rest : List RevPhase} (hc : c < Config.nClusters) (h : s.PhaseDue c p rest) :
    ∃ t, exec (.revbcastComplete c) s = .next t ∧ (t.cluster c).svc.revs = rest ∧ Heard (s.cluster c).svc (t.cluster c).svc ⟨10, 0, 0, p.addr⟩ ∧
      (p.release = false → t.ctxs = s.ctxs ∧ t.groups = s.groups) ∧
      (p.release = true → ∀ x, s.ctx p.ctx = some x → (∃ x', t.ctx p.ctx = some x' ∧ x'.mask = x.mask &&& ~~~p.colours) ∧
        ∀ k g, s.group k = some g → g.ctx = p.ctx → ∃ g', t.group k = some g' ∧
          ∀ n : BitVec 5, g'.hart.cap n = { g.hart.cap n with tag := (g.hart.cap n).tag && !p.colours.getLsbD (g.hart.cap n).colour.toNat }) := by
  refine ⟨_, revbcastComplete_eq h, ?_⟩
  dsimp only
  generalize hs1 : s.modSvc c (fun v => { v with revs := rest }) = s1
  have hv1 : (s1.cluster c).svc = { (s.cluster c).svc with revs := rest } := by rw [← hs1]; exact s.svc_modSvc_same _ hc
  have hsvc : ((if p.release then s1.releaseColours p.ctx p.colours else s1).cluster c).svc = { (s.cluster c).svc with revs := rest } := by
    rw [← hv1]
    split
    · exact s1.svc_releaseColours _ _ _
    · rfl
  have htell : ∀ (v : Service) (e : Event), ({ v with revs := rest } : Service).tell e = { v.tell e with revs := rest } := by
    intro v e; simp only [Service.tell]; split <;> rfl
  have hev : (((if p.release then s1.releaseColours p.ctx p.colours else s1).event c 10 0 0 p.addr).cluster c).svc =
      { (s.cluster c).svc.tell ⟨10, 0, 0, p.addr⟩ with revs := rest } := by
    rw [State.event, State.cluster_modCluster_same _ _ _ hc, hsvc, htell]; rfl
  refine ⟨by rw [hev], ⟨by rw [hev], by rw [hev]⟩, fun hp => ?_, fun hp x hx => ?_⟩
  · rw [hp, if_neg (by simp), ← hs1]; exact ⟨rfl, rfl⟩
  · rw [hp, if_pos rfl]
    refine ⟨s1.mask_releaseColours p.colours (by rw [← hs1]; exact hx), fun k g hg hgc => ?_⟩
    rw [← hgc]
    exact s1.caps_releaseColours p.colours (by rw [← hs1]; exact hg)

end Sys2Proof.Machine
end

section
/-! SUPPORT. What happens to one slot: its issue slot given up, its runs discarded, the state Exiting (R38, R50, R152). -/
namespace Sys2Proof.Machine
open Sys2Proof

/-! ### What happens to one slot leaves the rest alone -/

/-- Two states that differ in groups and cores at most: teams, memory, service registers and debug units are as they were. -/
structure State.BesideGroups (s t : State) : Prop extends s.SameServices t where
  teams : t.teams = s.teams
  mem : t.mem = s.mem
  tags : t.tags = s.tags
  stalled : t.stalled = s.stalled
  worlds : t.worlds = s.worlds
  cycle : t.cycle = s.cycle
  dbg : ∀ c, (t.cluster c).dbg = (s.cluster c).dbg

theorem State.BesideGroups.refl (s : State) : s.BesideGroups s := ⟨.refl s, rfl, rfl, rfl, rfl, rfl, rfl, fun _ => rfl⟩
theorem State.BesideGroups.trans {s t u : State} (h : s.BesideGroups t) (i : t.BesideGroups u) : s.BesideGroups u :=
  ⟨h.toSameServices.trans i.toSameServices, i.teams.trans h.teams, i.mem.trans h.mem, i.tags.trans h.tags, i.stalled.trans h.stalled,
    i.worlds.trans h.worlds, i.cycle.trans h.cycle, fun c => (i.dbg c).trans (h.dbg c)⟩

/-- The same of states that differ in one slot's group. -/
structure State.SlotFrame (k : Nat) (s t : State) : Prop extends s.BesideGroups t where
  others : ∀ j, j ≠ k → t.group j = s.group j

theorem State.SlotFrame.refl (k : Nat) (s : State) : s.SlotFrame k s := ⟨.refl s, fun _ _ => rfl⟩
theorem State.SlotFrame.trans {k : Nat} {s t u : State} (h : State.SlotFrame k s t) (i : State.SlotFrame k t u) : State.SlotFrame k s u :=
  ⟨h.toBesideGroups.trans i.toBesideGroups, fun j hj => (i.others j hj).trans (h.others j hj)⟩
theorem State.slotFrame_modGroup (s : State) (k : Nat) (f : Group → Group) : State.SlotFrame k s (s.modGroup k f) :=
  ⟨⟨s.sameServices_modGroup k f, rfl, rfl, rfl, rfl, rfl, rfl, fun _ => rfl⟩, fun _ hj => s.group_modGroup_ne f hj⟩
theorem State.slotFrame_modCore (s : State) (k c n : Nat) (f : Core → Core) : State.SlotFrame k s (s.modCore c n f) :=
  ⟨⟨s.sameServices_modCore c n f, rfl, rfl, rfl, rfl, rfl, rfl, fun d => s.cluster_modCluster_part c d _ (·.dbg) fun _ => rfl⟩, fun _ _ => rfl⟩

/-! ### The issue slot given up (R38, R39) -/

/-- A core whose issue slot is freed: the cycles that its word has waited are recorded. -/
def Core.slotFreed (share : List (Nat × Nat)) (c : Core) : Core :=
  { c.addShares share c.waited with holder := none, left := 0, ending := false, share := [], waited := 0 }

/-- A lane queue whose oldest run is at Head. -/
def headQueue (cycle : Word) : List Run → List Run
  | r :: rest => { r with head := some (r.head.getD cycle) } :: rest
  | [] => []

/-- A group with its lane queue changed. -/
def Group.modQueue (f : List Run → List Run) (g : Group) : Group := { g with lane := { g.lane with queue := f g.lane.queue } }

theorem State.issuingRun_iff (s : State) (k : Nat) : s.issuingRun k = true ↔ ((s.cluster (slotCluster k)).core (slotCore k)).holder = some k := beq_iff_eq

theorem State.releaseSlot_idle {s : State} {k : Nat} {g : Group} (hg : s.group k = some g) (h : s.issuingRun k = false) : s.releaseSlot k = s := by
  have hn : ((s.cluster (slotCluster k)).core (slotCore k)).holder ≠ some k := fun e => by rw [(s.issuingRun_iff k).2 e] at h; cases h
  simp only [State.releaseSlot, hg, if_pos hn]

theorem State.releaseSlot_holding {s : State} {k : Nat} {g : Group} (hg : s.group k = some g) (h : s.issuingRun k = true) :
    ∃ share, s.releaseSlot k = (s.modCore (slotCluster k) (slotCore k) (Core.slotFreed share)).modGroup k (Group.modQueue (headQueue s.cycle)) := by
  have hn : ¬((s.cluster (slotCluster k)).core (slotCore k)).holder ≠ some k := fun e => e ((s.issuingRun_iff k).1 h)
  simp only [State.releaseSlot, hg, if_neg hn]
  exact ⟨_, congrArg _ (funext fun _ => rfl)⟩

theorem State.slotFrame_releaseSlot (s : State) (k : Nat) : State.SlotFrame k s (s.releaseSlot k) := by
  cases hg : s.group k with
  | none => simp only [State.releaseSlot, hg]; exact s.slotFrame_modCore k _ _ _
  | some g =>
    cases hi : s.issuingRun k with
    | false => rw [State.releaseSlot_idle hg hi]; exact .refl k s
    | true =>
      obtain ⟨share, e⟩ := State.releaseSlot_holding hg hi
      rw [e]
      exact (s.slotFrame_modCore k _ _ _).trans (State.slotFrame_modGroup _ k _)

/-- A group that gives up the issue slot keeps all but its queue. -/
theorem State.group_releaseSlot {s : State} {k : Nat} {g : Group} (hg : s.group k = some g) :
    (s.releaseSlot k).group k = some (g.modQueue fun q => if s.issuingRun k then headQueue s.cycle q else q) := by
  cases hi : s.issuingRun k with
  | false => rw [State.releaseSlot_idle hg hi, hg]; rfl
  | true =>
    obtain ⟨share, e⟩ := State.releaseSlot_holding hg hi
    rw [e, State.group_modGroup_same, State.group_modCore, hg]; rfl

/-- A part of a core that a change keeps. -/
theorem State.core_modCore_part {α : Type} (s : State) (c n d m : Nat) (f : Core → Core) (part : Core → α) (h : ∀ x, part (f x) = part x) :
    part (((s.modCore c n f).cluster d).core m) = part ((s.cluster d).core m) :=
  s.cluster_modCluster_part c d _ (fun x => part (x.core m)) fun x => by
    by_cases hm : m = n
    · subst hm
      by_cases hl : m < 4
      · simp only [Cluster.core, vgetD_vmod_same _ _ _ _ hl, h]
      · simp only [Cluster.core, vgetD, vmod, hl, dif_neg, not_false_iff]
    · simp only [Cluster.core, vgetD_vmod_ne _ _ _ hm]

theorem State.issuingRun_modCore (s : State) (c n k : Nat) (f : Core → Core) (h : ∀ x, (f x).holder = x.holder) : (s.modCore c n f).issuingRun k = s.issuingRun k := by
  rw [State.issuingRun, State.issuingRun, s.core_modCore_part c n _ _ f (·.holder) h]

theorem State.issuingRun_modGroup (s : State) (k j : Nat) (f : Group → Group) : (s.modGroup k f).issuingRun j = s.issuingRun j := rfl

/-- The turn of the group that holds the slot of its core, ended: it gives the slot up, or keeps it for a while. -/
theorem State.endTurn_holding {s : State} {k : Nat} (h : s.issuingRun k = true) :
    s.endTurn (slotCluster k) (slotCore k) = s.releaseSlot k ∨ s.endTurn (slotCluster k) (slotCore k) = s := by
  simp only [State.endTurn, (s.issuingRun_iff k).1 h]
  split
  · exact .inl rfl
  · exact .inr rfl

/-! ### Runs discarded, and the state Exiting (R50, R152) -/

/-- The end of a turn that an Exiting group takes. -/
def State.endOwnTurn (s : State) (k : Nat) : State :=
  if s.issuingRun k then (s.modCore (slotCluster k) (slotCore k) fun c => { c with ending := true }).endTurn (slotCluster k) (slotCore k) else s

theorem State.discardRuns_eq (s : State) (k : Nat) : s.discardRuns k = (s.endOwnTurn k).modGroup k fun g =>
    { g with lane := { g.lane with queue := [] },
             hart := { g.hart with ld := g.hart.ld - (runCounts (unissued g.lane.queue)).1, st := g.hart.st - (runCounts (unissued g.lane.queue)).2 } } := by
  have e : decide (((s.cluster (slotCluster k)).core (slotCore k)).holder = some k) = s.issuingRun k := by
    rw [State.issuingRun, Bool.eq_iff_iff, decide_eq_true_iff, beq_iff_eq]
  simp only [State.discardRuns, e, State.endOwnTurn]

theorem State.endOwnTurn_effect {s : State} {k : Nat} {g : Group} (hg : s.group k = some g) :
    State.SlotFrame k s (s.endOwnTurn k) ∧ ∃ f, (s.endOwnTurn k).group k = some (g.modQueue f) := by
  unfold State.endOwnTurn
  cases hi : s.issuingRun k with
  | false => exact ⟨.refl k s, id, hg⟩
  | true =>
    rw [if_pos rfl]
    generalize hu : (s.modCore (slotCluster k) (slotCore k) fun c => { c with ending := true }) = u
    have hf : State.SlotFrame k s u := by rw [← hu]; exact s.slotFrame_modCore k _ _ _
    have hgu : u.group k = some g := by rw [← hu]; exact hg
    have hiu : u.issuingRun k = true := by rw [← hu, s.issuingRun_modCore _ _ _ (fun c => { c with ending := true }) fun _ => rfl, hi]
    rcases State.endTurn_holding hiu with e | e
    · rw [e]; exact ⟨hf.trans (u.slotFrame_releaseSlot k), _, State.group_releaseSlot hgu⟩
    · rw [e]; exact ⟨hf, id, hgu⟩

theorem Group.lane_retireBatches (g : Group) (ids : List Nat) : (g.retireBatches ids).lane = g.lane := by
  unfold Group.retireBatches; dsimp only; split <;> rfl

/-- A group as it enters Exiting, its runs discarded: its open matrix operations closed into a batch of this number (R50, R198, R236). -/
def Group.exiting (id : Nat) (ids : List Nat) (g : Group) : Group :=
  { (if g.openOps.isEmpty then g else (g.closeBatch id).retireBatches ids) with life := .exiting, tokens := Vector.replicate 16 none, owed := none }

theorem Group.lane_exiting (id : Nat) (ids : List Nat) (g : Group) : (g.exiting id ids).lane = g.lane := by
  unfold Group.exiting
  dsimp only
  split
  · rfl
  · rw [Group.lane_retireBatches]; rfl

theorem State.enterExiting_eq (s : State) (k : Nat) :
    s.enterExiting k = { (s.discardRuns k).modGroup k (Group.exiting s.nextId (s.cluster (slotCluster k)).mxIds) with nextId := s.nextId + 1 } := rfl

/-- A group that enters Exiting: no runs, no tokens; the rest of the machine is as it was. -/
theorem State.enterExiting_effect {s : State} {k : Nat} {g : Group} (hg : s.group k = some g) :
    State.SlotFrame k s (s.enterExiting k) ∧
    ∃ g', (s.enterExiting k).group k = some g' ∧ g'.life = .exiting ∧ g'.lane.queue = [] ∧ g'.tokens = Vector.replicate 16 none := by
  obtain ⟨hf, f, hgf⟩ := State.endOwnTurn_effect hg
  rw [s.enterExiting_eq, s.discardRuns_eq]
  have hn : ∀ (u : State) (n : Nat), State.SlotFrame k u { u with nextId := n } :=
    fun u n => ⟨⟨.of_clusters rfl rfl, rfl, rfl, rfl, rfl, rfl, rfl, fun _ => rfl⟩, fun _ _ => rfl⟩
  refine ⟨((hf.trans (State.slotFrame_modGroup _ k _)).trans (State.slotFrame_modGroup _ k _)).trans (hn _ _), ?_⟩
  have hgroup : ∀ (u : State) (n : Nat), State.group { u with nextId := n } k = u.group k := fun _ _ => rfl
  rw [hgroup, State.group_modGroup_same, State.group_modGroup_same, hgf]
  exact ⟨_, rfl, rfl, by rw [Group.lane_exiting], rfl⟩

end Sys2Proof.Machine
end

section
/-! SUPPORT. `gend`, the simple cases of `gresume`, and what runs again or stops while no trace is on (R50, R55, R356). -/
namespace Sys2Proof.Machine
open Sys2Proof

/-! ### `gend` (R356) -/

theorem State.trapRecord_lt (s : State) (k : Nat) : s.trapRecord k < 2 ^ 52 := Nat.mod_lt _ (by omega)

/-- A byte range of a trap record lies below the window region. -/
theorem State.trapRecord_low (s : State) (k : Nat) {n : Nat} (h : n ≤ 0x1000) : s.trapRecord k + n ≤ Config.windowKey := by
  have h1 := s.trapRecord_lt k
  have h2 : Config.windowKey = 2 ^ 53 := rfl
  omega

/-- The word that `gend` leaves of a trap record: its valid bit clear (R356). -/
def State.droppedWord (s : State) (k : Nat) : List Byte := leBytes 8 (s.readNat (s.trapRecord k) 8 - 2 ^ 16)

theorem State.dropCalls_eq (s : State) (k : Nat) :
    s.dropCalls k = if (s.readNat (s.trapRecord k) 8).testBit 16 then s.agentPut (s.trapRecord k) (s.droppedWord k) else s := rfl

theorem State.stored_dropCalls (s : State) (k : Nat) : s.Stored (s.dropCalls k) := by
  rw [s.dropCalls_eq]
  split
  · exact s.stored_agentPut _ _
  · exact .refl s

theorem State.groups_dropCalls (s : State) (k : Nat) : (s.dropCalls k).groups = s.groups := by
  rw [s.dropCalls_eq]
  split
  · exact s.groups_agentPut_low _ (by rw [State.droppedWord, length_leBytes]; exact s.trapRecord_low k (by omega))
  · rfl

/-- A write of physical memory waits for nothing but its page: no accumulator lies there. -/
theorem State.writeWaits_low (s : State) {k n : Nat} (h : k + n ≤ Config.windowKey) (hn : 0 < n) : s.writeWaits k n = s.moving k n := by
  have hw : ∀ j < Config.windowKey, s.accBusy j = false := fun j hj => by
    have e : winOf j = none := by unfold winOf; rw [if_neg]; omega
    simp only [State.accBusy, e]
  rw [State.writeWaits, State.accHeld, hw k (by omega), hw (k + n - 1) (by omega), Bool.or_self, Bool.or_false]

theorem testBit_sub_two_pow {x n : Nat} (h : x.testBit n = true) : (x - 2 ^ n).testBit n = false := by
  have hle : 2 ^ n ≤ x := Nat.ge_two_pow_of_testBit h
  obtain ⟨y, rfl⟩ := Nat.exists_eq_add_of_le hle
  rw [Nat.testBit_two_pow_add_eq] at h
  rw [Nat.add_sub_cancel_left]
  simpa using h

/-- A record whose page is not moving is not valid any more once its calls are dropped. -/
theorem State.valid_dropCalls (s : State) (k : Nat) (hc : s.Canonical) (hp : ∀ i < 8, tagByte (s.trapRecord k + i) = none ∧ worldByte (s.trapRecord k + i) = none)
    (hm : s.moving (s.trapRecord k) 8 = false) (hw : ∀ z ∈ s.stalled, z.meets (s.trapRecord k) 8 = false) :
    ((s.dropCalls k).readNat (s.trapRecord k) 8).testBit 16 = false := by
  rw [s.dropCalls_eq]
  split
  next hv =>
    have hlen : (s.droppedWord k).length = 8 := length_leBytes _ _
    have hlow := s.trapRecord_low k (show 8 ≤ 0x1000 by omega)
    have hput : s.agentPut (s.trapRecord k) (s.droppedWord k) = s.writeKeys (s.trapRecord k) (s.droppedWord k) := by
      have e : (s.writeWaits (s.trapRecord k) 8 || s.stalled.any fun z => z.meets (s.trapRecord k) 8) = false := by
        rw [s.writeWaits_low hlow (by omega), hm, Bool.false_or]
        exact List.any_eq_false.2 fun z hz => by simp [hw z hz]
      unfold State.agentPut State.agentWrite
      simp only [StallWrite.len, hlen, e, Bool.false_eq_true, if_false, State.perform]
    have hread := s.readNat_writeKeys_plain (k := s.trapRecord k) (s.droppedWord k) hc.1 fun i hi => by
      rw [hlen] at hi
      exact ⟨by omega, hp i hi⟩
    rw [hlen, State.droppedWord, leNat_leBytes, Nat.mod_eq_of_lt (Nat.lt_of_le_of_lt (Nat.sub_le _ _) (s.readNat_lt _ 8))] at hread
    rw [hput, State.droppedWord, hread]
    exact testBit_sub_two_pow hv
  next hv => exact Bool.eq_false_iff.2 hv

theorem State.stalled_dropCalls (s : State) (k : Nat) (hv : (s.readNat (s.trapRecord k) 8).testBit 16 = true) (hm : s.moving (s.trapRecord k) 8 = true) :
    (⟨s.trapRecord k, .put (s.droppedWord k)⟩ : Stall) ∈ (s.dropCalls k).stalled := by
  have hlen : (s.droppedWord k).length = 8 := length_leBytes _ _
  have e : s.writeWaits (s.trapRecord k) 8 = true := (s.writeWaits_low (s.trapRecord_low k (by omega)) (by omega)).trans hm
  rw [s.dropCalls_eq, if_pos hv]
  unfold State.agentPut State.agentWrite
  simp only [StallWrite.len, hlen, e, Bool.true_or, if_true]
  exact List.mem_append_right _ List.mem_cons_self

/-- What `gend` makes of a Stopped or Trapped group (R356). -/
theorem gend_ends {s : State} {c k : Nat} {a : BitVec 6} {g : Group} (h : s.Names c a k g) (hl : g.life = .stopped ∨ g.life = .trapped) :
    ∃ t g', exec (.gend a) s = .next t ∧ t.group k = some g' ∧ g'.life = .exiting ∧ g'.lane.queue = [] ∧ g'.tokens = Vector.replicate 16 none ∧
      t.hart = { s.hart with pc := s.pc + 4 } ∧ (∀ j, j ≠ k → t.group j = s.group j) ∧
      (s.Canonical → (∀ i < 8, tagByte (s.trapRecord k + i) = none ∧ worldByte (s.trapRecord k + i) = none) → s.moving (s.trapRecord k) 8 = false →
        (∀ z ∈ s.stalled, z.meets (s.trapRecord k) 8 = false) → (t.readNat (s.trapRecord k) 8).testBit 16 = false) ∧
      ((s.readNat (s.trapRecord k) 8).testBit 16 = true → s.moving (s.trapRecord k) 8 = true →
        (⟨s.trapRecord k, .put (leBytes 8 (s.readNat (s.trapRecord k) 8 - 2 ^ 16))⟩ : Stall) ∈ t.stalled) := by
  have hhalt : g.halted = true := by rcases hl with e | e <;> simp [Group.halted, e]
  have hgroup : ∀ j, (s.dropCalls k).group j = s.group j := fun j => by rw [State.group, s.groups_dropCalls]; rfl
  obtain ⟨hf, g', hg', hlife, hq, htok⟩ := State.enterExiting_effect ((hgroup k).trans h.here)
  have hs := (s.stored_dropCalls k).sameServices.trans hf.toSameServices
  have ha := State.advancedFrom (hs.asService h.service).1
  refine ⟨((s.dropCalls k).enterExiting k).advance, g', ?_, ?_, hlife, hq, htok, hs.hart_advance h.service, fun j hj => ?_, fun hcan hp hm hw => ?_, fun hv hm => ?_⟩
  · rw [show exec (.gend a) s = execGend a s from rfl, execGend, State.handleOp_named h, if_pos hhalt]
  · rw [State.group, ha.groups]; exact hg'
  · rw [State.group, ha.groups]; exact (hf.others j hj).trans (hgroup j)
  · rw [State.readNat_low_congr (s.trapRecord_low k (by omega)) (ha.mem.trans hf.mem) (ha.tags.trans hf.tags) (ha.worlds.trans hf.worlds)]
    exact s.valid_dropCalls k hcan hp hm hw
  · rw [ha.stalled, hf.stalled]; exact s.stalled_dropCalls k hv hm

theorem gend_refused {s : State} {c k : Nat} {a : BitVec 6} {g : Group} (h : s.Names c a k g) (h1 : g.life ≠ .stopped) (h2 : g.life ≠ .trapped) :
    DidIn s (s.markStale c) (exec (.gend a) s) s.hart := by
  have e : g.halted = false := by simp [Group.halted, h1, h2]
  rw [show exec (.gend a) s = execGend a s from rfl, execGend, State.handleOp_named h, e, if_neg (by simp)]
  exact State.didIn_markStale h.service

/-! ### `gresume` (R356) -/

/-- `gresume` on a group that is Stopped or Trapped: it waits for earlier accesses, and with a trap's results for the record's page. -/
theorem gresume_eq {s : State} {c k : Nat} {a : BitVec 6} {g : Group} (h : s.Names c a k g) :
    exec (.gresume a) s = if g.halted then
        if !s.released || (g.life == .trapped && s.trapHeld k) then .next s
        else .next (if g.life = .stopped then s.resumeStopped (slotCluster k) k else s.resumeTrapped k).advance
      else .next (s.markStale c).advance := State.handleOp_named h _ _

theorem gresume_refused {s : State} {c k : Nat} {a : BitVec 6} {g : Group} (h : s.Names c a k g) (h1 : g.life ≠ .stopped) (h2 : g.life ≠ .trapped) :
    DidIn s (s.markStale c) (exec (.gresume a) s) s.hart := by
  have e : g.halted = false := by simp [Group.halted, h1, h2]
  rw [gresume_eq h, e, if_neg (by simp)]
  exact State.didIn_markStale h.service

theorem gresume_unreleased {s : State} {c k : Nat} {a : BitVec 6} {g : Group} (h : s.Names c a k g) (hr : s.released = false)
    (hl : g.life = .stopped ∨ g.life = .trapped) : exec (.gresume a) s = .next s := by
  have e : g.halted = true := by rcases hl with e | e <;> simp [Group.halted, e]
  rw [gresume_eq h, if_pos e, hr, if_pos (by simp)]

theorem gresume_record_moving {s : State} {c k : Nat} {a : BitVec 6} {g : Group} (h : s.Names c a k g) (hl : g.life = .trapped)
    (hm : s.moving (s.trapRecord k) 0x1000 = true) : exec (.gresume a) s = .next s := by
  have e : g.halted = true := by simp [Group.halted, hl]
  have hh : s.trapHeld k = true := hm
  rw [gresume_eq h, if_pos e, hl, hh, if_pos (by simp)]

theorem gresume_stopped {s : State} {c k : Nat} {a : BitVec 6} {g : Group} (h : s.Names c a k g) (hr : s.released = true) (hl : g.life = .stopped) :
    DidIn s ((s.modCluster c fun cl => { cl with dbg := { cl.dbg with stepctl := 0 } }).modGroup k fun g =>
      { g with life := .running, stepping := { g.stepping with mode := (s.cluster c).dbg.stepctl.toNat, pending := false, first := s.nextId } })
      (exec (.gresume a) s) s.hart := by
  have e : g.halted = true := by simp [Group.halted, hl]
  rw [gresume_eq h, if_pos e, hr, hl, if_neg (by simp), if_pos rfl, h.home]
  have h1 := s.sameServices_modCluster c (fun cl => { cl with dbg := { cl.dbg with stepctl := 0 } }) fun _ => rfl
  exact State.SameServices.didIn (h1.trans (State.sameServices_modGroup _ k _)) h.service

/-! ### A stop without a trace (R55, R62) -/

theorem State.trace_off {s : State} {k : Nat} (h : (s.cluster (slotCluster k)).dbg.ctl.getLsbD 0 = false) (kind : Nat) (cause : BitVec 8) (lane : Bool) :
    s.trace k kind cause lane = s := by
  have e : (s.cluster (slotCluster k)).dbg.traceOn = false := by rw [Debug.traceOn, h]; rfl
  unfold State.trace
  split
  · rfl
  · simp only [e, Bool.not_false, if_true]

theorem State.sameServices_count (s : State) (cl core ev n : Nat) : s.SameServices (s.count cl core ev n) := by
  unfold State.count
  split
  · exact .refl s
  · exact s.sameServices_modCore _ _ _

theorem State.group_count (s : State) (cl core ev n k : Nat) : (s.count cl core ev n).group k = s.group k := by
  unfold State.count; split <;> rfl

/-- A group stopped while no trace runs keeps its vector registers and predicates. -/
theorem State.stopGroup_effect {s : State} {k : Nat} {g : Group} (hg : s.group k = some g) (ht : (s.cluster (slotCluster k)).dbg.ctl.getLsbD 0 = false)
    (lane : Bool) (cause : BitVec 8) (faddr : Word) (flanes : VBits) :
    s.SameServices (s.stopGroup k lane cause faddr flanes) ∧
    ∃ g', (s.stopGroup k lane cause faddr flanes).group k = some g' ∧ g'.lane.v = g.lane.v ∧ g'.lane.p = g.lane.p := by
  rw [State.stopGroup, hg]
  dsimp only
  generalize hu : s.modGroup k _ = u
  have hfu : State.SlotFrame k s u := by rw [← hu]; exact s.slotFrame_modGroup k _
  obtain ⟨g1, hg1, hv, hp⟩ : ∃ g1, u.group k = some g1 ∧ g1.lane.v = g.lane.v ∧ g1.lane.p = g.lane.p := by
    rw [← hu, State.group_modGroup_same, hg]; exact ⟨_, rfl, rfl, rfl⟩
  have hf := hfu.trans (u.slotFrame_releaseSlot k)
  rw [State.trace_off (by rw [hf.dbg]; exact ht)]
  have hev := State.sameServices_event (u.releaseSlot k) (slotCluster k) 1 cause (handleOf k g) 0
  have hrel := State.group_releaseSlot hg1
  split
  · exact ⟨(hf.toSameServices.trans hev).trans (State.sameServices_count _ _ _ _ _), _, (State.group_count _ _ _ _ _ _).trans hrel, hv, hp⟩
  · exact ⟨hf.toSameServices.trans hev, _, hrel, hv, hp⟩

/-- A group that runs again, and then stops if it owes a stop, while no trace runs. -/
theorem State.runAgain_effect {s : State} {k : Nat} {g : Group} (hg : s.group k = some g) (ht : (s.cluster (slotCluster k)).dbg.ctl.getLsbD 0 = false) :
    s.SameServices (s.runAgain k) ∧
    ∃ g', (s.runAgain k).group k = some g' ∧ g'.lane.v = g.lane.v ∧ g'.lane.p = g.lane.p ∧ (g.owed = none → g'.life = .running) := by
  rw [State.runAgain, hg]
  dsimp only
  have hs := s.sameServices_modGroup k fun g => { g with life := .running, owed := none }
  have hg1 : (s.modGroup k fun g => { g with life := .running, owed := none }).group k = some { g with life := .running, owed := none } := by
    rw [State.group_modGroup_same, hg]; rfl
  cases ho : g.owed with
  | none => exact ⟨hs, _, hg1, rfl, rfl, fun _ => rfl⟩
  | some e =>
    obtain ⟨hs2, g', hg', hv, hp⟩ := State.stopGroup_effect hg1 ht true e.1 e.2.1 e.2.2
    exact ⟨hs.trans hs2, g', hg', hv, hp, fun h => by cases h⟩

end Sys2Proof.Machine
end

section
/-! SUPPORT. `gresume` on a Trapped group: the delivery of its results (R356). -/
namespace Sys2Proof.Machine
open Sys2Proof

/-! ### The delivery of a trap's results (R356) -/

/-- The calls of a record that are done and not yet delivered. -/
def State.trapNew (s : State) (r i : Nat) : Bool := (s.trapDone r).testBit i && !(s.trapDelivered r).testBit i

/-- The results of calls in `v8` and `v9`. -/
def LaneState.putCalls (l : LaneState) (is : List Nat) (x y : Nat → Nat) : LaneState :=
  is.foldl (fun l i => (l.setElem 8 64 i (x i)).setElem 9 64 i (y i)) l

/-- The element of a call that is put is its result; the others stay. -/
theorem LaneState.elem_putCalls (l : LaneState) (is : List Nat) (x y : Nat → Nat) (h : ∀ i ∈ is, i < 32) {i : Nat} (hi : i < 32) :
    (l.putCalls is x y).elem 8 64 i = (if i ∈ is then x i % 2 ^ 64 else l.elem 8 64 i) ∧
    (l.putCalls is x y).elem 9 64 i = (if i ∈ is then y i % 2 ^ 64 else l.elem 9 64 i) := by
  induction is generalizing l with
  | nil => exact ⟨rfl, rfl⟩
  | cons j is ih =>
    have hj := h j List.mem_cons_self
    obtain ⟨h8, h9⟩ := ih ((l.setElem 8 64 j (x j)).setElem 9 64 j (y j)) fun k hk => h k (List.mem_cons_of_mem _ hk)
    have e : (l.putCalls (j :: is) x y) = ((l.setElem 8 64 j (x j)).setElem 9 64 j (y j)).putCalls is x y := rfl
    rw [e, h8, h9]
    simp only [LaneState.elem_setElem _ _ (show 8 < 64 by omega) hi hj, LaneState.elem_setElem _ _ (show 9 < 64 by omega) hi hj, List.mem_cons]
    by_cases hij : i = j
    · subst hij; simp
    · simp [hij]

/-- The two results of call i in a record, for `v8` and `v9` (R355). -/
def State.callResult (s : State) (r i : Nat) : Nat := s.readNat (r + 0x680 + 16 * i) 8
/-- See `callResult`. -/
def State.callResult2 (s : State) (r i : Nat) : Nat := s.readNat (r + 0x688 + 16 * i) 8

/-- A group with the results of some calls of a record. -/
def Group.withCalls (s : State) (r : Nat) (is : List Nat) (g : Group) : Group :=
  { g with lane := g.lane.putCalls is (s.callResult r) (s.callResult2 r) }

/-- The results of a record's new calls in the registers of a slot's group. -/
def State.withResults (s : State) (k : Nat) : State :=
  s.modGroup k (Group.withCalls s (s.trapRecord k) ((List.range 32).filter (s.trapNew (s.trapRecord k))))

/-- The delivered mask with the calls that are done. -/
def State.trapGot (s : State) (r : Nat) : Nat := s.trapDelivered r ||| s.trapDone r % 2 ^ 32

theorem State.trapGot_eq (s : State) (r : Nat) :
    s.trapDelivered r ||| (((List.range 32).filter (s.trapNew r)).map fun i => 2 ^ i).sum = s.trapGot r := by
  apply Nat.eq_of_testBit_eq; intro i
  rw [State.trapGot, Nat.testBit_or, Nat.testBit_or, (testBit_sum_pow _ 32).2, Nat.testBit_mod_two_pow, State.trapNew]
  cases (s.trapDelivered r).testBit i <;> simp

/-- A trap's condition with the calls that are done: every call, or for `trap.any` any. -/
def State.trapMet (s : State) (r : Nat) : Bool := ((s.readNat r 8).testBit 8 && s.trapGot r != 0) || s.trapGot r == s.trapElems r

/-- The record with its results delivered. -/
def State.withDelivery (s : State) (k : Nat) : State := (s.withResults k).recordPut (s.trapRecord k) 0x28 (leBytes 16 (s.trapGot (s.trapRecord k)))

theorem State.deliverCalls_eq (s : State) (k : Nat) :
    s.deliverCalls k = if s.trapMet (s.trapRecord k) then
        (if (s.readNat (s.trapRecord k) 8).testBit 8 then
          (s.withDelivery k).putPred k (s.readNat (s.trapRecord k) 8 / 2 ^ 9 % 128) (s.trapGot (s.trapRecord k)) else s.withDelivery k, true)
      else (s.withDelivery k, false) := by
  have hput : ∀ l : List Nat, s.putResults k (l.map fun i => (i, s.callResult (s.trapRecord k) i, s.callResult2 (s.trapRecord k) i)) =
      s.modGroup k (Group.withCalls s (s.trapRecord k) l) := fun l => by
    simp only [State.putResults, List.foldl_map]; rfl
  have hgot := s.trapGot_eq (s.trapRecord k)
  have hnew : ((List.range 32).filter fun i => (s.trapDone (s.trapRecord k)).testBit i && !(s.trapDelivered (s.trapRecord k)).testBit i) =
      (List.range 32).filter (s.trapNew (s.trapRecord k)) := rfl
  have hpred : bitsOf (s.readNat (s.trapRecord k) 8) 15 9 = s.readNat (s.trapRecord k) 8 / 2 ^ 9 % 128 := bitsOf_eq _ _ _
  simp only [State.callResult, State.callResult2] at hput
  simp only [State.deliverCalls, hnew, hput, hgot, hpred]
  rfl

theorem State.trapMet_iff (s : State) (r : Nat) :
    s.trapMet r = true ↔ s.trapGot r = s.trapElems r ∨ (s.readNat r 8).testBit 8 = true ∧ s.trapGot r ≠ 0 := by
  rw [State.trapMet, Bool.or_eq_true, Bool.and_eq_true, beq_iff_eq, bne_iff_ne, or_comm]

theorem State.sameServices_putPred (s : State) (k n bits : Nat) : s.SameServices (s.putPred k n bits) := by
  unfold State.putPred
  split
  · exact .refl s
  · exact s.sameServices_modGroup k _

theorem State.groups_recordPut_low (s : State) {a off : Nat} (bs : List Byte) (h : a + off + bs.length ≤ Config.windowKey) (ha : a + 0x30 < Config.windowKey) :
    (s.recordPut a off bs).groups = s.groups := by
  rw [State.recordPut, State.groups_keySetTag_low _ _ ha, s.groups_writeKeys_low bs h]

theorem State.sameServices_withDelivery (s : State) (k : Nat) : s.SameServices (s.withDelivery k) :=
  (s.sameServices_modGroup k _).trans (State.stored_recordPut _ _ _ _).sameServices

theorem State.group_withDelivery {s : State} {k : Nat} {g : Group} (hg : s.group k = some g) :
    (s.withDelivery k).group k = some (g.withCalls s (s.trapRecord k) ((List.range 32).filter (s.trapNew (s.trapRecord k)))) := by
  have hlow := s.trapRecord_low k (show 0x1000 ≤ 0x1000 by omega)
  rw [State.group, State.withDelivery, State.groups_recordPut_low _ _ (by rw [length_leBytes]; omega) (by omega)]
  exact (State.group_modGroup_same s k _).trans (by rw [hg]; rfl)

/-- What a delivery writes to a group: the results, and for `trap.any` whose condition holds the predicate. -/
theorem State.deliverCalls_effect {s : State} {k : Nat} {g : Group} (hg : s.group k = some g) :
    (s.deliverCalls k).2 = s.trapMet (s.trapRecord k) ∧ s.SameServices (s.deliverCalls k).1 ∧ (∀ c, ((s.deliverCalls k).1.cluster c).dbg = (s.cluster c).dbg) ∧
    ∃ g', (s.deliverCalls k).1.group k = some g' ∧ g'.life = g.life ∧ g'.owed = g.owed ∧
      g'.lane.v = (g.withCalls s (s.trapRecord k) ((List.range 32).filter (s.trapNew (s.trapRecord k)))).lane.v ∧
      ((s.readNat (s.trapRecord k) 8).testBit 8 = true → s.trapGot (s.trapRecord k) ≠ 0 → ∀ n, n = s.readNat (s.trapRecord k) 8 / 2 ^ 9 % 128 → 0 < n → n < 96 →
        vgetD g'.lane.p n 0 = BitVec.ofNat 2048 (s.trapGot (s.trapRecord k))) := by
  have hd := State.group_withDelivery hg
  have hs := s.sameServices_withDelivery k
  have hdbg : ∀ c, ((s.withDelivery k).cluster c).dbg = (s.cluster c).dbg := fun c => by
    rw [State.withDelivery, (State.stored_recordPut _ _ _ _).cluster]; rfl
  rw [s.deliverCalls_eq]
  split
  next hmet =>
    split
    next hany =>
      refine ⟨hmet.symm, hs.trans (State.sameServices_putPred _ _ _ _), fun c => ?_, ?_⟩
      · rw [← hdbg c]; unfold State.putPred; split <;> rfl
      · unfold State.putPred
        split
        next h0 => exact ⟨_, hd, rfl, rfl, rfl, fun _ _ n hn hp => by omega⟩
        next h0 =>
          rw [State.group_modGroup_same, hd, Option.map_some]
          refine ⟨_, rfl, rfl, rfl, rfl, fun _ _ n hn hp h96 => ?_⟩
          rw [← hn]
          exact vgetD_vset_same _ _ _ _ h96
    next hany => exact ⟨hmet.symm, hs, hdbg, _, hd, rfl, rfl, rfl, fun h => absurd h hany⟩
  next hmet =>
    refine ⟨(Bool.eq_false_iff.2 hmet).symm, hs, hdbg, _, hd, rfl, rfl, rfl, fun h1 h2 => ?_⟩
    exact absurd ((s.trapMet_iff _).2 (.inr ⟨h1, h2⟩)) hmet

/-- A Trapped group given its results, while no trace runs. -/
theorem State.resumeTrapped_effect {s : State} {k : Nat} {g : Group} (hg : s.group k = some g) (hl : g.life = .trapped)
    (ht : (s.cluster (slotCluster k)).dbg.ctl.getLsbD 0 = false) :
    s.SameServices (s.resumeTrapped k) ∧ ∃ g', (s.resumeTrapped k).group k = some g' ∧
      (g.owed = none → (g'.life = .running ↔ s.trapMet (s.trapRecord k) = true)) ∧
      g'.lane.v = (g.withCalls s (s.trapRecord k) ((List.range 32).filter (s.trapNew (s.trapRecord k)))).lane.v ∧
      ((s.readNat (s.trapRecord k) 8).testBit 8 = true → s.trapGot (s.trapRecord k) ≠ 0 → ∀ n, n = s.readNat (s.trapRecord k) 8 / 2 ^ 9 % 128 → 0 < n → n < 96 →
        vgetD g'.lane.p n 0 = BitVec.ofNat 2048 (s.trapGot (s.trapRecord k))) := by
  obtain ⟨hmet, hs, hdbg, g1, hg1, hl1, ho1, hv1, hp1⟩ := State.deliverCalls_effect hg
  have ht1 : ((s.deliverCalls k).1.cluster (slotCluster k)).dbg.ctl.getLsbD 0 = false := by rw [hdbg]; exact ht
  rw [State.resumeTrapped, State.trace_off ht1, hmet]
  split
  next hm =>
    obtain ⟨hs2, g2, hg2, hv2, hp2, hrun⟩ := State.runAgain_effect hg1 ht1
    refine ⟨hs.trans hs2, g2, hg2, fun ho => ⟨fun _ => hm, fun _ => hrun (ho1.trans ho)⟩, hv2.trans hv1, ?_⟩
    rw [hp2]; exact hp1
  next hm =>
    refine ⟨hs, g1, hg1, fun _ => ⟨fun h => ?_, fun h => absurd h hm⟩, hv1, hp1⟩
    rw [hl1, hl] at h; cases h

/-- Element i of `v8` and `v9` of a group with the results of a record's new calls. -/
theorem Group.elem_withCalls (s : State) (r : Nat) (g : Group) {i : Nat} (hi : i < 32) :
    let new := (s.trapDone r).testBit i = true ∧ (s.trapDelivered r).testBit i = false
    (g.withCalls s r ((List.range 32).filter (s.trapNew r))).lane.elem 8 64 i = (if new then s.readNat (r + 0x680 + 16 * i) 8 else g.lane.elem 8 64 i) ∧
    (g.withCalls s r ((List.range 32).filter (s.trapNew r))).lane.elem 9 64 i = (if new then s.readNat (r + 0x688 + 16 * i) 8 else g.lane.elem 9 64 i) := by
  intro new
  have hmem : i ∈ (List.range 32).filter (s.trapNew r) ↔ new := by simp [State.trapNew, hi, new]
  obtain ⟨h8, h9⟩ := g.lane.elem_putCalls ((List.range 32).filter (s.trapNew r)) (s.callResult r) (s.callResult2 r)
    (fun j hj => List.mem_range.1 (List.mem_of_mem_filter hj)) hi
  have hx : ∀ a, s.readNat a 8 % 2 ^ 64 = s.readNat a 8 := fun a => Nat.mod_eq_of_lt (s.readNat_lt a 8)
  simp only [hmem, State.callResult, State.callResult2, hx] at h8 h9
  exact ⟨h8, h9⟩

/-- An element is read from the registers alone. -/
theorem LaneState.elem_congr {l l' : LaneState} (h : l.v = l'.v) (n w k : Nat) : l.elem n w k = l'.elem n w k := by
  rw [LaneState.elem, LaneState.elem, LaneState.vreg, LaneState.vreg, h]

/-- `gresume` on a Trapped group (R356). -/
theorem gresume_delivers {s : State} {c k : Nat} {a : BitVec 6} {g : Group} (h : s.Names c a k g) (hr : s.released = true) (hl : g.life = .trapped)
    (hm : s.moving (s.trapRecord k) 0x1000 = false) (ht : (s.cluster c).dbg.ctl.getLsbD 0 = false) :
    let r := s.trapRecord k
    let any := (s.readNat r 8).testBit 8
    ∃ t g', exec (.gresume a) s = .next t ∧ t.group k = some g' ∧ t.hart = { s.hart with pc := s.pc + 4 } ∧
      (g.owed = none → (g'.life = .running ↔ s.trapGot r = s.trapElems r ∨ any = true ∧ s.trapGot r ≠ 0)) ∧
      (∀ i < 32, let new := (s.trapDone r).testBit i = true ∧ (s.trapDelivered r).testBit i = false
        g'.lane.elem 8 64 i = (if new then s.readNat (r + 0x680 + 16 * i) 8 else g.lane.elem 8 64 i) ∧
        g'.lane.elem 9 64 i = (if new then s.readNat (r + 0x688 + 16 * i) 8 else g.lane.elem 9 64 i)) ∧
      (any = true → s.trapGot r ≠ 0 → ∀ n, n = s.readNat r 8 / 2 ^ 9 % 128 → 0 < n → n < 96 → vgetD g'.lane.p n 0 = BitVec.ofNat 2048 (s.trapGot r)) := by
  intro r any
  have hhalt : g.halted = true := by simp [Group.halted, hl]
  have hheld : s.trapHeld k = false := hm
  obtain ⟨hs, g', hg', hrun, hv, hp⟩ := State.resumeTrapped_effect h.here hl (by rw [h.home]; exact ht)
  have ha := State.advancedFrom (hs.asService h.service).1
  refine ⟨(s.resumeTrapped k).advance, g', ?_, ?_, hs.hart_advance h.service, fun ho => (hrun ho).trans (s.trapMet_iff r), fun i hi => ?_, hp⟩
  · rw [gresume_eq h, if_pos hhalt, hr, hl, hheld, if_neg (by simp), if_neg (by simp)]
  · rw [State.group, ha.groups]; exact hg'
  · rw [LaneState.elem_congr hv, LaneState.elem_congr hv]
    exact g.elem_withCalls s r hi

end Sys2Proof.Machine
end

section
/-! SUPPORT. The groups of a team, and how they stop issuing when its save begins (R55, R379, R381). -/
namespace Sys2Proof.Machine
open Sys2Proof

/-! ### The groups of a team -/

theorem State.mem_teamGroups (s : State) (id : Nat) (p : Nat × Group) : p ∈ s.teamGroups id ↔ p ∈ s.groups ∧ p.2.team = id ∧ p.2.index < 16 := by
  simp only [State.teamGroups, List.mem_flatMap, List.mem_range, List.mem_filter, beq_iff_eq]
  constructor
  · rintro ⟨i, hi, ⟨hp, ht⟩, rfl⟩; exact ⟨hp, ht, hi⟩
  · rintro ⟨hp, ht, hi⟩; exact ⟨_, hi, ⟨hp, ht⟩, rfl⟩

/-- In a canonical state a team lists each of its slots once. -/
theorem State.nodup_teamGroups {s : State} (h : Rising s.groups) (id : Nat) : ((s.teamGroups id).map (·.1)).Nodup := by
  have hnd : s.groups.Nodup := List.Pairwise.imp (fun hlt e => by rw [e] at hlt; exact Nat.lt_irrefl _ hlt) h
  have hteam : (s.teamGroups id).Nodup := by
    refine List.nodup_flatMap.2 ⟨fun i _ => (hnd.filter _).filter _, List.Pairwise.imp (fun hij => ?_) List.nodup_range⟩
    intro p hp hq
    simp only [List.mem_filter, beq_iff_eq] at hp hq
    exact hij (hp.2.symm.trans hq.2)
  refine hteam.map_on fun p hp q hq hpq => ?_
  have hp' := (mem_iff_mapGet h p.1 p.2).1 ((s.mem_teamGroups id p).1 hp).1
  have hq' := (mem_iff_mapGet h q.1 q.2).1 ((s.mem_teamGroups id q).1 hq).1
  rw [hpq, hq'] at hp'
  exact Prod.ext hpq (Option.some.inj hp').symm

/-- A least value over a list, from a bound on. -/
theorem foldl_min {α : Type} (f : α → Nat) (l : List α) (m : Nat) :
    l.foldl (fun m p => min m (f p)) m ≤ m ∧ (∀ p ∈ l, l.foldl (fun m p => min m (f p)) m ≤ f p) ∧
    (l.foldl (fun m p => min m (f p)) m = m ∨ ∃ p ∈ l, l.foldl (fun m p => min m (f p)) m = f p) := by
  induction l generalizing m with
  | nil => exact ⟨Nat.le_refl _, fun _ h => absurd h List.not_mem_nil, .inl rfl⟩
  | cons a l ih =>
    obtain ⟨h1, h2, h3⟩ := ih (min m (f a))
    rw [List.foldl_cons]
    refine ⟨by omega, fun p hp => ?_, ?_⟩
    · rcases List.mem_cons.1 hp with rfl | hp
      · omega
      · exact h2 p hp
    · rcases h3 with h3 | ⟨p, hp, h3⟩
      · by_cases hm : m ≤ f a
        · exact .inl (by omega)
        · exact .inr ⟨a, List.mem_cons_self, by omega⟩
      · exact .inr ⟨p, List.mem_cons_of_mem _ hp, h3⟩

/-! ### Groups that stop issuing for a save (R55, R379, R381) -/

theorem State.core_modCore_same (s : State) {c n : Nat} (f : Core → Core) (hc : c < Config.nClusters) (hn : n < 4) :
    ((s.modCore c n f).cluster c).core n = f ((s.cluster c).core n) := by
  rw [State.modCore, s.cluster_modCluster_same _ _ hc]
  exact vgetD_vmod_same _ _ _ _ hn

theorem State.core_modCore_ne (s : State) {c n d m : Nat} (f : Core → Core) (h : d ≠ c ∨ m ≠ n) : ((s.modCore c n f).cluster d).core m = (s.cluster d).core m := by
  by_cases hd : d = c
  · subst hd
    exact s.cluster_modCluster_part d d _ (fun x => x.core m) fun x => vgetD_vmod_ne _ _ _ (h.resolve_left (fun e => e rfl))
  · rw [State.modCore, s.cluster_modCluster_ne _ hd]

/-- A group that holds an issue slot sits in one of the 192 clusters. -/
theorem State.slotCluster_lt_of_issuingRun {s : State} {k : Nat} (h : s.issuingRun k = true) : slotCluster k < Config.nClusters := by
  by_contra hn
  have e : s.cluster (slotCluster k) = .reset := by simp only [State.cluster, vgetD, dif_neg hn]
  have hcore : Cluster.reset.core (slotCore k) = .reset := by
    simp only [Cluster.core, Cluster.reset, vgetD, Vector.getElem_replicate]
    split <;> rfl
  rw [s.issuingRun_iff, e, hcore] at h
  cases h

theorem State.issuingRun_releaseSlot {s : State} {k : Nat} {g : Group} (hg : s.group k = some g) (j : Nat) :
    (s.releaseSlot k).issuingRun j = if j = k then false else s.issuingRun j := by
  cases hi : s.issuingRun k with
  | false =>
    rw [State.releaseSlot_idle hg hi]
    split
    next e => rw [e, hi]
    next => rfl
  | true =>
    obtain ⟨share, e⟩ := State.releaseSlot_holding hg hi
    have hfree : ((s.modCore (slotCluster k) (slotCore k) (Core.slotFreed share)).cluster (slotCluster k)).core (slotCore k) =
        Core.slotFreed share ((s.cluster (slotCluster k)).core (slotCore k)) :=
      s.core_modCore_same _ (State.slotCluster_lt_of_issuingRun hi) (Nat.mod_lt _ (by omega))
    rw [e, State.issuingRun_modGroup, State.issuingRun]
    by_cases hcore : slotCluster j = slotCluster k ∧ slotCore j = slotCore k
    · have hj : s.issuingRun j = if j = k then true else false := by
        rw [State.issuingRun, hcore.1, hcore.2, (s.issuingRun_iff k).1 hi]
        by_cases hjk : j = k
        · simp [hjk]
        · simp [hjk, Ne.symm hjk]
      rw [hcore.1, hcore.2, hfree, hj]
      split <;> rfl
    · rw [s.core_modCore_ne _ (by tauto)]
      by_cases hjk : j = k
      · subst hjk; exact absurd ⟨rfl, rfl⟩ hcore
      · rw [if_neg hjk]; rfl

/-- One group of a team whose save begins: its issuing run split, its issue slot given up. -/
def State.stopIssuing (s : State) (k : Nat) : State := (s.modGroup k (Group.modQueue splitRuns)).releaseSlot k

theorem splitQueue_eq (holds : Bool) (cycle : Word) (q : List Run) :
    splitQueue holds cycle q = if holds then headQueue cycle (splitRuns q) else splitRuns q := by
  cases q <;> cases holds <;> rfl

theorem State.slotFrame_stopIssuing (s : State) (k : Nat) : State.SlotFrame k s (s.stopIssuing k) :=
  (s.slotFrame_modGroup k _).trans (State.slotFrame_releaseSlot _ k)

theorem State.group_stopIssuing {s : State} {k : Nat} {g : Group} (hg : s.group k = some g) :
    (s.stopIssuing k).group k = some (g.modQueue (splitQueue (s.issuingRun k) s.cycle)) := by
  have h : (s.modGroup k (Group.modQueue splitRuns)).group k = some (g.modQueue splitRuns) := by rw [State.group_modGroup_same, hg]; rfl
  rw [State.stopIssuing, State.group_releaseSlot h, State.issuingRun_modGroup, State.cycle_modGroup]
  simp only [Group.modQueue, splitQueue_eq]

theorem State.issuingRun_stopIssuing {s : State} {k : Nat} {g : Group} (hg : s.group k = some g) (j : Nat) :
    (s.stopIssuing k).issuingRun j = if j = k then false else s.issuingRun j := by
  have h : (s.modGroup k (Group.modQueue splitRuns)).group k = some (g.modQueue splitRuns) := by rw [State.group_modGroup_same, hg]; rfl
  rw [State.stopIssuing, State.issuingRun_releaseSlot h]; rfl

/-- Groups that stop issuing one after another. -/
theorem State.stopIssuing_foldl (l : List (Nat × Group)) (s : State) (hnd : (l.map (·.1)).Nodup) (hl : ∀ p ∈ l, s.group p.1 = some p.2) :
    s.BesideGroups (l.foldl (fun s p => s.stopIssuing p.1) s) ∧
    (∀ k, (l.foldl (fun s p => s.stopIssuing p.1) s).issuingRun k = if k ∈ l.map (·.1) then false else s.issuingRun k) ∧
    ∀ k g, s.group k = some g → (l.foldl (fun s p => s.stopIssuing p.1) s).group k =
      some (if k ∈ l.map (·.1) then g.modQueue (splitQueue (s.issuingRun k) s.cycle) else g) := by
  induction l generalizing s with
  | nil => exact ⟨.refl s, fun _ => rfl, fun _ _ h => h⟩
  | cons p l ih =>
    obtain ⟨hp, hnd'⟩ := List.nodup_cons.1 hnd
    have hp : p.1 ∉ l.map (·.1) := hp
    have hg := hl p List.mem_cons_self
    have hf := s.slotFrame_stopIssuing p.1
    obtain ⟨h1, h2, h3⟩ := ih (s.stopIssuing p.1) hnd' fun q hq => by
      have hq1 : q.1 ∈ l.map (·.1) := List.mem_map_of_mem hq
      rw [hf.others q.1 fun e => hp (e ▸ hq1)]
      exact hl q (List.mem_cons_of_mem _ hq)
    refine ⟨hf.toBesideGroups.trans h1, fun k => ?_, fun k g hk => ?_⟩
    · rw [List.foldl_cons, h2, State.issuingRun_stopIssuing hg, List.map_cons]
      by_cases e : k = p.1
      · rw [if_pos e, if_pos (List.mem_cons.2 (.inl e))]; split <;> rfl
      · simp only [e, if_false, List.mem_cons, false_or]
    · rw [List.foldl_cons, List.map_cons]
      by_cases e : k = p.1
      · subst e
        rw [h3 _ _ (State.group_stopIssuing hk), if_neg hp, if_pos List.mem_cons_self]
      · rw [h3 k g ((hf.others k e).trans hk), State.issuingRun_stopIssuing hg, if_neg e, hf.cycle]
        simp only [e, List.mem_cons, false_or]

end Sys2Proof.Machine
end

section
/-! SUPPORT. `gsave`, and the statement about privileged words (R356, R379). -/
namespace Sys2Proof.Machine
open Sys2Proof

/-! ### `gsave` (R356, R379) -/

/-- The time that a save may be put off: the least PREEMPTLIM of the team's groups (R379). -/
def State.saveLimit (s : State) (id : Nat) : Nat := (s.teamGroups id).foldl (fun m p => min m p.2.preempt.toNat) 10000000

/-- The request that `gsave` makes. -/
def State.saveRequest (s : State) (id : Nat) (dest : Word) : SaveReq := ⟨dest, s.time + nsTime (s.saveLimit id), false, false, false, 0, 0⟩

theorem State.requestSave_eq (s : State) (id : Nat) (dest : Word) :
    s.requestSave id dest false = s.modTeam id fun t => { t with save := some (s.saveRequest id dest) } := rfl

/-- Whether a save is deferred depends on the team's barriers and on its queued matrix operations alone. -/
theorem State.deferred_congr {s t : State} (id : Nat) (tm : Team) (h : ∀ c, (t.cluster c).cores = (s.cluster c).cores) : t.deferred id tm = s.deferred id tm := by
  simp only [State.deferred, State.teamMx, State.coreMx, Cluster.core, h]

theorem State.deferred_withSave (s : State) (id : Nat) (tm : Team) (x : Option SaveReq) (f : Team → Team) :
    (s.modTeam id f).deferred id { tm with save := x } = s.deferred id tm := rfl

theorem State.askSave_eq {s : State} {id : Nat} {tm : Team} (h : s.team id = some tm) (dest : Word) :
    s.askSave id dest false =
      let u := s.modTeam id fun t => { t with save := some (s.saveRequest id dest) }
      if s.deferred id tm then u else u.beginSave id fun q => { q with started := true } := by
  have hu : (s.modTeam id fun t => { t with save := some (s.saveRequest id dest) }).team id = some { tm with save := some (s.saveRequest id dest) } := by
    rw [State.team_modTeam_same, h]; rfl
  rw [State.askSave, s.requestSave_eq]
  dsimp only
  rw [hu]
  dsimp only
  rw [State.deferred_withSave]

theorem State.beginSave_eq (s : State) (id : Nat) (f : SaveReq → SaveReq) :
    s.beginSave id f = (s.teamGroups id).foldl (fun s p => s.stopIssuing p.1)
      (s.modTeam id fun t => { t with save := t.save.map fun q => { f q with stopped := s.cycle } }) := rfl

/-- A requested save that begins: its request is marked and its groups stop (R379 step 2). -/
theorem State.beginSave_effect {s : State} (hc : Rising s.groups) {id : Nat} {tm : Team} {q : SaveReq} (h : s.team id = some { tm with save := some q }) :
    s.SaveBegun (s.beginSave id fun q => { q with started := true }) id tm q ∧ s.SameServices (s.beginSave id fun q => { q with started := true }) ∧
    (s.beginSave id fun q => { q with started := true }).mem = s.mem ∧ (s.beginSave id fun q => { q with started := true }).tags = s.tags := by
  have hl : ∀ p ∈ s.teamGroups id, s.group p.1 = some p.2 := fun p hp => (mem_iff_mapGet hc _ _).1 ((s.mem_teamGroups id p).1 hp).1
  have hmem : ∀ k g, s.group k = some g → (k ∈ (s.teamGroups id).map (·.1) ↔ g.team = id ∧ g.index < 16) := fun k g hg => by
    rw [List.mem_map]
    constructor
    · rintro ⟨p, hp, rfl⟩
      obtain rfl := Option.some.inj (hg.symm.trans (hl p hp))
      exact ((s.mem_teamGroups id p).1 hp).2
    · rintro ⟨ht, hi⟩
      exact ⟨(k, g), (s.mem_teamGroups id _).2 ⟨(mem_iff_mapGet hc k g).2 hg, ht, hi⟩, rfl⟩
  rw [s.beginSave_eq]
  generalize hu : s.modTeam id _ = u
  have hteam : u.team id = some { tm with save := some { q with started := true, stopped := s.cycle } } := by rw [← hu, State.team_modTeam_same, h]; rfl
  have hgu : ∀ k, u.group k = s.group k := fun k => by rw [← hu]; rfl
  have hiu : ∀ k, u.issuingRun k = s.issuingRun k := fun k => by rw [← hu]; rfl
  have hcy : u.cycle = s.cycle := by rw [← hu]; rfl
  have hsu : s.SameServices u := by rw [← hu]; exact s.sameServices_modTeam id _
  obtain ⟨hf, hrun, hgroup⟩ := State.stopIssuing_foldl (s.teamGroups id) u (State.nodup_teamGroups hc id) fun p hp => (hgu p.1).trans (hl p hp)
  refine ⟨⟨by rw [State.team, hf.teams]; exact hteam, fun k g hg => ⟨_, hgroup k g ((hgu k).trans hg), ?_, ?_, fun hn => ?_, fun hy => ⟨?_, ?_⟩⟩⟩,
    hsu.trans hf.toSameServices, hf.mem.trans (by rw [← hu]; rfl), hf.tags.trans (by rw [← hu]; rfl)⟩
  · split <;> rfl
  · split <;> rfl
  · rw [if_neg (mt (hmem k g hg).1 hn)]
  · rw [hrun, if_pos ((hmem k g hg).2 hy)]
  · rw [if_pos ((hmem k g hg).2 hy), hiu, hcy]; rfl

/-- Whether a save may be asked for: the group is not Exiting, and its team is there with no save under way (R379). -/
def State.maySave (s : State) (g : Group) : Bool := g.life != .exiting && (s.team g.team).any fun tm => tm.save.isNone

theorem gsave_eq {s : State} {c k : Nat} {a : BitVec 6} {g : Group} (h : s.Names c a k g) :
    exec (.gsave a) s = if s.maySave g then .next (s.advance.askSave g.team (s.svc c).ssavedst false) else .next (s.markStale c).advance := by
  rw [show exec (.gsave a) s = execGsave a s from rfl, execGsave, State.handleOp_named h, h.home, State.maySave]
  cases s.team g.team <;> rfl

theorem gsave_refused {s : State} {c k : Nat} {a : BitVec 6} {g : Group} (h : s.Names c a k g)
    (hn : g.life = .exiting ∨ ∀ tm, s.team g.team = some tm → tm.save.isSome = true) : DidIn s (s.markStale c) (exec (.gsave a) s) s.hart := by
  have e : s.maySave g = false := by
    rcases hn with hn | hn
    · simp [State.maySave, hn]
    · cases ht : s.team g.team with
      | none => simp [State.maySave, ht]
      | some tm => simp [State.maySave, ht, hn tm ht]
  rw [gsave_eq h, e]
  exact State.didIn_markStale h.service

theorem gsave_asks {s : State} {c k : Nat} {a : BitVec 6} {g : Group} (h : s.Names c a k g) (hl : g.life ≠ .exiting) {tm : Team}
    (ht : s.team g.team = some tm) (hs : tm.save = none) : exec (.gsave a) s = .next (s.advance.askSave g.team (s.svc c).ssavedst false) := by
  have e : s.maySave g = true := by simp [State.maySave, ht, hl, hs]
  rw [gsave_eq h, if_pos e]

/-- The rest of a state and a change of a team do not meet. -/
theorem State.rest_modTeam (s : State) (k : Nat) (f : Team → Team) : (s.modTeam k f).rest = s.rest.modTeam k f := by
  obtain ⟨cy, time, tu, cur⟩ := s
  cases cur <;> rfl

/-- What `gsave` does for a group of a team that has no save under way (R356, R379). -/
theorem gsave_saves {s : State} {c k : Nat} {a : BitVec 6} {g : Group} (h : s.Names c a k g) (hl : g.life ≠ .exiting) {tm : Team}
    (ht : s.team g.team = some tm) (hs : tm.save = none) :
    let q := s.saveRequest g.team (s.cluster c).svc.ssavedst
    (s.deferred g.team tm = true → DidIn s (s.modTeam g.team fun t => { t with save := some q }) (exec (.gsave a) s) s.hart) ∧
    (s.Canonical → s.deferred g.team tm = false → ∃ t, exec (.gsave a) s = .next t ∧ t.hart = { s.hart with pc := s.pc + 4 } ∧ s.SaveBegun t g.team tm q ∧
      t.mem = s.mem ∧ t.tags = s.tags) := by
  intro q
  have ha := State.advancedFrom h.service.1
  have hcur : s.advance.AsService c := ⟨by rw [s.advance_service h.service.1]; exact h.service.1, h.service.2⟩
  have hhart : s.advance.hart = { s.hart with pc := s.pc + 4 } := State.hart_advance s h.service.present
  have hq : s.advance.saveRequest g.team (s.svc c).ssavedst = q := by
    simp only [State.saveRequest, State.saveLimit, State.teamGroups, ha.groups, ha.time]; rfl
  have hteam : s.advance.team g.team = some tm := by rw [State.team, ha.teams]; exact ht
  have hdef : s.advance.deferred g.team tm = s.deferred g.team tm := State.deferred_congr g.team tm ha.cores
  have hask := State.askSave_eq hteam (s.svc c).ssavedst
  rw [hq, hdef] at hask
  dsimp only at hask
  rw [gsave_asks h hl ht hs, hask]
  refine ⟨fun hd => ?_, fun hcan hd => ?_⟩
  · rw [if_pos hd]
    refine ⟨_, rfl, ((State.sameServices_modTeam _ _ _).here hcur).trans hhart, ?_⟩
    rw [State.rest_modTeam, State.rest_modTeam, State.rest_advance]
  · rw [if_neg (by rw [hd]; simp)]
    have hrise : Rising s.advance.groups := by rw [ha.groups]; exact hcan.2.2.1
    generalize hu : (s.advance.modTeam g.team fun t => { t with save := some q }) = u
    have hut : u.team g.team = some { tm with save := some q } := by rw [← hu, State.team_modTeam_same, hteam]; rfl
    obtain ⟨⟨hbt, hbg⟩, hbs, hbm, hbtags⟩ := State.beginSave_effect (s := u) (by rw [← hu]; exact hrise) hut
    have hcy : u.cycle = s.cycle := by rw [← hu]; exact ha.cycle
    have hgu : ∀ j, u.group j = s.group j := fun j => by rw [← hu]; show mapGet s.advance.groups j = _; rw [ha.groups]; rfl
    have hiu : ∀ j, u.issuingRun j = s.issuingRun j := fun j => by
      rw [← hu]; simp only [State.issuingRun, State.cluster_modTeam, Cluster.core, ha.cores]
    have hsu : s.advance.SameServices u := by rw [← hu]; exact s.advance.sameServices_modTeam _ _
    refine ⟨_, rfl, ((hsu.trans hbs).here hcur).trans hhart, ⟨by rw [hbt, hcy], fun j g1 hg1 => ?_⟩, ?_, ?_⟩
    · simpa only [hiu, hcy] using hbg j g1 ((hgu j).trans hg1)
    · rw [hbm, ← hu]; exact ha.mem
    · rw [hbtags, ← hu]; exact ha.tags

/-- A handle that names no group of the cluster: the stale bit (R354, R356). -/
theorem stale_of_unnamed {s : State} {c : Nat} {a : BitVec 6} (h : s.HandleForm c a)
    (hn : ∀ k g, s.group k = some g → slotCluster k = c → s.x a &&& 0xFFFF7FFF ≠ handleOf k g) :
    DidIn s (s.markStale c) (exec (.gresume a) s) s.hart ∧ DidIn s (s.markStale c) (exec (.gend a) s) s.hart ∧
    DidIn s (s.markStale c) (exec (.gsave a) s) s.hart := by
  have key : ∀ accepts body, DidIn s (s.markStale c) (s.handleOp a accepts body) s.hart := fun accepts body => by
    rw [State.handleOp_unnamed h hn]; exact State.didIn_markStale h.service
  exact ⟨key _ _, key _ _, key _ _⟩

end Sys2Proof.Machine

open Sys2Proof Sys2Proof.Machine

/-- Settles O40: each word by the lemma about it; the handle forms by whether the handle names a group of the cluster. -/
theorem privilegedWordsActInServiceCores : Obligations.PrivilegedWordsActInServiceCores := by
  unfold Obligations.PrivilegedWordsActInServiceCores
  refine ⟨fun s k a h => privileged_in_group a h, fun s c hs => ?_, fun s c hc => ?_, fun s k g d hg => ?_⟩
  · refine ⟨sret_in_handler hs, sret_outside_handler hs, idle_goes_on hs, idle_waits hs, didIn_tlbinvall hs, fun a hr => ?_⟩
    have hf : s.HandleForm c a := ⟨hs, hr⟩
    refine ⟨didIn_tlbinv hf, revbcast_queues hf rfl, stale_of_unnamed hf, fun k g hg hk hx => ?_⟩
    have hn : s.Names c a k g := ⟨hf, hg, hk, hx⟩
    refine ⟨fun h1 h2 => ⟨gresume_refused hn h1 h2, gend_refused hn h1 h2⟩, gsave_refused hn, gresume_unreleased hn, gresume_stopped hn,
      gresume_record_moving hn, gresume_delivers hn, gend_ends hn, fun hl tm ht hsv => ?_⟩
    obtain ⟨h1, h2, h3⟩ := foldl_min (fun p : Nat × Group => p.2.preempt.toNat) (s.teamGroups g.team) 10000000
    exact ⟨s.saveLimit g.team, h1, h2, h3, gsave_saves hn hl ht hsv⟩
  · exact ⟨stimerExpiry_tells, fun d e rest he => sevtRead_event d he, fun d he => sevtRead_none d he, fun _ => rfl,
      fun p rest ho he hd hf => revbcastComplete_effect hc ⟨ho, he, hd, hf⟩⟩
  · exact ⟨atomflagsRead_waits d hg, fun h => ⟨s.atomFlags g.ctx, atomflagsRead_reads d hg h, fun i _ => s.getLsbD_atomFlags g.ctx i⟩⟩
end

section
/-! SUPPORT. What reset leaves: clusters and dies alike, the registers of service cores, queues, bandwidth classes (R59, R336, R352, R368, R387, R403). -/
namespace Sys2Proof.Machine
open Sys2Proof

@[simp] theorem State.cluster_reset (c : Nat) : State.reset.cluster c = .reset := by
  simp only [State.cluster, State.reset, vgetD, Vector.getElem_replicate, dite_eq_ite, ite_self]

@[simp] theorem State.die_reset (d : Nat) : State.reset.die d = .reset := by
  simp only [State.die, State.reset, vgetD, Vector.getElem_replicate, dite_eq_ite, ite_self]

@[simp] theorem Cluster.core_reset (i : Nat) : Cluster.reset.core i = .reset := by
  simp only [Cluster.core, Cluster.reset, vgetD, Vector.getElem_replicate, dite_eq_ite, ite_self]

/-- At reset the service cores are alike: a register of one reads as that of cluster 0, but for its own number. -/
theorem State.privCsr_reset_alike (c : Nat) {n : Nat} (hn : n ≠ 0x406) : State.reset.privCsr c n = State.reset.privCsr 0 n := by
  unfold State.privCsr State.debugCsr
  simp only [State.svc, State.cluster_reset, State.die_reset]
  split
  case h_6 => exact absurd rfl hn
  all_goals rfl

/-- The numbers of the registers from 0x400 on that reset leaves zero (R352, R368, R387, R336). -/
def zeroAtReset (n : Nat) : Prop :=
  (0x401 ≤ n ∧ n < 0x40B ∧ n ≠ 0x405 ∧ n ≠ 0x406) ∨ (0x420 ≤ n ∧ n < 0x426) ∨ (0x500 ≤ n ∧ n < 0x50A) ∨ (0x600 ≤ n ∧ n < 0x616 ∧ n ≠ 0x611)

theorem State.privCsr_reset_zero {n : Nat} (hn : zeroAtReset n) : State.reset.privCsr 0 n = some 0 := by
  have key : ∀ n < 0x616, zeroAtReset n → State.reset.privCsr 0 n = some 0 := by unfold zeroAtReset; decide +kernel
  exact key n (by unfold zeroAtReset at hn; omega) hn

theorem State.serviceCsr_reset_zero (c : Nat) {n : Nat} (hn : n ∈ [0x020, 0x021, 0x060]) : State.reset.serviceCsr c n = some 0 := by
  simp only [List.mem_cons, List.not_mem_nil, or_false] at hn
  rcases hn with rfl | rfl | rfl <;> simp only [State.serviceCsr, State.svc, State.cluster_reset] <;> rfl

/-- The registers that a service core finds zero when it is released. -/
theorem State.csr_reset_zero (c : Nat) {n : Nat} (hn : n ∈ [0x020, 0x021, 0x060] ∨ zeroAtReset n) : { State.reset with cur := .service c }.csr n = some 0 := by
  rcases hn with hn | hn
  · have low : n < 0x400 := by simp only [List.mem_cons, List.not_mem_nil, or_false] at hn; omega
    exact (if_pos low).trans (State.serviceCsr_reset_zero c hn)
  · have high : ¬ n < 0x400 ∧ n ≠ 0x406 := by unfold zeroAtReset at hn; omega
    exact (if_neg high.1).trans ((State.privCsr_reset_alike c high.2).trans (State.privCsr_reset_zero hn))

theorem State.queue_reset (q : Nat) : (State.reset.queue q).isOpen = false := by
  show Queue.closed.isOpen = false
  decide

theorem Bucket.resetKind_zero {kind : Nat} {c : Fin 16} (h : c = 0) : (Bucket.resetKind kind)[c] = ⟨ratedTokens kind, ratedTokens kind, true, 0⟩ := by
  subst h; rfl

theorem Bucket.resetKind_ne {kind : Nat} {c : Fin 16} (h : c ≠ 0) : (Bucket.resetKind kind)[c] = ⟨0, 0, false, 0⟩ := by
  have hc : (0 : Nat) ≠ c.val := fun e => h (Fin.ext e.symm)
  simp only [Bucket.resetKind, Fin.getElem_fin, Vector.getElem_set_ne _ _ hc, Vector.getElem_replicate]

theorem State.buckets_reset (d : Fin 4) (kind : Fin 2) : State.reset.dies[d].buckets[kind] = Bucket.resetKind kind := by
  simp only [State.reset, Fin.getElem_fin, Vector.getElem_replicate, Die.reset]
  fin_cases kind <;> rfl

theorem State.reset_canonical : State.reset.Canonical := ⟨rfl, rfl, .nil, .nil, .nil, .nil⟩

end Sys2Proof.Machine

open Sys2Proof Sys2Proof.Machine

/-- Settles O55: the fields of the reset state one by one; the registers of a service core as those of cluster 0. -/
theorem resetLeavesTheStatedValues : Obligations.ResetLeavesTheStatedValues := by
  unfold Obligations.ResetLeavesTheStatedValues
  refine ⟨State.reset_canonical, rfl, rfl, fun _ => ⟨rfl, rfl, rfl⟩, fun c _ => ?_, fun q _ => State.queue_reset q, rfl, rfl, rfl, rfl, fun i => ?_, rfl,
    fun _ => rfl, fun d kind c => ?_⟩
  · have hc : State.reset.cluster c = .reset := State.cluster_reset c
    refine ⟨hc ▸ rfl, hc ▸ rfl, hc ▸ rfl, hc ▸ rfl, hc ▸ rfl, fun i _ => ?_, ?_, rfl, ?_, fun n hn => ?_⟩
    · rw [hc, Cluster.core_reset]; exact ⟨rfl, rfl⟩
    · exact State.privCsr_reset_alike c (n := 0x405) (by decide)
    · exact State.privCsr_reset_alike c (n := 0x611) (by decide)
    · exact State.csr_reset_zero c hn
  · exact congrArg KeySlot.state (Vector.getElem_replicate i.isLt)
  · rw [State.buckets_reset]
    exact ⟨fun h => by rw [Bucket.resetKind_zero h]; exact ⟨rfl, rfl, rfl⟩, fun h => by rw [Bucket.resetKind_ne h]⟩
end

section
/-! SUPPORT. A placement under a number that a team still has, and the statement about placement (R275, R282). -/
namespace Sys2Proof.Machine
open Sys2Proof

/-- A grid of one team of one group, which needs no ways, no barriers and no pair. -/
def Grid.single : Grid :=
  { ctx := 1, gridId := 0, queue := 0, prio := 0, cluster := 0, hostArgs := false, packet := [], ptags := [], desc := List.replicate 64 0 ++ [1], dtags := [],
    args := some ([], []), next := 0, total := 1, live := 0, last := none, node := none, net := none, waited := 0 }

/-- Queue 0 is placing that grid. A team of cluster 0, whose retired group leaves slot 0 to its heir, has the number that the next team is to get, 1. -/
def State.numberTaken : State :=
  { State.reset with
    ctxs := [(1, .bare)], teams := [(1, { Team.bare with held := [⟨0, 0, 0, []⟩] })],
    disp := { Disp.reset with heads := [(0, 0)], grids := [(0, .single)] } }

/-- Nothing else waits for a place: no bin has a launch, and no other queue is open. -/
theorem numberTaken_bins (c : Nat) : (State.numberTaken.cluster c).basket.ready = [] := by
  rw [show State.numberTaken.cluster c = .reset from State.cluster_reset c]; rfl

theorem numberTaken_queues : ∀ j < 256, j ≠ 0 → State.numberTaken.tryQueue j = none := by
  simp only [← Option.isNone_iff_eq_none]
  decide +kernel

theorem numberTaken_spot : State.numberTaken.findSpot (State.numberTaken.gridTeam 0 .single ⟨[], []⟩) Grid.single.pkt none = some (0, ⟨0, none, [(0, 0)]⟩) := by
  decide +kernel

/-- Slot 0 is held for the heir, so slot 1 is the lowest free one. -/
theorem numberTaken_freeSlot : State.numberTaken.freeSlot 0 0 = some 1 := by decide +kernel

/-- The new team takes the old one's entry, and with it the record of what is held: its group goes to slot 0. -/
theorem numberTaken_placed : ∃ t, exec .teamPlacement State.numberTaken = .next t ∧ (t.group 0).isSome = true ∧ t.group 1 = none :=
  ⟨_, rfl, by decide +kernel⟩

end Sys2Proof.Machine

open Sys2Proof Sys2Proof.Machine

/-- Refutes O42: its first clause does not ask that the number `nextId` of the new team is no resident team's. In `State.numberTaken` it is that of a team which
    holds slot 0 for its heir; the placement overwrites that team, and the group goes to slot 0, where the clause says slot 1. No run from reset takes a number
    twice; the clause speaks of every state. -/
theorem not_teamsTakeTheirPlace : ¬ Obligations.TeamsTakeTheirPlace := by
  unfold Obligations.TeamsTakeTheirPlace
  rintro ⟨placed, -⟩
  obtain ⟨t, tm, g, ht, -, hg, -⟩ := placed State.numberTaken 0 0 0 0 0 1 0 none .single ([], []) (by decide) (by decide) (fun _ _ => rfl)
    (fun c _ => numberTaken_bins c) numberTaken_queues rfl rfl rfl (by decide) numberTaken_spot numberTaken_freeSlot
  obtain ⟨u, hu, -, hempty⟩ := numberTaken_placed
  obtain rfl : t = u := Host.Outcome.next.inj (ht.symm.trans hu)
  exact absurd (hg.symm.trans hempty) (by simp)
end

section
/-! The turns of a step: what the turn of a scalar thread, of a lane stream and of an event runs (R32, R40, R43, R337). -/
namespace Sys2Proof.Machine
open Sys2Proof

/-- What the agent of a turn does, once the turn's cycles have passed. -/
noncomputable def State.runTurn (s : State) : TurnAct Instr → Res
  | .scalar k => s.stepScalar k
  | .lane k => s.stepLane k
  | .service c => s.stepService c
  | .event i => if ownTurn i then exec i s else .next s

theorem step_of_turn {s next : State} {cycles : Nat} {act : TurnAct Instr} (hb : s.boot.phase ≠ 0) (hn : s.nextTurn = (⟨cycles, act⟩, next)) :
    step s = (next.tick cycles).runTurn act := by
  unfold step
  rw [if_neg hb, hn]
  cases act <;> rfl

theorem State.scalarHeld_eq_false_iff (s : State) (g : Group) :
    s.scalarHeld g = false ↔ s.mayIssue g = true ∧ g.stepping.mode ≠ 2 ∧ g.stepping.pending = false := by
  simp [State.scalarHeld, and_assoc]

/-- A scalar turn of a group that may take it runs the word at its PC. -/
theorem State.stepScalar_runs {s : State} {k : Nat} {g : Group} (hg : s.group k = some g) (hm : s.mayIssue g = true) (hs : g.stepping.mode ≠ 2)
    (hp : g.stepping.pending = false) (ht : s.scalarTurn k = true) : s.stepScalar k = ({ s with cur := .group k } : State).fetchRun := by
  have hh := (s.scalarHeld_eq_false_iff g).2 ⟨hm, hs, hp⟩
  simp only [State.stepScalar, hg, hh, ht, Bool.not_true, Bool.or_self, Bool.false_eq_true, if_false]

/-- A scalar turn of a group that may not take it changes nothing but the current thread. -/
theorem State.stepScalar_passes {s : State} {k : Nat} {g : Group} (hg : s.group k = some g)
    (h : s.mayIssue g = false ∨ g.stepping.mode = 2 ∨ g.stepping.pending = true ∨ s.scalarTurn k = false) :
    s.stepScalar k = .next { s with cur := .group k } := by
  have hh : (s.scalarHeld g || !s.scalarTurn k) = true := by
    rcases h with h | h | h | h <;> simp [State.scalarHeld, h]
  simp only [State.stepScalar, hg, hh, if_true]

theorem State.stepService_runs {s : State} {c : Nat} (h : (s.cluster c).svc.released = true) :
    s.stepService c = ({ s with cur := .service c } : State).fetchRun := by
  simp only [State.stepService, h, if_true]

theorem State.fetchRun_error {u : State} {e : BitVec 8} (h : u.fetch = .error e) : u.fetchRun = .next (u.raiseHere e) := by
  simp only [State.fetchRun, h]

theorem State.fetchRun_waits {u : State} {key : Nat} {tl : Option TlbEntry} (h : u.fetch = .ok (key, tl))
    (hw : u.wlReady key = false ∨ u.spoilt key 4 = true) : u.fetchRun = .next u := by
  have : (!u.wlReady key || u.spoilt key 4) = true := by rcases hw with h | h <;> simp [h]
  simp only [State.fetchRun, h, this, if_true]

/-- The breakpoint at the current thread's word, with its slot: none for a service core (R337). -/
def State.breakHere (u : State) : Option (Nat × Nat) :=
  match u.cur with
  | .group k => (u.group k).bind fun g => (u.breakpoint k g false u.pc).map fun i => (k, i)
  | .service _ => none

theorem State.breakHere_of_group {u : State} {k : Nat} {g : Group} (h : u.cur = .group k) (hg : u.group k = some g) :
    u.breakHere = (u.breakpoint k g false u.pc).map fun i => (k, i) := by
  unfold State.breakHere
  rw [h]
  simp only [hg, Option.bind_some]

theorem State.breakHere_eq_none {u : State} (h : ∀ k g, u.cur = .group k → u.group k = some g → u.breakpoint k g false u.pc = none) : u.breakHere = none := by
  cases hc : u.cur with
  | service c => unfold State.breakHere; rw [hc]
  | group k =>
    cases hg : u.group k with
    | none => unfold State.breakHere; rw [hc]; simp only [hg, Option.bind_none]
    | some g => rw [State.breakHere_of_group hc hg, h k g hc hg]; rfl

/-- A fetch that goes through stops at a breakpoint, and else runs the word it delivers. -/
theorem State.fetchRun_delivers {u : State} {key : Nat} {tl : Option TlbEntry} (h : u.fetch = .ok (key, tl)) (hw : u.wlReady key = true) (hs : u.spoilt key 4 = false) :
    u.fetchRun = match u.breakHere with
      | some (k, i) => .next (((u.fill u.curCluster tl.toList).wlReadNow u.who [⟨key, 4⟩]).debugStop k false (BitVec.ofNat 5 i) u.pc 0)
      | none => ((u.fill u.curCluster tl.toList).wlReadNow u.who [⟨key, 4⟩]).runWord (BitVec.ofNat 32 (u.readNat key 4)) := by
  unfold State.fetchRun
  rw [h]
  exact if_neg (by simp [hw, hs])

theorem State.runWord_privileged {v : State} {w : BitVec 32} (h : isPrivWord w = true) (hs : v.isService = false) : v.runWord w = .next (v.raiseHere Cause.privInsn) := by
  simp only [State.runWord, h, hs, Bool.not_false, Bool.and_self, if_true]

/-- A word that is no privileged one in a group is what it decodes to, or no instruction (R99). -/
theorem State.runWord_decoded {v : State} {w : BitVec 32} (h : isPrivWord w = false ∨ v.isService = true) :
    (∀ i, decodeScalar w = .ok i → v.runWord w = exec i v) ∧
    (∀ e, decodeScalar w = .error e → v.runWord w = exec (.unassignedOpcode false (w.setWidth 96)) v) := by
  have : (isPrivWord w && !v.isService) = false := by rcases h with h | h <;> simp [h]
  simp only [State.runWord, this, Bool.false_eq_true, if_false]
  exact ⟨fun i hi => by rw [hi], fun e he => by rw [he]⟩

/-- A fetch within the package asks nothing of a link. -/
theorem State.wlReadNow_local (x : State) (w : Who) {key n : Nat} (h : key < Config.remoteKey) : x.wlReadNow w [⟨key, n⟩] = x := by
  simp [State.wlReadNow, h]

theorem State.wlReady_local (s : State) {key : Nat} (h : key < Config.remoteKey) : s.wlReady key = true := by
  simp [State.wlReady, h]

/-- The rotation has come to a group when its core has not issued in the cycle and no group before it is ready (R43). -/
theorem State.scalarTurn_iff (s : State) (k : Nat) :
    s.scalarTurn k = true ↔ ((s.cluster (slotCluster k)).core (slotCore k)).issued = false ∧
      ∀ j < (k % 32 + 63 - ((s.cluster (slotCluster k)).core (slotCore k)).lastScalar) % 32,
        s.scalarReady (k / 32 * 32 + (((s.cluster (slotCluster k)).core (slotCore k)).lastScalar + 1 + j) % 32) = false := by
  simp [State.scalarTurn]

theorem State.laneMay_iff (s : State) (g : Group) :
    s.laneMay g = true ↔ s.mayIssue g = true ∧ g.stepping.mode ≠ 1 ∧ g.stepping.pending = false ∧ ∀ p ∈ g.hart.pend, p.stop = false := by
  simp [State.laneMay, and_assoc]

/-- A lane turn of a group that may not go on, or has and wins no slot, changes nothing but the current thread. -/
theorem State.stepLane_passes {s : State} {k : Nat} {g : Group} (hg : s.group k = some g)
    (h : ¬ s.laneMay g = true ∨ (∃ j, ((s.cluster (slotCluster k)).core (slotCore k)).holder = some j ∧
        (j ≠ k ∨ ((s.cluster (slotCluster k)).core (slotCore k)).left ≠ 0 ∨ ((s.cluster (slotCluster k)).core (slotCore k)).ending = true)) ∨
      ((s.cluster (slotCluster k)).core (slotCore k)).holder = none ∧ s.laneWinner k = false) :
    s.stepLane k = .next { s with cur := .group k } := by
  simp only [State.stepLane, hg]
  by_cases hm : s.laneMay g = true
  · simp only [hm, Bool.not_true, Bool.false_eq_true, if_false]
    rcases h with h | ⟨j, hj, h⟩ | ⟨hn, hw⟩
    · exact absurd hm h
    · have : ¬ (j = k ∧ ((s.cluster (slotCluster k)).core (slotCore k)).left = 0 ∧ ((s.cluster (slotCluster k)).core (slotCore k)).ending = false) := by
        rintro ⟨h1, h2, h3⟩
        rcases h with h | h | h
        · exact h h1
        · exact h h2
        · exact Bool.false_ne_true (h3.symm.trans h)
      simp only [hj, if_neg this]
    · simp only [hn, hw, Bool.false_eq_true, if_false]
  · simp only [Bool.not_eq_true] at hm
    simp only [hm, Bool.not_false, if_true]

/-- The state in which the next lane word of slot k's group runs: as the group holds the slot, or once it has taken the free one (R40, R340). -/
def State.LaneRunsIn (s : State) (k : Nat) (v : State) : Prop :=
  let core := (s.cluster (slotCluster k)).core (slotCore k)
  let u : State := { s with cur := .group k }
  core.holder = some k ∧ core.left = 0 ∧ core.ending = false ∧ v = u ∨ core.holder = none ∧ s.laneWinner k = true ∧
    v = if (s.cluster (slotCluster k)).dbg.ctl.getLsbD 2 then (u.takeSlot k).trace k 3 0 true else u.takeSlot k

theorem State.stepLane_runs {s v : State} {k : Nat} {g : Group} (hg : s.group k = some g) (hm : s.laneMay g = true) (h : s.LaneRunsIn k v) :
    s.stepLane k = v.runLane k := by
  simp only [State.stepLane, hg, hm, Bool.not_true, Bool.false_eq_true, if_false]
  rcases h with ⟨hh, hl, he, rfl⟩ | ⟨hh, hw, rfl⟩
  · simp only [hh, hl, he, and_self, if_true]
  · simp only [hh, hw, if_true]

/-- The first word of a queue with no breakpoint there: decoded and executed, or the fault of a word that is none (R99). -/
theorem State.runLane_eq {v : State} {k : Nat} {g : Group} {r : Run} {w : BitVec 96} {ws : List (BitVec 96)} {more : List Run} (hg : v.group k = some g)
    (hq : g.lane.queue = r :: more) (hr : r.words = w :: ws) (hb : v.breakpoint k g true r.addr = none) :
    (∀ i, decodeLane w = .ok i → v.runLane k = exec i v) ∧ (∀ e, decodeLane w = .error e → v.runLane k = exec (.unassignedOpcode true w) v) := by
  obtain ⟨seq, words, addr, snap, head, issuing⟩ := r
  simp only at hr hb
  subst hr
  simp only [State.runLane, hg, hq, hb]
  exact ⟨fun i hi => by rw [hi], fun e he => by rw [he]⟩

end Sys2Proof.Machine

open Sys2Proof Sys2Proof.Machine

/-- Settles O57: the turn's agent by `step_of_turn`, then the lemma about what that agent runs. -/
theorem stepsRunTheDecodedWord : Obligations.StepsRunTheDecodedWord := by
  unfold Obligations.StepsRunTheDecodedWord
  intro s
  refine ⟨fun hb => by rw [step, if_pos hb], fun hb cycles act next hn => ?_⟩
  have hstep := step_of_turn hb hn
  refine ⟨fun i hi => by subst hi; exact hstep, fun t u hu => ⟨fun hact => ?_, ⟨fun k g ha ht hg h => ?_, fun k => State.scalarTurn_iff _ k, fun k g ha ht hg => ?_⟩⟩⟩
  · have hrun : step s = u.fetchRun := by
      rcases hact with ⟨k, g, rfl, rfl, hg, hm, hs, hp, ht⟩ | ⟨c, rfl, rfl, hr⟩
      · rw [hu]; exact hstep.trans (State.stepScalar_runs hg hm hs hp ht)
      · rw [hu]; exact hstep.trans (State.stepService_runs hr)
    have hcur : u.cur = t := by rw [hu]
    have hgroup : ∀ k, u.group k = (next.tick cycles).group k := fun k => by rw [hu]; rfl
    refine ⟨fun e he => hrun.trans (State.fetchRun_error he), fun key tl hf hw => hrun.trans (State.fetchRun_waits hf hw),
      fun key tl w hf hr hs hb hw => ?_, fun key tl k g i hf hr hs ht hg hb => ?_,
      fun key hk => ⟨u.wlReady_local hk, fun x => x.wlReadNow_local _ hk⟩⟩
    · have hnone : u.breakHere = none := State.breakHere_eq_none fun k g hc hg => hb k g (hcur.symm.trans hc) ((hgroup k).symm.trans hg)
      have hword : step s = ((u.fill u.curCluster tl.toList).wlReadNow u.who [⟨key, 4⟩]).runWord w := by
        rw [hrun, State.fetchRun_delivers hf hr hs, hnone, hw]
      refine ⟨fun h => hword.trans (State.runWord_privileged h.1 h.2), fun h => ?_⟩
      rw [hword]
      exact State.runWord_decoded h
    · rw [hrun, State.fetchRun_delivers hf hr hs, State.breakHere_of_group (hcur.trans ht) ((hgroup k).trans hg), hb]
      rfl
  · subst ha
    rw [hu, ht]
    exact hstep.trans (State.stepScalar_passes hg h)
  · subst ha
    rw [ht] at hu
    refine ⟨fun h => ?_, fun v hm hv g' r w ws more hg' hq hr hb => ?_⟩
    · rw [hu]
      exact hstep.trans (State.stepLane_passes hg (h.imp_left fun h hm => h ((State.laneMay_iff _ g).1 hm)))
    · have hl : step s = v.runLane k := hstep.trans (State.stepLane_runs hg ((State.laneMay_iff _ g).2 hm) (by rw [State.LaneRunsIn, ← hu]; exact hv))
      rw [hl]
      exact State.runLane_eq hg' hq hr hb
end

section
/-! The wake of a parked group (R54, R147, R149). -/
namespace Sys2Proof.Machine
open Sys2Proof

theorem State.modGroup_modGroup (s : State) (k : Nat) (f f' : Group → Group) : (s.modGroup k f).modGroup k f' = s.modGroup k fun g => f' (f g) := by
  simp only [State.modGroup, mapMod_mapMod]

/-- A group that owes nothing runs on. -/
theorem State.runAgain_free {s : State} {k : Nat} {g : Group} (hg : s.group k = some g) (h : g.owed = none) :
    s.runAgain k = s.modGroup k fun g => { g with life := .running, owed := none } := by
  simp only [State.runAgain, hg, h]

/-- A group that owes the stop of a `vlrc.stop` takes it as it runs on. -/
theorem State.runAgain_owing {s : State} {k : Nat} {g : Group} (hg : s.group k = some g) {e : BitVec 8 × Word × VBits} (h : g.owed = some e) :
    s.runAgain k = (s.modGroup k fun g => { g with life := .running, owed := none }).stopGroup k true e.1 e.2.1 e.2.2 := by
  simp only [State.runAgain, hg, h]

theorem tokenPassed_iff (gen tok : BitVec 32) : tokenPassed gen tok = true ↔ (gen - tok).toInt ≥ 0 := by
  rw [tokenPassed, BitVec.toInt_eq_msb_cond, BitVec.msb_eq_getLsbD_last]
  have := (gen - tok).isLt
  by_cases h : (gen - tok).getLsbD 31 = true
  · simp only [h, Bool.not_true, Bool.false_eq_true, if_true, false_iff, not_le, ge_iff_le]; omega
  · simp only [Bool.not_eq_true] at h
    simp only [h, Bool.not_false, Bool.false_eq_true, if_false, true_iff, ge_iff_le]; omega

theorem State.waitOver_eq {s : State} {g : Group} {n : Nat} {tok : BitVec 32} (ha : g.arriving n = false) (ht : vgetD g.tokens n none = some tok) :
    s.waitOver g n = tokenPassed (s.barOf g n).gen tok := by
  simp only [State.waitOver, ha, ht, Bool.not_false, Bool.true_and]

/-- A group parked at a barrier goes past it, its token spent, once the wait is over. -/
theorem parkedGroupWake_barrier {s : State} {k n : Nat} {g : Group} (hg : s.group k = some g) (hl : g.life = .parked (.bar n)) :
    exec (.parkedGroupWake k) s = .next (if s.waitOver g n then (s.setToken k n none).runAgain k else s) := by
  change execParkedGroupWake k s = _
  simp only [execParkedGroupWake, hg, hl]

/-- A group parked in `mrecv` runs on once a queued message matches. -/
theorem parkedGroupWake_receive {s : State} {k d : Nat} {any : Bool} {tag : BitVec 16} {c : Cap} {g : Group} (hg : s.group k = some g)
    (hl : g.life = .parked (.recv d any tag c)) :
    exec (.parkedGroupWake k) s = .next (if ((s.cluster (slotCluster k)).port false g.ctx).queue.any fun m => tagMatch any tag m.tag then s.runAgain k else s) := by
  change execParkedGroupWake k s = _
  simp only [execParkedGroupWake, hg, hl]

theorem tagMatch_iff (any : Bool) (want got : BitVec 16) : tagMatch any want got = true ↔ any = true ∨ got = want := by
  rw [tagMatch, Bool.or_eq_true, beq_iff_eq, eq_comm (a := want)]

end Sys2Proof.Machine

open Sys2Proof Sys2Proof.Machine

/-- Settles O14: by what the group waits for, and whether that is over; then by whether it owes a stop. -/
theorem parkedGroupsWake : Obligations.ParkedGroupsWake := by
  unfold Obligations.ParkedGroupsWake
  intro s k g hg
  refine ⟨fun n tok hl ha ht => ⟨fun hpass => ?_, fun hwait => ?_⟩, fun d any tag c hl => ⟨fun ⟨m, hm, hmatch⟩ => ?_, fun hnone => ?_⟩⟩
  · have hover : s.waitOver g n = true := (State.waitOver_eq ha ht).trans ((tokenPassed_iff _ _).2 hpass)
    have hg1 : (s.setToken k n none).group k = some { g with tokens := vset g.tokens n none } := by
      rw [State.setToken, State.group_modGroup_same, hg]; rfl
    refine ⟨fun ho => ?_, fun e he => ?_⟩
    · rw [parkedGroupWake_barrier hg hl, if_pos hover, State.runAgain_free hg1 ho, State.setToken, State.modGroup_modGroup]
    · rw [parkedGroupWake_barrier hg hl, if_pos hover, State.runAgain_owing hg1 he, State.setToken, State.modGroup_modGroup]
  · have hover : ¬ s.waitOver g n = true := fun h => absurd ((tokenPassed_iff _ _).1 ((State.waitOver_eq ha ht).symm.trans h)) (not_le.2 hwait)
    rw [parkedGroupWake_barrier hg hl, if_neg hover]
  · have hany : (((s.cluster (slotCluster k)).port false g.ctx).queue.any fun m => tagMatch any tag m.tag) = true :=
      List.any_eq_true.2 ⟨m, hm, (tagMatch_iff _ _ _).2 hmatch⟩
    rw [parkedGroupWake_receive hg hl, hany, if_pos rfl]
    exact ⟨fun ho => by rw [State.runAgain_free hg ho], fun e he => by rw [State.runAgain_owing hg he]⟩
  · have hany : (((s.cluster (slotCluster k)).port false g.ctx).queue.any fun m => tagMatch any tag m.tag) = false := by
      refine List.any_eq_false.2 fun m hm h => ?_
      obtain ⟨h1, h2⟩ := hnone m hm
      rcases (tagMatch_iff _ _ _).1 h with h | h
      · exact absurd (h1.symm.trans h) (by simp)
      · exact h2 h
    rw [parkedGroupWake_receive hg hl, hany]
    rfl
end

section
/-! The causes of R70 as tests in their order: what an access that R70 refuses, or admits, makes of the checks of the model. -/
namespace Sys2Proof.Machine
open Sys2Proof

/-! ### The first cause reached -/

/-- A cause that a check finds, if any, is that of the first test that holds. -/
def FirstCause (o : Option (BitVec 8)) (ts : List (Prop × BitVec 8)) : Prop :=
  match o with
  | some e => FirstOf ts e
  | none => NoneOf ts

theorem noneOf_nil : NoneOf [] := fun _ h => nomatch h
theorem noneOf_cons {t : Prop × BitVec 8} {ts : List (Prop × BitVec 8)} : NoneOf (t :: ts) ↔ ¬ t.1 ∧ NoneOf ts := List.forall_mem_cons
theorem noneOf_append {ts ts' : List (Prop × BitVec 8)} : NoneOf (ts ++ ts') ↔ NoneOf ts ∧ NoneOf ts' := by
  simp only [NoneOf, List.forall_mem_append]

theorem firstOf_append {ts ts' : List (Prop × BitVec 8)} {e : BitVec 8} : FirstOf (ts ++ ts') e ↔ FirstOf ts e ∨ NoneOf ts ∧ FirstOf ts' e := by
  induction ts with
  | nil => simp [FirstOf, noneOf_nil]
  | cons t ts ih =>
    simp only [List.cons_append, FirstOf, ih, noneOf_cons]
    by_cases h : t.1 <;> simp [h]

theorem FirstCause.nil : FirstCause none [] := noneOf_nil

/-- One test put before others. -/
theorem FirstCause.cons {b : Bool} {p : Prop} {a : BitVec 8} {o : Option (BitVec 8)} {ts : List (Prop × BitVec 8)} (hb : b = true ↔ p) (h : FirstCause o ts) :
    FirstCause (if b then some a else o) ((p, a) :: ts) := by
  by_cases hp : p
  · rw [if_pos (hb.2 hp)]; exact .inl ⟨hp, rfl⟩
  · rw [if_neg fun hh => hp (hb.1 hh)]
    cases o with
    | none => exact noneOf_cons.2 ⟨hp, h⟩
    | some e => exact .inr ⟨hp, h⟩

/-- Tests of which none holds, put before others. -/
theorem FirstCause.after {o : Option (BitVec 8)} {ts ts' : List (Prop × BitVec 8)} (h : NoneOf ts) (h' : FirstCause o ts') : FirstCause o (ts ++ ts') := by
  cases o with
  | none => exact noneOf_append.2 ⟨h, h'⟩
  | some e => exact firstOf_append.2 (.inr ⟨h, h'⟩)

theorem FirstOf.unique {ts : List (Prop × BitVec 8)} {a b : BitVec 8} (ha : FirstOf ts a) (hb : FirstOf ts b) : a = b := by
  induction ts with
  | nil => exact ha.elim
  | cons t ts ih =>
    rcases ha with ⟨h, rfl⟩ | ⟨h, ha⟩ <;> rcases hb with ⟨h', rfl⟩ | ⟨h', hb⟩
    · rfl
    · exact absurd h h'
    · exact absurd h' h
    · exact ih ha hb

theorem FirstOf.not_none {ts : List (Prop × BitVec 8)} {a : BitVec 8} (h : FirstOf ts a) : ¬ NoneOf ts := by
  induction ts with
  | nil => exact h.elim
  | cons t ts ih =>
    rw [noneOf_cons]
    rcases h with ⟨h, -⟩ | ⟨-, h⟩
    · exact fun hn => hn.1 h
    · exact fun hn => ih h hn.2

theorem FirstCause.eq_some_iff {o : Option (BitVec 8)} {ts : List (Prop × BitVec 8)} (h : FirstCause o ts) (e : BitVec 8) : o = some e ↔ FirstOf ts e := by
  cases o with
  | some a => exact ⟨fun he => Option.some.inj he ▸ h, fun he => congrArg some (FirstOf.unique h he)⟩
  | none => exact ⟨fun he => (nomatch he), fun he => absurd h he.not_none⟩

theorem FirstCause.eq_none_iff {o : Option (BitVec 8)} {ts : List (Prop × BitVec 8)} (h : FirstCause o ts) : o = none ↔ NoneOf ts := by
  cases o with
  | some a => exact ⟨fun he => (nomatch he), fun he => absurd he (FirstOf.not_none h)⟩
  | none => exact ⟨fun _ => h, fun _ => rfl⟩

/-! ### The checks of an access -/

theorem authCause_first (w : Who) (c : Cap) (perms : List Nat) : FirstCause (authCause w c perms) (authTests w c perms) := by
  unfold authCause authTests
  refine .cons (by simp) (.cons Iff.rfl (.cons (by simp) (.cons ?_ .nil)))
  simp only [Bool.or_eq_true, Bool.not_eq_true', Bool.and_eq_true]
  exact or_congr_left (by simp)

theorem Cap.covers_iff (c : Cap) (x n : Nat) : c.covers x n = true ↔ c.base ≤ x ∧ x + n ≤ c.top := by
  rw [Cap.covers, Bool.and_eq_true, decide_eq_true_eq, decide_eq_true_eq]

theorem Cap.not_covers_iff (c : Cap) (x n : Nat) : (!c.covers x n) = true ↔ x < c.base ∨ c.top < x + n := by
  rw [Bool.not_eq_true', ← Bool.not_eq_true, Cap.covers_iff, not_and_or, not_le, not_le]

/-- The tests of an access that its capability decides beside its authority (R70). -/
theorem boundsCause_first (c : Cap) (x n align : Nat) :
    FirstCause (if !c.covers x n then some Cause.capBounds else if x % align != 0 then some Cause.align else none)
      [(x < c.base ∨ c.top < x + n, Cause.capBounds), (x % align ≠ 0, Cause.align)] := by
  exact .cons (c.not_covers_iff x n) (.cons bne_iff_ne .nil)

theorem capCause_of_auth {w : Who} {c : Cap} {perms : List Nat} {e : BitVec 8} (h : authCause w c perms = some e) (x n align : Nat) :
    capCause w c perms x n align = some e := by
  rw [capCause, h]

theorem capCause_of_no_auth {w : Who} {c : Cap} {perms : List Nat} (h : authCause w c perms = none) (x n align : Nat) :
    capCause w c perms x n align = if !c.covers x n then some Cause.capBounds else if x % align != 0 then some Cause.align else none := by
  rw [capCause, h]

theorem Acc.cause_first (w : Who) (a : Acc) : FirstCause (capCause w a.cap a.perms a.x a.n a.align) (a.tests w) := by
  have ha := authCause_first w a.cap a.perms
  cases h : authCause w a.cap a.perms with
  | some e => rw [h] at ha; rw [capCause_of_auth h]; exact firstOf_append.2 (.inl ha)
  | none => rw [h] at ha; rw [capCause_of_no_auth h]; exact .after ha (boundsCause_first a.cap a.x a.n a.align)

theorem State.check_refused {s : State} {w : Who} {a : Acc} {e : BitVec 8} (h : FirstOf (a.tests w) e) : s.check w a = .error e := by
  rw [State.check, ((a.cause_first w).eq_some_iff e).2 h]

theorem State.check_admitted {s : State} {w : Who} {a : Acc} (h : NoneOf (a.tests w)) : s.check w a = s.reach w a := by
  rw [State.check, (a.cause_first w).eq_none_iff.2 h]

theorem State.accessOpIf_refused {s : State} {a : Acc} {e : BitVec 8} (h : s.check s.who a = .error e) (short : Bool) (body : Nat → State → Res) :
    s.accessOpIf a short body = .next (s.raise e (BitVec.ofNat 64 a.x)) := by
  rw [State.accessOpIf, h]

/-- A word that is an access stops its thread where R70 refuses it. -/
theorem State.refuses_of_access {s : State} {i : Instr} {a : Acc} {body : Nat → State → Res} (h : exec i s = s.accessOp a body) : s.Refuses i a := by
  refine ⟨fun e he => ?_, fun hn e he => ?_⟩
  · rw [h]; exact State.accessOpIf_refused (State.check_refused he) false body
  · rw [h]; exact State.accessOpIf_refused ((State.check_admitted hn).trans he) false body

/-! ### A page of the table held in the TLB -/

/-- The cause for want of a right (R63, R373). -/
def rightCause : Nat → BitVec 8
  | 2 => Cause.permRead
  | 3 => Cause.permWrite
  | 4 => Cause.permExec
  | _ => Cause.permAtomic

theorem leafCause_nil (priv : Bool) (pte : Word) : leafCause priv [] pte = if pte.getLsbD 6 && !priv then some Cause.permPriv else none := rfl

theorem leafCause_cons (priv : Bool) (b : Nat) (need : List Nat) (pte : Word) :
    leafCause priv (b :: need) pte = if !pte.getLsbD b then some (rightCause b) else leafCause priv need pte := by
  cases hb : pte.getLsbD b
  · simp only [leafCause, List.find?_cons, hb, Bool.not_false, if_true]
    unfold rightCause
    split <;> simp_all
  · simp only [leafCause, List.find?_cons, hb, Bool.not_true, Bool.false_eq_true, if_false]

/-- A test that does not hold, put before others. -/
theorem FirstCause.skip {p : Prop} {a : BitVec 8} {o : Option (BitVec 8)} {ts : List (Prop × BitVec 8)} (hp : ¬ p) (h : FirstCause o ts) :
    FirstCause o ((p, a) :: ts) := by
  cases o with
  | none => exact noneOf_cons.2 ⟨hp, h⟩
  | some e => exact .inr ⟨hp, h⟩

/-- The first right that a leaf lacks, in the order of R70, and then the P bit (R373). -/
theorem leafCause_first (priv : Bool) {need : List Nat} (pte : Word) (h : need ∈ [Need.read, Need.write, Need.exec, Need.atomic]) :
    FirstCause (leafCause priv need pte) (leafTests priv need pte) := by
  have lacks : ∀ b : Nat, b ∈ need → ((!pte.getLsbD b) = true ↔ b ∈ need ∧ pte.getLsbD b = false) := fun b hb => by simp [hb]
  have last : FirstCause (leafCause priv [] pte) [(pte.getLsbD 6 = true ∧ priv = false, Cause.permPriv)] := .cons (by simp) .nil
  simp only [List.mem_cons, List.not_mem_nil, or_false] at h
  unfold leafTests
  rcases h with rfl | rfl | rfl | rfl
  · rw [leafCause_cons]
    exact .cons (lacks 2 (by simp)) (.skip (by simp) (.skip (by simp) (.skip (by simp) last)))
  · rw [leafCause_cons]
    exact .skip (by simp) (.cons (lacks 3 (by simp)) (.skip (by simp) (.skip (by simp) last)))
  · rw [leafCause_cons]
    exact .skip (by simp) (.skip (by simp) (.cons (lacks 4 (by simp)) (.skip (by simp) last)))
  · rw [leafCause_cons, leafCause_cons, leafCause_cons]
    exact .cons (lacks 2 (by simp)) (.cons (lacks 3 (by simp)) (.skip (by simp) (.cons (lacks 5 (by simp)) last)))

/-- Two ranges share a granule when a byte of each lies in one. -/
theorem Seg.touches_iff (g : Seg) (k n : Nat) : g.touches k n = true ↔ ∃ i < g.len, ∃ j < n, (g.lo + i) / 16 = (k + j) / 16 := by
  simp only [Seg.touches, Bool.and_eq_true, bne_iff_ne, decide_eq_true_eq]
  constructor
  · rintro ⟨⟨⟨hl, hn⟩, h1⟩, h2⟩
    by_cases hle : k / 16 ≤ g.lo / 16
    · by_cases heq : k / 16 = g.lo / 16
      · exact ⟨0, by omega, 0, by omega, by rw [Nat.add_zero, Nat.add_zero, heq]⟩
      · exact ⟨0, by omega, 16 * (g.lo / 16) - k, by omega, by omega⟩
    · exact ⟨16 * (k / 16) - g.lo, by omega, 0, by omega, by omega⟩
  · rintro ⟨i, hi, j, hj, h⟩
    refine ⟨⟨⟨?_, ?_⟩, ?_⟩, ?_⟩ <;> omega

theorem State.lockTest_iff {s : State} {w : Who} {a : Acc} {key : Nat} (h : w.svc = false) : s.locked w a.rd a.wr key a.n = true ↔ (s.lockTest w a key).1 := by
  have hkind : ∀ l : Lock, ((l.dst && (a.rd || a.wr)) || (!l.dst && a.wr)) = true ↔ (l.dst = true ∧ a.rd = true ∨ a.wr = true) := by
    intro l; cases l.dst <;> cases a.rd <;> cases a.wr <;> decide
  simp only [State.locked, State.lockTest, h, Bool.not_false, Bool.true_and, List.any_eq_true, Bool.and_eq_true, hkind, Seg.touches_iff]

/-- The checks from translation on, of an access outside the window whose page the TLB holds: the rights of the leaf, then the range locks. -/
theorem State.reach_of_tlbHit {s : State} {w : Who} {a : Acc} {t : TlbEntry} {key : Nat} (hsvc : w.svc = false) (hwin : a.cap.has Perm.window = false)
    (hcur : a.cap.cursor.toNat < 2 ^ 56) (hx : a.x < 2 ^ 56) (ht : (s.cluster w.cluster).tlbHit w.ctx a.x = some t) (hsz : t.size ≤ 30) (hloc : t.pte.getLsbD 58 = false)
    (hkey : key = bitsOf t.pte.toNat 51 8 * 256 + a.x % 2 ^ t.size) :
    (∀ e, leafCause w.priv a.need t.pte = some e → s.reach w a = .error e) ∧
    (leafCause w.priv a.need t.pte = none → s.reach w a = if s.locked w a.rd a.wr key a.n then .error Cause.rangeLock else .ok (key, none)) := by
  have hleaf : leafKey t.pte t.size a.x = key := by
    simp only [leafKey, hloc, Bool.false_eq_true, if_false, hkey]
  have hlow : key < Config.remoteKey := by
    have h1 : bitsOf t.pte.toNat 51 8 < 2 ^ 44 := Nat.mod_lt _ (by decide)
    have h2 : a.x % 2 ^ t.size < 2 ^ t.size := Nat.mod_lt _ (by positivity)
    have h3 : 2 ^ t.size ≤ 2 ^ 30 := Nat.pow_le_pow_right (by decide) hsz
    show key < 2 ^ 56
    omega
  have hremote : s.remoteCause key = none := by rw [State.remoteCause, if_pos hlow]
  have hvirt : s.locate w a.cap a.need a.x = s.virt w a.need a.x := by
    simp only [State.locate, hwin, hsvc, Bool.false_eq_true, if_false, if_neg (not_le.2 hcur)]
  refine ⟨fun e he => ?_, fun hn => ?_⟩
  · rw [State.reach, hvirt, State.virt, if_neg (not_le.2 hx), ht]
    simp only [he]
  · rw [State.reach, hvirt, State.virt, if_neg (not_le.2 hx), ht]
    simp only [hn, hleaf, hremote]

end Sys2Proof.Machine
end

section
/-! Scalar loads and stores: what a granted one leaves outstanding, and what R70 refuses (R48, R131, R132, R264, R266). -/
namespace Sys2Proof.Machine
open Sys2Proof

/-! ### Loads -/

theorem loadWords_ready {row : (BitVec 6 → BitVec 5 → BitVec 14 → Instr) × Nat × Bool} (h : row ∈ loadWords) {d : BitVec 6} {a : BitVec 5} (imm : BitVec 14)
    {s : State} (hr : s.Ready [d] [a]) : exec (row.1 d a imm) s = s.loadAt d (s.c a) (dispAddr (s.c a) imm) row.2.1 row.2.2 := by
  have hdisp : exec (row.1 d a imm) s = s.loadDisp d a imm row.2.1 row.2.2 := by
    simp only [loadWords, List.mem_cons, List.not_mem_nil, or_false] at h
    rcases h with rfl | rfl | rfl | rfl | rfl | rfl | rfl <;> rfl
  rw [hdisp, State.loadDisp, s.scalarOp_ready _ _ _ hr]
  rfl

theorem ldx_ready {d b : BitVec 6} {a : BitVec 5} (o : Ord) (ty : BitVec 3) {s : State} (hr : s.Ready [d, b] [a]) :
    exec (.ldx d a b o ty) s = s.loadAt d (s.c a) ((s.c a).cursor + s.x b).toNat (2 ^ (ty.toNat % 4)) (4 ≤ ty.toNat) := by
  change execLdx d a b o ty s = _
  rw [execLdx, s.scalarOp_ready _ _ _ hr]
  rfl

theorem sextNat_eq_toInt (x n : Nat) : sextNat x n = (BitVec.ofNat n x).toInt := by
  rw [BitVec.toInt, BitVec.toNat_ofNat]
  unfold sextNat
  dsimp only
  split_ifs <;> push_cast <;> omega

theorem ofNat_wrapInt (x : Int) (n : Nat) : BitVec.ofNat n (wrapInt x n) = BitVec.ofInt n x := by
  apply BitVec.eq_of_toNat_eq
  rw [BitVec.toNat_ofNat, BitVec.toNat_ofInt, wrapInt, Nat.mod_eq_of_lt]
  have := Int.emod_lt_of_pos x (show (0 : Int) < (2 ^ n : Nat) by positivity)
  have := Int.emod_nonneg x (show ((2 ^ n : Nat) : Int) ≠ 0 by positivity)
  omega

/-- The bytes that a load delivers, extended as its form says. -/
theorem loadValue_eq (v n : Nat) (sx : Bool) : BitVec.ofNat 64 (if sx then wrapInt (sextNat v (8 * n)) 64 else v) = loadValue v n sx := by
  unfold loadValue
  cases sx
  · rfl
  · rw [if_pos rfl, if_pos rfl, ofNat_wrapInt, sextNat_eq_toInt]

theorem State.sameHarts_wlSend (s : State) (w : Who) (op k : Nat) (kind : RemoteKind) : s.SameHarts (s.wlSend w op k kind) := by
  unfold State.wlSend
  split
  · exact .refl s
  · exact ⟨rfl, rfl, fun x => by cases x <;> rfl, fun _ => rfl⟩

/-- A load whose access is granted stands outstanding with the bytes that it took. -/
theorem State.did_loadAt {s u : State} {c : Cap} {x n k : Nat} (d : BitVec 6) (sx : Bool) (hp : s.Present) (hl : s.hart.ld < 255) (h : s.Granted (.load c x n) k u) :
    DidIn s { u.wlSend u.who u.nextId k (.read n) with nextId := s.nextId + 1 } (s.loadAt d c x n sx)
      (s.hart.holding (opOf s.nextId true (loadDst d) [] (loadWrite d (loadValue (u.loadNat k n) n sx)) false)) := by
  obtain ⟨hu, hh, hn⟩ := State.granted_same h hp
  have hw := u.sameHarts_wlSend u.who u.nextId k (.read n)
  have hlim : ¬ 255 ≤ s.hart.ld := by omega
  simp only [State.loadAt, if_neg hlim, s.accessOp_granted u _ k _ h, loadValue_eq]
  exact did_pend s _ true (loadDst d) [] _ false (hw.present hu) (hw.here.trans hh) (hw.next.trans hn)

/-- A load that R70 refuses. -/
theorem State.refuses_loadAt {s : State} {i : Instr} {c : Cap} {x n : Nat} {d : BitVec 6} {sx : Bool} (hl : s.hart.ld < 255) (h : exec i s = s.loadAt d c x n sx) :
    s.Refuses i (.load c x n) :=
  State.refuses_of_access (h.trans (if_neg (by omega)))

/-! ### Stores -/

theorem storeWords_ready {row : (BitVec 6 → BitVec 5 → BitVec 14 → Instr) × Nat} (h : row ∈ storeWords) {d : BitVec 6} {a : BitVec 5} (imm : BitVec 14)
    {s : State} (hr : s.Ready [d] [a]) : exec (row.1 d a imm) s = s.storeAt d (s.c a) (dispAddr (s.c a) imm) row.2 false := by
  have hdisp : exec (row.1 d a imm) s = s.storeDisp d a imm row.2 := by
    simp only [storeWords, List.mem_cons, List.not_mem_nil, or_false] at h
    rcases h with rfl | rfl | rfl | rfl <;> rfl
  rw [hdisp, State.storeDisp, s.scalarOp_ready _ _ _ hr]
  rfl

theorem stx_ready {d b : BitVec 6} {a : BitVec 5} (o : Ord) (ty : BitVec 2) {s : State} (hr : s.Ready [d, b] [a]) :
    exec (.stx d a b o ty) s = s.storeAt d (s.c a) ((s.c a).cursor + s.x b).toNat (2 ^ ty.toNat) o.on := by
  change execStx d a b o ty s = _
  rw [execStx, s.scalarOp_ready _ _ _ hr]
  rfl

theorem State.sameHarts_perform (s : State) (w : Stall) : s.SameHarts (s.perform w) := by
  unfold State.perform
  split
  · exact s.sameHarts_writeKeys _ _
  · exact s.sameHarts_writeCap _ _ _
  · exact s.sameHarts_writeKeys _ _
  · exact (s.sameHarts_putKeys _ _).trans (State.sameHarts_foldl _ (fun t _ => t.sameHarts_keySetTag _ _) _ _)

/-- A store issued: performed at once, or waiting with its operation while its page is being moved (R264). -/
theorem State.did_storeOp {s u : State} {w : Stall} (kind : RemoteKind) (hu : u.Present) (hh : u.hart = s.hart) (hn : u.nextId = s.nextId) :
    DidIn s (s.storeSent u w.key w.write kind).1 (.next (u.storeOp w kind).advance) (s.storeSent u w.key w.write kind).2 := by
  have hsend := u.sameHarts_wlSend u.who u.nextId w.key kind
  unfold State.storeOp State.storeSent State.wrote
  dsimp only
  split_ifs
  · exact did_pendOp s _ _ (hsend.present hu) (hsend.here.trans hh) (hsend.next.trans hn)
  · have hperf := hsend.trans (State.sameHarts_perform _ w)
    exact did_pend s _ false [] [] [] false (hperf.present hu) (hperf.here.trans hh) (hperf.next.trans hn)

section
variable {s u : State} {c : Cap} {x n k : Nat} {d : BitVec 6} {rel : Bool} (hst : s.hart.st < 255) (hrel : rel = true → s.drained = true)
include hst hrel

theorem State.storeAt_issues : s.storeAt d c x n rel = s.accessOp (.store c x n) fun k s =>
    if isEdge k then .next (((s.storeNat k n (s.x d).toNat).pend false [] [] [] false).advance)
    else .next (s.storeOp ⟨k, .put (leBytes n (s.x d).toNat)⟩ (.write (leBytes n (s.x d).toNat) [])).advance := by
  have hlim : ¬ (255 ≤ s.hart.st ∨ (rel = true ∧ (!s.drained) = true)) := by
    rintro (h | ⟨hr, hd⟩)
    · omega
    · rw [hrel hr] at hd; exact Bool.false_ne_true hd
  exact if_neg hlim

/-- A granted store of a register of the edge block. -/
theorem State.did_storeAt_edge (hp : s.Present) (h : s.Granted (.store c x n) k u) (he : isEdge k = true) :
    DidIn s { u.storeNat k n (s.x d).toNat with nextId := s.nextId + 1 } (s.storeAt d c x n rel) (s.hart.holding (opOf s.nextId false [] [] [] false)) := by
  obtain ⟨hu, hh, hn⟩ := State.granted_same h hp
  have hx : u.x d = s.x d := by rw [State.x, State.x, hh]
  have hsame := u.sameHarts_storeNat k n (s.x d).toNat
  rw [State.storeAt_issues hst hrel, s.accessOp_granted u _ k _ h, if_pos he, hx]
  exact did_pend s _ false [] [] [] false (hsame.present hu) (hsame.here.trans hh) (hsame.next.trans hn)

/-- A granted store elsewhere. -/
theorem State.did_storeAt (hp : s.Present) (h : s.Granted (.store c x n) k u) (he : isEdge k = false) :
    let bs := leBytes n (s.x d).toNat
    DidIn s (s.storeSent u k (.put bs) (.write bs [])).1 (s.storeAt d c x n rel) (s.storeSent u k (.put bs) (.write bs [])).2 := by
  obtain ⟨hu, hh, hn⟩ := State.granted_same h hp
  have hx : u.x d = s.x d := by rw [State.x, State.x, hh]
  rw [State.storeAt_issues hst hrel, s.accessOp_granted u _ k _ h, he, hx]
  exact State.did_storeOp (w := ⟨k, .put (leBytes n (s.x d).toNat)⟩) _ hu hh hn

theorem State.refuses_storeAt {i : Instr} (h : exec i s = s.storeAt d c x n rel) : s.Refuses i (.store c x n) :=
  State.refuses_of_access (h.trans (State.storeAt_issues hst hrel))

end

/-- A release waits for the accesses before it (R132). -/
theorem State.storeAt_release_waits {s : State} (d : BitVec 6) (c : Cap) (x n : Nat) (h : s.drained = false) : s.storeAt d c x n true = .next s :=
  if_pos (.inr ⟨rfl, by rw [h]; rfl⟩)

end Sys2Proof.Machine

open Sys2Proof Sys2Proof.Machine

/-- Settles O6: the loads by `did_loadAt`, the refusals by `refuses_loadAt`, and the page held in the TLB by the order of the causes of R70. -/
theorem loadsTakeTheirBytes : Obligations.LoadsTakeTheirBytes := by
  unfold Obligations.LoadsTakeTheirBytes
  refine ⟨fun row hrow d a imm s u k hp hr hl h => ?_, fun d b a o ty s u k hp hr hl h => ?_, fun d b a imm o ty s hl => ⟨fun hr row hrow => ?_, fun hr => ?_⟩,
    fun s w a t hsvc hwin hcur hx ht hsz hloc hneed => ?_⟩
  · rw [loadWords_ready hrow imm hr]
    exact State.did_loadAt d row.2.2 hp hl h
  · rw [ldx_ready o ty hr]
    exact State.did_loadAt d _ hp hl h
  · exact State.refuses_loadAt hl (loadWords_ready hrow imm hr)
  · exact State.refuses_loadAt hl (ldx_ready o ty hr)
  · obtain ⟨hsome, hnone⟩ := State.reach_of_tlbHit hsvc hwin hcur hx ht hsz hloc rfl
    have hleaf := leafCause_first w.priv t.pte hneed
    refine ⟨fun e he => ?_, fun hn => ?_⟩
    · rcases firstOf_append.1 he with he | ⟨hn, ⟨hl, rfl⟩ | ⟨-, h⟩⟩
      · exact hsome e ((hleaf.eq_some_iff e).2 he)
      · rw [hnone (hleaf.eq_none_iff.2 hn), if_pos ((State.lockTest_iff hsvc).2 hl)]; rfl
      · exact h.elim
    · obtain ⟨hn, hl⟩ := noneOf_append.1 hn
      rw [hnone (hleaf.eq_none_iff.2 hn), if_neg fun h => (noneOf_cons.1 hl).1 ((State.lockTest_iff hsvc).1 h)]

/-- Settles O7: the stores by `did_storeAt`, as their key lies in the edge block or not; a release by what it waits for. -/
theorem storesWriteTheirBytes : Obligations.StoresWriteTheirBytes := by
  unfold Obligations.StoresWriteTheirBytes
  refine ⟨fun row hrow d a imm s u k hp hr hst h => ?_, fun d b a o ty s u k hp hr hst hrel h => ?_, fun d b a o ty s hr ho hd => ?_,
    fun d b a imm o ty s hst => ⟨fun hr row hrow => ?_, fun hr hrel => ?_⟩⟩
  · rw [storeWords_ready hrow imm hr]
    exact ⟨State.did_storeAt_edge hst Bool.noConfusion hp h, State.did_storeAt hst Bool.noConfusion hp h⟩
  · rw [stx_ready o ty hr]
    exact ⟨State.did_storeAt_edge hst hrel hp h, State.did_storeAt hst hrel hp h⟩
  · rw [stx_ready o ty hr, ho]
    exact State.storeAt_release_waits d _ _ _ hd
  · exact State.refuses_storeAt hst Bool.noConfusion (storeWords_ready hrow imm hr)
  · exact State.refuses_storeAt hst hrel (stx_ready o ty hr)
end

section
/-! Runs fetched through LCODE and accepted into the lane queue (R34, R35, R38, R39, R48, R142). -/
namespace Sys2Proof.Machine
open Sys2Proof

/-! ### The fetch of a run -/

/-- The words of a run from an address on: each fetched through a capability with exec-lane, and only the last with its last bit set (R34). -/
def State.RunFrom (s : State) (w : Who) (code : Cap) (y : Word) (ws : List (BitVec 96)) : Prop :=
  ∀ i (h : i < ws.length), (ws[i].getLsbD 95 = true ↔ i + 1 = ws.length) ∧
    ∃ segs t, s.resolve w code [Perm.execLane] Need.exec (y + BitVec.ofNat 64 (12 * i)).toNat 12 4 = .ok (segs, t) ∧ ws[i] = BitVec.ofNat 96 (leNat (s.readSegs segs))

theorem State.runFrom_singleton {s : State} {w : Who} {code : Cap} {y : Word} {segs : List Seg} {t : List TlbEntry}
    (h : s.resolve w code [Perm.execLane] Need.exec y.toNat 12 4 = .ok (segs, t)) (hlast : (BitVec.ofNat 96 (leNat (s.readSegs segs))).getLsbD 95 = true) :
    s.RunFrom w code y [BitVec.ofNat 96 (leNat (s.readSegs segs))] := by
  intro i hi
  obtain rfl : i = 0 := by simpa using hi
  exact ⟨by simp [hlast], segs, t, by simpa using h, rfl⟩

/-- A word that is not the last put before a run. -/
theorem State.runFrom_cons {s : State} {w : Who} {code : Cap} {y : Word} {segs : List Seg} {t : List TlbEntry} {ws : List (BitVec 96)}
    (h : s.resolve w code [Perm.execLane] Need.exec y.toNat 12 4 = .ok (segs, t)) (hmore : (BitVec.ofNat 96 (leNat (s.readSegs segs))).getLsbD 95 = false)
    (hpos : 0 < ws.length) (hws : s.RunFrom w code (y + 12) ws) : s.RunFrom w code y (BitVec.ofNat 96 (leNat (s.readSegs segs)) :: ws) := by
  intro i hi
  cases i with
  | zero =>
    refine ⟨?_, segs, t, by simpa using h, rfl⟩
    simp only [List.getElem_cons_zero, hmore, List.length_cons, Bool.false_eq_true, false_iff]
    omega
  | succ i =>
    obtain ⟨hbit, segs', t', hres, hword⟩ := hws i (by simpa using hi)
    have haddr : y + BitVec.ofNat 64 (12 * (i + 1)) = y + 12 + BitVec.ofNat 64 (12 * i) := by
      rw [Nat.mul_succ, Nat.add_comm, BitVec.ofNat_add, BitVec.add_assoc]
      rfl
    simp only [List.getElem_cons_succ, List.length_cons, Nat.add_right_cancel_iff]
    exact ⟨hbit, segs', t', by rw [haddr]; exact hres, hword⟩

/-- What the fetch of a run adds to the words that it has. -/
theorem State.fetchLane_ok {s : State} {w : Who} {code : Cap} {start pc : Word} {n : Nat} {y : Word} {ws0 ws : List (BitVec 96)} {ts0 ts : List TlbEntry}
    (h : s.fetchLane w code start pc n y ws0 ts0 = .ok (ws, ts)) :
    ∃ new, ws = ws0 ++ new ∧ 0 < new.length ∧ new.length ≤ n ∧ s.RunFrom w code y new := by
  induction n generalizing y ws0 ts0 with
  | zero => simp [State.fetchLane] at h
  | succ n ih =>
    rw [State.fetchLane] at h
    split at h
    · cases h
    · rename_i segs t hres
      dsimp only at h
      split_ifs at h with hlast
      · cases h
        exact ⟨_, rfl, by simp, by simp, State.runFrom_singleton hres hlast⟩
      · obtain ⟨new, rfl, hpos, hlen, hrun⟩ := ih h
        exact ⟨_ :: new, by simp, by simp, by simpa using hlen, State.runFrom_cons hres (by simpa using hlast) hpos hrun⟩

/-! ### What a fetch leaves alone -/

theorem State.fill_clusters (s : State) (c : Nat) (ts : List TlbEntry) : ∃ cs, s.fill c ts = { s with clusters := cs } := by
  unfold State.fill
  split
  · exact ⟨s.clusters, rfl⟩
  · exact ⟨_, rfl⟩

theorem State.wlReads_edge (s : State) (w : Who) (op : Nat) (segs : List Seg) : ∃ e, s.wlReads w op segs = { s with edge := e } := by
  unfold State.wlReads
  induction segs generalizing s with
  | nil => exact ⟨s.edge, rfl⟩
  | cons z segs ih =>
    obtain ⟨e, he⟩ : ∃ e, s.wlSend w op z.lo (.read z.len) = { s with edge := e } := by
      unfold State.wlSend
      split
      · exact ⟨s.edge, rfl⟩
      · exact ⟨_, rfl⟩
    obtain ⟨e', he'⟩ := ih { s with edge := e }
    exact ⟨e', by rw [List.foldl_cons, he, he']⟩

/-- Reads of ranges whose replies the same step takes touch the links and the count of operations alone. -/
theorem State.wlReadNow_edge (s : State) (w : Who) (segs : List Seg) : ∃ e n, s.wlReadNow w segs = { s with edge := e, nextId := n } := by
  unfold State.wlReadNow
  split
  · exact ⟨s.edge, s.nextId, rfl⟩
  · obtain ⟨e, he⟩ := s.wlReads_edge w s.nextId segs
    exact ⟨_, s.nextId + 1, by rw [he]; rfl⟩

/-- A change of the current group that changes its scalar part beside another change. -/
theorem State.modGroup_modHart {u : State} {k : Nat} (hc : u.cur = .group k) (F : Group → Group) (f : Hart → Hart) :
    (u.modGroup k F).modHart f = u.modGroup k fun g => { F g with hart := f (F g).hart } := by
  rw [State.modHart, show (u.modGroup k F).cur = .group k from hc, State.modHartOf, State.modGroup_modGroup]

theorem State.AsGroup.present {s : State} {k : Nat} {g : Group} (h : s.AsGroup k g) : s.Present := by
  obtain ⟨hc, hg⟩ := h
  unfold State.Present
  rw [hc]
  exact Option.isSome_iff_exists.2 ⟨g, hg⟩
theorem State.AsGroup.hart {s : State} {k : Nat} {g : Group} (h : s.AsGroup k g) : s.hart = g.hart := by
  obtain ⟨hc, hg⟩ := h
  simp only [State.hart, hc, State.hartOf, hg]

/-- A fetch leaves the current group and the cycle as they were. -/
theorem State.AsGroup.fetched {s : State} {k : Nat} {g : Group} (h : s.AsGroup k g) (c : Nat) (ts : List TlbEntry) (w : Who) (segs : List Seg) :
    ((s.fill c ts).wlReadNow w segs).AsGroup k g ∧ ((s.fill c ts).wlReadNow w segs).cycle = s.cycle := by
  obtain ⟨cs, hfill⟩ := s.fill_clusters c ts
  obtain ⟨e, n, hread⟩ := (s.fill c ts).wlReadNow_edge w segs
  rw [hread, hfill]
  exact ⟨h, rfl⟩

/-- A word that changes its group, its scalar part beside the rest. -/
theorem did_modGroup {s u : State} {k : Nat} {g : Group} (hs : s.AsGroup k g) (hu : u.AsGroup k g) (F : Group → Group) (f : Hart → Hart)
    (hF : (F g).hart = g.hart) (hf : (f g.hart).pc = g.hart.pc) :
    DidIn s (u.modGroup k F) (.next ((u.modGroup k F).modHart f).advance) (f s.hart) := by
  have hv : (u.modGroup k F).AsGroup k (F g) := ⟨hu.1, by rw [State.group_modGroup_same, hu.2]; rfl⟩
  have hh : ((u.modGroup k F).modHart f).hart = f g.hart := by rw [State.hart_modHart _ _ hv.present, hv.hart, hF]
  refine ⟨_, rfl, ?_, by rw [State.rest_advance, State.rest_modHart]⟩
  rw [State.hart_advance _ (State.present_modHart _ f hv.present), State.pc, hh, hs.hart, hf, State.pc, hs.hart]

/-! ### Acceptance -/

theorem runCounts_eq (ws : List (BitVec 96)) :
    runCounts ws = (ws.countP fun w => laneCount w == some true, ws.countP fun w => laneCount w == some false) := by
  simp only [runCounts, List.countP_eq_length_filter]

theorem Hart.scalarPending_eq_false {h : Hart} (hp : ∀ p ∈ h.pend, ∀ n, RegRef.s n ∉ p.regs ∧ RegRef.c n ∉ p.regs) : h.scalarPending = false := by
  refine List.any_eq_false.2 fun p hm hany => ?_
  obtain ⟨r, hr, hmatch⟩ := List.any_eq_true.1 hany
  cases r with
  | s n => exact (hp p hm n).1 hr
  | c n => exact (hp p hm n).2 hr
  | v n => exact Bool.false_ne_true hmatch
  | p n => exact Bool.false_ne_true hmatch

/-- A group's queue with a run accepted at its end, and the counts of runs (R34 step 4, R35, R39). -/
def Group.queueing (g : Group) (y : Word) (ws : List (BitVec 96)) (cycle : Word) : Group :=
  { g with lane := { g.lane with
      runs := g.lane.runs + 1, lastRun := some y,
      queue := g.lane.queue ++ [⟨g.lane.runs, ws, y, ⟨g.hart.s, g.hart.c, g.lane.fpctl⟩, if g.lane.queue = [] then some cycle else none, false⟩] } }

/-- The memory words of a run counted (R48). -/
def Hart.counting (ws : List (BitVec 96)) (h : Hart) : Hart :=
  { h with ld := h.ld + ws.countP fun w => laneCount w == some true, st := h.st + ws.countP fun w => laneCount w == some false }

theorem State.acceptRun_eq {u : State} {k : Nat} (hc : u.cur = .group k) (y : Word) (ws : List (BitVec 96)) :
    u.acceptRun k y ws = (u.modGroup k fun g => g.queueing y ws u.cycle).modHart (Hart.counting ws) := by
  rw [State.modGroup_modHart hc, State.acceptRun, runCounts_eq]
  congr 1
  funext g
  simp only [Group.queueing, Hart.counting, List.isEmpty_iff]

/-- A word of a group runs its body. -/
theorem State.groupOnly_group {s : State} {k : Nat} {g : Group} (h : s.AsGroup k g) (body : Nat → Group → Res) : s.groupOnly body = body k g := by
  simp only [State.groupOnly, h.1, h.2]

/-- An `lrun` whose queue has room and whose run is fetched: it holds while a counter, the links or an error do not let it, and else its run is accepted. -/
theorem lrun_eq {a : BitVec 6} {off : BitVec 14} {s : State} {k : Nat} {g : Group} {ws : List (BitVec 96)} {ts : List TlbEntry} (h : s.AsGroup k g) (hr : s.Ready [a] [])
    (hq : g.lane.queue.length < 4) (hp : g.hart.scalarPending = false) (hf : s.fetchLane s.who g.lcode (runAddr g.lcode (s.x a) off) s.pc 24 (runAddr g.lcode (s.x a) off) [] [] = .ok (ws, ts)) :
    exec (.lrun a off) s =
      let segs := s.runSegs s.who g.lcode (runAddr g.lcode (s.x a) off) ws.length
      if 255 < g.hart.ld + (runCounts ws).1 ∨ 255 < g.hart.st + (runCounts ws).2 ∨ s.wlRoomFor (segs.map (·.lo)) = false ∨ s.segsSpoilt segs = true then .next s
      else .next (((s.fill s.curCluster ts).wlReadNow s.who segs).acceptRun k (runAddr g.lcode (s.x a) off) ws).advance := by
  have hroom : ¬ (4 ≤ g.lane.queue.length ∨ g.hart.scalarPending = true) := by
    rintro (h | h)
    · omega
    · exact Bool.false_ne_true (hp.symm.trans h)
  change execLrun a off s = _
  rw [execLrun, State.groupOnly_group h, s.scalarOp_ready _ _ _ hr, if_neg hroom]
  simp only [hf]

end Sys2Proof.Machine

open Sys2Proof Sys2Proof.Machine

/-- Settles O12: `lrun` by `lrun_eq`; the words of a run by induction over its fetch. -/
theorem runsAreFetchedAndEnterTheLaneQueue : Obligations.RunsAreFetchedAndEnterTheLaneQueue := by
  unfold Obligations.RunsAreFetchedAndEnterTheLaneQueue
  refine ⟨fun a off s k g ws ts hs hr hq hp hf => ?_, fun s w code pc y ws ts hf => ?_⟩
  · have hexec := lrun_eq hs hr hq (Hart.scalarPending_eq_false hp) hf
    rw [runCounts_eq] at hexec
    refine ⟨fun hwait => hexec.trans (if_pos hwait), fun h1 h2 h3 h4 => ?_⟩
    obtain ⟨hv, hcycle⟩ := hs.fetched (slotCluster k) ts s.who (s.runSegs s.who g.lcode (runAddr g.lcode (s.x a) off) ws.length)
    have hcl : s.curCluster = slotCluster k := by rw [State.curCluster, hs.1]
    have hgo := hexec.trans (if_neg (by
      rintro (h | h | h | h)
      · exact absurd h (not_lt.2 h1)
      · exact absurd h (not_lt.2 h2)
      · exact Bool.false_ne_true (h.symm.trans h3)
      · exact Bool.false_ne_true (h4.symm.trans h)))
    rw [hgo, hcl, State.acceptRun_eq hv.1, hcycle]
    exact did_modGroup hs hv (fun g => g.queueing _ ws s.cycle) (Hart.counting ws) rfl rfl
  · obtain ⟨new, rfl, hpos, hlen, hrun⟩ := State.fetchLane_ok hf
    exact ⟨hpos, hlen, hrun⟩
end

section
/-! `exit` and `exitc`: the word goes on, and its group enters Exiting with its runs discarded (R50, R152, R153, R282). -/
namespace Sys2Proof.Machine
open Sys2Proof

theorem State.group_modGroup_of {s : State} {k : Nat} {g : Group} (hg : s.group k = some g) (f : Group → Group) : (s.modGroup k f).group k = some (f g) := by
  rw [State.group_modGroup_same, hg]; rfl

/-- A core with an event counted, unless its counters are frozen (R343). -/
def Core.counting (frozen : Bool) (ev n : Nat) (c : Core) : Core :=
  if frozen then c else { c with events := vmod c.events ev fun x => min (2 ^ 48 - 1) (x + n) }

theorem Core.holder_counting (frozen : Bool) (ev n : Nat) (c : Core) : (c.counting frozen ev n).holder = c.holder := by
  unfold Core.counting; split <;> rfl

theorem State.count_eq (u : State) (cl core ev n : Nat) :
    u.count cl core ev n = u.modCore cl core (Core.counting ((u.cluster cl).dbg.ctl.getLsbD 4) ev n) := by
  unfold State.count
  split
  · rename_i hf
    have hid : ∀ x : Cluster, ({ x with cores := vmod x.cores core (Core.counting true ev n) } : Cluster) = x := fun x => by
      rw [vmod_id x.cores core (Core.counting true ev n) fun _ => rfl]
    rw [hf, State.modCore, State.modCluster, vmod_id u.clusters cl _ hid]
  · rename_i hf
    rw [Bool.not_eq_true] at hf
    rw [hf]
    rfl

/-- What the issue of a group's word changes: the stepping of the group, its core, and the count of free values. -/
theorem State.issue_parts {s : State} {k : Nat} (hc : s.cur = .group k) :
    ∃ (step : Group → StepState) (f : Core → Core) (frozen : Bool), (∀ x, (f x).holder = x.holder) ∧
      s.issue = ((State.modGroup { s with free := s.free + 1 } k fun g => { g with stepping := step g }).modCore (slotCluster k) (slotCore k) f).modCore
        (slotCluster k) (slotCore k) (Core.counting frozen 3 1) := by
  obtain ⟨cy, time, tu, cur⟩ := s
  simp only at hc
  subst hc
  refine ⟨_, _, _, ?_, State.count_eq _ _ _ _ _⟩
  exact fun _ => rfl

/-- Issuing a word touches its own slot, cores and the free values alone. -/
theorem State.issue_effect {s : State} {k : Nat} {g : Group} (h : s.AsGroup k g) :
    State.SlotFrame k s s.issue ∧ s.issue.ctxs = s.ctxs ∧ s.issue.issuingRun k = s.issuingRun k ∧ ∃ st, s.issue.group k = some { g with stepping := st } := by
  obtain ⟨step, f, frozen, hf, e⟩ := State.issue_parts h.1
  generalize hs1 : ({ s with free := s.free + 1 } : State) = s1 at e
  have hs : State.SlotFrame k s s1 := by
    rw [← hs1]; exact ⟨⟨.of_clusters rfl rfl, rfl, rfl, rfl, rfl, rfl, rfl, fun _ => rfl⟩, fun _ _ => rfl⟩
  rw [e]
  refine ⟨((hs.trans (s1.slotFrame_modGroup k _)).trans (State.slotFrame_modCore _ k _ _ f)).trans (State.slotFrame_modCore _ k _ _ _), ?_, ?_, step g, ?_⟩
  · rw [← hs1]; rfl
  · rw [State.issuingRun_modCore _ _ _ _ _ (Core.holder_counting frozen 3 1), State.issuingRun_modCore _ _ _ _ f hf, State.issuingRun_modGroup, ← hs1]; rfl
  · rw [State.group_modCore, State.group_modCore, State.group_modGroup_same, ← hs1]
    exact congrArg (Option.map _) h.2

/-- A group's word done: its PC at the next word, its stepping recorded, and nothing else of its slot changed. -/
theorem State.advance_effect {s : State} {k : Nat} {g : Group} (h : s.AsGroup k g) :
    State.SlotFrame k s s.advance ∧ s.advance.ctxs = s.ctxs ∧ s.advance.issuingRun k = s.issuingRun k ∧
    ∃ st, s.advance.group k = some { g with stepping := st, hart := { g.hart with pc := g.hart.pc + 4 } } := by
  obtain ⟨hf, hctx, hrun, st, hg⟩ := State.issue_effect h
  have e : s.advance = s.issue.modGroup k fun x => { x with hart := { x.hart with pc := g.hart.pc + 4 } } := by
    rw [State.advance, State.setPc, State.modHart, s.issue_cur, h.1, State.modHartOf, State.pc, h.hart]
  rw [e]
  exact ⟨hf.trans (s.issue.slotFrame_modGroup k _), hctx, hrun, st, by rw [State.group_modGroup_same, hg]; rfl⟩

/-! ### A group that exits -/

theorem Group.retireBatches_keeps (g : Group) (ids : List Nat) :
    (g.retireBatches ids).openOps = g.openOps ∧ (g.retireBatches ids).cont = g.cont ∧ ∃ mx, (g.retireBatches ids).hart = { g.hart with mx := mx } := by
  unfold Group.retireBatches
  dsimp only
  split
  · exact ⟨rfl, rfl, _, rfl⟩
  · exact ⟨rfl, rfl, g.hart.mx, rfl⟩

/-- Entering Exiting closes the open operations, and of the scalar part touches only the count of batches. -/
theorem Group.exiting_keeps (id : Nat) (ids : List Nat) (g : Group) :
    (g.exiting id ids).openOps = [] ∧ (g.exiting id ids).cont = g.cont ∧ ∃ mx, (g.exiting id ids).hart = { g.hart with mx := mx } := by
  unfold Group.exiting
  dsimp only
  split
  · rename_i h
    exact ⟨List.isEmpty_iff.1 h, rfl, g.hart.mx, rfl⟩
  · obtain ⟨hops, hcont, mx, hh⟩ := (g.closeBatch id).retireBatches_keeps ids
    exact ⟨hops, hcont, mx, by rw [hh]; rfl⟩

/-- What a group is once it exits: no runs, no tokens, no open operation; its registers as they were, and the counts of its runs given back (R152, R236). -/
structure Group.Exited (g g' : Group) : Prop where
  life : g'.life = .exiting
  queue : g'.lane.queue = []
  tokens : g'.tokens = Vector.replicate 16 none
  openOps : g'.openOps = []
  cont : g'.cont = g.cont
  hart : ∃ mx, g'.hart = { g.hart with
    mx := mx, pc := g.hart.pc + 4,
    ld := g.hart.ld - (g.lane.queue.flatMap (·.words)).countP (fun w => laneCount w == some true),
    st := g.hart.st - (g.lane.queue.flatMap (·.words)).countP (fun w => laneCount w == some false) }

/-- A group with its runs discarded and their counts given back (R48, R152). -/
def Group.withoutRuns (g : Group) : Group :=
  { g with lane := { g.lane with queue := [] },
           hart := { g.hart with ld := g.hart.ld - (runCounts (unissued g.lane.queue)).1, st := g.hart.st - (runCounts (unissued g.lane.queue)).2 } }

theorem Group.hart_withoutRuns (g : Group) : g.withoutRuns.hart = { g.hart with
    ld := g.hart.ld - (g.lane.queue.flatMap (·.words)).countP (fun w => laneCount w == some true),
    st := g.hart.st - (g.lane.queue.flatMap (·.words)).countP (fun w => laneCount w == some false) } := by
  simp only [Group.withoutRuns, runCounts_eq, unissued]

theorem State.enterExiting_idle {s : State} {k : Nat} (h : s.issuingRun k = false) :
    s.enterExiting k = { s.modGroup k fun g => g.withoutRuns.exiting s.nextId (s.cluster (slotCluster k)).mxIds with nextId := s.nextId + 1 } := by
  have hown : s.endOwnTurn k = s := by rw [State.endOwnTurn, h]; rfl
  rw [State.enterExiting_eq, State.discardRuns_eq, hown, State.modGroup_modGroup]
  rfl

/-- A word done whose group then exits, none of its runs issuing. -/
theorem State.advance_enterExiting {s : State} {k : Nat} {g : Group} (h : s.AsGroup k g) (hi : s.issuingRun k = false) :
    State.SlotFrame k s (s.advance.enterExiting k) ∧ (s.advance.enterExiting k).ctxs = s.ctxs ∧
    ∃ g', (s.advance.enterExiting k).group k = some g' ∧ g.Exited g' := by
  obtain ⟨hf, hctx, hrun, st, hg⟩ := State.advance_effect h
  have heq := State.enterExiting_idle (hrun.trans hi)
  refine ⟨hf.trans (State.enterExiting_effect hg).1, by rw [heq]; exact hctx, ?_⟩
  obtain ⟨-, g', hg', hlife, hqueue, htok⟩ := State.enterExiting_effect hg
  refine ⟨g', hg', ?_⟩
  rw [heq] at hg'
  obtain rfl := Option.some.inj ((State.group_modGroup_of hg _).symm.trans hg')
  obtain ⟨hops, hcont, mx, hh⟩ := Group.exiting_keeps s.advance.nextId (s.advance.cluster (slotCluster k)).mxIds (Group.withoutRuns _)
  exact ⟨hlife, hqueue, htok, hops, hcont, mx, by rw [hh, Group.hart_withoutRuns]⟩

/-! ### The packet of `exitc` -/

theorem State.fill_who (s : State) (c : Nat) (ts : List TlbEntry) : (s.fill c ts).who = s.who := by
  obtain ⟨cs, h⟩ := s.fill_clusters c ts
  rw [h]
  rfl

/-- An `exitc` whose packet and descriptor are read, of a team that is there. -/
theorem exitc_eq {s u : State} {k kk : Nat} {g : Group} {a : BitVec 5} {tm : Team} {d : Rec} (h : s.AsGroup k g) (hr : s.Ready [] [a])
    (hgr : s.Granted (.load (s.c a) (s.c a).cursor.toNat 64) kk u) (hrel : u.released = true) (hi : u.issuingRun k = false)
    (hd : u.readDesc u.who (u.readRec [⟨kk, 64⟩] ((s.c a).has Perm.loadCap) s.who.mask) = .ok d) (htm : u.team g.team = some tm) :
    exec (.exitc a) s =
      let p := u.readRec [⟨kk, 64⟩] ((s.c a).has Perm.loadCap) s.who.mask
      if !u.contFits g.team tm p d then .next (u.raiseHere Cause.illegalInsn)
      else .next (if tm.heir.isNone then (u.advance.enterExiting k).modTeam g.team fun t => { t with heir := some (p.bytes, p.tags) }
        else (u.advance.enterExiting k).modGroup k fun g => { g with cont := some (p.bytes, p.tags) }) := by
  obtain ⟨-, hhart, -⟩ := State.granted_same hgr h.present
  have hc : u.c a = s.c a := by rw [State.c, State.c, hhart]
  have hw : u.who = s.who := by
    obtain ⟨⟨t, -, rfl⟩, -⟩ := hgr
    exact s.fill_who _ _
  change execExitc a s = _
  rw [execExitc, State.groupOnly_group h, s.scalarOp_ready _ _ _ hr, State.packetOp, s.accessOp_granted u _ kk _ hgr]
  rw [hc, hw, hrel, Bool.not_true, if_neg Bool.false_ne_true, hi, if_neg Bool.false_ne_true]
  rw [hw] at hd
  simp only [hd, htm]

end Sys2Proof.Machine

open Sys2Proof Sys2Proof.Machine

/-- Settles O18: both words by `advance_enterExiting`; `exitc` by whether its continuation fits, and whether its team has an heir already. -/
theorem exitingGroupsDiscardTheirRuns : Obligations.ExitingGroupsDiscardTheirRuns := by
  unfold Obligations.ExitingGroupsDiscardTheirRuns
  refine ⟨fun s k g h => ?_, fun s u k kk g a tm d h hr hgr hrel hi hd htm => ?_⟩
  · have hexec : exec .exit s = if s.issuingRun k then .next s else .next (s.advance.enterExiting k) := State.groupOnly_group h _
    refine ⟨fun hi => by rw [hexec, if_pos hi], fun hi => ?_⟩
    obtain ⟨hf, hctx, g', hg', he⟩ := State.advance_enterExiting h hi
    obtain ⟨mx, hh⟩ := he.hart
    refine ⟨_, g', by rw [hexec, hi]; rfl, hg', he.life, he.queue, he.tokens, he.openOps, ?_, ?_, ?_, ?_, ?_, hf.others, hf.mem, hf.tags, hf.teams, hctx⟩ <;> rw [hh]
  · have hexec := exitc_eq h hr hgr hrel hi hd htm
    dsimp only at hexec ⊢
    refine ⟨fun hfit => by rw [hexec, hfit]; rfl, fun hfit => ?_⟩
    rw [hfit] at hexec
    have hu : State.AsGroup u k g ∧ u.mem = s.mem ∧ u.tags = s.tags ∧ u.groups = s.groups := by
      obtain ⟨⟨t, -, rfl⟩, -⟩ := hgr
      obtain ⟨cs, hfill⟩ := s.fill_clusters s.curCluster t.toList
      rw [hfill]
      exact ⟨h, rfl, rfl, rfl⟩
    obtain ⟨hug, hmem, htags, hgroups⟩ := hu
    obtain ⟨hf, -, g', hg', he⟩ := State.advance_enterExiting hug hi
    obtain ⟨mx, hh⟩ := he.hart
    have hteam : (u.advance.enterExiting k).team g.team = some tm := by rw [State.team, hf.teams]; exact htm
    have hothers : ∀ j, j ≠ k → (u.advance.enterExiting k).group j = s.group j := fun j hj => (hf.others j hj).trans (congrArg (mapGet · j) hgroups)
    cases hheir : tm.heir with
    | none =>
      simp only [hheir, Bool.not_true, Bool.false_eq_true, if_false, Option.isNone_none, if_true] at hexec
      exact ⟨_, g', hexec, hg', he.life, by rw [hh], he.queue,
        fun _ => ⟨by rw [State.team_modTeam_same, hteam]; rfl, he.cont⟩, fun hn => absurd rfl hn, hothers, hf.mem.trans hmem, hf.tags.trans htags⟩
    | some c =>
      simp only [hheir, Bool.not_true, Bool.false_eq_true, if_false, Option.isNone_some] at hexec
      refine ⟨_, _, hexec, State.group_modGroup_of hg' _, he.life, by dsimp only; rw [hh], he.queue,
        fun hn => (nomatch hn), fun _ => ⟨hteam, rfl⟩, fun j hj => ?_, hf.mem.trans hmem, hf.tags.trans htags⟩
      exact (State.group_modGroup_ne _ _ hj).trans (hothers j hj)
end

section
/-! Copy commands at issue: the command registered with its cluster's engines and counted (R48, R207, R210, R213, R235). -/
namespace Sys2Proof.Machine
open Sys2Proof

theorem State.sameHarts_modCluster (s : State) (c : Nat) (f : Cluster → Cluster) (h : ∀ x, (f x).svc.hart = x.svc.hart) : s.SameHarts (s.modCluster c f) where
  cur := rfl
  next := rfl
  hart := fun x => by
    cases x with
    | group k => rfl
    | service d => exact s.cluster_modCluster_part c d f (fun x => x.svc.hart) h
  some := fun _ => rfl

theorem State.sameHarts_fill (s : State) (c : Nat) (ts : List TlbEntry) : s.SameHarts (s.fill c ts) := by
  unfold State.fill
  split
  · exact .refl s
  · exact s.sameHarts_modCluster c _ fun x => by rw [Cluster.fill_hart]

theorem State.sameHarts_addLock (s : State) (cl id : Nat) (segs : List Seg) (dst : Bool) : s.SameHarts (s.addLock cl id segs dst) := by
  unfold State.addLock
  split
  · exact .refl s
  · exact s.sameHarts_modCluster cl _ fun _ => rfl

/-- The locks of a command's operation taken (R213). -/
def State.lockAll (s : State) (id : Nat) (es : List (Nat × List Seg × Bool)) : State := es.foldl (fun s e => s.addLock e.1 id e.2.1 e.2.2) s

theorem State.sameHarts_lockAll (s : State) (id : Nat) (es : List (Nat × List Seg × Bool)) : s.SameHarts (s.lockAll id es) :=
  State.sameHarts_foldl (fun s (e : Nat × List Seg × Bool) => s.addLock e.1 id e.2.1 e.2.2) (fun s e => s.sameHarts_addLock e.1 id e.2.1 e.2.2) es s

/-- Registering a command touches no scalar part: the engines, the locks, the TLB and the count of operations alone. -/
theorem State.register_keeps (s : State) (cl : Nat) (p : Plan) : ∃ t, s.SameHarts t ∧ s.register cl p = { t with nextId := s.nextId + 1 } := by
  refine ⟨((s.fill cl p.2).lockAll s.nextId (p.1.entries cl)).modCluster cl fun c => { c with ops := c.ops ++ [{ p.1 with id := s.nextId }] }, ?_, rfl⟩
  exact ((s.sameHarts_fill cl p.2).trans (State.sameHarts_lockAll _ _ _)).trans (State.sameHarts_modCluster _ cl _ fun _ => rfl)

/-- A command registered, and among its group's copies (R213, R235). -/
def State.commandIssued (u : State) (p : Plan) : State := (u.register u.curCluster p).modCurGroup fun g => { g with copies := g.copies ++ [u.nextId] }

/-- The count of copies raised (R48). -/
def Hart.countCopy (h : Hart) : Hart := { h with cp := h.cp + 1 }

/-- Counting a command and keeping it among its group's copies are changes of two parts of a thread. -/
theorem State.modHart_modCurGroup (u : State) (f : Hart → Hart) (F : Group → Group) (h : ∀ g, F { g with hart := f g.hart } = { F g with hart := f (F g).hart }) :
    (u.modHart f).modCurGroup F = (u.modCurGroup F).modHart f := by
  cases hc : u.cur with
  | group k =>
    have hcur : ∀ f, (u.modGroup k f).cur = .group k := fun _ => hc
    simp only [State.modHart, State.modCurGroup, hc, State.modHartOf, hcur, State.modGroup_modGroup, h]
  | service c =>
    have hcur : ∀ f, (u.modCluster c f).cur = .service c := fun _ => hc
    simp only [State.modHart, State.modCurGroup, hc, State.modHartOf, hcur]

theorem State.SameHarts.modCurGroup {s u : State} (h : s.SameHarts u) (F : Group → Group) (hF : ∀ g, (F g).hart = g.hart) : s.SameHarts (u.modCurGroup F) := by
  refine h.trans ?_
  unfold State.modCurGroup
  split
  · exact u.sameHarts_modGroup _ F hF
  · exact .refl u

/-- A command that nothing holds back is registered and counted. -/
theorem State.did_issueCopy {s u : State} {p : Plan} (hu : u.Present) (hh : u.hart = s.hart) (h : u.CopyReady p.1) :
    DidIn s (u.commandIssued p) (u.issueCopy p) { s.hart with cp := s.hart.cp + 1 } := by
  obtain ⟨hcp, -, hfit, hroom⟩ := h
  have hgo : ¬ (255 ≤ u.hart.cp ∨ (!u.entriesFit p.1 u.curCluster) = true ∨ (!u.wlRoomFor (p.1.ranges.map (·.lo))) = true) := by
    rw [hfit, hroom]
    rintro (h | h | h)
    · omega
    · exact Bool.false_ne_true h
    · exact Bool.false_ne_true h
  have heq : u.issueCopy p = .next ((u.commandIssued p).modHart Hart.countCopy).advance := by
    rw [State.issueCopy, if_neg hgo, State.commandIssued, ← State.modHart_modCurGroup _ Hart.countCopy _ fun _ => rfl]
    rfl
  obtain ⟨t, ht, hreg⟩ := u.register_keeps u.curCluster p
  have hsame : (u.commandIssued p).Present ∧ (u.commandIssued p).hart = s.hart := by
    have hpres : State.Present { t with nextId := u.nextId + 1 } := ht.present hu
    have hhart : State.hart { t with nextId := u.nextId + 1 } = s.hart := ht.here.trans hh
    have hm := (State.SameHarts.refl { t with nextId := u.nextId + 1 }).modCurGroup (fun g => { g with copies := g.copies ++ [u.nextId] }) fun _ => rfl
    rw [State.commandIssued, hreg]
    exact ⟨hm.present hpres, hm.here.trans hhart⟩
  rw [heq]
  refine ⟨_, rfl, ?_, by rw [State.rest_advance, State.rest_modHart]⟩
  rw [State.hart_advance _ (State.present_modHart _ _ hsame.1), State.pc, State.hart_modHart _ _ hsame.1, hsame.2]
  rfl

theorem State.present_wlReadNow {s : State} (h : s.Present) (w : Who) (segs : List Seg) : (s.wlReadNow w segs).Present ∧ (s.wlReadNow w segs).hart = s.hart := by
  obtain ⟨e, n, hread⟩ := s.wlReadNow_edge w segs
  rw [hread]
  exact ⟨h, rfl⟩

theorem State.rangeF_ok {s : State} {w : Who} {c : Cap} {perms need : List Nat} {x len align : Nat} {r : List Seg × List TlbEntry}
    (h : s.resolve w c perms need x len align = .ok r) : s.rangeF w c perms need x len align = .ok r := by
  rw [State.rangeF, h]

/-- A `bcopy` whose fields and ranges pass (R210, R212). -/
theorem State.bcopyPlan_ok {s : State} {w : Who} {blank : EngOp} {src dst : Cap} {x pc : Word} {ring : Bool} {ss ds : List Seg} {t1 t2 : List TlbEntry}
    (h1 : bitsOf x.toNat 47 40 = 0) (h2 : ring = false → bitsOf x.toNat 63 48 = 0) (h3 : x.toNat % 2 ^ 40 ≤ 2 ^ 24)
    (h4 : ring = true → ∃ i tm r, blank.team = some i ∧ s.team i = some tm ∧ tm.ring = some r)
    (hs : s.resolve w src [Perm.engSrc] Need.read src.cursor.toNat (x.toNat % 2 ^ 40) 1 = .ok (ss, t1))
    (hd : s.resolve w dst [Perm.engDst] Need.write dst.cursor.toNat (x.toNat % 2 ^ 40) 1 = .ok (ds, t2)) :
    s.bcopyPlan w blank src dst x ring pc = .ok ({ blank with
      isBcopy := true, src := src, dst := dst, len := x.toNat % 2 ^ 40, srcSegs := ss, targets := s.targets ds,
      ring := if ring then some (BitVec.ofNat 16 (x.toNat / 2 ^ 48)) else none }, t1 ++ t2) := by
  have hlen : bitsOf x.toNat 39 0 = x.toNat % 2 ^ 40 := by rw [bitsOf_eq]; simp
  have hfields : ¬ (bitsOf x.toNat 47 40 ≠ 0 ∨ (!ring) = true ∧ bitsOf x.toNat 63 48 ≠ 0) := by
    rintro (h | ⟨hr, h⟩)
    · exact h h1
    · exact h (h2 (by cases ring <;> simp_all))
  rw [State.bcopyPlan]
  simp only [hlen]
  rw [if_neg hfields]
  cases ring with
  | false => simp only [Bool.false_eq_true, false_and, or_false, if_neg (not_lt.2 h3), State.rangeF_ok hs, State.rangeF_ok hd]
  | true =>
    obtain ⟨i, tm, r, hteam, htm, hring⟩ := h4 rfl
    simp only [hteam, Option.bind_some, htm, hring, Option.isSome_some, Bool.not_true, Bool.false_eq_true, and_false, or_false, if_neg (not_lt.2 h3),
      State.rangeF_ok hs, State.rangeF_ok hd]

/-- A `bcopy` that is ready and whose plan passes. -/
theorem bcopy_eq {d a : BitVec 5} {b : BitVec 6} {ring : Bool} {s : State} {p : Plan} (hr : s.Ready [b] [d, a]) (hready : s.copyReady = true)
    (hplan : s.bcopyPlan s.who s.myCommand (s.c a) (s.c d) (s.x b) ring s.pc = .ok p) :
    exec (.bcopy d a b ring) s = if p.1.len = 0 ∧ (!ring) = true then .next s.advance else s.issueCopy p := by
  change execBcopy d a b ring s = _
  rw [execBcopy, s.scalarOp_ready _ _ _ hr, hready, Bool.not_true, if_neg Bool.false_ne_true]
  simp only [hplan]

/-- A `tcopy` that is ready and whose plan passes asks for its shape record first. -/
theorem tcopy_eq {d a b : BitVec 5} {mc : Bool} {fmt : BitVec 3} {s : State} {p : Plan} (hr : s.Ready [] [d, a, b]) (hready : s.copyReady = true)
    (hplan : s.tcopyPlan s.who s.myCommand (s.c a) (s.c d) (s.c b) mc fmt.toNat s.pc = .ok p) :
    exec (.tcopy d a b mc fmt) s = if !s.wlRoomFor ((s.shapeSegs s.who (s.c b)).map (·.lo)) then .next s
      else (s.wlReadNow s.who (s.shapeSegs s.who (s.c b))).issueCopy p := by
  change execTcopy d a b mc fmt s = _
  rw [execTcopy, s.scalarOp_ready _ _ _ hr, hready, Bool.not_true, if_neg Bool.false_ne_true]
  simp only [hplan]

end Sys2Proof.Machine

open Sys2Proof Sys2Proof.Machine

/-- Settles O25: both commands by `did_issueCopy`, `bcopy` through `bcopyPlan_ok`. -/
theorem copyCommandsAreIssued : Obligations.CopyCommandsAreIssued := by
  unfold Obligations.CopyCommandsAreIssued
  refine fun s d a b5 b hp => ⟨fun mc fmt p hr hplan hready => ?_, fun ring ss ds t1 t2 hr h1 h2 h3 h4 hs hd => ?_⟩
  · have hexec := tcopy_eq hr hready hplan
    refine ⟨fun hroom => by rw [hexec, hroom]; rfl, fun hroom hcopy => ?_⟩
    obtain ⟨hpres, hhart⟩ := State.present_wlReadNow hp s.who (s.shapeSegs s.who (s.c b5))
    rw [hexec, hroom, Bool.not_true, if_neg Bool.false_ne_true]
    exact State.did_issueCopy hpres hhart hcopy
  · have hplan := State.bcopyPlan_ok (blank := s.myCommand) (pc := s.pc) h1 h2 h3 h4 hs hd
    refine ⟨fun hempty hready => ?_, fun hfull hcopy => ?_⟩
    · obtain ⟨hlen, hring⟩ := hempty
      rw [bcopy_eq hr hready hplan, if_pos ⟨hlen, by rw [hring]; rfl⟩]
      exact did_advance s hp
    · have hgo : ¬ ((s.x b).toNat % 2 ^ 40 = 0 ∧ (!ring) = true) := fun ⟨hlen, hring⟩ => hfull.elim (fun h => h hlen) fun h => by simp [h] at hring
      rw [bcopy_eq hr hcopy.2.1 hplan, if_neg hgo]
      exact State.did_issueCopy hp rfl hcopy
end

section
/-! Register groups written element by element, and a destination group by class (R46, R72, R163, R164). -/
namespace Sys2Proof.Machine
open Sys2Proof

/-! ### One element written -/

/-- The element widths of R80 and R163. -/
abbrev elemWidths : List Nat := [4, 8, 16, 32, 64]

theorem mem_elemWidths {w : Nat} : w ∈ elemWidths ↔ w = 4 ∨ w = 8 ∨ w = 16 ∨ w = 32 ∨ w = 64 := by simp

theorem LaneState.vreg_setElem_ne (l : LaneState) {n w k r : Nat} (x : Nat) (h : r ≠ n + k * w / 2048) : (l.setElem n w k x).vreg r = l.vreg r :=
  vgetD_vmod_ne _ _ _ h

theorem LaneState.vreg_setElem_same (l : LaneState) {n w k : Nat} (x : Nat) (h : n + k * w / 2048 < 64) :
    (l.setElem n w k x).vreg (n + k * w / 2048) = (l.vreg (n + k * w / 2048)).write (k * w % 2048) w x :=
  vgetD_vmod_same _ _ _ _ h

/-- An element of a group read after one of the group is written. -/
theorem LaneState.elem_setElem_group (l : LaneState) {n w j k : Nat} (x : Nat) (hw : w ∈ elemWidths) (hk : n + k * w / 2048 < 64) :
    (l.setElem n w k x).elem n w j = if j = k then x % 2 ^ w else l.elem n w j := by
  have hfit : k * w % 2048 + w ≤ 2048 := by
    rcases mem_elemWidths.1 hw with rfl | rfl | rfl | rfl | rfl <;> omega
  by_cases hj : j = k
  · subst hj
    rw [if_pos rfl, LaneState.elem, LaneState.vreg_setElem_same _ _ hk, VReg.read_write_same _ _ _ _ hfit]
  · rw [if_neg hj, LaneState.elem, LaneState.elem]
    by_cases hr : n + j * w / 2048 = n + k * w / 2048
    · have hapart : k * w % 2048 + w ≤ j * w % 2048 ∨ j * w % 2048 + w ≤ k * w % 2048 := by
        rcases mem_elemWidths.1 hw with rfl | rfl | rfl | rfl | rfl <;> omega
      rw [hr, LaneState.vreg_setElem_same _ _ hk, VReg.read_write_apart _ _ _ _ _ _ hapart]
    · rw [LaneState.vreg_setElem_ne _ _ hr]

theorem VReg.tags_write (v : VReg) {b w x i : Nat} (hi : i < 16) : (v.write b w x).tags.getLsbD i = true ↔ v.tags.getLsbD i = true ∧ b / 128 ≠ i := by
  have hbit : (2 ^ (b / 128)).testBit i = decide (b / 128 = i) := Nat.testBit_two_pow
  simp only [VReg.write, BitVec.getLsbD_and, BitVec.getLsbD_not, BitVec.getLsbD_ofNat, hbit, hi, decide_true, Bool.true_and, Bool.and_eq_true,
    Bool.not_eq_true', decide_eq_false_iff_not, ne_eq]

/-! ### Groups written element by element -/

/-- The elements `ks` of a group written, in order, where `f` gives a value. -/
def LaneState.setElems (l : LaneState) (n w : Nat) (f : Nat → Option Nat) (ks : List Nat) : LaneState :=
  ks.foldl (fun l k => match f k with | some x => l.setElem n w k x | none => l) l

theorem LaneState.Wrote.refl (l : LaneState) (n w count : Nat) : l.Wrote l n w count fun _ => none :=
  ⟨fun _ _ => rfl, fun _ _ _ => rfl, rfl, fun _ _ _ _ => by simp⟩

theorem LaneState.Wrote.congr {l l' : LaneState} {n w count : Nat} {f g : Nat → Option Nat} (h : l.Wrote l' n w count f) (hfg : ∀ k < count, f k = g k) :
    l.Wrote l' n w count g := by
  obtain ⟨helem, hregs, hrest, htags⟩ := h
  refine ⟨fun k hk => by rw [← hfg k hk]; exact helem k hk, hregs, hrest, fun r hr i hi => (htags r hr i hi).trans ?_⟩
  exact and_congr_right fun _ => forall₂_congr fun k hk => by rw [hfg k hk]

/-- What a write of elements leaves beside the registers. -/
theorem LaneState.Wrote.fields {l l' : LaneState} {n w count : Nat} {f : Nat → Option Nat} (h : l.Wrote l' n w count f) :
    l'.vl = l.vl ∧ l'.vt = l.vt ∧ l'.present = l.present := by
  obtain ⟨-, -, hrest, -⟩ := h
  exact ⟨by rw [← hrest], by rw [← hrest]; rfl, by rw [← hrest]⟩

/-- One more element of a group written. -/
theorem LaneState.Wrote.setElem {l l' : LaneState} {n w count : Nat} {f : Nat → Option Nat} (h : l.Wrote l' n w count f) (hw : w ∈ elemWidths)
    (hfit : n + (count * w + 2047) / 2048 ≤ 64) {k : Nat} (hk : k < count) (x : Nat) :
    l.Wrote (l'.setElem n w k x) n w count (Function.update f k (some x)) := by
  obtain ⟨helem, hregs, hrest, htags⟩ := h
  have hplace : k * w / 2048 < (count * w + 2047) / 2048 := by
    rcases mem_elemWidths.1 hw with rfl | rfl | rfl | rfl | rfl <;> omega
  have hin : n + k * w / 2048 < 64 := by omega
  refine ⟨fun j hj => ?_, fun r hr hout => ?_, hrest, fun r hr i hi => ?_⟩
  · rw [LaneState.elem_setElem_group _ _ hw hin]
    by_cases hjk : j = k
    · subst hjk; rw [if_pos rfl, Function.update_self]
    · rw [if_neg hjk, Function.update_of_ne hjk, helem j hj]
  · rw [LaneState.vreg_setElem_ne _ _ (by omega), hregs r hr hout]
  · have hiff := htags r hr i hi
    have hupd : (∀ j < count, Function.update f k (some x) j ≠ none → ¬(n + j * w / 2048 = r ∧ j * w % 2048 / 128 = i)) ↔
        (∀ j < count, f j ≠ none → ¬(n + j * w / 2048 = r ∧ j * w % 2048 / 128 = i)) ∧ ¬(n + k * w / 2048 = r ∧ k * w % 2048 / 128 = i) := by
      refine ⟨fun h => ⟨fun j hj hf => ?_, h k hk (by simp)⟩, fun ⟨h, hself⟩ j hj hf => ?_⟩
      · by_cases hjk : j = k
        · subst hjk; exact h j hj (by simp)
        · exact h j hj (by rwa [Function.update_of_ne hjk])
      · by_cases hjk : j = k
        · subst hjk; exact hself
        · exact h j hj (by rwa [Function.update_of_ne hjk] at hf)
    rw [hupd, ← and_assoc, ← hiff]
    by_cases hr' : n + k * w / 2048 = r
    · subst hr'
      rw [LaneState.vreg_setElem_same _ _ hin, VReg.tags_write _ hi]
      simp
    · rw [LaneState.vreg_setElem_ne _ _ (Ne.symm hr')]
      simp [hr']

/-- The elements of a group below m written where `f` gives a value. -/
theorem LaneState.wrote_setElems (l : LaneState) {n w count : Nat} (f : Nat → Option Nat) (hw : w ∈ elemWidths) (hfit : n + (count * w + 2047) / 2048 ≤ 64)
    (m : Nat) (hm : m ≤ count) : l.Wrote (l.setElems n w f (List.range m)) n w count fun k => if k < m then f k else none := by
  induction m with
  | zero => exact .refl l n w count
  | succ m ih =>
    have hprev := ih (by omega)
    have hstep : l.setElems n w f (List.range (m + 1)) = (l.setElems n w f (List.range m)).setElems n w f [m] := by
      rw [List.range_succ, LaneState.setElems, List.foldl_append]; rfl
    rw [hstep]
    have hsplit : (fun k => if k < m + 1 then f k else none) = Function.update (fun k => if k < m then f k else none) m (f m) := by
      funext k
      by_cases hk : k = m
      · subst hk; simp
      · rw [Function.update_of_ne hk]
        simp only [show k < m + 1 ↔ k < m by omega]
    rw [hsplit]
    cases hf : f m with
    | none =>
      have hsame : Function.update (fun k => if k < m then f k else none) m none = fun k => if k < m then f k else none := by
        rw [Function.update_eq_self_iff]; simp
      rw [hsame]
      simpa only [LaneState.setElems, List.foldl_cons, List.foldl_nil, hf] using hprev
    | some x =>
      simpa only [LaneState.setElems, List.foldl_cons, List.foldl_nil, hf] using hprev.setElem hw hfit (by omega) x

/-! ### A group written by class -/

/-- What an element of a destination takes by its class (R46). -/
def LaneState.byClass (l : LaneState) (c : Ctl) (w : Nat) (res : Nat → Nat) (k : Nat) : Option Nat :=
  match l.cls c k with
  | .active => some (res k)
  | .masked => if l.vt.mfill then some (2 ^ w - 1) else none
  | .tail => if l.vt.tfill then some (2 ^ w - 1) else none
  | .absent => none

theorem LaneState.putElem_eq (old l : LaneState) (c : Ctl) (n w : Nat) (res : Nat → Nat) (k : Nat) :
    old.putElem c n w res l k = l.setElems n w (old.byClass c w res) [k] := by
  simp only [LaneState.putElem, LaneState.setElems, LaneState.byClass, LaneState.fills, List.foldl_cons, List.foldl_nil]
  cases old.cls c k with
  | active => rfl
  | masked => by_cases h : old.vt.mfill = true <;> simp [h]
  | tail => by_cases h : old.vt.tfill = true <;> simp [h]
  | absent => rfl

theorem LaneState.putGroup_eq (l : LaneState) (c : Ctl) (n w : Nat) (res : Nat → Nat) (hvl : l.vl ≠ 0) :
    l.putGroup c n w res = (l.setElems n w (l.byClass c w res) (List.range l.vt.vlmax)).fillNarrow n w := by
  rw [LaneState.putGroup, if_neg hvl]
  congr 2
  funext l' k
  exact l.putElem_eq l' c n w res k

theorem LaneState.fillNarrow_none (l : LaneState) {n w : Nat} (h : l.vt.sew ≤ l.vt.lmul * w ∨ l.vt.tfill = false) : l.fillNarrow n w = l := by
  rw [LaneState.fillNarrow, if_neg]
  rintro ⟨hnarrow, hfill, -⟩
  rcases h with h | h
  · omega
  · rw [h] at hfill; exact Bool.false_ne_true hfill

theorem VT.of_fields (t : BitVec 6) : (VT.of t).sew ∈ [8, 16, 32, 64] ∧ (VT.of t).lmul ∈ [1, 2, 4, 8] := by
  revert t; decide

/-- The elements of a group fill its registers (R163). -/
theorem VT.of_registers (t : BitVec 6) {w : Nat} (hw : w ∈ elemWidths) : ((VT.of t).vlmax * w + 2047) / 2048 ≤ (VT.of t).emul w := by
  revert t
  rcases mem_elemWidths.1 hw with rfl | rfl | rfl | rfl | rfl <;> decide

/-- A narrow group's elements lie in part of one register (R163). -/
theorem VT.of_narrow (t : BitVec 6) {w : Nat} (hw : w ∈ elemWidths) (h : (VT.of t).lmul * w < (VT.of t).sew) : (VT.of t).vlmax * w < 2048 := by
  revert t
  rcases mem_elemWidths.1 hw with rfl | rfl | rfl | rfl | rfl <;> decide

/-- The bits of a register from a place on that a write below it leaves. -/
theorem VReg.bits_write_above (v : VReg) {b w x i : Nat} (h : b + w ≤ i) : (v.write b w x).bits.getLsbD i = v.bits.getLsbD i := by
  have hin : ¬ i - b < w := by omega
  by_cases hi : i < 2048
  · simp only [VReg.write, BitVec.getLsbD_or, BitVec.getLsbD_and, BitVec.getLsbD_not, BitVec.getLsbD_ofNat, Nat.testBit_mul_two_pow, Nat.testBit_two_pow_sub_one,
      Nat.testBit_mod_two_pow, hin, hi]
    simp
  · rw [BitVec.getLsbD_of_ge _ _ (Nat.not_lt.1 hi), BitVec.getLsbD_of_ge _ _ (Nat.not_lt.1 hi)]

/-- Elements written within one register leave the bits above them. -/
theorem LaneState.setElems_bits_above (l : LaneState) {n w m b : Nat} (f : Nat → Option Nat) (hw : w ∈ elemWidths) (hn : n < 64) (hm : m * w ≤ b) (hb : b < 2048) :
    ((l.setElems n w f (List.range m)).vreg n).bits.getLsbD b = (l.vreg n).bits.getLsbD b := by
  have hstep : ∀ (ks : List Nat) (l : LaneState), (∀ k ∈ ks, k * w + w ≤ b) → ((l.setElems n w f ks).vreg n).bits.getLsbD b = (l.vreg n).bits.getLsbD b := by
    intro ks
    induction ks with
    | nil => exact fun _ _ => rfl
    | cons k ks ih =>
      intro l hks
      have hk := hks k (List.mem_cons_self ..)
      have hrest := fun l => ih l fun j hj => hks j (List.mem_cons_of_mem _ hj)
      rw [show l.setElems n w f (k :: ks) = (l.setElems n w f [k]).setElems n w f ks from rfl, hrest]
      simp only [LaneState.setElems, List.foldl_cons, List.foldl_nil]
      split
      · have hreg : k * w / 2048 = 0 := by omega
        have hpos : k * w % 2048 = k * w := by omega
        have hsame := l.vreg_setElem_same (n := n) (w := w) (k := k) ‹Nat› (by omega)
        rw [hreg, hpos, Nat.add_zero] at hsame
        rw [hsame, VReg.bits_write_above _ hk]
      · rfl
  refine hstep _ l fun k hk => ?_
  have hkm := List.mem_range.1 hk
  rcases mem_elemWidths.1 hw with rfl | rfl | rfl | rfl | rfl <;> omega

/-- The tail bits of a narrow group's register, filled where their lane position is present (R46, R163). -/
theorem LaneState.fillNarrow_bits (l : LaneState) {n w b : Nat} (hn : n < 64) (hvl : l.vl ≠ 0) (hnarrow : l.vt.lmul * w < l.vt.sew) (hfill : l.vt.tfill = true)
    (hb : b < 2048) (hlo : l.vt.vlmax * w ≤ b) :
    ((l.fillNarrow n w).vreg n).bits.getLsbD b = (decide (b < 32 * l.present) || (l.vreg n).bits.getLsbD b) := by
  rw [LaneState.fillNarrow]
  by_cases hp : l.vt.vlmax * w < 32 * l.present
  · have hmask : (2 ^ min 2048 (32 * l.present) - 2 ^ (l.vt.vlmax * w)).testBit b = decide (b < 32 * l.present) := by
      have hsub : 2 ^ min 2048 (32 * l.present) - 2 ^ (l.vt.vlmax * w) = (2 ^ (min 2048 (32 * l.present) - l.vt.vlmax * w) - 1) * 2 ^ (l.vt.vlmax * w) := by
        rw [Nat.sub_mul, ← Nat.pow_add, Nat.one_mul, Nat.sub_add_cancel (by omega)]
      rw [hsub, Nat.testBit_mul_two_pow, Nat.testBit_two_pow_sub_one]
      simp only [hlo, decide_true, Bool.true_and, decide_eq_decide]
      omega
    simp only [hnarrow, hfill, hvl, hp, true_and, if_true, ne_eq, not_false_eq_true, LaneState.vreg, vgetD_vmod_same _ _ _ _ hn, BitVec.getLsbD_or,
      BitVec.getLsbD_ofNat, hb, decide_true, Bool.true_and, hmask]
    rw [Bool.or_comm]
  · rw [if_neg (fun h => hp h.2.2.2), show decide (b < 32 * l.present) = false by simp; omega, Bool.false_or]

end Sys2Proof.Machine

open Sys2Proof Sys2Proof.Machine

/-- Settles O33: the elements by induction over the group, each by `Wrote.setElem`; the tail of a narrow group by `fillNarrow_bits`. -/
theorem destinationElementsAreWrittenByClass : Obligations.DestinationElementsAreWrittenByClass := by
  unfold Obligations.DestinationElementsAreWrittenByClass
  intro l c n w res hw hemul hn
  have hregs := VT.of_registers l.vtype hw
  have hfit : n + (l.vt.vlmax * w + 2047) / 2048 ≤ 64 := by
    change n + ((VT.of l.vtype).vlmax * w + 2047) / 2048 ≤ 64
    exact (Nat.add_le_add_left hregs n).trans hn
  have hwrote := (l.wrote_setElems (l.byClass c w res) hw hfit l.vt.vlmax le_rfl).congr fun k hk => if_pos hk
  obtain ⟨hvl', hvt, hpresent⟩ := hwrote.fields
  refine ⟨fun hvl => by rw [LaneState.putGroup, if_pos hvl], fun hvl hwide => ?_, fun hvl hnarrow hfill b hb hlo => ?_⟩
  · rw [LaneState.putGroup_eq _ _ _ _ _ hvl, LaneState.fillNarrow_none _ (by rw [hvt]; exact hwide)]
    exact hwrote
  · have hn64 : n < 64 := by
      have : 0 < l.vt.emul w := by rw [VT.emul, if_pos hnarrow]; omega
      omega
    rw [LaneState.putGroup_eq _ _ _ _ _ hvl, LaneState.fillNarrow_bits _ hn64 (by rw [hvl']; exact hvl) (by rw [hvt]; exact hnarrow) (by rw [hvt]; exact hfill) hb
      (by rw [hvt]; exact hlo), hpresent, LaneState.setElems_bits_above _ _ hw hn64 hlo hb]
end

section
/-! Lane words that can issue: what the frame of a lane word changes (R34 to R42, R164, R165). -/
namespace Sys2Proof.Machine
open Sys2Proof

/-! ### The frame -/

/-- The part of a group that `laneRest` forgets. -/
def Group.laneForgotten (g : Group) : Group :=
  { g with hart := Hart.reset, lane := ⟨Vector.replicate 64 ⟨0, 0⟩, Vector.replicate 96 0, 0, 0, 0, 0, 0, [], none, 0, 0, 0⟩, stepping := StepState.off }

/-- The part of a core that `laneRest` forgets. -/
def Core.laneForgotten (c : Core) : Core := { c with holder := none, left := 0, ending := false, share := [], waited := 0, laneCycles := [] }

theorem State.laneRest_eq (s : State) (k : Nat) :
    s.laneRest k = { (s.modGroup k Group.laneForgotten).modCore (slotCluster k) (slotCore k) Core.laneForgotten with free := 0 } := rfl

theorem State.laneRest_modGroup (s : State) (k : Nat) (F : Group → Group) (h : ∀ g, (F g).laneForgotten = g.laneForgotten) : (s.modGroup k F).laneRest k = s.laneRest k := by
  rw [State.laneRest_eq, State.laneRest_eq, State.modGroup_modGroup]
  simp only [h]

theorem State.laneRest_modCore (s : State) (k : Nat) (f : Core → Core) (h : ∀ c, (f c).laneForgotten = c.laneForgotten) :
    (s.modCore (slotCluster k) (slotCore k) f).laneRest k = s.laneRest k := by
  have hcores : ∀ u : State, (u.modCore (slotCluster k) (slotCore k) f).modCore (slotCluster k) (slotCore k) Core.laneForgotten =
      u.modCore (slotCluster k) (slotCore k) Core.laneForgotten := fun u => by
    simp only [State.modCore, State.modCluster_modCluster, vmod_vmod, h]
  rw [State.laneRest_eq, State.laneRest_eq, ← hcores (s.modGroup k Group.laneForgotten)]
  rfl

theorem Core.laneForgotten_addShares (c : Core) (l : List (Nat × Nat)) (t : Nat) : (c.addShares l t).laneForgotten = c.laneForgotten := by
  unfold Core.addShares; split <;> rfl

/-- The word at the lane PC issued: its group's queue moves past it, and nothing changes that `laneRest` keeps. -/
theorem State.laneIssued_effect {w : State} {v : View} (u : Uses) {g : Group} (hg : w.group v.slot = some g) :
    ∃ g', (w.laneIssued v u).group v.slot = some g' ∧ g'.hart = g.hart ∧ g'.lane = { g.lane with queue := v.passed g.lane.queue } ∧
      (w.laneIssued v u).laneRest v.slot = w.laneRest v.slot := by
  have hpassed : (let q := popWord g.lane.queue; if (v.g.stepping.mode == 2) = true then splitRuns q else q) = v.passed g.lane.queue := by
    rw [View.passed]; simp only [beq_iff_eq]
  refine ⟨_, State.group_modGroup_of hg _, rfl, ?_, ?_⟩
  · rw [← hpassed]
  · refine (State.laneRest_modGroup (w.modCore (slotCluster v.slot) (slotCore v.slot) _) v.slot _ ?_).trans (State.laneRest_modCore w v.slot _ ?_)
    · exact fun _ => rfl
    · exact fun c => c.laneForgotten_addShares _ _

/-- A ready lane word does what its frame's body does. -/
theorem State.laneOp_ready {s : State} {i : Instr} {v : View} (h : s.LaneReady i v) (body : View → State → Res) : s.laneOp (laneUses i) body = body v s := by
  obtain ⟨hc, hg, hhead, hlegal, hfree⟩ := h
  obtain ⟨k, g, run⟩ := v
  dsimp only at hc hg hhead hlegal hfree
  obtain ⟨rest, hqueue⟩ : ∃ rest, g.lane.queue = run :: rest := by
    cases hq : g.lane.queue with
    | nil => rw [hq] at hhead; exact nomatch hhead
    | cons r rest => rw [hq] at hhead; exact ⟨rest, by rw [Option.some.inj hhead]⟩
  have hpend : ¬ ((((laneUses i g.lane.vt).reads g.lane.vt ++ (laneUses i g.lane.vt).writes g.lane.vt).any fun x => g.hart.pendRegs.contains x) = true) := by
    simp only [List.any_eq_true, List.contains_iff_mem, not_exists, not_and]
    exact hfree
  have hlaw : ¬ ((!(laneUses i g.lane.vt).legal g.lane.vt g.vbud g.sbud) = true) := by
    rw [show (laneUses i g.lane.vt).legal g.lane.vt g.vbud g.sbud = true from hlegal]; exact Bool.false_ne_true
  simp only [State.laneOp, hc, hg, hqueue, if_neg hlaw, if_neg hpend]

/-! ### Words that return a scalar -/

/-- The lane part replaced, then a return: the group's registers and its queue. -/
theorem State.group_laneReturn {s : State} {v : View} (hg : s.group v.slot = some v.g) (l : LaneState) (d : BitVec 6) (x : Word) :
    ∃ g, ((s.setLane v l).laneReturn v d x).group v.slot = some g ∧ g.hart = v.g.hart.setX d x ∧
      g.lane = { l with queue := returned d x v.g.lane.queue } ∧ ((s.setLane v l).laneReturn v d x).laneRest v.slot = s.laneRest v.slot := by
  have hset : (s.setLane v l).group v.slot = some { v.g with lane := { l with queue := v.g.lane.queue } } := State.group_modGroup_of hg _
  have hrest : (s.setLane v l).laneRest v.slot = s.laneRest v.slot := State.laneRest_modGroup _ _ _ fun _ => rfl
  unfold State.laneReturn
  by_cases hd : d = 0
  · rw [if_pos hd]
    refine ⟨_, hset, by rw [Hart.setX, if_pos hd], ?_, hrest⟩
    cases v.g.lane.queue with
    | nil => rfl
    | cons r rest => simp [returned, hd]
  · rw [if_neg hd]
    refine ⟨_, State.group_modGroup_of hset _, rfl, ?_, (State.laneRest_modGroup _ v.slot _ ?_).trans hrest⟩
    · cases v.g.lane.queue with
      | nil => rfl
      | cons r rest => simp only [returned, if_neg hd]
    · exact fun _ => rfl

/-- A word that replaced the lane part and returned a scalar, issued. -/
theorem laneReturned_issued {s : State} {v : View} (hg : s.group v.slot = some v.g) (l : LaneState) (d : BitVec 6) (x : Word) (u : Uses) :
    LaneReturned s v (.next (((s.setLane v l).laneReturn v d x).laneIssued v u)) d x l := by
  obtain ⟨g, hret, hhart, hlane, hrest⟩ := State.group_laneReturn hg l d x
  obtain ⟨g', hg', hhart', hlane', hrest'⟩ := State.laneIssued_effect u hret
  refine ⟨_, g', rfl, hg', hhart'.trans hhart, ?_, hrest'.trans hrest⟩
  rw [hlane', hlane]

theorem State.LaneReady.group {s : State} {i : Instr} {v : View} (h : s.LaneReady i v) : s.group v.slot = some v.g := h.2.1

/-- A ready word of the scalar frame returns its value and raises its flags. -/
theorem State.laneScalar_returned {s : State} {i : Instr} {v : View} (h : s.LaneReady i v) (d : BitVec 6) (f : View → Word × Flags) :
    LaneReturned s v (s.laneScalar (laneUses i) d f) d (f v).1 { v.l with fpstat := v.l.fpstat ||| (f v).2 } := by
  rw [State.laneScalar, State.laneOp_ready h]
  exact laneReturned_issued h.group _ d _ _

/-- The same of a word that raises none. -/
theorem State.laneScalar_returned_plain {s : State} {i : Instr} {v : View} (h : s.LaneReady i v) (d : BitVec 6) (f : View → Word) :
    LaneReturned s v (s.laneScalar (laneUses i) d fun v => (f v, 0)) d (f v) v.l := by
  have hret := State.laneScalar_returned h d fun v => (f v, 0)
  rwa [show ({ v.l with fpstat := v.l.fpstat ||| 0 } : LaneState) = v.l by rw [show v.l.fpstat ||| 0 = v.l.fpstat from BitVec.or_zero]] at hret

end Sys2Proof.Machine
end

section
/-! Lane words that return a scalar: counts, reductions and float folds (R165, R166, R175 to R177). -/
namespace Sys2Proof.Machine
open Sys2Proof

/-! ### Values of elements -/

theorem extInt_eq_valueOf (x e : Nat) (sg : Bool) : extInt x e sg = valueOf sg (BitVec.ofNat e x) := by
  unfold extInt valueOf
  cases sg
  · rw [if_neg Bool.false_ne_true, if_neg Bool.false_ne_true, BitVec.toNat_ofNat]
  · rw [if_pos rfl, if_pos rfl, sextNat_eq_toInt]

theorem LaneState.elem_lt (l : LaneState) (n w k : Nat) : l.elem n w k < 2 ^ w := Nat.mod_lt _ (Nat.two_pow_pos w)

theorem valueOf_injective (sg : Bool) {e : Nat} {x y : BitVec e} (h : valueOf sg x = valueOf sg y) : x = y := by
  unfold valueOf at h
  cases sg
  · exact BitVec.eq_of_toNat_eq (by simpa using h)
  · exact BitVec.eq_of_toInt_eq (by simpa using h)

/-- The greatest pattern of a type is its greatest value (R177). -/
theorem valueOf_topInt (sg : Bool) {e : Nat} (he : 0 < e) :
    valueOf sg (BitVec.ofNat e (topInt sg e)) = (if sg then 2 ^ (e - 1) - 1 else 2 ^ e - 1) ∧ ∀ x : BitVec e, valueOf sg x ≤ valueOf sg (BitVec.ofNat e (topInt sg e)) := by
  obtain ⟨m, rfl⟩ : ∃ m, e = m + 1 := ⟨e - 1, by omega⟩
  have hpow : (2 : Int) ^ (m + 1) = 2 * 2 ^ m := by ring
  have hpow' : 2 ^ (m + 1) = 2 * 2 ^ m := by ring
  have hpos := Nat.two_pow_pos m
  cases sg
  · have htop : valueOf false (BitVec.ofNat (m + 1) (topInt false (m + 1))) = 2 ^ (m + 1) - 1 := by
      simp only [valueOf, topInt, Bool.false_eq_true, if_false, BitVec.toNat_ofNat]
      rw [Nat.mod_eq_of_lt (by omega)]
      push_cast [Nat.one_le_two_pow]
      rfl
    refine ⟨htop, fun x => ?_⟩
    have hx := x.isLt
    rw [htop, valueOf, if_neg Bool.false_ne_true]
    zify at hx
    omega
  · have htop : valueOf true (BitVec.ofNat (m + 1) (topInt true (m + 1))) = 2 ^ m - 1 := by
      simp only [valueOf, topInt, if_true, Nat.add_sub_cancel, BitVec.toInt, BitVec.toNat_ofNat]
      rw [Nat.mod_eq_of_lt (by omega), if_pos (by omega)]
      push_cast [Nat.one_le_two_pow]
      rfl
    refine ⟨htop, fun x => ?_⟩
    have hx := BitVec.toInt_lt (x := x)
    rw [Nat.add_sub_cancel] at hx
    rw [htop, valueOf, if_pos rfl]
    omega

/-- The least pattern of a type is its least value (R177). -/
theorem valueOf_lowInt (sg : Bool) {e : Nat} (he : 0 < e) :
    valueOf sg (BitVec.ofNat e (lowInt sg e)) = (if sg then -2 ^ (e - 1) else 0) ∧ ∀ x : BitVec e, valueOf sg (BitVec.ofNat e (lowInt sg e)) ≤ valueOf sg x := by
  obtain ⟨m, rfl⟩ : ∃ m, e = m + 1 := ⟨e - 1, by omega⟩
  have hpow' : 2 ^ (m + 1) = 2 * 2 ^ m := by ring
  have hpos := Nat.two_pow_pos m
  cases sg
  · have hlow : valueOf false (BitVec.ofNat (m + 1) (lowInt false (m + 1))) = 0 := by simp [valueOf, lowInt]
    exact ⟨hlow, fun x => by rw [hlow, valueOf, if_neg Bool.false_ne_true]; omega⟩
  · have hlow : valueOf true (BitVec.ofNat (m + 1) (lowInt true (m + 1))) = -2 ^ m := by
      simp only [valueOf, lowInt, if_true, Nat.add_sub_cancel, BitVec.toInt, BitVec.toNat_ofNat]
      rw [Nat.mod_eq_of_lt (by omega), if_neg (by omega)]
      push_cast
      ring
    refine ⟨hlow, fun x => ?_⟩
    have hx := BitVec.le_toInt (x := x)
    rw [Nat.add_sub_cancel] at hx
    rw [hlow, valueOf, if_pos rfl]
    exact hx

/-! ### Folds -/

/-- A fold that keeps the lesser key, from a first value that no key exceeds. -/
theorem foldl_least (key : Nat → Int) (xs : List Nat) (a : Nat) (hle : ∀ x ∈ xs, key x ≤ key a) (hinj : ∀ x ∈ xs, key x = key a → x = a) :
    let r := xs.foldl (fun x y => if key y < key x then y else x) a
    xs ≠ [] → r ∈ xs ∧ ∀ z ∈ xs, key r ≤ key z := by
  have hmem : ∀ (xs : List Nat) (a : Nat), let r := xs.foldl (fun x y => if key y < key x then y else x) a
      r ∈ a :: xs ∧ ∀ z ∈ a :: xs, key r ≤ key z := by
    intro xs
    induction xs with
    | nil => simp
    | cons y ys ih =>
      intro a
      obtain ⟨hr, hz⟩ := ih (if key y < key a then y else a)
      simp only [List.foldl_cons]
      refine ⟨?_, fun z hz' => ?_⟩
      · rcases List.mem_cons.1 hr with h | h
        · rw [h]; split <;> simp
        · simp [h]
      · have hstart := hz _ (List.mem_cons_self ..)
        rcases List.mem_cons.1 hz' with rfl | hz'
        · refine hstart.trans ?_; split <;> omega
        · rcases List.mem_cons.1 hz' with rfl | hz'
          · refine hstart.trans ?_; split <;> omega
          · exact hz z (List.mem_cons_of_mem _ hz')
  intro r hne
  obtain ⟨hr, hz⟩ := hmem xs a
  refine ⟨?_, fun z h => hz z (List.mem_cons_of_mem _ h)⟩
  rcases List.mem_cons.1 hr with h | h
  · obtain ⟨z, hzmem⟩ := List.exists_mem_of_ne_nil _ hne
    have hra : r = a := h
    have hkey : key z = key a := le_antisymm (hle z hzmem) (hra ▸ hz z (List.mem_cons_of_mem _ hzmem))
    rw [hra, ← hinj z hzmem hkey]
    exact hzmem
  · exact h

theorem foldl_sum_mod (m : Nat) (xs : List Nat) (a : Nat) : xs.foldl (fun x y => (x + y) % m) a % m = (a + xs.sum) % m := by
  induction xs generalizing a with
  | nil => simp
  | cons y ys ih => rw [List.foldl_cons, ih, List.sum_cons, Nat.mod_add_mod, Nat.add_assoc]

/-- The bits of a fold by a bitwise operation. -/
theorem testBit_foldl (op : Nat → Nat → Nat) (bit : Bool → Bool → Bool) (h : ∀ x y i, (op x y).testBit i = bit (x.testBit i) (y.testBit i)) (xs : List Nat) (a i : Nat) :
    (xs.foldl op a).testBit i = (xs.map fun z => z.testBit i).foldl bit (a.testBit i) := by
  induction xs generalizing a with
  | nil => rfl
  | cons y ys ih => rw [List.foldl_cons, ih, h]; rfl

theorem foldl_and_eq_all (bs : List Bool) (b : Bool) : bs.foldl (· && ·) b = (b && bs.all id) := by
  induction bs generalizing b with
  | nil => simp
  | cons x xs ih => simp [ih, Bool.and_assoc]
theorem foldl_or_eq_any (bs : List Bool) (b : Bool) : bs.foldl (· || ·) b = (b || bs.any id) := by
  induction bs generalizing b with
  | nil => simp
  | cons x xs ih => simp [ih, Bool.or_assoc]

/-! ### The returned words -/

theorem setVector_returned {s : State} {v : View} {i : Instr} (h : s.LaneReady i v) (d vt : BitVec 6) {rs : List (BitVec 6)} (len : View → Nat)
    (hu : laneUses i = Uses.setl rs) :
    LaneReturned s v (s.setVector d rs vt len) d (BitVec.ofNat 64 (min (len v) (VT.of vt).vlmax)) { v.l with vtype := vt, vl := min (len v) (VT.of vt).vlmax } := by
  rw [State.setVector, ← hu, State.laneOp_ready h]
  exact laneReturned_issued h.group _ d _ _

/-- The elements that a reduction folds. -/
abbrev View.vals (v : View) (c : Ctl) (a : BitVec 6) : List Nat := (v.l.actives c).map fun j => v.a a v.e j

theorem redOp_returned {s : State} {v : View} {i : Instr} (h : s.LaneReady i v) (c : Ctl) (d a : BitVec 6) (ty : BitVec 4) (hu : laneUses i = Uses.red c d a ty)
    (start : Nat → Nat) (f : Nat → Nat → Nat → Nat) :
    LaneReturned s v (s.redOp c d a ty start f) d (BitVec.ofInt 64 (valueOf (tySigned ty) (BitVec.ofNat v.e ((v.vals c a).foldl (f v.e) (start v.e))))) v.l := by
  rw [State.redOp, ← hu, View.vals, List.foldl_map, ← extInt_eq_valueOf]
  exact State.laneScalar_returned_plain h d fun v => extWord ((v.l.actives c).foldl (fun x k => f v.e x (v.a a v.e k)) (start v.e)) v.e ty

theorem View.vals_lt {v : View} {c : Ctl} {a : BitVec 6} {z : Nat} (h : z ∈ v.vals c a) : z < 2 ^ v.e := by
  obtain ⟨j, -, rfl⟩ := List.mem_map.1 h
  exact v.l.elem_lt _ _ _

theorem View.e_pos (v : View) : 0 < v.e := by
  obtain ⟨h, -⟩ := VT.of_fields v.g.lane.vtype
  change 0 < (VT.of v.g.lane.vtype).sew
  simp only [List.mem_cons, List.not_mem_nil, or_false] at h
  omega

theorem ofNat_injective_of_lt {e x y : Nat} (hx : x < 2 ^ e) (hy : y < 2 ^ e) (h : BitVec.ofNat e x = BitVec.ofNat e y) : x = y := by
  have := congrArg BitVec.toNat h
  rwa [BitVec.toNat_ofNat, BitVec.toNat_ofNat, Nat.mod_eq_of_lt hx, Nat.mod_eq_of_lt hy] at this

/-- One step of a left-to-right float sum: the running value and flags, and the list of them so far (R126). -/
def sumStep (f : Fmt) (env : FpEnv) (acc : Option (Nat × Flags) × List (Nat × Nat × Flags)) (p : Nat × Nat) : Option (Nat × Flags) × List (Nat × Nat × Flags) :=
  let r := acc.1.elim (f.enter env p.2) fun y => ((f.add env y.1 p.2).1, y.2 ||| (f.add env y.1 p.2).2)
  (some r, acc.2 ++ [(p.1, r.1, r.2)])

theorem sumRuns_eq (f : Fmt) (env : FpEnv) (xs : List (Nat × Nat)) : sumRuns f env xs = (xs.foldl (sumStep f env) (none, [])).2 := by
  rw [sumRuns]
  congr 2
  funext acc p
  obtain ⟨y, l⟩ := acc
  cases y <;> rfl

theorem foldl_sumStep_getLast (f : Fmt) (env : FpEnv) (ps : List (Nat × Nat)) (r : Nat × Flags) (l : List (Nat × Nat × Flags)) (k : Nat) (h : l.getLast? = some (k, r)) :
    ∃ k', (ps.foldl (sumStep f env) (some r, l)).2.getLast? = some (k', foldFlags (f.add env) r (ps.map (·.2))) := by
  induction ps generalizing r l k with
  | nil => exact ⟨k, h⟩
  | cons p ps ih => exact ih ((f.add env r.1 p.2).1, r.2 ||| (f.add env r.1 p.2).2) _ p.1 (List.getLast?_concat ..)

/-- The running values and flags of a left-to-right float sum end in its fold (R126). -/
theorem sumRuns_getLast (f : Fmt) (env : FpEnv) (p : Nat × Nat) (ps : List (Nat × Nat)) :
    ∃ k, (sumRuns f env (p :: ps)).getLast? = some (k, floatFold f env (f.add env) 0 ((p :: ps).map (·.2))) := by
  rw [sumRuns_eq]
  exact foldl_sumStep_getLast f env ps (f.enter env p.2) [(p.1, f.enter env p.2)] p.1 rfl

/-- One step of a float fold by min or max (R177). -/
def foldStep (f : Fmt) (env : FpEnv) (isMax : Bool) (acc : Option (Nat × Flags)) (p : Nat × Nat) : Option (Nat × Flags) :=
  some (acc.elim (f.enter env p.2) fun y => ((f.minMax env isMax y.1 p.2).1, y.2 ||| (f.minMax env isMax y.1 p.2).2))

theorem foldl_foldStep (f : Fmt) (env : FpEnv) (isMax : Bool) (ps : List (Nat × Nat)) (r : Nat × Flags) :
    ps.foldl (foldStep f env isMax) (some r) = some (foldFlags (f.minMax env isMax) r (ps.map (·.2))) := by
  induction ps generalizing r with
  | nil => rfl
  | cons p ps ih => exact ih _

theorem View.activeVals_snd (v : View) (c : Ctl) (a : BitVec 6) : (v.activeVals c a).map (·.2) = v.vals c a := by
  rw [View.activeVals, List.map_map]; rfl

/-- A word of the scalar frame whose value and flags are a float fold's. -/
theorem floatFold_returned {s : State} {v : View} {i : Instr} (h : s.LaneReady i v) {d : BitVec 6} {r : Res} {y : Nat × Flags}
    (hr : ∃ f : View → Word × Flags, r = s.laneScalar (laneUses i) d f ∧ f v = (BitVec.ofNat 64 y.1, y.2)) :
    LaneReturned s v r d (BitVec.ofNat 64 y.1) { v.l with fpstat := v.l.fpstat ||| y.2 } := by
  obtain ⟨f, rfl, hf⟩ := hr
  have hret := State.laneScalar_returned h d f
  rwa [hf] at hret

theorem vfredsum_returned {s : State} {v : View} {c : Ctl} {rm : BitVec 3} {d a : BitVec 6} {ty : BitVec 4} (h : s.LaneReady (.vfredsum c rm d a ty) v) :
    let r := floatFold (tyFmt ty) (v.env rm) ((tyFmt ty).add (v.env rm)) 0 (v.vals c a)
    LaneReturned s v (execVfredsum c rm d a ty s) d (BitVec.ofNat 64 r.1) { v.l with fpstat := v.l.fpstat ||| r.2 } := by
  refine floatFold_returned h ⟨_, rfl, ?_⟩
  rw [← View.activeVals_snd]
  cases v.activeVals c a with
  | nil => rfl
  | cons p ps =>
    obtain ⟨k, hlast⟩ := sumRuns_getLast (tyFmt ty) (v.env rm) p ps
    rw [hlast]

theorem fredOp_returned {s : State} {v : View} {i : Instr} (h : s.LaneReady i v) (c : Ctl) (d a : BitVec 6) (ty : BitVec 4) (isMax : Bool)
    (hu : laneUses i = Uses.fred c d a ty false) :
    let r := floatFold (tyFmt ty) (v.env 0) ((tyFmt ty).minMax (v.env 0) isMax) ((tyFmt ty).infinity isMax) (v.vals c a)
    LaneReturned s v (s.fredOp c d a ty isMax) d (BitVec.ofNat 64 r.1) { v.l with fpstat := v.l.fpstat ||| r.2 } := by
  refine floatFold_returned h ⟨_, by rw [hu]; rfl, ?_⟩
  rw [← View.activeVals_snd]
  dsimp only
  rw [List.foldl_ext _ (foldStep (tyFmt ty) (v.env 0) isMax) none fun acc p _ => by cases acc <;> rfl]
  cases v.activeVals c a with
  | nil => rfl
  | cons p ps =>
    rw [show (p :: ps).foldl (foldStep (tyFmt ty) (v.env 0) isMax) none = _ from foldl_foldStep (tyFmt ty) (v.env 0) isMax ps ((tyFmt ty).enter (v.env 0) p.2)]
    rfl

/-- The first of the elements picked is the least of them (R175). -/
theorem View.head_picked {v : View} {c : Ctl} {pa : BitVec 7} {j : Nat} (hj : j ∈ v.picked c pa) (hmin : ∀ i ∈ v.picked c pa, j ≤ i) :
    (v.picked c pa).head? = some j := by
  have hsorted : (v.picked c pa).Pairwise (· < ·) := List.Pairwise.filter _ (List.Pairwise.filter _ List.pairwise_lt_range)
  cases hp : v.picked c pa with
  | nil => rw [hp] at hj; exact absurd hj List.not_mem_nil
  | cons x xs =>
    rw [hp] at hj hmin hsorted
    rcases List.mem_cons.1 hj with rfl | hj
    · rfl
    · have hlt := (List.pairwise_cons.1 hsorted).1 j hj
      have hge := hmin x (List.mem_cons_self ..)
      omega

theorem redOp_least {s : State} {v : View} {i : Instr} (h : s.LaneReady i v) (c : Ctl) (d a : BitVec 6) (ty : BitVec 4) (hu : laneUses i = Uses.red c d a ty) :
    ∃ y : BitVec v.e, LaneReturned s v (s.redOp c d a ty (fun e => topInt (tySigned ty) e) fun e x y => pickInt false (tySigned ty) e x y) d
        (BitVec.ofInt 64 (valueOf (tySigned ty) y)) v.l ∧
      (v.vals c a = [] → valueOf (tySigned ty) y = if tySigned ty then 2 ^ (v.e - 1) - 1 else 2 ^ v.e - 1) ∧
      (v.vals c a ≠ [] → y.toNat ∈ v.vals c a ∧ ∀ z ∈ v.vals c a, valueOf (tySigned ty) y ≤ valueOf (tySigned ty) (BitVec.ofNat v.e z)) := by
  obtain ⟨htop, hmax⟩ := valueOf_topInt (tySigned ty) v.e_pos
  refine ⟨_, redOp_returned h c d a ty hu _ _, fun hnil => by rw [hnil]; exact htop, fun hne => ?_⟩
  have hpick : (fun x y => pickInt false (tySigned ty) v.e x y) = fun x y =>
      if valueOf (tySigned ty) (BitVec.ofNat v.e y) < valueOf (tySigned ty) (BitVec.ofNat v.e x) then y else x := by
    funext x y; simp only [pickInt, extInt_eq_valueOf, Bool.false_eq_true, if_false]
  have htoplt : topInt (tySigned ty) v.e < 2 ^ v.e := by
    have := Nat.two_pow_pos v.e
    have := Nat.pow_le_pow_right (show 0 < 2 by omega) (Nat.sub_le v.e 1)
    unfold topInt; split <;> omega
  obtain ⟨hmem, hle⟩ := foldl_least (fun x => valueOf (tySigned ty) (BitVec.ofNat v.e x)) (v.vals c a) (topInt (tySigned ty) v.e) (fun x _ => hmax _)
    (fun x hx hkey => ofNat_injective_of_lt (View.vals_lt hx) htoplt (valueOf_injective _ hkey)) hne
  rw [hpick]
  refine ⟨?_, hle⟩
  rw [BitVec.toNat_ofNat, Nat.mod_eq_of_lt (View.vals_lt hmem)]
  exact hmem

theorem redOp_greatest {s : State} {v : View} {i : Instr} (h : s.LaneReady i v) (c : Ctl) (d a : BitVec 6) (ty : BitVec 4) (hu : laneUses i = Uses.red c d a ty) :
    ∃ y : BitVec v.e, LaneReturned s v (s.redOp c d a ty (fun e => lowInt (tySigned ty) e) fun e x y => pickInt true (tySigned ty) e x y) d
        (BitVec.ofInt 64 (valueOf (tySigned ty) y)) v.l ∧
      (v.vals c a = [] → valueOf (tySigned ty) y = if tySigned ty then -2 ^ (v.e - 1) else 0) ∧
      (v.vals c a ≠ [] → y.toNat ∈ v.vals c a ∧ ∀ z ∈ v.vals c a, valueOf (tySigned ty) (BitVec.ofNat v.e z) ≤ valueOf (tySigned ty) y) := by
  obtain ⟨hlow, hmin⟩ := valueOf_lowInt (tySigned ty) v.e_pos
  refine ⟨_, redOp_returned h c d a ty hu _ _, fun hnil => by rw [hnil]; exact hlow, fun hne => ?_⟩
  have hpick : (fun x y => pickInt true (tySigned ty) v.e x y) = fun x y =>
      if -valueOf (tySigned ty) (BitVec.ofNat v.e y) < -valueOf (tySigned ty) (BitVec.ofNat v.e x) then y else x := by
    funext x y; simp only [pickInt, extInt_eq_valueOf, if_true, neg_lt_neg_iff]
  have hlowlt : lowInt (tySigned ty) v.e < 2 ^ v.e := by
    have := Nat.two_pow_pos v.e
    have := Nat.pow_lt_pow_right (show 1 < 2 by omega) (Nat.sub_lt v.e_pos Nat.one_pos)
    unfold lowInt; split <;> omega
  obtain ⟨hmem, hle⟩ := foldl_least (fun x => -valueOf (tySigned ty) (BitVec.ofNat v.e x)) (v.vals c a) (lowInt (tySigned ty) v.e) (fun x _ => neg_le_neg (hmin _))
    (fun x hx hkey => ofNat_injective_of_lt (View.vals_lt hx) hlowlt (valueOf_injective _ (neg_injective hkey))) hne
  rw [hpick]
  refine ⟨?_, fun z hz => neg_le_neg_iff.1 (hle z hz)⟩
  rw [BitVec.toNat_ofNat, Nat.mod_eq_of_lt (View.vals_lt hmem)]
  exact hmem

/-- A bitwise reduction gives each bit by itself. -/
theorem redOp_bits {s : State} {v : View} {i : Instr} (h : s.LaneReady i v) (c : Ctl) (d a : BitVec 6) (ty : BitVec 4) (hu : laneUses i = Uses.red c d a ty)
    (start : Nat → Nat) (op : Nat → Nat → Nat) (bit : Bool → Bool → Bool) (fin : List Bool → Bool) (b : Bool)
    (hop : ∀ x y i, (op x y).testBit i = bit (x.testBit i) (y.testBit i)) (hstart : ∀ e, ∀ i < e, (start e).testBit i = b) (hfin : ∀ bs, bs.foldl bit b = fin bs) :
    ∃ y : BitVec v.e, LaneReturned s v (s.redOp c d a ty start fun _ => op) d (BitVec.ofInt 64 (valueOf (tySigned ty) y)) v.l ∧
      ∀ i < v.e, y.getLsbD i = fin ((v.vals c a).map fun z => z.testBit i) := by
  refine ⟨_, redOp_returned h c d a ty hu _ _, fun i hi => ?_⟩
  rw [BitVec.getLsbD_ofNat, decide_eq_true hi, Bool.true_and, testBit_foldl op bit hop, hstart v.e i hi, hfin]

end Sys2Proof.Machine

open Sys2Proof Sys2Proof.Machine

/-- Settles O31: each word through the scalar frame; reductions by their folds. -/
theorem laneScalarsReturnToTheirRegister : Obligations.LaneScalarsReturnToTheirRegister := by
  unfold Obligations.LaneScalarsReturnToTheirRegister
  refine fun s v last c rm d k a vt n pa ty => ⟨fun h => ?_, fun h => ?_, fun h => ?_, fun h => ?_, fun h => ?_, fun h => ?_, fun h => ?_, fun h => ?_,
    fun row hrow h => ?_, fun h => vfredsum_returned h, fun h => fredOp_returned h c d a ty false rfl, fun h => fredOp_returned h c d a ty true rfl⟩
  · exact setVector_returned h d vt (fun v => (v.run.snap.x k.toNat).toNat) rfl
  · exact setVector_returned h d vt (fun _ => n.toNat) rfl
  · exact State.laneScalar_returned_plain h d fun v => BitVec.ofNat 64 (v.picked c pa).length
  · have hret := State.laneScalar_returned_plain h d fun v => (v.picked c pa).head?.elim (BitVec.allOnes 64) (BitVec.ofNat 64)
    have hexec : exec (.vpfirst c d pa) s = s.laneScalar (laneUses (.vpfirst c d pa)) d fun v => ((v.picked c pa).head?.elim (BitVec.allOnes 64) (BitVec.ofNat 64), 0) := by
      change execVpfirst c d pa s = _
      rw [execVpfirst]
      congr 1
      funext v
      cases (v.picked c pa).head? <;> rfl
    refine ⟨_, by rw [hexec]; exact hret, fun hnil => by rw [show v.picked c pa = [] from hnil]; rfl, fun j hj hmin => ?_⟩
    rw [View.head_picked hj hmin]
    rfl
  · have hret := State.laneScalar_returned_plain h d fun v => extWord (v.a a v.e 0) v.e ty
    rw [extWord, extInt_eq_valueOf] at hret
    exact hret
  · have hret := redOp_returned h c d a ty rfl (fun _ => 0) fun e x y => (x + y) % 2 ^ e
    have hsum : BitVec.ofNat v.e ((v.vals c a).foldl (fun x y => (x + y) % 2 ^ v.e) 0) = BitVec.ofNat v.e (v.vals c a).sum := by
      apply BitVec.eq_of_toNat_eq
      rw [BitVec.toNat_ofNat, BitVec.toNat_ofNat, foldl_sum_mod, Nat.zero_add]
    rw [hsum] at hret
    exact hret
  · exact redOp_least h c d a ty rfl
  · exact redOp_greatest h c d a ty rfl
  · simp only [laneBitReductions, List.mem_cons, List.not_mem_nil, or_false] at hrow
    rcases hrow with rfl | rfl | rfl
    · exact redOp_bits h c d a ty rfl (fun e => 2 ^ e - 1) (· &&& ·) (· && ·) _ true Nat.testBit_and
        (fun e i hi => by simp [hi]) fun bs => by rw [foldl_and_eq_all, Bool.true_and]
    · exact redOp_bits h c d a ty rfl (fun _ => 0) (· ||| ·) (· || ·) _ false Nat.testBit_or
        (fun e i _ => Nat.zero_testBit i) fun bs => by rw [foldl_or_eq_any, Bool.false_or]
    · exact redOp_bits h c d a ty rfl (fun _ => 0) (· ^^^ ·) (· ^^ ·) _ false Nat.testBit_xor
        (fun e i _ => Nat.zero_testBit i) fun bs => rfl
end

section
/-! A lane load in a state whose VL exceeds the 2048 elements that FLANES names (R62). -/
namespace Sys2Proof.Machine
open Sys2Proof

/-- A refused lane word has a bit of FLANES for each element with the cause, so none of them lies past its 2048 bits. -/
theorem not_laneRefused {s : State} {v : View} {i : Instr} {es : List LaneAcc} {x y : LaneAcc} {c : BitVec 8} (hx : x ∈ es) (hc : s.elemCause v.slot x c)
    (hfirst : causeOrder.idxOf c = 0) (hlow : x.k = 0) (hy : y ∈ es) (hyc : s.elemCause v.slot y c) (hyk : 2048 ≤ y.k) : ¬ LaneRefused s v i es := by
  intro h
  obtain ⟨fl, -, hfl⟩ := h x hx c hc (fun _ _ _ _ => by rw [hfirst]; exact Nat.zero_le _) fun _ _ _ => by rw [hlow]; exact Nat.zero_le _
  have hbit : fl.getLsbD y.k = true := (hfl y.k).2 ⟨y, hy, rfl, hyc⟩
  rw [BitVec.getLsbD_of_ge _ _ hyk] at hbit
  exact Bool.false_ne_true hbit

/-- An access without a tagged authority meets CAP_TAG first (R70). -/
theorem State.elemCause_capTag (s : State) (k : Nat) {e : LaneAcc} (h : e.acc.cap.tag = false) : s.elemCause k e Cause.capTag :=
  .inl (.inl ⟨h, rfl⟩)

end Sys2Proof.Machine

open Sys2Proof Sys2Proof.Machine

/-- Refutes O34: a `vld` through an untagged capability by a group whose VL is 2049. Elements 0 and 2048 are both active and both refused with CAP_TAG, and FLANES has
    no bit 2048: the statement ranges over states with any VL, where VLMAX is at most 2048. -/
theorem not_laneLoadsTakeTheirElements : ¬ Obligations.LaneLoadsTakeTheirElements := by
  unfold Obligations.LaneLoadsTakeTheirElements
  intro h
  let s := Tests.sLane 2 2049
  let v := Tests.laneView 2 2049
  have hready : s.LaneReady (.vld Tests.all Tests.unordered 8 ⟨0, false⟩ 0 2) v := Tests.laneReady 2 2049 [_] (by decide +kernel) _ (List.mem_cons_self ..)
  obtain ⟨⟨hmodes, -⟩, -⟩ := h s s v Tests.all Tests.unordered 8 16 0 0 0 ⟨0, false⟩ 0 2 []
  have hrefused := hmodes _ (List.mem_cons_self ..) hready
  have hactive : ∀ j ∈ [0, 2048], j ∈ v.l.actives Tests.all := by decide +kernel
  have htag : (v.auth ⟨0, false⟩ 0).tag = false := by decide +kernel
  refine not_laneRefused (List.mem_map_of_mem (hactive 0 (by decide))) (s.elemCause_capTag _ htag) (by decide) rfl
    (List.mem_map_of_mem (hactive 2048 (by decide))) (s.elemCause_capTag _ htag) le_rfl hrefused
end

section
/-! A restore under a number that a team still has (R275, R282, R380). -/
namespace Sys2Proof.Machine
open Sys2Proof

/-- The state of `numberTaken` in which cluster 0 is asked to restore the image at 0x1000: of context 1, of one group, with neither ways nor barriers nor a pair, its
    group's section at 0x2000 all zero. -/
def State.restoreTaken : State :=
  ({ State.numberTaken with mem := [(0x1000, 0x56), (0x1001, 0x53), (0x1002, 0x5A), (0x1003, 0x4D), (0x1008, 1), (0x100A, 4), (0x1049, 0x10)] }).modCluster 0 fun c =>
    { c with svc := { c.svc with restores := [0x1000] } }

/-- The sections of that image. -/
def restoreTakenSections : List Rec := State.restoreTaken.sections 0x1000 ⟨State.restoreTaken.readKeys 0x1000 0x1000, []⟩

theorem restoreTaken_section : ∃ r, restoreTakenSections = [r] ∧ r.nat 0 8 = 0 := by
  have hmap : restoreTakenSections.map (fun r => r.nat 0 8) = [0] := by decide +kernel
  obtain ⟨r, hr⟩ := List.length_eq_one_iff.1 (show restoreTakenSections.length = 1 by simpa using congrArg List.length hmap)
  rw [hr] at hmap
  exact ⟨r, hr, by simpa using hmap⟩

theorem restoreTaken_valid : State.restoreTaken.readNat 0x1000 8 = 0x4D5A5356 ∧ State.restoreTaken.placeable (State.restoreTaken.readNat 0x1008 8 % 65536) = true := by
  decide +kernel

/-- Slot 0 is held for the heir of the team with the number, so slot 1 is the lowest free one. -/
theorem restoreTaken_freeSlot : State.restoreTaken.freeSlot 0 0 = some 1 := by decide +kernel

/-- Whether a step leaves a slot empty. -/
def leavesEmpty (r : Res) (k : Nat) : Bool := match r with | .next t => (t.group k).isNone | _ => false

/-- The restored team takes the other's entry, and with it the record of what is held: its group goes to slot 0. -/
theorem restoreTaken_restored : leavesEmpty (exec (.teamRestore (some 0)) State.restoreTaken) 1 = true := by decide +kernel

end Sys2Proof.Machine

open Sys2Proof Sys2Proof.Machine

/-- Refutes O43: its clause about an image that is restored does not ask that the number `nextId` of the team is no resident team's. In `State.restoreTaken` it is that
    of a team which holds slot 0 for its heir; the restore overwrites that team, and the group goes to slot 0, where the clause says slot 1. No run from reset takes a
    number twice; the clause speaks of every state. -/
theorem not_teamsAreSavedAndRestored : ¬ Obligations.TeamsAreSavedAndRestored := by
  unfold Obligations.TeamsAreSavedAndRestored
  rintro ⟨-, restored, -⟩
  obtain ⟨r, hr, hzero⟩ := restoreTaken_section
  obtain ⟨hmagic, hplace⟩ := restoreTaken_valid
  obtain ⟨-, hvalid⟩ := restored State.restoreTaken 0 0x1000 [] (by decide) rfl
  obtain ⟨-, hfits⟩ := hvalid hmagic hplace
  obtain ⟨t, tm, first, v, ht, -, -, -, -, -, -, -, -, -, -, hgroup⟩ := hfits ⟨0, none, [(0, 0)]⟩ (by decide +kernel)
  obtain ⟨g, hg, -⟩ := hgroup r 0 1 hr (by rw [hzero]) restoreTaken_freeSlot
  have hempty := restoreTaken_restored
  rw [ht] at hempty
  exact absurd (hg.symm.trans (Option.isNone_iff_eq_none.1 hempty)) (by simp)
end

section
/-! SUPPORT. A stop of a group that is not traced, taken apart (R38, R55, R62, R353). -/
namespace Sys2Proof.Machine
open Sys2Proof

/-! ### A stop of a group (R55, R62) -/

/-- A group with the stop's CAUSE, FADDR and FLANES, its issuing run split. -/
def Group.stopped (lane : Bool) (cause : BitVec 8) (faddr : Word) (flanes : VBits) (time : Nat) (g : Group) : Group :=
  { g with
    hart := { g.hart with cause := BitVec.ofBool lane ++ cause, faddr := faddr }, flanes := flanes, life := .stopped, stopAt := time,
    lane := { g.lane with queue := splitRuns g.lane.queue },
    stepping := { g.stepping with mode := 0, pending := false, exempt := none } }

/-- What a fault adds to the count of the lock violations of its core. -/
def State.countLock (s : State) (k : Nat) (cause : BitVec 8) : State :=
  if cause = Cause.rangeLock then s.count (slotCluster k) (slotCore k) 14 1 else s

theorem State.stopGroup_untraced {s : State} {k : Nat} {g : Group} (hg : s.group k = some g)
    (ht : (s.cluster (slotCluster k)).dbg.ctl.getLsbD 0 = false) (lane : Bool) (cause : BitVec 8) (faddr : Word) (flanes : VBits) :
    s.stopGroup k lane cause faddr flanes =
      ((((s.modGroup k (Group.stopped lane cause faddr flanes s.time)).releaseSlot k).event (slotCluster k) 1 cause (handleOf k g) 0).countLock k cause) := by
  have hf := (s.slotFrame_modGroup k (Group.stopped lane cause faddr flanes s.time)).trans (State.slotFrame_releaseSlot _ k)
  rw [State.stopGroup, hg, State.countLock]
  dsimp only
  rw [State.trace_off (k := k) (by
    show ((State.releaseSlot (s.modGroup k (Group.stopped lane cause faddr flanes s.time)) k).cluster _).dbg.ctl.getLsbD 0 = false
    rw [hf.dbg]; exact ht)]
  rfl

theorem State.beside_countLock (s : State) (k : Nat) (cause : BitVec 8) :
    (s.countLock k cause).groups = s.groups ∧ (s.countLock k cause).mem = s.mem ∧ (s.countLock k cause).tags = s.tags ∧
    (s.countLock k cause).ctxs = s.ctxs ∧ (s.countLock k cause).teams = s.teams ∧ (∀ c, (s.countLock k cause).svc c = s.svc c) ∧
    ∀ j, (s.countLock k cause).issuingRun j = s.issuingRun j := by
  unfold State.countLock
  split
  · rw [State.count_eq]
    exact ⟨rfl, rfl, rfl, rfl, rfl, fun c => State.cluster_modCluster_part _ _ c _ (·.svc) fun _ => rfl,
      fun j => State.issuingRun_modCore _ _ _ j _ (Core.holder_counting _ _ _)⟩
  · exact ⟨rfl, rfl, rfl, rfl, rfl, fun _ => rfl, fun _ => rfl⟩

theorem State.issuingRun_event (s : State) (cl kind : Nat) (cause : BitVec 8) (grp arg : Word) (j : Nat) :
    (s.event cl kind cause grp arg).issuingRun j = s.issuingRun j := by
  exact State.cluster_modCluster_part s cl _ _ (fun x => (x.core (slotCore j)).holder == some j) fun _ => rfl

/-- The slot given up changes no context, and no service core. -/
theorem State.ctxs_releaseSlot {s : State} {k : Nat} {g : Group} (hg : s.group k = some g) : (s.releaseSlot k).ctxs = s.ctxs := by
  cases hi : s.issuingRun k with
  | false => rw [State.releaseSlot_idle hg hi]
  | true => obtain ⟨share, e⟩ := State.releaseSlot_holding hg hi; rw [e]; rfl

theorem State.svc_releaseSlot {s : State} {k : Nat} {g : Group} (hg : s.group k = some g) (c : Nat) : (s.releaseSlot k).svc c = s.svc c := by
  cases hi : s.issuingRun k with
  | false => rw [State.releaseSlot_idle hg hi]
  | true =>
    obtain ⟨share, e⟩ := State.releaseSlot_holding hg hi
    rw [e]
    exact State.cluster_modCluster_part s _ c _ (·.svc) fun _ => rfl

/-- CAUSE of a stop: bit 8 says that a lane word faulted (R62). -/
theorem cause_append (lane : Bool) (cause : BitVec 8) : BitVec.ofBool lane ++ cause = BitVec.ofNat 9 (cause.toNat + 256 * bitNat lane) := by
  apply BitVec.eq_of_toNat_eq
  have hc := cause.isLt
  cases lane
  · rw [BitVec.toNat_append]; simp [bitNat]; omega
  · rw [BitVec.toNat_append]
    have h := Nat.two_pow_add_eq_or_of_lt hc 1
    simp [bitNat] at h ⊢
    omega

/-- A fault stops its group before the word and tells its service core. -/
theorem State.stopGroup_stops {s : State} {k : Nat} {g : Group} (hg : s.group k = some g) (hk : slotCluster k < 192)
    (ht : (s.cluster (slotCluster k)).dbg.ctl.getLsbD 0 = false) (lane : Bool) (cause : BitVec 8) (x : Word) (fl : VBits) :
    ∃ g', (s.stopGroup k lane cause x fl).group k = some g' ∧ g'.life = .stopped ∧
      g'.hart = { g.hart with cause := BitVec.ofNat 9 (cause.toNat + 256 * bitNat lane), faddr := x } ∧
      g'.flanes = fl ∧ g'.lane = { g.lane with queue := splitQueue (s.issuingRun k) s.cycle g.lane.queue } ∧
      Heard (s.cluster (slotCluster k)).svc ((s.stopGroup k lane cause x fl).cluster (slotCluster k)).svc ⟨1, cause, handleOf k g, 0⟩ ∧ g'.stopAt = s.time ∧
      (s.stopGroup k lane cause x fl).issuingRun k = false ∧ (s.stopGroup k lane cause x fl).mem = s.mem ∧ (s.stopGroup k lane cause x fl).tags = s.tags ∧
      (∀ j, j ≠ k → (s.stopGroup k lane cause x fl).group j = s.group j) ∧ (s.stopGroup k lane cause x fl).ctxs = s.ctxs ∧
      (s.stopGroup k lane cause x fl).teams = s.teams := by
  rw [State.stopGroup_untraced hg ht]
  generalize hu : s.modGroup k (Group.stopped lane cause x fl s.time) = u
  have hgu : u.group k = some (g.stopped lane cause x fl s.time) := by rw [← hu, State.group_modGroup_same, hg]; rfl
  have hf : State.SlotFrame k s (u.releaseSlot k) := by
    rw [← hu]; exact (s.slotFrame_modGroup k _).trans (State.slotFrame_releaseSlot _ k)
  have hctxs : (u.releaseSlot k).ctxs = s.ctxs := by rw [State.ctxs_releaseSlot hgu, ← hu]; rfl
  have hsvc : (u.releaseSlot k).svc (slotCluster k) = s.svc (slotCluster k) := by rw [State.svc_releaseSlot hgu, ← hu]; rfl
  have hgroup := State.group_releaseSlot hgu
  have hidle : (u.releaseSlot k).issuingRun k = false := by rw [State.issuingRun_releaseSlot hgu, if_pos rfl]
  have hq : u.issuingRun k = s.issuingRun k ∧ u.cycle = s.cycle := by rw [← hu]; exact ⟨rfl, rfl⟩
  generalize u.releaseSlot k = r at *
  obtain ⟨cg, cm, ct, cc, ctm, cs, ci⟩ := (r.event (slotCluster k) 1 cause (handleOf k g) 0).beside_countLock k cause
  have hheard : ((r.event (slotCluster k) 1 cause (handleOf k g) 0).countLock k cause).svc (slotCluster k) =
      (s.svc (slotCluster k)).tell ⟨1, cause, handleOf k g, 0⟩ := by
    rw [cs, State.svc, State.event, State.cluster_modCluster_same _ _ _ hk, ← hsvc]; rfl
  refine ⟨_, (congrArg (mapGet · k) cg).trans hgroup, rfl, ?_, rfl, ?_, ?_, rfl, (ci k).trans ((r.issuingRun_event _ _ _ _ _ k).trans hidle),
    cm.trans hf.mem, ct.trans hf.tags, fun j hj => (congrArg (mapGet · j) cg).trans (hf.others j hj), cc.trans hctxs, ctm.trans hf.teams⟩
  · show ({ g.hart with cause := BitVec.ofBool lane ++ cause, faddr := x } : Hart) = _
    rw [cause_append]
  · rw [splitQueue_eq, ← hq.1, ← hq.2]; rfl
  · exact ⟨congrArg Service.events hheard, congrArg Service.held hheard⟩

end Sys2Proof.Machine
end

section
/-! SUPPORT. A die-fatal error: what the end of a context leaves alone, and what is out of service (R384, R386). -/
namespace Sys2Proof.Machine
open Sys2Proof

/-! ### What the end of a context leaves alone (R384, R386) -/

/-- Two states with the same service cores out of service, the same dies fatal and the same crash record. -/
structure State.SameFaults (s t : State) : Prop where
  released : ∀ c, (t.svc c).released = (s.svc c).released
  fatal : ∀ d, (t.die d).fatal = (s.die d).fatal
  crash : t.fleet.crash = s.fleet.crash

theorem State.SameFaults.refl (s : State) : s.SameFaults s := ⟨fun _ => rfl, fun _ => rfl, rfl⟩
theorem State.SameFaults.trans {s t u : State} (h : s.SameFaults t) (i : t.SameFaults u) : s.SameFaults u :=
  ⟨fun c => (i.released c).trans (h.released c), fun d => (i.fatal d).trans (h.fatal d), i.crash.trans h.crash⟩
theorem State.SameFaults.foldl {α : Type} {f : State → α → State} (hf : ∀ (s : State) (a : α), s.SameFaults (f s a)) (l : List α) (s : State) :
    s.SameFaults (l.foldl f s) := by
  induction l generalizing s with
  | nil => exact .refl s
  | cons a l ih => exact (hf s a).trans (ih _)

/-- A change that leaves clusters and dies alone, and the crash record. -/
theorem State.SameFaults.of_parts {s t : State} (hc : t.clusters = s.clusters) (hd : t.dies = s.dies) (hx : t.fleet.crash = s.fleet.crash) : s.SameFaults t :=
  ⟨fun c => by rw [State.svc, State.cluster, hc]; rfl, fun d => by rw [State.die, hd]; rfl, hx⟩

/-- Such a change before another. -/
theorem State.SameFaults.before {s t u : State} (h : t.SameFaults u) (hc : t.clusters = s.clusters) (hd : t.dies = s.dies) (hx : t.fleet.crash = s.fleet.crash) :
    s.SameFaults u := (State.SameFaults.of_parts hc hd hx).trans h

theorem State.Stored.sameFaults {s t : State} (h : s.Stored t) : s.SameFaults t := by
  obtain ⟨_, _, _, _, _, rfl, -⟩ := h; exact .of_parts rfl rfl rfl
theorem State.sameFaults_modCluster (s : State) (c : Nat) (f : Cluster → Cluster) (h : ∀ x, (f x).svc.released = x.svc.released) : s.SameFaults (s.modCluster c f) :=
  ⟨fun d => s.cluster_modCluster_part c d f (·.svc.released) h, fun _ => rfl, rfl⟩

/-- A part of a die that a change keeps. -/
theorem State.die_modDie_part {α : Type} (s : State) (d e : Nat) (f : Die → Die) (part : Die → α) (h : ∀ x, part (f x) = part x) :
    part ((s.modDie d f).die e) = part (s.die e) := by
  rw [State.die, State.modDie]
  by_cases he : e = d
  · subst he
    by_cases hl : e < 4
    · rw [vgetD_vmod_same _ _ _ _ hl, h]; rfl
    · rw [show vmod s.dies e f = s.dies from dif_neg hl]; rfl
  · rw [vgetD_vmod_ne _ _ _ he]; rfl

theorem State.sameFaults_modDie (s : State) (d : Nat) (f : Die → Die) (h : ∀ x, (f x).fatal = x.fatal) : s.SameFaults (s.modDie d f) :=
  ⟨fun _ => rfl, fun e => s.die_modDie_part d e f (·.fatal) h, rfl⟩

theorem State.sameFaults_releaseSlot (s : State) (k : Nat) : s.SameFaults (s.releaseSlot k) := by
  cases hg : s.group k with
  | none => simp only [State.releaseSlot, hg]; exact s.sameFaults_modCluster _ _ fun _ => rfl
  | some g =>
    cases hi : s.issuingRun k with
    | false => rw [State.releaseSlot_idle hg hi]; exact .refl s
    | true =>
      obtain ⟨share, e⟩ := State.releaseSlot_holding hg hi
      have h : s.SameFaults (s.modCore (slotCluster k) (slotCore k) (Core.slotFreed share)) := s.sameFaults_modCluster _ _ fun _ => rfl
      rw [e]
      exact h.trans (.of_parts rfl rfl rfl)

theorem State.sameFaults_stopContext (s : State) (ctx : Nat) : s.SameFaults (s.stopContext ctx) := by
  unfold State.stopContext
  extract_lets ks t
  refine State.SameFaults.before (t := t) (State.SameFaults.foldl (fun u k => ?_) ks t) rfl rfl rfl
  exact (State.sameFaults_releaseSlot _ k).before rfl rfl rfl

theorem State.sameFaults_agentSend (s : State) (w : Who) (k : Nat) (bs : List Byte) : s.SameFaults (s.agentSend w k bs) := by
  unfold State.agentSend
  split
  · exact (s.stored_agentPut k bs).sameFaults
  · have h1 : s.SameFaults (s.wlSend w s.nextId k (.write bs [])) := by
      unfold State.wlSend
      split
      · exact .refl s
      · exact .of_parts rfl rfl rfl
    exact (h1.trans (State.stored_agentPut _ k bs).sameFaults).trans (.of_parts rfl rfl rfl)

theorem State.sameFaults_dropInstances (s : State) (ctx : Nat) (cause : BitVec 8) : s.SameFaults (s.dropInstances ctx cause) := by
  unfold State.dropInstances
  refine State.SameFaults.foldl (fun t d => ?_) (List.range 4) s
  extract_lets die mine u
  have h : t.SameFaults u := State.SameFaults.foldl (fun u p => u.sameFaults_agentSend _ _ _) mine t
  exact h.trans (u.sameFaults_modDie d _ fun _ => rfl)

theorem State.sameFaults_failSignal (s : State) (ctx : Nat) (p : Rec) : s.SameFaults (s.failSignal ctx p) := by
  unfold State.failSignal
  split
  · exact .refl s
  · split
    · exact .refl s
    · exact (s.stored_agentPut _ _).sameFaults

theorem State.sameFaults_dropGrids (s : State) (ctx : Nat) : s.SameFaults (s.dropGrids ctx) := by
  unfold State.dropGrids
  extract_lets qs pkts s1 s2
  have h1 : s.SameFaults s1 := .foldl (fun t p => t.sameFaults_failSignal ctx p) _ s
  have h2 : s1.SameFaults s2 := State.SameFaults.foldl (f := fun s p => s.modQueue p.1 fun q => { q.close with head := q.tail }) (fun _ _ => .of_parts rfl rfl rfl) qs s1
  exact (h1.trans h2).trans (.of_parts rfl rfl rfl)

theorem State.sameFaults_dropOps (s : State) (ctx : Nat) : s.SameFaults (s.dropOps ctx) := by
  refine ⟨fun c => ?_, fun _ => rfl, rfl⟩
  simp only [State.dropOps, State.svc, State.cluster, vgetD, Vector.getElem_map]
  split <;> rfl

/-- The end of a context halts no service core and no die. -/
theorem State.sameFaults_ctxDie (s : State) (ctx : Nat) (cause : BitVec 8) (handle faddr : Word) : s.SameFaults (s.ctxDie ctx cause handle faddr) := by
  have hend : ∀ f h, s.SameFaults ((((((((s.tally 0x158).modCtx ctx f).stopContext ctx).dropInstances ctx cause).dropGrids ctx).dropOps ctx)).modDie h
      fun d => { d with dumps := d.dumps ++ [⟨ctx, cause, handle, faddr, s.cycle, none⟩] }) := fun f h => by
    refine .trans ?_ (State.sameFaults_modDie _ _ _ fun _ => rfl)
    refine .trans ?_ (State.sameFaults_dropOps _ ctx)
    refine .trans ?_ (State.sameFaults_dropGrids _ ctx)
    refine .trans ?_ (State.sameFaults_dropInstances _ ctx cause)
    exact (State.sameFaults_stopContext _ ctx).before rfl rfl rfl
  unfold State.ctxDie
  split
  · exact .refl s
  · dsimp only
    split
    · exact hend _ _
    · exact hend _ _
    · exact State.sameFaults_modDie _ _ _ fun _ => rfl
    · exact .refl s

/-! ### A die-fatal error (R386) -/

/-- The service cores of some clusters halted. -/
theorem State.released_halted {c b : Nat} (hc : c < 192) (hb : b ≤ c) (n : Nat) (s : State) (h : c < b + n) :
    (((List.range n).foldl (fun (s : State) i => s.modCluster (b + i) fun c => { c with svc := c.svc.halt }) s).svc c).released = false := by
  induction n with
  | zero => omega
  | succ n ih =>
    rw [List.range_succ, List.foldl_append, List.foldl_cons, List.foldl_nil, State.svc]
    by_cases e : c = b + n
    · rw [← e, State.cluster_modCluster_same _ _ _ hc]; rfl
    · rw [State.cluster_modCluster_ne _ _ e]; exact ih (by omega)

theorem State.dies_haltCores (s : State) (d : Nat) : (s.haltCores d).dies = s.dies := by
  unfold State.haltCores
  generalize List.range Config.clustersPerDie = l
  induction l generalizing s with
  | nil => rfl
  | cons a l ih => exact (ih _).trans rfl

theorem length_crashRecord (die cause : Nat) (faddr sepc cycle : Word) (ctxs : List Nat) : (crashRecord die cause faddr sepc cycle ctxs).length = 4096 := by
  rw [crashRecord, List.length_take]
  simp only [List.length_append, length_leBytes, List.length_replicate]
  omega

/-- What a die-fatal error comes to: the die fatal, its cores halted, a crash record of 4 KiB written, the contexts that use the die ended. -/
theorem State.dieFatal_eq (s : State) (d field cl : Nat) (cause : BitVec 8) : ∃ (ended : List Nat) (record : List Byte) (f : Fleet), record.length = 4096 ∧ f.crash = record ∧
    s.dieFatal d field cl cause = ended.foldl (fun (s : State) n => s.ctxDie n cause 0 0)
      { (((s.tally 0x160).modDie d fun die => { die with fatal := true }).haltCores d).writeKeys Config.fwCrash record with fleet := f } :=
  ⟨_, _, _, length_crashRecord _ _ _ _ _ _, rfl, rfl⟩

/-- Contexts that end after a crash record is written. -/
theorem State.crashed_effect (u : State) (f : Fleet) (ended : List Nat) (cause : BitVec 8) (c d : Nat) :
    ((State.svc (ended.foldl (fun (s : State) n => s.ctxDie n cause 0 0) { u with fleet := f }) c).released = (u.svc c).released) ∧
    ((State.die (ended.foldl (fun (s : State) n => s.ctxDie n cause 0 0) { u with fleet := f }) d).fatal = (u.die d).fatal) ∧
    (ended.foldl (fun (s : State) n => s.ctxDie n cause 0 0) { u with fleet := f }).fleet.crash = f.crash := by
  have h := State.SameFaults.foldl (f := fun s n => s.ctxDie n cause 0 0) (fun t n => t.sameFaults_ctxDie n cause 0 0) ended { u with fleet := f }
  exact ⟨h.released c, h.fatal d, h.crash⟩

/-- A die-fatal error: the die is fatal, its service cores are out of service, the crash record is written. -/
theorem State.dieFatal_effect (s : State) {c : Nat} (hc : c < 192) (field cl : Nat) (cause : BitVec 8) :
    ((s.dieFatal (clusterDie c) field cl cause).svc c).released = false ∧ ((s.dieFatal (clusterDie c) field cl cause).die (clusterDie c)).fatal = true ∧
    (s.dieFatal (clusterDie c) field cl cause).fleet.crash.length = 4096 := by
  have e48 : Config.clustersPerDie = 48 := rfl
  have hdie : clusterDie c * Config.clustersPerDie ≤ c ∧ c < clusterDie c * Config.clustersPerDie + Config.clustersPerDie ∧ clusterDie c < 4 := by
    rw [clusterDie, e48]; omega
  have hrel := fun v => State.released_halted hc hdie.1 Config.clustersPerDie v hdie.2.1
  have hfatal : ∀ v : State, ((State.haltCores (v.modDie (clusterDie c) fun die => { die with fatal := true }) (clusterDie c)).die (clusterDie c)).fatal = true := fun v => by
    rw [State.die, State.dies_haltCores]
    exact congrArg Die.fatal (vgetD_vmod_same _ _ _ _ hdie.2.2)
  obtain ⟨ended, record, f, hlen, hf, e⟩ := s.dieFatal_eq (clusterDie c) field cl cause
  rw [e]
  generalize hs1 : State.haltCores _ _ = s1
  have hw : s1.SameFaults (s1.writeKeys Config.fwCrash record) := (s1.stored_writeKeys Config.fwCrash record).sameFaults
  obtain ⟨h1, h2, h3⟩ := (s1.writeKeys Config.fwCrash record).crashed_effect f ended cause c (clusterDie c)
  refine ⟨h1.trans ((hw.released c).trans ?_), h2.trans ((hw.fatal _).trans ?_), by rw [h3, hf, hlen]⟩
  · rw [← hs1]; exact hrel _
  · rw [← hs1]; exact hfatal _

end Sys2Proof.Machine
end

section
/-! SUPPORT. A fault of the current scalar word, at a group and at a service core (R62, R351). -/
namespace Sys2Proof.Machine
open Sys2Proof

/-- A service core that is not in its handler goes to SVEC. -/
theorem State.raise_service {s : State} {c : Nat} (h : s.AsService c) (hi : (s.cluster c).svc.inHandler = false) (cause : BitVec 8) (x : Word) :
    s.raise cause x = s.modCluster c fun cl => { cl with svc := { cl.svc with
      sepc := cl.svc.hart.pc, inHandler := true, hart := { cl.svc.hart with cause := cause.setWidth 9, faddr := x, pc := cl.svc.svec } } } := by
  rw [State.raise, h.1]
  dsimp only
  rw [if_neg (by rw [hi]; decide), State.modHart, h.1]
  exact State.modCluster_modCluster _ _ _ _

/-- In its handler it halts, and its die is fatal. -/
theorem State.raise_handler {s : State} {c : Nat} (h : s.AsService c) (hi : (s.cluster c).svc.inHandler = true) (cause : BitVec 8) (x : Word) :
    ((s.raise cause x).cluster c).svc.released = false ∧ ((s.raise cause x).die (clusterDie c)).fatal = true ∧ (s.raise cause x).fleet.crash.length = 4096 := by
  have e : s.raise cause x = (s.modHart fun h => { h with cause := cause.setWidth 9, faddr := x }).dieFatal (clusterDie c) (clusterDie c) c cause := by
    rw [State.raise, h.1]
    dsimp only
    rw [if_pos hi]
  rw [e]
  exact State.dieFatal_effect _ h.2 _ _ _

end Sys2Proof.Machine
end

section
/-! SUPPORT. An agent's write read back, in part; trace records and samples (R340, R341). -/
namespace Sys2Proof.Machine
open Sys2Proof

/-! ### An agent's write of plain memory -/

theorem State.mem_writeKeys_plain (s : State) {k : Nat} (bs : List Byte) (h : ∀ i < bs.length, PlainKey (k + i)) :
    (s.writeKeys k bs).mem = memWrite s.mem k bs := by
  cases hb : bs.length with
  | zero => rw [List.length_eq_zero_iff.1 hb]; rfl
  | succ n =>
    have hlast := (h n (by omega)).1
    rw [State.writeKeys, State.mem_putKeys_plain _ _ h, (s.clearTags_low (by omega)).2]

/-- A part of plain memory read back after it is written. -/
theorem State.readNat_writeKeys_within (s : State) {k off n : Nat} (bs : List Byte) (hm : Memory.wf s.mem = true) (h : ∀ i < bs.length, PlainKey (k + i))
    (hn : off + n ≤ bs.length) : (s.writeKeys k bs).readNat (k + off) n = leNat ((bs.drop off).take n) := by
  have e : (s.writeKeys k bs).readKeys (k + off) n = (bs.drop off).take n := by
    refine List.ext_getElem (by simp [State.readKeys]; omega) fun i h1 h2 => ?_
    have hi : i < n := by simpa [State.readKeys] using h1
    have hp : PlainKey (k + off + i) := by rw [Nat.add_assoc]; exact h (off + i) (by omega)
    simp only [State.readKeys, List.getElem_map, List.getElem_range, List.getElem_take, List.getElem_drop]
    rw [State.keyByte_plain _ hp, s.mem_writeKeys_plain bs h, memGet_memWrite _ _ _ _ hm, if_pos (by omega), show k + off + i - k = off + i by omega]
    rw [List.getD_eq_getElem _ _ (by omega)]
  rw [State.readNat, e]

/-- An agent's write at a page that is not moving, behind no other, is done at once. -/
theorem State.agentPut_now (s : State) {k : Nat} {bs : List Byte} (hlow : k + bs.length ≤ Config.windowKey) (hpos : 0 < bs.length)
    (hm : s.moving k bs.length = false) (hz : ∀ z ∈ s.stalled, z.meets k bs.length = false) : s.agentPut k bs = s.writeKeys k bs := by
  have e : (s.writeWaits k bs.length || s.stalled.any fun z => z.meets k bs.length) = false := by
    rw [s.writeWaits_low hlow hpos, hm, Bool.false_or]
    exact List.any_eq_false.2 fun z hz' => by simp [hz z hz']
  unfold State.agentPut State.agentWrite
  simp only [StallWrite.len, e, Bool.false_eq_true, if_false, State.perform]

/-! ### Trace records (R340) -/

/-- Where a cluster's next trace record lies. -/
def Debug.traceAt (d : Debug) : Nat := (physAddr d.trbase + 64 * (d.trhead.toNat % d.trsize.toNat)) % 2 ^ 52

/-- The bytes of a sample's record. -/
def State.sampleBytes (s : State) (k : Nat) (g : Group) : List Byte :=
  leBytes 8 (1 + slotCluster k * 2 ^ 4 + slotCore k * 2 ^ 12 + k % 32 * 2 ^ 14 + g.index * 2 ^ 19 + g.role * 2 ^ 23 + g.ctx * 2 ^ 25) ++
    leBytes 8 s.cycle.toNat ++ leBytes 8 g.hart.pc.toNat ++ leBytes 8 g.lane.pc.toNat ++ leBytes 32 g.lane.activeMask

theorem State.length_sampleBytes (s : State) (k : Nat) (g : Group) : (s.sampleBytes k g).length = 64 := by
  simp only [State.sampleBytes, List.length_append, length_leBytes]

theorem Debug.traceAt_low (d : Debug) : d.traceAt + 64 ≤ Config.windowKey := by
  have h1 : d.traceAt < 2 ^ 52 := Nat.mod_lt _ (by omega)
  have h2 : Config.windowKey = 2 ^ 53 := rfl
  omega

theorem State.trace_unset {s : State} {k : Nat} (h : (s.cluster (slotCluster k)).dbg.traceOn = false) (kind : Nat) (cause : BitVec 8) (lane : Bool) :
    s.trace k kind cause lane = s := by
  unfold State.trace
  split
  · rfl
  · simp only [h, Bool.not_false, if_true]

/-- A sample at a full ring, or a ring of another world, is dropped and counted. -/
theorem State.sample_dropped {s : State} {k : Nat} {g : Group} (hg : s.group k = some g) (hon : (s.cluster (slotCluster k)).dbg.traceOn = true)
    (h : (s.cluster (slotCluster k)).dbg.trhead - (s.cluster (slotCluster k)).dbg.trtail = (s.cluster (slotCluster k)).dbg.trsize ∨
      s.pageWorld (s.cluster (slotCluster k)).dbg.traceAt ≠ some g.world) :
    s.trace k 1 0 false = s.modCluster (slotCluster k) fun c => { c with dbg := { c.dbg with
      trdrop := if c.dbg.trdrop = BitVec.allOnes 64 then c.dbg.trdrop else c.dbg.trdrop + 1 } } := by
  rw [Debug.traceAt] at h
  rw [State.trace, hg]
  dsimp only
  rw [hon, if_neg (by decide), if_pos h]

/-- A sample at a ring with room is written. -/
theorem State.sample_written {s : State} {k : Nat} {g : Group} (hg : s.group k = some g) (hon : (s.cluster (slotCluster k)).dbg.traceOn = true)
    (h : ¬ ((s.cluster (slotCluster k)).dbg.trhead - (s.cluster (slotCluster k)).dbg.trtail = (s.cluster (slotCluster k)).dbg.trsize ∨
      s.pageWorld (s.cluster (slotCluster k)).dbg.traceAt ≠ some g.world)) :
    s.trace k 1 0 false = (s.agentPut (s.cluster (slotCluster k)).dbg.traceAt (s.sampleBytes k g)).modCluster (slotCluster k) fun c => { c with dbg := { c.dbg with
      trhead := c.dbg.trhead + 1 } } := by
  rw [Debug.traceAt] at h
  rw [State.trace, hg]
  dsimp only
  rw [hon, if_neg (by decide), if_neg (show ¬ (1 : Nat) = 2 by decide), if_pos (show (1 : Nat) ≤ 3 by decide), Nat.add_zero, Debug.traceAt, if_neg h, State.sampleBytes]

/-- A sample leaves the groups and the cores alone. -/
theorem State.sample_keeps {s : State} {k : Nat} {g : Group} (hg : s.group k = some g) :
    (s.trace k 1 0 false).groups = s.groups ∧ ∀ c m, ((s.trace k 1 0 false).cluster c).core m = (s.cluster c).core m := by
  cases hon : (s.cluster (slotCluster k)).dbg.traceOn with
  | false => rw [State.trace_unset hon]; exact ⟨rfl, fun _ _ => rfl⟩
  | true =>
    by_cases h : (s.cluster (slotCluster k)).dbg.trhead - (s.cluster (slotCluster k)).dbg.trtail = (s.cluster (slotCluster k)).dbg.trsize ∨
      s.pageWorld (s.cluster (slotCluster k)).dbg.traceAt ≠ some g.world
    · rw [State.sample_dropped hg hon h]
      exact ⟨rfl, fun c m => s.cluster_modCluster_part _ c _ (·.core m) fun _ => rfl⟩
    · rw [State.sample_written hg hon h]
      have hgroups := s.groups_agentPut_low (s.sampleBytes k g) (by rw [s.length_sampleBytes]; exact (s.cluster (slotCluster k)).dbg.traceAt_low)
      have hcl := (s.stored_agentPut (s.cluster (slotCluster k)).dbg.traceAt (s.sampleBytes k g)).cluster
      generalize s.agentPut (s.cluster (slotCluster k)).dbg.traceAt (s.sampleBytes k g) = u at hgroups hcl ⊢
      refine ⟨hgroups, fun c m => (u.cluster_modCluster_part _ c _ (fun x => x.core m) ?_).trans (congrArg (fun x : Cluster => x.core m) (hcl c))⟩
      exact fun _ => rfl

/-- The record of a sample read back. -/
theorem State.sample_read {s : State} {k a : Nat} (g : Group) (hc : s.Canonical) (hlow : a + 64 ≤ Config.windowKey) (hm : s.moving a 64 = false)
    (hz : ∀ z ∈ s.stalled, z.meets a 64 = false) (hp : ∀ i < 64, tagByte (a + i) = none ∧ worldByte (a + i) = none) :
    (s.agentPut a (s.sampleBytes k g)).readNat a 8 =
      (1 + slotCluster k * 2 ^ 4 + slotCore k * 2 ^ 12 + k % 32 * 2 ^ 14 + g.index * 2 ^ 19 + g.role * 2 ^ 23 + g.ctx * 2 ^ 25) % 2 ^ 64 ∧
    (s.agentPut a (s.sampleBytes k g)).readNat (a + 8) 8 = s.cycle.toNat ∧ (s.agentPut a (s.sampleBytes k g)).readNat (a + 16) 8 = g.hart.pc.toNat ∧
    (s.agentPut a (s.sampleBytes k g)).readNat (a + 24) 8 = g.lane.pc.toNat := by
  have hlen := s.length_sampleBytes k g
  rw [s.agentPut_now (by rw [hlen]; exact hlow) (by omega) (by rw [hlen]; exact hm) (by rw [hlen]; exact hz)]
  have hread : ∀ off, off + 8 ≤ 64 → (s.writeKeys a (s.sampleBytes k g)).readNat (a + off) 8 = leNat (((s.sampleBytes k g).drop off).take 8) := fun off ho =>
    s.readNat_writeKeys_within _ hc.1 (fun i hi => ⟨by omega, hp i (by omega)⟩) (by omega)
  refine ⟨(hread 0 (by omega)).trans ?_, (hread 8 (by omega)).trans ?_, (hread 16 (by omega)).trans ?_, (hread 24 (by omega)).trans ?_⟩ <;>
    simp [State.sampleBytes, List.drop_append, List.drop_eq_nil_of_le, Nat.mod_eq_of_lt (BitVec.isLt _)]

/-- The first sample at or after a cycle is one of that cycle when its time divides. -/
theorem Debug.nextSample_eq_iff (d : Debug) (c : Core) {cycle : Nat} (h : c.sampleAt ≤ cycle) :
    d.nextSample c cycle = cycle ↔ (cycle - c.sampleAt) % max 1 d.smpint.toNat = 0 := by
  have hn : 0 < max 1 d.smpint.toNat := by omega
  unfold Debug.nextSample
  dsimp only
  generalize max 1 d.smpint.toNat = n at *
  generalize hx : cycle - c.sampleAt = x
  split
  · have : x = 0 := by omega
    subst this
    simp; omega
  · have hdiv := Nat.div_add_mod x n
    constructor
    · intro e
      have e' : (x + n - 1) / n * n = x := by omega
      rw [← e']; exact Nat.mul_mod_left _ _
    · intro e
      obtain ⟨q, rfl⟩ := Nat.dvd_of_mod_eq_zero e
      have : (n * q + n - 1) / n = q := by
        rw [Nat.add_sub_assoc hn, Nat.mul_add_div hn, Nat.div_eq_of_lt (by omega), Nat.add_zero]
      rw [this, Nat.mul_comm]; omega

/-- A core's time of the next sample, past a cycle. -/
def Core.sampledAt (n cycle : Nat) (c : Core) : Core := { c with sampleAt := c.sampleAt + n * ((cycle - c.sampleAt) / n + 1) }

/-- The group that a sample names: the one that holds the issue slot, or where none does the last to issue. -/
theorem State.sampled_eq {s : State} {core slot : Nat} {g : Group} (hg : s.group slot = some g)
    (h : ((s.cluster (core / 4)).core (core % 4)).holder = some slot ∨ ((s.cluster (core / 4)).core (core % 4)).holder = none ∧
      ((s.cluster (core / 4)).core (core % 4)).issuers.head? = some (slot, g.gen)) : s.sampled core = some slot := by
  unfold State.sampled
  dsimp only
  rcases h with h | ⟨h, hi⟩
  · rw [h]
  · obtain ⟨rest, e⟩ : ∃ rest, ((s.cluster (core / 4)).core (core % 4)).issuers = (slot, g.gen) :: rest := by
      cases hl : ((s.cluster (core / 4)).core (core % 4)).issuers with
      | nil => rw [hl] at hi; cases hi
      | cons a l => rw [hl] at hi; cases hi; exact ⟨l, rfl⟩
    rw [h, e, List.find?_cons_of_pos (by simp [hg])]

/-- What a sample that is due leaves. -/
theorem sampleRecord_due {s : State} {core slot : Nat} (hon : (s.cluster (core / 4)).dbg.ctl.getLsbD 1 = true)
    (hdue : ((s.cluster (core / 4)).core (core % 4)).sampleAt ≤ s.cycle.toNat) (hs : s.sampled core = some slot) :
    exec (.sampleRecord core) s = .next ((if (s.cycle.toNat - ((s.cluster (core / 4)).core (core % 4)).sampleAt) % max 1 (s.cluster (core / 4)).dbg.smpint.toNat = 0 then
      s.trace slot 1 0 false else s).modCore (core / 4) (core % 4) (Core.sampledAt (max 1 (s.cluster (core / 4)).dbg.smpint.toNat) s.cycle.toNat)) := by
  have hidle : (!(s.cluster (core / 4)).dbg.ctl.getLsbD 1 || decide (s.cycle.toNat < ((s.cluster (core / 4)).core (core % 4)).sampleAt)) = false := by
    rw [hon, Bool.not_true, Bool.false_or]
    exact decide_eq_false (by omega)
  change execSampleRecord core s = _
  rw [execSampleRecord]
  simp only [hs, hidle, Bool.false_eq_true, if_false, ← Debug.nextSample_eq_iff _ _ hdue]
  rfl

end Sys2Proof.Machine
end

section
/-! OBLIGATION O45. -/
open Sys2Proof Sys2Proof.Machine

namespace Sys2Proof.Machine

/-- A fault of a service core (R351, R386). -/
theorem State.raise_cases (s : State) (cause : BitVec 8) (x : Word) :
    s.raiseHere cause = s.raise cause s.pc ∧ (∀ k, s.cur = .group k → s.raise cause x = s.stopGroup k false cause x 0) ∧
    (∀ c, s.AsService c →
      ((s.cluster c).svc.inHandler = false → s.raise cause x = s.modCluster c fun cl => { cl with svc := { cl.svc with
        sepc := cl.svc.hart.pc, inHandler := true, hart := { cl.svc.hart with cause := cause.setWidth 9, faddr := x, pc := cl.svc.svec } } }) ∧
      ((s.cluster c).svc.inHandler = true → ((s.raise cause x).cluster c).svc.released = false ∧
        ((s.raise cause x).die (clusterDie c)).fatal = true ∧ (s.raise cause x).fleet.crash.length = 4096)) :=
  ⟨rfl, fun k hk => by rw [State.raise, hk], fun _ h => ⟨fun hi => State.raise_service h hi cause x, fun hi => State.raise_handler h hi cause x⟩⟩

/-- The fault that a word that is no instruction takes. -/
def decodeCause : DecodeError → BitVec 8
  | .illegalInsn => Cause.illegalInsn
  | .reservedEnc => Cause.reservedEnc

/-- Whether a stepped group's work has drained, as propositions. -/
theorem State.stepDrained_iff (s : State) (k : Nat) (g : Group) : s.stepDrained k g = true ↔ g.life = .running ∧ (∀ p ∈ g.hart.pend, p.id < g.stepping.first) ∧
    (∀ i ∈ g.copies, i < g.stepping.first) ∧ (∀ a ∈ g.arrivals, a.id < g.stepping.first) ∧
    (∀ o ∈ (s.cluster (slotCluster k)).mxOf k, o.id < g.stepping.first) ∧ ∀ b ∈ g.batches, b.id < g.stepping.first := by
  simp only [State.stepDrained, Bool.and_eq_true, beq_iff_eq, List.all_eq_true, decide_eq_true_eq, and_assoc]

theorem stepStop_eq {s : State} {k : Nat} {g : Group} (hg : s.group k = some g) :
    exec (.stepStop k) s = if g.stepping.pending && s.mayIssue g && s.stepDrained k g then
      .next (s.stopGroup k (g.stepping.mode == 2) Cause.step g.stepping.addr 0) else .next s := by
  change execStepStop k s = _
  rw [execStepStop, hg]

/-- No sample is due where sampling is off, or before its cycle. -/
theorem sampleRecord_idle {s : State} {core : Nat}
    (h : (s.cluster (core / 4)).dbg.ctl.getLsbD 1 = false ∨ s.cycle.toNat < ((s.cluster (core / 4)).core (core % 4)).sampleAt) : exec (.sampleRecord core) s = .next s := by
  change execSampleRecord core s = _
  rw [execSampleRecord]
  refine if_pos ?_
  rcases h with h | h
  · rw [h]; rfl
  · rw [decide_eq_true h, Bool.or_true]

/-- A scalar word that does not decode faults with its cause. -/
theorem unassignedOpcode_scalar {s : State} {w : BitVec 96} {e : DecodeError} (hp : isPrivWord (w.setWidth 32) = false ∨ s.isService = true)
    (he : decodeScalar (w.setWidth 32) = .error e) : exec (.unassignedOpcode false w) s = .next (s.raiseHere (decodeCause e)) := by
  have hpriv : ¬ (isPrivWord (w.setWidth 32) && !s.isService) = true := by rcases hp with h | h <;> simp [h]
  change execUnassignedOpcode false w s = _
  rw [execUnassignedOpcode]
  dsimp only
  rw [if_neg (by decide), if_neg hpriv, he]
  cases e <;> rfl

theorem unassignedOpcode_privileged {s : State} {w : BitVec 96} (hp : isPrivWord (w.setWidth 32) = true) (hs : s.isService = false) :
    exec (.unassignedOpcode false w) s = .next (s.raiseHere Cause.privInsn) := by
  change execUnassignedOpcode false w s = _
  rw [execUnassignedOpcode]
  dsimp only
  rw [if_neg (by decide), if_pos (by simp [hp, hs])]

/-- A lane word that does not decode stops its group with its cause. -/
theorem unassignedOpcode_lane {s : State} {k : Nat} {g : Group} {r : Run} {rest : List Run} {w : BitVec 96} {e : DecodeError} (h : s.AsGroup k g)
    (hq : g.lane.queue = r :: rest) (he : laneFault (.ofWord w) = some e) :
    exec (.unassignedOpcode true w) s = .next (s.stopGroup k true (decodeCause e) r.addr 0) := by
  have hcur : s.curGroup = some g := by rw [State.curGroup, h.1]; exact h.2
  change execUnassignedOpcode true w s = _
  rw [execUnassignedOpcode]
  dsimp only
  rw [if_pos rfl, he, h.1, hcur]
  dsimp only
  rw [hq]
  cases e <;> rfl

/-- The time of the next sample, past a cycle (R341). -/
theorem sampleAt_next {a n x : Nat} (hn : 0 < n) (h : a ≤ x) : ∃ m, a + n * ((x - a) / n + 1) = a + n * (m + 1) ∧ a + n * m ≤ x ∧ x < a + n * (m + 1) := by
  have h1 := Nat.div_add_mod (x - a) n
  have h2 := Nat.mod_lt (x - a) hn
  refine ⟨(x - a) / n, rfl, by omega, ?_⟩
  rw [Nat.mul_add, Nat.mul_one]
  omega

/-- A trace ring of a power of two of records, 64 at least and 2^24 at most, is on where its bit is set. -/
theorem Debug.traceOn_of {d : Debug} {n : Nat} (h0 : d.ctl.getLsbD 0 = true) (hs : d.trsize.toNat = 2 ^ n) (h6 : 6 ≤ n) (h24 : n ≤ 24) : d.traceOn = true := by
  have h1 : 2 ^ 6 ≤ 2 ^ n := Nat.pow_le_pow_right (by omega) h6
  have h2 : 2 ^ n ≤ 2 ^ 24 := Nat.pow_le_pow_right (by omega) h24
  rw [Debug.traceOn, h0, hs, Nat.log2_two_pow]
  simp
  omega

/-- A due sample with its group's record: the ring's head or its count of dropped records moves. -/
theorem State.sample_ring {s : State} {slot n : Nat} {g : Group} (hcl : slotCluster slot < 192) (hg : s.group slot = some g)
    (h0 : (s.cluster (slotCluster slot)).dbg.ctl.getLsbD 0 = true) (hsize : (s.cluster (slotCluster slot)).dbg.trsize.toNat = 2 ^ n) (h6 : 6 ≤ n) (h24 : n ≤ 24) :
    let d := (s.cluster (slotCluster slot)).dbg
    let at' := (physAddr d.trbase + 64 * (d.trhead.toNat % 2 ^ n)) % 2 ^ 52
    let t := s.trace slot 1 0 false
    (d.trhead - d.trtail = d.trsize ∨ s.pageWorld at' ≠ some g.world → t.mem = s.mem ∧ t.tags = s.tags ∧ (t.cluster (slotCluster slot)).dbg.trhead = d.trhead ∧
      (t.cluster (slotCluster slot)).dbg.trdrop = if d.trdrop = BitVec.allOnes 64 then d.trdrop else d.trdrop + 1) ∧
    (d.trhead - d.trtail ≠ d.trsize → s.pageWorld at' = some g.world → (t.cluster (slotCluster slot)).dbg.trhead = d.trhead + 1 ∧
      (t.cluster (slotCluster slot)).dbg.trdrop = d.trdrop ∧
      (s.Canonical → s.moving at' 64 = false → (∀ z ∈ s.stalled, z.meets at' 64 = false) → (∀ i < 64, tagByte (at' + i) = none ∧ worldByte (at' + i) = none) →
        t.readNat at' 8 = (1 + slotCluster slot * 2 ^ 4 + slotCore slot * 2 ^ 12 + slot % 32 * 2 ^ 14 + g.index * 2 ^ 19 + g.role * 2 ^ 23 + g.ctx * 2 ^ 25) % 2 ^ 64 ∧
        t.readNat (at' + 8) 8 = s.cycle.toNat ∧ t.readNat (at' + 16) 8 = g.hart.pc.toNat ∧ t.readNat (at' + 24) 8 = g.lane.pc.toNat)) := by
  intro d at' t
  have hon : d.traceOn = true := Debug.traceOn_of h0 hsize h6 h24
  have hat : at' = d.traceAt := by simp only [at', Debug.traceAt, hsize, d]
  have hlow : at' + 64 ≤ Config.windowKey := hat ▸ d.traceAt_low
  clear_value at'
  refine ⟨fun h => ?_, fun hroom hworld => ?_⟩
  · have e : t = _ := State.sample_dropped hg hon (by rw [← hat]; exact h)
    rw [e, State.cluster_modCluster_same _ _ _ hcl]
    exact ⟨rfl, rfl, rfl, rfl⟩
  · have e : t = _ := State.sample_written hg hon (by rw [← hat]; exact fun h => h.elim hroom fun h => h hworld)
    rw [← hat] at e
    have hst := (s.stored_agentPut at' (s.sampleBytes slot g)).cluster (slotCluster slot)
    have hread := fun hc => State.sample_read (s := s) (k := slot) (a := at') g hc hlow
    generalize s.agentPut at' (s.sampleBytes slot g) = u at e hst hread
    rw [e, State.cluster_modCluster_same _ _ _ hcl, hst]
    refine ⟨rfl, rfl, fun hc hm hz hp => ?_⟩
    have hsame : ∀ off, off + 8 ≤ 64 → ∀ f, (u.modCluster (slotCluster slot) f).readNat (at' + off) 8 = u.readNat (at' + off) 8 := fun off ho f =>
      State.readNat_low_congr (by omega) rfl rfl rfl
    have h0 := hsame 0 (by omega)
    rw [Nat.add_zero] at h0
    rw [h0, hsame 8 (by omega), hsame 16 (by omega), hsame 24 (by omega)]
    exact hread hc hm hz hp

/-- A core's next sample set: memory and the rest of the cluster are as they were. -/
theorem State.sampled_parts (u : State) {cl m : Nat} (hcl : cl < 192) (hm : m < 4) (n x : Nat) :
    let t := u.modCore cl m (Core.sampledAt n x)
    ((t.cluster cl).core m) = ((u.cluster cl).core m).sampledAt n x ∧ t.groups = u.groups ∧ t.mem = u.mem ∧ t.tags = u.tags ∧ (t.cluster cl).dbg = (u.cluster cl).dbg ∧
    ∀ a k, a + k ≤ Config.windowKey → t.readNat a k = u.readNat a k :=
  ⟨u.core_modCore_same _ hcl hm, rfl, rfl, rfl, u.cluster_modCluster_part cl cl _ (·.dbg) fun _ => rfl, fun _ _ h => State.readNat_low_congr h rfl rfl rfl⟩

/-- What a sample that is due leaves: the time of the next, and where the trace is on a record or a count. -/
theorem State.sample_effect {s u t : State} {slot m : Nat} {g : Group} (hcl : slotCluster slot < 192) (hm : m < 4) (hg : s.group slot = some g)
    (hdue : ((s.cluster (slotCluster slot)).core m).sampleAt ≤ s.cycle.toNat)
    (hu : (if (s.cycle.toNat - ((s.cluster (slotCluster slot)).core m).sampleAt) % max 1 (s.cluster (slotCluster slot)).dbg.smpint.toNat = 0 then
      s.trace slot 1 0 false else s) = u)
    (ht : t = u.modCore (slotCluster slot) m (Core.sampledAt (max 1 (s.cluster (slotCluster slot)).dbg.smpint.toNat) s.cycle.toNat)) :
    let d := (s.cluster (slotCluster slot)).dbg
    let c := (s.cluster (slotCluster slot)).core m
    let n := max 1 d.smpint.toNat
    (∃ i, ((t.cluster (slotCluster slot)).core m).sampleAt = c.sampleAt + n * (i + 1) ∧ c.sampleAt + n * i ≤ s.cycle.toNat ∧ s.cycle.toNat < c.sampleAt + n * (i + 1)) ∧
    t.groups.map (·.1) = s.groups.map (·.1) ∧
    (d.ctl.getLsbD 0 = false ∨ (s.cycle.toNat - c.sampleAt) % n ≠ 0 → t.mem = s.mem ∧ t.tags = s.tags) ∧
    (d.ctl.getLsbD 0 = true → (s.cycle.toNat - c.sampleAt) % n = 0 → ∀ n, d.trsize.toNat = 2 ^ n → 6 ≤ n → n ≤ 24 →
      let at' := (physAddr d.trbase + 64 * (d.trhead.toNat % 2 ^ n)) % 2 ^ 52
      (d.trhead - d.trtail = d.trsize ∨ s.pageWorld at' ≠ some g.world → t.mem = s.mem ∧ t.tags = s.tags ∧ (t.cluster (slotCluster slot)).dbg.trhead = d.trhead ∧
        (t.cluster (slotCluster slot)).dbg.trdrop = if d.trdrop = BitVec.allOnes 64 then d.trdrop else d.trdrop + 1) ∧
      (d.trhead - d.trtail ≠ d.trsize → s.pageWorld at' = some g.world → (t.cluster (slotCluster slot)).dbg.trhead = d.trhead + 1 ∧
        (t.cluster (slotCluster slot)).dbg.trdrop = d.trdrop ∧
        (s.Canonical → s.moving at' 64 = false → (∀ z ∈ s.stalled, z.meets at' 64 = false) → (∀ i < 64, tagByte (at' + i) = none ∧ worldByte (at' + i) = none) →
          t.readNat at' 8 = (1 + slotCluster slot * 2 ^ 4 + slot / 32 % 4 * 2 ^ 12 + slot % 32 * 2 ^ 14 + g.index * 2 ^ 19 + g.role * 2 ^ 23 + g.ctx * 2 ^ 25) % 2 ^ 64 ∧
          t.readNat (at' + 8) 8 = s.cycle.toNat ∧ t.readNat (at' + 16) 8 = g.hart.pc.toNat ∧ t.readNat (at' + 24) 8 = g.lane.pc.toNat))) := by
  intro d c n
  have hkeep : u.groups = s.groups ∧ (u.cluster (slotCluster slot)).core m = c := by
    rw [← hu]
    split
    · exact ⟨(State.sample_keeps hg).1, (State.sample_keeps hg).2 _ _⟩
    · exact ⟨rfl, rfl⟩
  have hparts := u.sampled_parts hcl hm n s.cycle.toNat
  dsimp only at hparts
  rw [← ht] at hparts
  obtain ⟨hcore, hgroups, hmem, htags, hdbg, hread⟩ := hparts
  refine ⟨?_, by rw [hgroups, hkeep.1], fun h => ?_, fun h0 hmod k hsize h6 h24 => ?_⟩
  · rw [hcore, hkeep.2]
    exact sampleAt_next (by omega) hdue
  · have e : u = s := by
      rw [← hu]
      split
      next hmod => exact State.trace_off (h.resolve_right fun h => h hmod) _ _ _
      next => rfl
    rw [hmem, htags, e]
    exact ⟨rfl, rfl⟩
  · rw [if_pos hmod] at hu
    intro at'
    have hlow : at' + 64 ≤ Config.windowKey := by
      have h1 : at' < 2 ^ 52 := Nat.mod_lt _ (by omega)
      have h2 : Config.windowKey = 2 ^ 53 := rfl
      omega
    have h := State.sample_ring hcl hg h0 hsize h6 h24
    dsimp only at h
    rw [hu] at h
    obtain ⟨hdrop, hwrite⟩ := h
    refine ⟨fun h => ?_, fun hroom hworld => ?_⟩
    · rw [hmem, htags, hdbg]; exact hdrop h
    · rw [hdbg]
      obtain ⟨h1, h2, h3⟩ := hwrite hroom hworld
      refine ⟨h1, h2, fun hc hmv hz hp => ?_⟩
      rw [hread at' 8 (by omega), hread (at' + 8) 8 (by omega), hread (at' + 16) 8 (by omega), hread (at' + 24) 8 (by omega)]
      exact h3 hc hmv hz hp

end Sys2Proof.Machine

/-- Settles O45: what a stop of a group leaves (`stopGroup_stops`), a fault of each thread (`raise_cases`), words that are no instruction, the stop of a stepped group,
    and the sample of a core, whose record is read back from plain memory. -/
theorem exceptionsSaveTheirState : Obligations.ExceptionsSaveTheirState := by
  unfold Obligations.ExceptionsSaveTheirState
  refine ⟨fun s k g lane cause x fl hg hk ht => State.stopGroup_stops hg hk ht lane cause x fl, State.raise_cases, ?_, ?_, ?_⟩
  · refine fun s w _ => ⟨fun e hp he => ?_, unassignedOpcode_privileged, fun k g r rest e h hq he => ?_⟩
    · rw [unassignedOpcode_scalar hp he]; cases e <;> rfl
    · rw [unassignedOpcode_lane h hq he]; cases e <;> rfl
  · refine fun s k g hg => ⟨fun hp hd hm => ?_, fun h => ?_⟩
    · rw [stepStop_eq hg, hp, hm, (s.stepDrained_iff k g).2 hd, if_pos (by decide)]; rfl
    · have hno : (g.stepping.pending && s.mayIssue g && s.stepDrained k g) = false := by
        rcases h with h | h | h
        · rw [h]; rfl
        · rw [Bool.eq_false_iff.2 fun hd => h ((s.stepDrained_iff k g).1 hd), Bool.and_false]
        · rw [h, Bool.and_false]; rfl
      rw [stepStop_eq hg, hno, if_neg (by decide)]
  · refine fun s core slot g hcore hs hslot hg => ⟨sampleRecord_idle, fun hon hdue => ?_⟩
    have hsamp := State.sampled_eq hg hs
    have e := sampleRecord_due hon hdue hsamp
    have hm : core % 4 < 4 := Nat.mod_lt _ (by omega)
    have hcl : core / 4 < 192 := by omega
    generalize core / 4 = cl, core % 4 = m at *
    subst hslot
    exact ⟨_, e, State.sample_effect hcl hm hg hdue rfl rfl⟩

end

section
/-! SUPPORT. A key removed from a map, memory without a range, and writes of agents by any form. -/
namespace Sys2Proof.Machine
open Sys2Proof

/-! ### A key removed from a map with rising keys -/

theorem mapGet_eq_none_of_lt {α : Type} {m : SMap α} {j : Nat} (h : ∀ p ∈ m, j < p.1) : mapGet m j = none := by
  cases m with
  | nil => rfl
  | cons p m =>
    have hp := h p (by simp)
    rw [mapGet, if_neg (by omega), if_pos hp]

theorem mapGet_mapDel {α : Type} {m : SMap α} (h : Rising m) (i j : Nat) : mapGet (mapDel m i) j = if j = i then none else mapGet m j := by
  induction m with
  | nil => simp [mapDel]
  | cons p m ih =>
    obtain ⟨k, v⟩ := p
    obtain ⟨hlow, hm⟩ := List.pairwise_cons.1 h
    rw [mapDel]
    by_cases hk : k = i
    · subst hk
      rw [if_pos rfl]
      by_cases hj : j = k
      · rw [if_pos hj, hj]; exact mapGet_eq_none_of_lt hlow
      · rw [if_neg hj, mapGet, if_neg (Ne.symm hj)]
        split
        next hlt => exact mapGet_eq_none_of_lt fun p hp => Nat.lt_trans hlt (hlow p hp)
        next => rfl
    · rw [if_neg hk, mapGet, mapGet, ih hm]
      by_cases hj : j = i
      · subst hj; rw [if_neg hk, if_pos rfl, ite_self, if_pos rfl]
      · rw [if_neg hj, if_neg hj]

theorem keys_mapMod {α : Type} (f : α → α) (m : SMap α) (i : Nat) : (mapMod f m i).map (·.1) = m.map (·.1) := by
  induction m with
  | nil => rfl
  | cons p m ih =>
    obtain ⟨k, v⟩ := p
    rw [mapMod]
    split
    · rfl
    · rw [List.map_cons, ih, List.map_cons]

theorem rising_iff_keys {α : Type} (m : SMap α) : Rising m ↔ (m.map (·.1)).Pairwise (· < ·) := List.pairwise_map.symm

theorem Rising.mapMod {α : Type} {m : SMap α} (h : Rising m) (f : α → α) (i : Nat) : Rising (mapMod f m i) := by
  rw [rising_iff_keys, keys_mapMod]
  exact (rising_iff_keys m).1 h

/-! ### Memory without a range (R390) -/

theorem memGet_eq_zero {m : List Host.Cell} {k : Nat} (h : ∀ c ∈ m, c.1 ≠ k) : memGet m k = 0 := by
  induction m with
  | nil => rfl
  | cons c m ih =>
    rw [memGet, if_neg (h c (by simp)), ih fun c hc => h c (by simp [hc])]
    exact ite_self _

/-- One state is another with bytes zeroed: memory, tags and damaged bytes with nothing more listed. -/
def State.Zeroed (s t : State) : Prop := ∃ mem tags damaged, t = { s with mem := mem, tags := tags, damaged := damaged } ∧ ∀ c ∈ mem, c ∈ s.mem

theorem State.Zeroed.refl (s : State) : s.Zeroed s := ⟨_, _, _, rfl, fun _ h => h⟩
theorem State.Zeroed.trans {s t u : State} (h : s.Zeroed t) (i : t.Zeroed u) : s.Zeroed u := by
  obtain ⟨m, tg, d, rfl, hm⟩ := h
  obtain ⟨m', tg', d', rfl, hm'⟩ := i
  exact ⟨m', tg', d', rfl, fun c hc => hm c (hm' c hc)⟩
theorem State.Zeroed.foldl {α : Type} {f : State → α → State} (hf : ∀ (s : State) (a : α), s.Zeroed (f s a)) (l : List α) (s : State) : s.Zeroed (l.foldl f s) := by
  induction l generalizing s with
  | nil => exact .refl s
  | cons a l ih => exact (hf s a).trans (ih _)
theorem State.zeroed_zeroRange (s : State) (k n : Nat) : s.Zeroed (s.zeroRange k n) := ⟨_, _, _, rfl, fun _ h => (List.mem_filter.1 h).1⟩
theorem State.zeroed_zeroAccs (s : State) (cl p : Nat) : s.Zeroed (s.zeroAccs cl p) := (s.zeroed_zeroRange _ _).trans (State.zeroed_zeroRange _ _ _)

/-- A key that memory does not list. -/
def State.Unlisted (s : State) (k : Nat) : Prop := ∀ c ∈ s.mem, c.1 ≠ k

theorem State.Zeroed.unlisted {s t : State} {k : Nat} (h : s.Zeroed t) (hk : s.Unlisted k) : t.Unlisted k := by
  obtain ⟨m, tg, d, rfl, hm⟩ := h
  exact fun c hc => hk c (hm c hc)

theorem State.unlisted_zeroRange (s : State) {k n i : Nat} (h : i < n) : (s.zeroRange k n).Unlisted (k + i) := by
  intro c hc e
  have hkeep := (List.mem_filter.1 hc).2
  rw [e, Bool.or_eq_true, decide_eq_true_eq, decide_eq_true_eq] at hkeep
  omega

/-- Ranges zeroed one after another: none of their bytes is listed after them. -/
theorem State.unlisted_foldl {α : Type} {f : State → α → State} (hf : ∀ (s : State) (a : α), s.Zeroed (f s a)) {k : Nat} {l : List α} {a : α} (ha : a ∈ l)
    (hk : ∀ s : State, (f s a).Unlisted k) (s : State) : (l.foldl f s).Unlisted k := by
  induction l generalizing s with
  | nil => cases ha
  | cons b l ih =>
    rcases List.mem_cons.1 ha with rfl | h
    · exact (State.Zeroed.foldl hf l _).unlisted (hk s)
    · exact ih h _

/-! ### What an agent's write of any form leaves alone -/

theorem State.stored_perform (s : State) (w : Stall) : s.Stored (s.perform w) := by
  unfold State.perform
  split
  · exact s.stored_writeKeys _ _
  · exact (s.stored_putKeys _ _).trans (State.stored_keySetTag _ _ _)
  · exact s.stored_writeKeys _ _
  · exact (s.stored_putKeys _ _).trans (State.stored_foldl _ (fun t _ => t.stored_keySetTag _ _) _ _)

theorem State.stored_agentWrite (s : State) (w : Stall) : s.Stored (s.agentWrite w) := by
  unfold State.agentWrite
  split
  · exact .of_groups s.mem s.tags _ s.damaged
  · exact s.stored_perform w

/-- Two states with the same slots taken, and the same contexts, teams, grids and continuations. -/
structure State.SameTeams (s t : State) : Prop where
  slots : ∀ j, (t.group j).isSome = (s.group j).isSome
  ctxs : t.ctxs = s.ctxs
  teams : t.teams = s.teams
  grids : t.disp.grids = s.disp.grids
  conts : t.disp.conts = s.disp.conts

theorem State.SameTeams.refl (s : State) : s.SameTeams s := ⟨fun _ => rfl, rfl, rfl, rfl, rfl⟩
theorem State.SameTeams.trans {s t u : State} (h : s.SameTeams t) (i : t.SameTeams u) : s.SameTeams u :=
  ⟨fun j => (i.slots j).trans (h.slots j), i.ctxs.trans h.ctxs, i.teams.trans h.teams, i.grids.trans h.grids, i.conts.trans h.conts⟩
theorem State.Stored.sameTeams {s t : State} (h : s.Stored t) : s.SameTeams t := by
  refine ⟨fun j => ?_, h.ctxs, ?_, ?_, ?_⟩
  · obtain ⟨v, hv⟩ := h.group j
    rw [hv, Option.isSome_map]
  · obtain ⟨_, _, _, _, _, rfl, -⟩ := h; rfl
  · obtain ⟨_, _, _, _, _, rfl, -⟩ := h; rfl
  · obtain ⟨_, _, _, _, _, rfl, -⟩ := h; rfl

theorem State.sameTeams_signal (s : State) (ctx : Nat) (p : Rec) : s.SameTeams (s.signal ctx p).1 := by
  unfold State.signal
  split
  · exact .refl s
  · split
    · exact .refl s
    · exact (s.stored_agentWrite _).sameTeams

theorem State.sameTeams_packetEvent (s : State) (cl kind : Nat) (cause : BitVec 8) (p : Rec) : s.SameTeams (s.packetEvent cl kind cause p) := by
  have key : ∀ u : State, s.SameTeams u → ∀ x, s.SameTeams (State.event { u with disp := { s.disp with copies := s.disp.copies + 1 } } cl kind cause 0 x) :=
    fun u h x => ⟨h.slots, h.ctxs, h.teams, rfl, rfl⟩
  exact key _ (s.stored_agentWrite _).sameTeams _

end Sys2Proof.Machine
end

section
/-! SUPPORT. A team released, a grid with one team less, and the trace record of a group that retires (R52, R263, R340, R390). -/
namespace Sys2Proof.Machine
open Sys2Proof

/-! ### A team released (R390) -/

/-- The register blocks that one retired group left, zeroed. -/
def State.zeroBlocks (cl : Nat) (s : State) (h : Held) : State :=
  h.blocks.foldl (fun (s : State) b => s.zeroRange (blockKey cl (slotCore h.slot) b) 0x800) s

/-- The register blocks that a team's retired groups left, zeroed. -/
def State.zeroHeld (s : State) (t : Team) : State := t.held.foldl (State.zeroBlocks t.cluster) s

theorem State.zeroed_zeroBlocks (cl : Nat) (s : State) (h : Held) : s.Zeroed (State.zeroBlocks cl s h) :=
  State.Zeroed.foldl (f := fun (s : State) b => s.zeroRange (blockKey cl (slotCore h.slot) b) 0x800) (fun s _ => s.zeroed_zeroRange _ _) h.blocks s

theorem State.zeroed_zeroHeld (s : State) (t : Team) : s.Zeroed (s.zeroHeld t) := .foldl (State.zeroed_zeroBlocks t.cluster) t.held s

theorem State.unlisted_zeroHeld (s : State) {t : Team} {h : Held} {b i : Nat} (hh : h ∈ t.held) (hb : b ∈ h.blocks) (hi : i < 0x800) :
    (s.zeroHeld t).Unlisted (blockKey t.cluster (slotCore h.slot) b + i) :=
  State.unlisted_foldl (State.zeroed_zeroBlocks t.cluster) hh (fun u =>
    State.unlisted_foldl (f := fun (s : State) b => s.zeroRange (blockKey t.cluster (slotCore h.slot) b) 0x800) (fun s _ => s.zeroed_zeroRange _ _) hb
      (fun v => v.unlisted_zeroRange hi) u) s

/-- A team that is released is gone, and what it held is zero where its world is protected. -/
theorem State.releaseTeam_effect (s : State) (id : Nat) (t : Team) :
    State.Zeroed { s with teams := mapDel s.teams id } (s.releaseTeam id t) ∧
    (t.world ≠ 0 → t.world ≠ 255 → (∀ i < t.ways * 0x8000, (s.releaseTeam id t).Unlisted (wayKey t.cluster t.way0 + i)) ∧
      ∀ h ∈ t.held, ∀ b ∈ h.blocks, ∀ i < 0x800, (s.releaseTeam id t).Unlisted (blockKey t.cluster (slotCore h.slot) b + i)) := by
  unfold State.releaseTeam
  extract_lets s1 s2
  split
  next hw => exact ⟨.refl _, fun h0 h255 => absurd hw (by tauto)⟩
  next =>
    have h2 : (s1.zeroRange (wayKey t.cluster t.way0) (t.ways * 0x8000)).Zeroed s2 := State.zeroed_zeroHeld _ t
    have h1 : s1.Zeroed s2 := (s1.zeroed_zeroRange _ _).trans h2
    have hways : ∀ i < t.ways * 0x8000, s2.Unlisted (wayKey t.cluster t.way0 + i) := fun i hi => h2.unlisted (s1.unlisted_zeroRange hi)
    have hheld : ∀ h ∈ t.held, ∀ b ∈ h.blocks, ∀ i < 0x800, s2.Unlisted (blockKey t.cluster (slotCore h.slot) b + i) :=
      fun h hh b hb i hi => State.unlisted_zeroHeld _ hh hb hi
    clear_value s2
    split
    next p _ =>
      have h3 := s2.zeroed_zeroAccs t.cluster p
      exact ⟨h1.trans h3, fun _ _ => ⟨fun i hi => h3.unlisted (hways i hi), fun h hh b hb i hi => h3.unlisted (hheld h hh b hb i hi)⟩⟩
    next => exact ⟨h1, fun _ _ => ⟨hways, hheld⟩⟩

/-! ### A grid with one team less (R263) -/

/-- A grid that completes is removed, whatever comes of its signal. -/
theorem State.completeGrid_effect (s : State) (k : Nat) (x : Grid) :
    ∃ u, s.SameTeams u ∧ s.completeGrid k x = { u with disp := { u.disp with grids := mapDel u.disp.grids k } } := by
  unfold State.completeGrid
  extract_lets r s1
  refine ⟨s1, ?_, rfl⟩
  have hr : s.SameTeams r.1 := s.sameTeams_signal _ _
  simp only [s1]
  split
  · exact hr.trans (State.sameTeams_packetEvent _ _ _ _ _)
  · exact hr

/-- A team gone changes its grid's record alone; the grid completes with its last team. -/
theorem State.teamGone_effect (s : State) (grid : Option Nat) :
    (∀ j, ((s.teamGone grid).group j).isSome = (s.group j).isSome) ∧ (s.teamGone grid).ctxs = s.ctxs ∧ (s.teamGone grid).teams = s.teams ∧
    (s.teamGone grid).disp.conts = s.disp.conts ∧
    ∀ n x, grid = some n → mapGet s.disp.grids n = some x → Rising s.disp.grids →
      mapGet (s.teamGone grid).disp.grids n = if x.live ≤ 1 ∧ x.next = x.total then none else some { x with live := x.live - 1 } := by
  cases grid with
  | none => exact ⟨fun _ => rfl, rfl, rfl, rfl, fun n x h => by cases h⟩
  | some k =>
    rw [State.teamGone]
    generalize hs1 : s.modGrid k _ = s1
    have hgrid : ∀ x, mapGet s.disp.grids k = some x → mapGet s1.disp.grids k = some { x with live := x.live - 1 } := fun x hx => by
      rw [← hs1, State.modGrid]
      exact (mapGet_mapMod_same _ _ _).trans (by rw [hx]; rfl)
    have hrise : Rising s.disp.grids → Rising s1.disp.grids := fun h => by rw [← hs1]; exact h.mapMod _ _
    have hkeep : (∀ j, (s1.group j).isSome = (s.group j).isSome) ∧ s1.ctxs = s.ctxs ∧ s1.teams = s.teams ∧ s1.disp.conts = s.disp.conts := by
      rw [← hs1]; exact ⟨fun _ => rfl, rfl, rfl, rfl⟩
    obtain ⟨hslots, hctxs, hteams, hconts⟩ := hkeep
    clear hs1
    split
    next y hy =>
      split
      next hlast =>
        obtain ⟨u, hu, e⟩ := s1.completeGrid_effect k y
        rw [e]
        refine ⟨fun j => (hu.slots j).trans (hslots j), hu.ctxs.trans hctxs, hu.teams.trans hteams, hu.conts.trans hconts, fun n x hn hx hr => ?_⟩
        obtain rfl := Option.some.inj hn
        have hxy := (hgrid x hx).symm.trans hy
        obtain rfl := Option.some.inj hxy
        have hdone : x.live ≤ 1 ∧ x.next = x.total := ⟨by have := hlast.1; dsimp only at this; omega, hlast.2⟩
        have hru : Rising u.disp.grids := by rw [hu.grids]; exact hrise hr
        rw [if_pos hdone, mapGet_mapDel hru, if_pos rfl]
      next hlast =>
        refine ⟨hslots, hctxs, hteams, hconts, fun n x hn hx hr => ?_⟩
        obtain rfl := Option.some.inj hn
        obtain rfl := Option.some.inj ((hgrid x hx).symm.trans hy)
        rw [hgrid x hx, if_neg fun h => hlast ⟨by dsimp only; omega, h.2⟩]
    next hy =>
      refine ⟨hslots, hctxs, hteams, hconts, fun n x hn hx hr => ?_⟩
      obtain rfl := Option.some.inj hn
      rw [hgrid x hx] at hy
      cases hy

/-! ### A trace record of any kind (R340) -/

/-- A trace record changes memory that agents write and the debug unit of its cluster. -/
theorem State.trace_effect (s : State) (k kind : Nat) (cause : BitVec 8) (lane : Bool) :
    ∃ u f, s.Stored u ∧ u.groups = s.groups ∧ s.trace k kind cause lane = u.modCluster (slotCluster k) f := by
  have hid : s = s.modCluster (slotCluster k) id := by
    rw [State.modCluster, vmod_id _ _ id fun _ => rfl]
  unfold State.trace
  extract_lets cl d at'
  split
  · exact ⟨s, id, .refl s, rfl, hid⟩
  · split
    · exact ⟨s, id, .refl s, rfl, hid⟩
    · extract_lets hdr mask
      split
      · exact ⟨s, _, .refl s, rfl, rfl⟩
      · refine ⟨_, _, s.stored_agentPut _ _, s.groups_agentPut_low _ ?_, rfl⟩
        have h1 : at' < 2 ^ 52 := Nat.mod_lt _ (Nat.two_pow_pos 52)
        have h2 : Config.windowKey = 2 ^ 53 := rfl
        have hlen : ∀ a b c d e, (leBytes 8 a ++ leBytes 8 b ++ leBytes 8 c ++ leBytes 8 d ++ leBytes 32 e).length = 64 := fun a b c d e => by
          simp only [List.length_append, length_leBytes]
        rw [hlen]
        omega

end Sys2Proof.Machine
end

section
/-! OBLIGATION O41. -/
namespace Sys2Proof.Machine
open Sys2Proof

/-- The state of a group that retires, its calls dropped and its end traced: groups, teams, contexts, queues and the dispatcher as before. -/
theorem State.retiring_effect (s : State) (k : Nat) : ∃ t, (s.dropCalls k).trace k 8 0 false = t ∧ t.groups = s.groups ∧ t.teams = s.teams ∧ t.ctxs = s.ctxs ∧
    t.disp = s.disp ∧ t.edge = s.edge := by
  obtain ⟨u, f, hu, hg, e⟩ := (s.dropCalls k).trace_effect k 8 0 false
  have hs := (s.stored_dropCalls k).trans hu
  refine ⟨_, rfl, ?_⟩
  rw [e]
  refine ⟨hg.trans (s.groups_dropCalls k), ?_⟩
  obtain ⟨_, _, _, _, _, rfl, -⟩ := hs
  exact ⟨rfl, rfl, rfl, rfl⟩

/-- The continuation that a retiring group leaves in its queue's list. -/
def State.withCont (s : State) (tm : Team) (g : Group) : State :=
  match g.cont with
  | some (b, tg) => { s with disp := { s.disp with conts := s.disp.conts ++ [Cont.mk g.ctx tm.cluster (Rec.queueNo ⟨b, tg⟩) (s.queue (Rec.queueNo ⟨b, tg⟩)).tail b tg] } }
  | none => s

theorem State.withCont_effect (s : State) (tm : Team) (g : Group) : ∃ conts, s.withCont tm g = { s with disp := { s.disp with conts := conts } } ∧
    (g.cont = none → conts = s.disp.conts) ∧
    ∀ b tg, g.cont = some (b, tg) → conts = s.disp.conts ++ [⟨g.ctx, tm.cluster, Rec.queueNo ⟨b, tg⟩, (s.queue (Rec.queueNo ⟨b, tg⟩)).tail, b, tg⟩] := by
  unfold State.withCont
  cases g.cont with
  | none => exact ⟨_, rfl, fun _ => rfl, fun _ _ e => by cases e⟩
  | some p =>
    refine ⟨_, rfl, fun e => (by cases e), fun b tg e => ?_⟩
    cases e
    rfl

/-- What a retiring group leaves of its team: what it held goes to the heir, if there is one. -/
def Team.keeping (tm : Team) (k : Nat) (g : Group) : Team :=
  if tm.heir.isSome then { tm with held := tm.held ++ [⟨k, g.vbud, g.sbud, g.blocks⟩] } else tm

/-- The retirement of a quiet group, but for the last of a team with an heir. -/
theorem groupRetire_quiet {s : State} {k : Nat} {g : Group} {tm : Team} (hg : s.group k = some g) (ht : s.team g.team = some tm) (hl : g.life = .exiting)
    (hq : s.quiet k g = true) : ∃ u, ((s.dropCalls k).trace k 8 0 false) = u ∧
      let r := { u with groups := mapDel u.groups k }.withCont tm g
      (1 < tm.live → exec (.groupRetire k) s = .next (r.modTeam g.team fun _ => { tm.keeping k g with live := tm.live - 1 })) ∧
      (tm.live ≤ 1 → tm.heir = none → exec (.groupRetire k) s = .next ((r.releaseTeam g.team tm).teamGone tm.grid)) := by
  obtain ⟨u, hu⟩ : ∃ u, (s.dropCalls k).trace k 8 0 false = u := ⟨_, rfl⟩
  refine ⟨u, hu, ?_⟩
  have hgo : ¬ (g.life != .exiting || !s.quiet k g) = true := by rw [hl, hq]; decide
  have hlive : (tm.keeping k g).live = tm.live := by unfold Team.keeping; split <;> rfl
  refine ⟨fun h => ?_, fun h hh => ?_⟩
  · change execGroupRetire k s = _
    rw [execGroupRetire, hg]
    dsimp only
    rw [if_neg hgo, ht, hu]
    dsimp only
    refine (if_pos ?_).trans ?_
    · exact (show 1 < (tm.keeping k g).live by rw [hlive]; exact h)
    · rw [State.withCont, Team.keeping]
      cases tm.heir.isSome <;> cases g.cont <;> rfl
  · change execGroupRetire k s = _
    rw [execGroupRetire, hg]
    dsimp only
    rw [if_neg hgo, ht, hu]
    dsimp only
    have hk : (if tm.heir.isSome = true then { tm with held := tm.held ++ [⟨k, g.vbud, g.sbud, g.blocks⟩] } else tm) = tm := by rw [hh]; rfl
    rw [hk, if_neg (by omega), hh]
    unfold State.withCont
    cases g.cont <;> rfl

/-- What a group that has retired leaves of its slot, its team and the dispatcher. -/
theorem State.retired_effect {s u : State} {k : Nat} {g : Group} {tm : Team} (hc : s.Canonical) (hg : u.groups = s.groups) (ht : u.teams = s.teams)
    (hx : u.ctxs = s.ctxs) (hd : u.disp = s.disp) (he : u.edge = s.edge) :
    let r := { u with groups := mapDel u.groups k }.withCont tm g
    (∀ j, r.group j = if j = k then none else s.group j) ∧ r.teams = s.teams ∧ r.ctxs = s.ctxs ∧ r.disp.grids = s.disp.grids ∧
    (g.cont = none → r.disp.conts = s.disp.conts) ∧
    ∀ b tg, g.cont = some (b, tg) →
      r.disp.conts = s.disp.conts ++ [⟨g.ctx, tm.cluster, Rec.queueNo ⟨b, tg⟩, (s.queue (Rec.queueNo ⟨b, tg⟩)).tail, b, tg⟩] := by
  intro r
  obtain ⟨conts, hr, hnone, hsome⟩ := State.withCont_effect { u with groups := mapDel u.groups k } tm g
  have hr' : r = _ := hr
  clear_value r
  rw [hr']
  refine ⟨fun j => ?_, ht, hx, by show u.disp.grids = _; rw [hd], fun h => ?_, fun b tg h => ?_⟩
  · exact (mapGet_mapDel (by rw [hg]; exact hc.2.2.1) k j).trans (by rw [hg]; rfl)
  · exact (hnone h).trans (by show u.disp.conts = _; rw [hd])
  · refine (hsome b tg h).trans ?_
    have hq : ∀ q, State.queue { u with groups := mapDel u.groups k } q = s.queue q := fun q => by
      show mapGetD u.edge.queues q .closed = _
      rw [he]; rfl
    rw [hq]
    show u.disp.conts ++ _ = _
    rw [hd]

/-- A group with something outstanding does not retire. -/
theorem groupRetire_waits {s : State} {k : Nat} {g : Group} (hg : s.group k = some g) (h : g.life ≠ .exiting ∨ s.quiet k g = false) :
    exec (.groupRetire k) s = .next s := by
  change execGroupRetire k s = _
  rw [execGroupRetire, hg]
  refine if_pos ?_
  rcases h with h | h
  · simp [h]
  · simp [h]

theorem State.quiet_iff (s : State) (k : Nat) (g : Group) : s.quiet k g = true ↔ g.hart.ld = 0 ∧ g.hart.st = 0 ∧ g.hart.cp = 0 ∧ g.hart.mx = 0 ∧ g.hart.pend = [] ∧
    g.arrivals = [] ∧ g.copies = [] ∧ (s.cluster (slotCluster k)).mxOf k = [] ∧ s.issuingRun k = false := by
  simp [State.quiet, and_assoc]

end Sys2Proof.Machine

open Sys2Proof Sys2Proof.Machine

/-- Settles O41: a quiet Exiting group is removed (`groupRetire_quiet`); what is left of its team is kept, or the team released (`releaseTeam_effect`) and its grid one team
    shorter (`teamGone_effect`). -/
theorem quietExitingGroupsRetire : Obligations.QuietExitingGroupsRetire := by
  unfold Obligations.QuietExitingGroupsRetire
  intro s k g tm hc hg ht
  refine ⟨fun h => groupRetire_waits hg ?_, fun hl h1 h2 h3 h4 h5 h6 h7 h8 h9 hlast => ?_⟩
  · by_cases hl : g.life = .exiting
    · refine .inr (Bool.eq_false_iff.2 fun hq => ?_)
      obtain ⟨h1, h2, h3, h4, h5, h6, h7, -, h9⟩ := (s.quiet_iff k g).1 hq
      simp [hl, h1, h2, h3, h4, h5, h6, h7, h9] at h
    · exact .inl hl
  · obtain ⟨u, hu, hmore, hend⟩ := groupRetire_quiet hg ht hl ((s.quiet_iff k g).2 ⟨h1, h2, h3, h4, h5, h6, h7, h8, h9⟩)
    obtain ⟨_, hu', hgroups, hteams, hctxs, hdisp, hedge⟩ := s.retiring_effect k
    obtain rfl := hu.symm.trans hu'
    obtain ⟨hrg, hrt, hrc, hgrids, hnone, hsome⟩ := State.retired_effect (g := g) (tm := tm) hc hgroups hteams hctxs hdisp hedge
    dsimp only at hmore hend
    generalize State.withCont _ tm g = r at *
    have hfree : r.group k = none := by rw [hrg, if_pos rfl]
    have hothers : ∀ j, j ≠ k → r.group j = s.group j := fun j hj => by rw [hrg, if_neg hj]
    by_cases hlive : 1 < tm.live
    · refine ⟨_, hmore hlive, hfree, fun j hj => congrArg Option.isSome (hothers j hj), hrc, hnone, hsome, fun _ => ⟨hgrids, ?_⟩, fun h => by omega⟩
      rw [State.team_modTeam_same, State.team, hrt, show mapGet s.teams g.team = some tm from ht, Team.keeping]
      cases tm.heir.isSome <;> rfl
    · have hno := hlast.resolve_left hlive
      obtain ⟨hzero, hgone⟩ := r.releaseTeam_effect g.team tm
      obtain ⟨hslots, htc, htt, htco, htg⟩ := (r.releaseTeam g.team tm).teamGone_effect tm.grid
      have hkeep : (r.releaseTeam g.team tm).groups = r.groups ∧ (r.releaseTeam g.team tm).ctxs = r.ctxs ∧
          (r.releaseTeam g.team tm).teams = mapDel r.teams g.team ∧ (r.releaseTeam g.team tm).disp = r.disp := by
        obtain ⟨_, _, _, e, -⟩ := hzero
        rw [e]; exact ⟨rfl, rfl, rfl, rfl⟩
      obtain ⟨kg, kc, kt, kd⟩ := hkeep
      refine ⟨_, hend (by omega) hno, ?_, fun j hj => ?_, htc.trans (kc.trans hrc), fun h => ?_, fun b tg h => ?_, fun h => absurd h hlive,
        fun _ => ⟨?_, fun hgrid h0 h255 => ?_, fun n x hn hx hrise => ?_⟩⟩
      · refine Option.not_isSome_iff_eq_none.1 ?_
        rw [hslots, State.group, kg, show mapGet r.groups k = none from hfree]
        decide
      · rw [hslots, State.group, kg]; exact congrArg Option.isSome (hothers j hj)
      · rw [htco, kd]; exact hnone h
      · rw [htco, kd]; exact hsome b tg h
      · rw [State.team, htt, kt, hrt, mapGet_mapDel hc.2.2.2.1, if_pos rfl]
      · rw [hgrid]
        obtain ⟨hways, hheld⟩ := hgone h0 h255
        exact ⟨fun i hi => memGet_eq_zero (hways i hi), fun h hh b hb i hi => memGet_eq_zero (hheld h hh b hb i hi)⟩
      · exact htg n x hn (by rw [kd, hgrids]; exact hx) (by rw [kd, hgrids]; exact hrise)
end

section
/-! SUPPORT. The Basket as a list: launches, flushes and deposits (R49, R154, R188). -/
namespace Sys2Proof.Machine
open Sys2Proof

/-! ### A list without its first elements of a kind -/

theorem dropFirst_zero {α : Type} (p : α → Bool) (l : List α) : dropFirst p 0 l = l := by cases l <;> rfl

theorem dropFirst_cons {α : Type} (p : α → Bool) (n : Nat) (x : α) (l : List α) :
    dropFirst p (n + 1) (x :: l) = if p x then dropFirst p n l else x :: dropFirst p (n + 1) l := rfl

/-- What is left of the kind is what follows the first n. -/
theorem filter_dropFirst {α : Type} (p : α → Bool) (n : Nat) (l : List α) : (dropFirst p n l).filter p = (l.filter p).drop n := by
  induction l generalizing n with
  | nil => cases n <;> rfl
  | cons x l ih =>
    cases n with
    | zero => rw [dropFirst_zero, List.drop_zero]
    | succ n =>
      rw [dropFirst_cons]
      cases h : p x
      · rw [if_neg (by decide), List.filter_cons_of_neg (by rw [h]; decide), List.filter_cons_of_neg (by rw [h]; decide), ih]
      · rw [if_pos rfl, List.filter_cons_of_pos h, List.drop_succ_cons, ih]

/-- Elements of another kind stay. -/
theorem filter_dropFirst_of_disjoint {α : Type} {p q : α → Bool} (h : ∀ x, q x = true → p x = false) (n : Nat) (l : List α) :
    (dropFirst p n l).filter q = l.filter q := by
  induction l generalizing n with
  | nil => cases n <;> rfl
  | cons x l ih =>
    cases n with
    | zero => rw [dropFirst_zero]
    | succ n =>
      rw [dropFirst_cons]
      cases hp : p x
      · rw [if_neg (by decide), List.filter_cons, List.filter_cons, ih]
      · have hq : ¬ q x = true := fun e => by rw [h x e] at hp; cases hp
        rw [if_pos rfl, List.filter_cons_of_neg hq, ih]

theorem dropFirst_sublist {α : Type} (p : α → Bool) (n : Nat) (l : List α) : (dropFirst p n l).Sublist l := by
  induction l generalizing n with
  | nil => cases n <;> exact .slnil
  | cons x l ih =>
    cases n with
    | zero => rw [dropFirst_zero]
    | succ n =>
      rw [dropFirst_cons]
      split
      · exact (ih n).cons x
      · exact (ih _).cons_cons x

/-- All of a kind dropped. -/
theorem dropFirst_all {α : Type} (p : α → Bool) {n : Nat} {l : List α} (h : (l.filter p).length ≤ n) : dropFirst p n l = l.filter fun x => !p x := by
  induction l generalizing n with
  | nil => cases n <;> rfl
  | cons x l ih =>
    cases hp : p x
    · rw [List.filter_cons_of_neg (by rw [hp]; decide)] at h
      rw [List.filter_cons_of_pos (by rw [hp]; decide), ← ih h]
      cases n with
      | zero => rw [dropFirst_zero, dropFirst_zero]
      | succ n => rw [dropFirst_cons, hp, if_neg (by decide)]
    · rw [List.filter_cons_of_pos hp, List.length_cons] at h
      obtain ⟨m, rfl⟩ : ∃ m, n = m + 1 := ⟨n - 1, by omega⟩
      rw [dropFirst_cons, hp, if_pos rfl, List.filter_cons_of_neg (by rw [hp]; decide), ih (by omega)]

/-- The one element of a kind after others that are not. -/
theorem dropFirst_one {α : Type} {p : α → Bool} {x : α} {l r : List α} (hl : ∀ y ∈ l, p y = false) (hx : p x = true) : dropFirst p 1 (l ++ x :: r) = l ++ r := by
  induction l with
  | nil => rw [List.nil_append, List.nil_append, dropFirst_cons, if_pos hx, dropFirst_zero]
  | cons y l ih =>
    rw [List.cons_append, dropFirst_cons, hl y (by simp), if_neg (by decide), ih fun z hz => hl z (by simp [hz])]
    rfl

/-! ### Bins -/

theorem Basket.bin_eq_held (b : Basket) (ctx : Nat) (key : BitVec 16) : b.bin ctx key = b.held ctx key := rfl

theorem BasketEntry.isOf_eq_true {e : BasketEntry} {ctx : Nat} {key : BitVec 16} : e.isOf ctx key = true ↔ e.ctx = ctx ∧ e.key = key := by
  rw [BasketEntry.isOf, Bool.and_eq_true, beq_iff_eq, beq_iff_eq]

theorem Basket.held_launch_same (b : Basket) (ctx : Nat) (key : BitVec 16) (n time : Nat) : (b.launch ctx key n time).held ctx key = (b.held ctx key).drop n :=
  filter_dropFirst _ n b.entries

theorem Basket.held_launch_ne (b : Basket) {ctx c : Nat} {key k : BitVec 16} (h : ¬ (c = ctx ∧ k = key)) (n time : Nat) :
    (b.launch ctx key n time).held c k = b.held c k := by
  refine filter_dropFirst_of_disjoint (fun e he => Bool.eq_false_iff.2 fun he' => h ?_) n b.entries
  obtain ⟨h1, h2⟩ := BasketEntry.isOf_eq_true.1 he
  obtain ⟨h3, h4⟩ := BasketEntry.isOf_eq_true.1 he'
  exact ⟨h1.symm.trans h3, h2.symm.trans h4⟩

theorem Basket.others_launch (b : Basket) (ctx : Nat) (key : BitVec 16) (n time : Nat) :
    BasketEntry.others (b.launch ctx key n time).entries ctx key = BasketEntry.others b.entries ctx key :=
  filter_dropFirst_of_disjoint (fun _ he => by simpa [BasketEntry.isOf, imp_iff_not_or] using he) n b.entries

theorem Basket.ready_launch (b : Basket) (ctx : Nat) (key : BitVec 16) (n time : Nat) :
    (b.launch ctx key n time).ready = b.ready ++ [⟨ctx, key, ((b.held ctx key).take n).map (·.pay), time⟩] := rfl

/-- A whole bin launched leaves the entries of the others. -/
theorem Basket.entries_launch_all (b : Basket) {ctx : Nat} {key : BitVec 16} {n : Nat} (time : Nat) (h : (b.held ctx key).length ≤ n) :
    (b.launch ctx key n time).entries = BasketEntry.others b.entries ctx key := dropFirst_all _ h

/-- A bin without entries leaves nothing out. -/
theorem Basket.others_of_empty {b : Basket} {ctx : Nat} {key : BitVec 16} (h : b.held ctx key = []) : b.entries = BasketEntry.others b.entries ctx key := by
  refine (List.filter_eq_self.2 fun e he => ?_).symm
  have := List.filter_eq_nil_iff.1 h e he
  simpa [imp_iff_not_or] using this

/-! ### A flush (R49, R154) -/

/-- A bin flushed: its entries launched in order, sixteen at a time; the rest stays. -/
theorem Basket.flush_effect (time ctx : Nat) (key : BitVec 16) (f : Nat) (b : Basket) (hf : (b.held ctx key).length ≤ f) :
    (Basket.flush time f b ctx key).entries = BasketEntry.others b.entries ctx key ∧ (Basket.flush time f b ctx key).spilled = b.spilled ∧
    (Basket.flush time f b ctx key).last = b.last ∧
    ∃ ls, (Basket.flush time f b ctx key).ready = b.ready ++ ls ∧ ls.flatMap (·.pays) = (b.held ctx key).map (·.pay) ∧
      ∀ x ∈ ls, x.ctx = ctx ∧ x.key = key ∧ 0 < x.pays.length ∧ x.pays.length ≤ 16 ∧ x.since = time := by
  have hnone : ∀ b : Basket, b.held ctx key = [] → b.entries = BasketEntry.others b.entries ctx key ∧ b.spilled = b.spilled ∧ b.last = b.last ∧
      ∃ ls, b.ready = b.ready ++ ls ∧ ls.flatMap (·.pays) = (b.held ctx key).map (·.pay) ∧
        ∀ x ∈ ls, x.ctx = ctx ∧ x.key = key ∧ 0 < x.pays.length ∧ x.pays.length ≤ 16 ∧ x.since = time := fun b h =>
    ⟨Basket.others_of_empty h, rfl, rfl, [], by simp, by simp [h], by simp⟩
  induction f generalizing b with
  | zero => exact hnone b (List.length_eq_zero_iff.1 (by omega))
  | succ f ih =>
    rw [Basket.flush, Basket.bin_eq_held]
    split
    next h0 => exact hnone b (List.length_eq_zero_iff.1 h0)
    next h0 =>
      have hfull : binFull = 16 := rfl
      generalize hm : min (b.held ctx key).length binFull = m
      obtain ⟨he, hs, hl, ls, hr, hp, hx⟩ := ih (b.launch ctx key m time) (by rw [Basket.held_launch_same, List.length_drop]; omega)
      refine ⟨he.trans (b.others_launch ctx key m time), hs, hl, ⟨ctx, key, ((b.held ctx key).take m).map (·.pay), time⟩ :: ls, ?_, ?_, ?_⟩
      · rw [hr, Basket.ready_launch, List.append_assoc, List.singleton_append]
      · rw [List.flatMap_cons, hp, Basket.held_launch_same, ← List.map_append, List.take_append_drop]
      · intro x hx'
        rcases List.mem_cons.1 hx' with rfl | h
        · refine ⟨rfl, rfl, ?_, ?_, rfl⟩ <;> rw [List.length_map, List.length_take] <;> omega
        · exact hx x h

/-! ### Deposits (R49, R188) -/

/-- One entry deposited in a Basket with room. -/
def Basket.deposit (time : Nat) (b : Basket) (e : BasketEntry) : Basket :=
  { b with entries := b.entries ++ [e], last := mapSet b.last (65536 * e.ctx + e.key.toNat) time }.launchFull e.ctx e.key time

/-- The entry at the end, before its bin is launched. -/
def Basket.added (time : Nat) (b : Basket) (e : BasketEntry) : Basket :=
  { b with entries := b.entries ++ [e], last := mapSet b.last (65536 * e.ctx + e.key.toNat) time }

theorem Basket.held_added (time : Nat) (b : Basket) (e : BasketEntry) (ctx : Nat) (key : BitVec 16) :
    (b.added time e).held ctx key = b.held ctx key ++ [e].filter fun x => x.ctx == ctx && x.key == key := List.filter_append ..

theorem Basket.held_added_same (time : Nat) (b : Basket) (e : BasketEntry) : (b.added time e).held e.ctx e.key = b.held e.ctx e.key ++ [e] := by
  rw [Basket.held_added, List.filter_cons_of_pos (by simp), List.filter_nil]

/-- A deposit that does not fill its bin. -/
theorem Basket.deposit_short {time : Nat} {b : Basket} {e : BasketEntry} (h : (b.held e.ctx e.key).length < 15) : b.deposit time e = b.added time e := by
  have hfull : binFull = 16 := rfl
  have hlen : ((b.added time e).held e.ctx e.key).length < 16 := by rw [Basket.held_added_same, List.length_append, List.length_singleton]; omega
  exact if_neg (by rw [hfull]; exact Nat.not_le.2 hlen)

/-- A deposit that fills its bin launches it. -/
theorem Basket.deposit_full {time : Nat} {b : Basket} {e : BasketEntry} (h : (b.held e.ctx e.key).length = 15) :
    b.deposit time e = (b.added time e).launch e.ctx e.key 16 time := by
  have hlen : ((b.added time e).held e.ctx e.key).length = 16 := by rw [Basket.held_added_same, List.length_append, List.length_singleton, h]
  exact if_pos (Nat.le_of_eq hlen.symm)

/-- What one deposit launches, if its bin held fewer than sixteen entries. -/
theorem Basket.deposit_effect (time : Nat) (b : Basket) (e : BasketEntry) (h : (b.held e.ctx e.key).length < 16) :
    ∃ ls, (b.deposit time e).spilled = b.spilled ∧ (b.deposit time e).ready = b.ready ++ ls ∧ (∀ x ∈ ls, x.pays.length = 16 ∧ x.since = time) ∧
      (b.deposit time e).entries.Sublist (b.entries ++ [e]) ∧ (∀ ctx key, (b.held ctx key).length < 16 → ((b.deposit time e).held ctx key).length < 16) ∧
      ∀ ctx key, (ls.filter fun x => x.ctx == ctx && x.key == key).flatMap (·.pays) ++ ((b.deposit time e).held ctx key).map (·.pay) =
        (b.held ctx key).map (·.pay) ++ ([e].filter fun x => x.ctx == ctx && x.key == key).map (·.pay) := by
  have hbin : ∀ ctx key, ¬ (ctx = e.ctx ∧ key = e.key) → (b.added time e).held ctx key = b.held ctx key := fun ctx key hne => by
    rw [Basket.held_added, List.filter_cons_of_neg (by simp; exact fun h1 h2 => hne ⟨h1.symm, h2.symm⟩), List.filter_nil, List.append_nil]
  by_cases h15 : (b.held e.ctx e.key).length < 15
  · rw [Basket.deposit_short h15]
    refine ⟨[], rfl, (List.append_nil _).symm, by simp, .refl _, fun ctx key hlt => ?_, fun ctx key => ?_⟩
    · by_cases he : ctx = e.ctx ∧ key = e.key
      · obtain ⟨rfl, rfl⟩ := he
        rw [Basket.held_added_same, List.length_append, List.length_singleton]; omega
      · rw [hbin ctx key he]; exact hlt
    · rw [Basket.held_added, List.map_append]; rfl
  · have hall : ((b.added time e).held e.ctx e.key).take 16 = b.held e.ctx e.key ++ [e] := by
      rw [Basket.held_added_same, List.take_of_length_le (by rw [List.length_append, List.length_singleton]; omega)]
    rw [Basket.deposit_full (by omega)]
    refine ⟨_, rfl, Basket.ready_launch _ _ _ _ _, fun x hx => ?_, dropFirst_sublist _ _ _, fun ctx key hlt => ?_, fun ctx key => ?_⟩
    · obtain rfl := List.mem_singleton.1 hx
      rw [hall]
      exact ⟨by rw [List.length_map, List.length_append, List.length_singleton]; omega, rfl⟩
    · by_cases he : ctx = e.ctx ∧ key = e.key
      · obtain ⟨rfl, rfl⟩ := he
        rw [Basket.held_launch_same, List.length_drop, Basket.held_added_same, List.length_append, List.length_singleton]; omega
      · rw [Basket.held_launch_ne _ he, hbin ctx key he]; exact hlt
    · rw [hall]
      by_cases he : ctx = e.ctx ∧ key = e.key
      · obtain ⟨rfl, rfl⟩ := he
        rw [Basket.held_launch_same, Basket.held_added_same, List.drop_eq_nil_of_le (by rw [List.length_append, List.length_singleton]; omega)]
        simp
      · have h1 : (e.ctx == ctx && e.key == key) = false := Bool.eq_false_iff.2 fun h => by
          rw [Bool.and_eq_true, beq_iff_eq, beq_iff_eq] at h
          exact he ⟨h.1.symm, h.2.symm⟩
        rw [Basket.held_launch_ne _ he, hbin ctx key he]
        simp [List.filter, h1]

/-- Deposits in order, each bin below sixteen entries at the start. -/
theorem Basket.deposits_effect (time : Nat) (es : List BasketEntry) (b : Basket) (h : ∀ x ∈ es, (b.held x.ctx x.key).length < 16) :
    ∃ ls, (es.foldl (Basket.deposit time) b).spilled = b.spilled ∧ (es.foldl (Basket.deposit time) b).ready = b.ready ++ ls ∧
      (∀ x ∈ ls, x.pays.length = 16 ∧ x.since = time) ∧ (es.foldl (Basket.deposit time) b).entries.Sublist (b.entries ++ es) ∧
      (∀ ctx key, (b.held ctx key).length < 16 → ((es.foldl (Basket.deposit time) b).held ctx key).length < 16) ∧
      ∀ ctx key, (ls.filter fun x => x.ctx == ctx && x.key == key).flatMap (·.pays) ++ ((es.foldl (Basket.deposit time) b).held ctx key).map (·.pay) =
        (b.held ctx key).map (·.pay) ++ (es.filter fun x => x.ctx == ctx && x.key == key).map (·.pay) := by
  induction es generalizing b with
  | nil => exact ⟨[], rfl, by simp, by simp, by simp, fun _ _ h => h, by simp⟩
  | cons e es ih =>
    obtain ⟨l1, hs1, hr1, hp1, hsub1, hlt1, ho1⟩ := b.deposit_effect time e (h e (by simp))
    obtain ⟨l2, hs2, hr2, hp2, hsub2, hlt2, ho2⟩ := ih (b.deposit time e) fun x hx => hlt1 _ _ (h x (by simp [hx]))
    rw [List.foldl_cons]
    refine ⟨l1 ++ l2, hs2.trans hs1, by rw [hr2, hr1, List.append_assoc], fun x hx => ?_, ?_, fun ctx key hlt => hlt2 _ _ (hlt1 _ _ hlt), fun ctx key => ?_⟩
    · rcases List.mem_append.1 hx with hx | hx
      · exact hp1 x hx
      · exact hp2 x hx
    · refine hsub2.trans ?_
      rw [← List.singleton_append, ← List.append_assoc]
      exact hsub1.append_right es
    · rw [List.filter_append, List.flatMap_append, List.append_assoc, ho2, ← List.append_assoc, ho1, List.append_assoc, ← List.map_append, ← List.filter_append]
      rfl

/-- Deposits that fill no bin. -/
theorem Basket.deposits_short (time : Nat) (es : List BasketEntry) (b : Basket)
    (h : ∀ x ∈ es, (b.held x.ctx x.key ++ es.filter fun y => y.ctx == x.ctx && y.key == x.key).length < 16) :
    (es.foldl (Basket.deposit time) b).entries = b.entries ++ es ∧ (es.foldl (Basket.deposit time) b).ready = b.ready ∧
    (es.foldl (Basket.deposit time) b).spilled = b.spilled := by
  induction es generalizing b with
  | nil => exact ⟨(List.append_nil _).symm, rfl, rfl⟩
  | cons e es ih =>
    have h15 : (b.held e.ctx e.key).length < 15 := by
      have := h e (by simp)
      rw [List.length_append, List.filter_cons_of_pos (by simp), List.length_cons] at this
      omega
    rw [List.foldl_cons, Basket.deposit_short h15]
    obtain ⟨h1, h2, h3⟩ := ih (b.added time e) fun x hx => by
      have := h x (by simp [hx])
      rwa [Basket.held_added, List.append_assoc, ← List.filter_append]
    exact ⟨by rw [h1]; simp [Basket.added], h2, h3⟩

end Sys2Proof.Machine
end

section
/-! SUPPORT. `vbasket`, `bflush` and the time-out of a bin (R49, R154, R188). -/
namespace Sys2Proof.Machine
open Sys2Proof

/-! ### The entry of an element (R188) -/

/-- A number's bytes from a bit on. -/
theorem leNat_shifted (x b n : Nat) : leNat ((List.range n).map fun i => BitVec.ofNat 8 (x >>> (b + 8 * i) % 2 ^ 8)) = x >>> b % 2 ^ (8 * n) := by
  induction n generalizing b with
  | zero => simp [leNat, Nat.mod_one]
  | succ n ih =>
    have htail : ∀ i, b + 8 * (i + 1) = b + 8 + 8 * i := fun i => by omega
    have hshift : x >>> (b + 8) = x >>> b / 2 ^ 8 := by rw [Nat.shiftRight_add, Nat.shiftRight_eq_div_pow _ 8]
    rw [List.range_succ_eq_map, List.map_cons, List.map_map, leNat]
    simp only [Function.comp_def, htail]
    rw [ih, hshift, show 8 * (n + 1) = 8 + 8 * n by omega, Nat.pow_add, Nat.mod_mul]
    simp

/-- An element's entry: its key, and 32 bytes of its payload registers. -/
theorem View.entry_eq (v : View) (num : Nat) (a b : BitVec 6) (j : Nat) : v.entry num a b j =
    ⟨v.g.ctx, BitVec.ofNat 16 (v.a a 32 j), BitVec.ofNat 256 ((v.l.vreg (b.toNat + j / 8)).read (j % 8 * 256) 256), num + j⟩ := by
  have hbytes : ((List.range 32).map fun i => BitVec.ofNat 8 ((v.l.vreg (b.toNat + (32 * j + i) / 256)).read ((32 * j + i) % 256 * 8) 8)) =
      (List.range 32).map fun i => BitVec.ofNat 8 ((v.l.vreg (b.toNat + j / 8)).bits.toNat >>> (j % 8 * 256 + 8 * i) % 2 ^ 8) := by
    refine List.map_congr_left fun i hi => ?_
    have h32 := List.mem_range.1 hi
    rw [show (32 * j + i) / 256 = j / 8 by omega, show (32 * j + i) % 256 * 8 = j % 8 * 256 + 8 * i by omega]
    rfl
  unfold View.entry
  dsimp only
  rw [hbytes, leNat_shifted]
  rfl

/-! ### Deposits into a Basket with room -/

/-- Entries deposited in a cluster's Basket. -/
def State.deposits (s : State) (cl : Nat) (es : List BasketEntry) : State :=
  s.modCluster cl fun c => { c with basket := es.foldl (Basket.deposit s.time) c.basket }

theorem Basket.length_deposit (time : Nat) (b : Basket) (e : BasketEntry) : (b.deposit time e).entries.length ≤ b.entries.length + 1 := by
  have hadd : (b.added time e).entries.length = b.entries.length + 1 := by simp [Basket.added]
  unfold Basket.deposit Basket.launchFull
  split
  · exact (dropFirst_sublist _ _ _).length_le.trans (Nat.le_of_eq hadd)
  · exact Nat.le_of_eq hadd

theorem State.depositOne_room {s : State} {cl : Nat} (h : (s.cluster cl).basket.entries.length < 4096) (e : BasketEntry) :
    s.depositOne cl e = some (s.deposits cl [e]) := by
  rw [State.depositOne, State.makeRoom]
  dsimp only
  rw [if_pos h]
  rfl

theorem State.depositAll_room {cl : Nat} (hcl : cl < 192) (l : List (Nat × BasketEntry)) (s : State) (h : (s.cluster cl).basket.entries.length + l.length ≤ 4096) :
    State.depositAll cl s l = (s.deposits cl (l.map (·.2)), []) := by
  induction l generalizing s with
  | nil =>
    have hid : s.deposits cl [] = s := by
      rw [State.deposits, State.modCluster, vmod_id]
      exact fun _ => rfl
    rw [List.map_nil, hid]; rfl
  | cons p l ih =>
    obtain ⟨k, e⟩ := p
    rw [List.length_cons] at h
    have hb : ((s.deposits cl [e]).cluster cl).basket = (s.cluster cl).basket.deposit s.time e := by
      rw [State.deposits, State.cluster_modCluster_same _ _ _ hcl]; rfl
    have hlen := Basket.length_deposit s.time (s.cluster cl).basket e
    rw [State.depositAll, State.depositOne_room (by omega)]
    dsimp only
    rw [ih _ (by rw [hb]; omega)]
    simp only [State.deposits, State.modCluster_modCluster, List.map_cons]
    rfl

/-! ### The Basket is left alone by what ends the word -/

/-- Two states with the same Baskets. -/
def State.SameBaskets (s t : State) : Prop := ∀ c, (t.cluster c).basket = (s.cluster c).basket

theorem State.SameBaskets.trans {s t u : State} (h : s.SameBaskets t) (i : t.SameBaskets u) : s.SameBaskets u := fun c => (i c).trans (h c)
theorem State.sameBaskets_modCluster (s : State) (c : Nat) (f : Cluster → Cluster) (h : ∀ x, (f x).basket = x.basket) : s.SameBaskets (s.modCluster c f) :=
  fun d => s.cluster_modCluster_part c d f (·.basket) h
theorem State.sameBaskets_modCore (s : State) (c n : Nat) (f : Core → Core) : s.SameBaskets (s.modCore c n f) := s.sameBaskets_modCluster c _ fun _ => rfl

theorem State.sameBaskets_releaseSlot (s : State) (k : Nat) : s.SameBaskets (s.releaseSlot k) := by
  cases hg : s.group k with
  | none => simp only [State.releaseSlot, hg]; exact s.sameBaskets_modCore _ _ _
  | some g =>
    cases hi : s.issuingRun k with
    | false => rw [State.releaseSlot_idle hg hi]; exact fun _ => rfl
    | true =>
      obtain ⟨share, e⟩ := State.releaseSlot_holding hg hi
      rw [e]
      exact s.sameBaskets_modCore _ _ _

theorem State.sameBaskets_enterExiting (s : State) (k : Nat) : s.SameBaskets (s.enterExiting k) := by
  have hend : s.SameBaskets (s.endOwnTurn k) := by
    unfold State.endOwnTurn
    split
    next hi =>
      have h1 := s.sameBaskets_modCore (slotCluster k) (slotCore k) fun c => { c with ending := true }
      have hi1 : (s.modCore (slotCluster k) (slotCore k) fun c => { c with ending := true }).issuingRun k = true := by
        refine (s.issuingRun_modCore _ _ k _ ?_).trans hi
        exact fun _ => rfl
      rcases State.endTurn_holding hi1 with e | e
      · rw [e]; exact h1.trans (State.sameBaskets_releaseSlot _ k)
      · rw [e]; exact h1
    next => exact fun _ => rfl
  rw [s.enterExiting_eq, s.discardRuns_eq]
  exact hend

theorem State.sameBaskets_laneIssued (s : State) (v : View) (u : Uses) : s.SameBaskets (s.laneIssued v u) := s.sameBaskets_modCore _ _ _

/-! ### `vbasket` (R49, R188) -/

/-- The entries that a `vbasket` deposits, numbered from the state's next number. -/
def State.basketEntries (s : State) (v : View) (c : Ctl) (a b : BitVec 6) : List BasketEntry := (v.l.actives c).map fun j =>
  ⟨v.g.ctx, BitVec.ofNat 16 (v.a a 32 j), BitVec.ofNat 256 ((v.l.vreg (b.toNat + j / 8)).read (j % 8 * 256) 256), s.nextId + j⟩

/-- A ready `vbasket` whose keys are registered and whose group's accesses are performed deposits its entries. -/
theorem vbasket_eq {s : State} {v : View} {c : Ctl} {a b : BitVec 6} (h : s.LaneReady (.vbasket c a b) v) (hp : v.g.hart.performed = true)
    (hbins : ∀ x ∈ s.basketEntries v c a b, (s.binReg v.g.ctx x.key).isSome = true) {r : State × List Nat}
    (hr : State.depositAll (slotCluster v.slot) { s with nextId := s.nextId + 64 } ((v.l.actives c).map fun k => (k, v.entry s.nextId a b k)) = r) :
    exec (.vbasket c a b) s = if r.2.isEmpty then .next ((r.1.laneIssued v (Uses.basket c a b v.t)).enterExiting v.slot)
      else .next (r.1.raiseLane v Cause.capBounds v.run.addr (elemMask r.2)) := by
  have hbad : (((v.l.actives c).map fun k => (k, v.entry s.nextId a b k)).filter fun e => (s.binReg v.g.ctx e.2.key).isNone) = [] := by
    rw [List.filter_eq_nil_iff]
    intro e he
    obtain ⟨j, hj, rfl⟩ := List.mem_map.1 he
    have hsome := hbins _ (List.mem_map.2 ⟨j, hj, rfl⟩)
    rw [View.entry_eq]
    exact fun hn => by rw [Option.isNone_iff_eq_none] at hn; rw [hn] at hsome; cases hsome
  have hu : laneUses (.vbasket c a b) = Uses.basket c a b := rfl
  change execVbasket c a b s = _
  rw [execVbasket, ← hu, State.laneOp_ready h]
  dsimp only
  rw [hbad, if_neg (by decide), hp, if_neg (by decide), hr]

/-- A word of a group that has issued and makes its group Exiting. -/
theorem State.issued_exiting {w : State} {v : View} (u : Uses) {g : Group} (hg : w.group v.slot = some g) :
    ∃ g', ((w.laneIssued v u).enterExiting v.slot).group v.slot = some g' ∧ g'.life = .exiting ∧ g'.lane.queue = [] ∧
      w.SameBaskets ((w.laneIssued v u).enterExiting v.slot) := by
  obtain ⟨g1, hg1, -⟩ := State.laneIssued_effect u hg
  obtain ⟨-, g', hg', hl, hq, -⟩ := State.enterExiting_effect hg1
  exact ⟨g', hg', hl, hq, (w.sameBaskets_laneIssued v u).trans (State.sameBaskets_enterExiting _ _)⟩

/-- A `vbasket` at a Basket with room for all its entries. -/
theorem vbasket_room {s : State} {v : View} {c : Ctl} {a b : BitVec 6} (h : s.LaneReady (.vbasket c a b) v) (hp : v.g.hart.performed = true)
    (hcl : slotCluster v.slot < 192) (hbins : ∀ x ∈ s.basketEntries v c a b, (s.binReg v.g.ctx x.key).isSome = true)
    (hroom : (s.cluster (slotCluster v.slot)).basket.entries.length + (s.basketEntries v c a b).length ≤ 4096) :
    ∃ t g', exec (.vbasket c a b) s = .next t ∧ t.group v.slot = some g' ∧ g'.life = .exiting ∧ g'.lane.queue = [] ∧
      (t.cluster (slotCluster v.slot)).basket = (s.basketEntries v c a b).foldl (Basket.deposit s.time) (s.cluster (slotCluster v.slot)).basket := by
  have hes : ((v.l.actives c).map fun k => (k, v.entry s.nextId a b k)).map (·.2) = s.basketEntries v c a b := by
    rw [List.map_map]; exact List.map_congr_left fun j _ => v.entry_eq _ _ _ _
  have hdep := State.depositAll_room hcl ((v.l.actives c).map fun k => (k, v.entry s.nextId a b k)) { s with nextId := s.nextId + 64 } (by
    have hlen := congrArg List.length hes
    rw [List.length_map] at hlen
    rw [hlen]; exact hroom)
  rw [hes] at hdep
  rw [vbasket_eq h hp hbins hdep]
  obtain ⟨g', hg', hl, hq, hb⟩ := State.issued_exiting (w := State.deposits { s with nextId := s.nextId + 64 } (slotCluster v.slot) (s.basketEntries v c a b)) (v := v)
    (Uses.basket c a b v.t) h.group
  refine ⟨_, g', rfl, hg', hl, hq, ?_⟩
  rw [hb, State.deposits, State.cluster_modCluster_same _ _ _ hcl]
  rfl

/-! ### `bflush`, and the time-out of a bin (R49, R154) -/

theorem bflush_did {s : State} {k : Nat} {g : Group} {a : BitVec 6} (h : s.AsGroup k g) (hr : s.Ready [a] []) :
    DidIn s (s.flushBin (slotCluster k) g.ctx ((s.x a).setWidth 16)) (exec (.bflush a) s) s.hart := by
  have hs : s.SameHarts (s.flushBin (slotCluster k) g.ctx ((s.x a).setWidth 16)) := s.sameHarts_modCluster _ _ fun _ => rfl
  change DidIn _ _ (execBflush a s) _
  rw [execBflush, State.groupOnly_group h, s.scalarOp_ready _ _ _ hr]
  refine ⟨_, rfl, ?_, by rw [State.rest_advance]⟩
  rw [State.hart_advance _ (hs.present h.present), State.pc, hs.here, State.pc]

end Sys2Proof.Machine
end

section
/-! SUPPORT. Bytes written to keys that no register holds, read back; what a write by ranges leaves alone (R26, R73). -/
namespace Sys2Proof.Machine
open Sys2Proof

/-! ### Keys that no resident register holds -/

/-- Two states whose groups hold the same blocks of register files. -/
def State.SameBlocks (s t : State) : Prop := t.groups.map (fun p => (p.1, p.2.blocks)) = s.groups.map fun p => (p.1, p.2.blocks)

/-- The register of a file's block, by the groups' blocks alone. -/
def blockOwner (cl core reg : Nat) (p : Nat × List Nat) : Option (Nat × Nat) :=
  if slotCluster p.1 = cl ∧ slotCore p.1 = core then
    match p.2.findIdx? (· == reg / 8) with
    | some i => some (p.1, i * 8 + reg % 8)
    | none => none
  else none

theorem State.fileOwner_eq (s : State) (cl core reg : Nat) :
    s.fileOwner cl core reg = (s.groups.map fun p => (p.1, p.2.blocks)).findSome? (blockOwner cl core reg) := by
  rw [List.findSome?_map]; rfl

theorem State.SameBlocks.regOf {s t : State} (h : s.SameBlocks t) (k : Nat) : t.regOf k = s.regOf k := by
  have hf : ∀ cl core reg, t.fileOwner cl core reg = s.fileOwner cl core reg := fun cl core reg => by
    rw [t.fileOwner_eq, s.fileOwner_eq, h]
  simp only [State.regOf, hf]

theorem State.sameBlocks_modGroup (s : State) (k : Nat) (f : Group → Group) (h : ∀ g, (f g).blocks = g.blocks) : s.SameBlocks (s.modGroup k f) := by
  rw [State.SameBlocks, State.modGroup]
  dsimp only
  induction s.groups with
  | nil => rfl
  | cons p m ih =>
    obtain ⟨i, g⟩ := p
    rw [mapMod]
    split
    · rw [List.map_cons, List.map_cons, h]
    · rw [List.map_cons, List.map_cons, ih]

theorem State.sameBlocks_keySetTag (s : State) (k : Nat) (b : Bool) : s.SameBlocks (s.keySetTag k b) ∧ (s.keySetTag k b).mem = s.mem := by
  unfold State.keySetTag
  split
  · exact ⟨rfl, rfl⟩
  · split
    · exact ⟨s.sameBlocks_modGroup _ _ fun _ => rfl, rfl⟩
    · exact ⟨rfl, rfl⟩

theorem State.sameBlocks_clearTags (s : State) (k n : Nat) : s.SameBlocks (s.clearTags k n) ∧ (s.clearTags k n).mem = s.mem := by
  have key : ∀ (l : List Nat) (t : State), t.SameBlocks (l.foldl (fun s i => s.keySetTag ((k / 16 + i) * 16) false) t) ∧
      (l.foldl (fun s i => s.keySetTag ((k / 16 + i) * 16) false) t).mem = t.mem := by
    intro l
    induction l with
    | nil => exact fun t => ⟨rfl, rfl⟩
    | cons i l ih =>
      intro t
      obtain ⟨h1, h2⟩ := t.sameBlocks_keySetTag ((k / 16 + i) * 16) false
      obtain ⟨h3, h4⟩ := ih (t.keySetTag ((k / 16 + i) * 16) false)
      exact ⟨h3.trans h1, h4.trans h2⟩
  unfold State.clearTags
  split
  · exact ⟨rfl, rfl⟩
  · exact key _ s

/-- A key of this package that neither a resident register nor a tag region nor the page table holds: memory holds it. -/
def State.MemoryKey (s : State) (k : Nat) : Prop := k < Config.remoteKey ∧ s.regOf k = none ∧ tagByte k = none ∧ worldByte k = none

theorem State.keyByte_memory {s : State} {k : Nat} (h : s.MemoryKey k) : s.keyByte k = memGet s.mem k := by
  obtain ⟨hl, hr, ht, hw⟩ := h
  simp only [State.keyByte, if_neg (Nat.not_le.2 hl), hr, ht, hw]

theorem State.keyPut_memory {s : State} {k : Nat} (x : Byte) (h : s.MemoryKey k) : (s.keyPut k x).mem = memPut s.mem k x ∧ (s.keyPut k x).groups = s.groups := by
  obtain ⟨hl, hr, ht, hw⟩ := h
  simp only [State.keyPut, if_neg (Nat.not_le.2 hl), hr, ht, hw, and_self]

theorem State.putKeys_memory {s : State} {k : Nat} (bs : List Byte) (h : ∀ i < bs.length, s.MemoryKey (k + i)) :
    (s.putKeys k bs).mem = memWrite s.mem k bs ∧ (s.putKeys k bs).groups = s.groups := by
  induction bs generalizing s k with
  | nil => exact ⟨rfl, rfl⟩
  | cons b bs ih =>
    obtain ⟨hm, hg⟩ := State.keyPut_memory b (h 0 (by simp))
    have hsame : s.SameBlocks (s.keyPut k b) := by rw [State.SameBlocks]; exact congrArg _ hg
    obtain ⟨h1, h2⟩ := ih (s := s.keyPut k b) (k := k + 1) fun i hi => by
      rw [Nat.add_right_comm, State.MemoryKey, hsame.regOf]
      exact h (i + 1) (by simpa using hi)
    exact ⟨by rw [State.putKeys, memWrite, h1]; exact congrArg (memWrite · _ _) hm, h2.trans hg⟩

/-- Bytes of memory read back after they are written. -/
theorem State.readKeys_writeKeys {s : State} {k : Nat} (bs : List Byte) (hm : Memory.wf s.mem = true) (h : ∀ i < bs.length, s.MemoryKey (k + i)) :
    (s.writeKeys k bs).readKeys k bs.length = bs := by
  obtain ⟨hsame, hmem⟩ := s.sameBlocks_clearTags k bs.length
  have hkeys : ∀ i < bs.length, (s.clearTags k bs.length).MemoryKey (k + i) := fun i hi => by
    rw [State.MemoryKey, hsame.regOf]; exact h i hi
  obtain ⟨hput, hgroups⟩ := State.putKeys_memory bs hkeys
  have hsame' : (s.clearTags k bs.length).SameBlocks (s.writeKeys k bs) := by rw [State.SameBlocks]; exact congrArg _ hgroups
  refine List.ext_getElem (by simp [State.readKeys]) fun i h1 h2 => ?_
  have hkey : (s.writeKeys k bs).MemoryKey (k + i) := by
    rw [State.MemoryKey, hsame'.regOf]; exact hkeys i h2
  simp only [State.readKeys, List.getElem_map, List.getElem_range]
  rw [State.keyByte_memory hkey, State.writeKeys, hput, hmem, memGet_memWrite _ _ _ _ hm, if_pos (by omega), Nat.add_sub_cancel_left,
    List.getD_eq_getElem _ _ h2]

/-! ### What waits, after a fill of the TLB -/

theorem toList_vmod {α β : Type} {n : Nat} (v : Vector α n) (i : Nat) (f : α → α) (g : α → β) (h : ∀ x, g (f x) = g x) :
    (vmod v i f).toList.map g = v.toList.map g := by
  unfold vmod
  split
  next hi =>
    refine List.ext_getElem (by simp) fun j h1 h2 => ?_
    simp only [List.getElem_map, Vector.getElem_toList, Vector.getElem_set]
    split
    next e => subst e; exact h _
    next => rfl
  next => rfl

theorem Cluster.fill_parts (ts : List TlbEntry) (c : Cluster) : (c.fill ts).svc = c.svc ∧ (c.fill ts).cores = c.cores ∧ (c.fill ts).basket = c.basket := by
  induction ts generalizing c with
  | nil => exact ⟨rfl, rfl, rfl⟩
  | cons t ts ih => exact ih _

/-- What a fill of a TLB leaves alone. -/
theorem State.fill_parts (s : State) (c : Nat) (ts : List TlbEntry) : (∃ cs, s.fill c ts = { s with clusters := cs }) ∧
    ((s.fill c ts).clusters.toList.map (·.svc) = s.clusters.toList.map (·.svc)) ∧
    ∀ d, ((s.fill c ts).cluster d).cores = (s.cluster d).cores ∧ ((s.fill c ts).cluster d).basket = (s.cluster d).basket := by
  refine ⟨s.fill_clusters c ts, ?_⟩
  unfold State.fill
  split
  · exact ⟨rfl, fun _ => ⟨rfl, rfl⟩⟩
  · exact ⟨toList_vmod _ _ _ _ fun x => (Cluster.fill_parts ts x).1, fun d =>
      ⟨s.cluster_modCluster_part c d _ (·.cores) fun x => (Cluster.fill_parts ts x).2.1, s.cluster_modCluster_part c d _ (·.basket) fun x => (Cluster.fill_parts ts x).2.2⟩⟩

/-- Whether a write waits is told by service cores, cores and groups. -/
theorem State.writeWaits_congr {s t : State} (hs : t.clusters.toList.map (·.svc) = s.clusters.toList.map (·.svc)) (hc : ∀ d, (t.cluster d).cores = (s.cluster d).cores)
    (hg : t.groups = s.groups) (k n : Nat) : t.writeWaits k n = s.writeWaits k n := by
  have hany : ∀ (u : State) k n, u.moving k n = (u.clusters.toList.map (·.svc)).any fun v =>
      v.mig.covers k n || ({ v.mig with page := v.mig.copy } : Migration).covers k n := fun u k n => by rw [List.any_map]; rfl
  have hcore : ∀ d m, (t.cluster d).core m = (s.cluster d).core m := fun d m => by rw [Cluster.core, hc]; rfl
  have hbusy : ∀ k, t.accBusy k = s.accBusy k := fun k => by simp only [State.accBusy, hcore, hg]
  rw [State.writeWaits, State.writeWaits, hany, hany, hs, State.accHeld, State.accHeld, hbusy, hbusy]

/-! ### Writes by ranges (R266) -/

/-- Two states with the same clusters and slots taken. -/
structure State.SameClusters (s t : State) : Prop where
  clusters : t.clusters = s.clusters
  slots : ∀ j, (t.group j).isSome = (s.group j).isSome

theorem State.SameClusters.trans {s t u : State} (h : s.SameClusters t) (i : t.SameClusters u) : s.SameClusters u :=
  ⟨i.clusters.trans h.clusters, fun j => (i.slots j).trans (h.slots j)⟩

theorem State.Stored.sameClusters {s t : State} (h : s.Stored t) : s.SameClusters t := ⟨h.clusters, h.sameTeams.slots⟩

theorem State.sameClusters_agentSend (s : State) (w : Who) (k : Nat) (bs : List Byte) : s.SameClusters (s.agentSend w k bs) := by
  have hsend : s.SameClusters (s.wlSend w s.nextId k (.write bs [])) := by
    unfold State.wlSend
    split
    · exact ⟨rfl, fun _ => rfl⟩
    · exact ⟨rfl, fun _ => rfl⟩
  have hack : ∀ (u : State) n m, u.SameClusters (State.wlAck { u with nextId := n } m) := fun u n m => ⟨rfl, fun _ => rfl⟩
  unfold State.agentSend
  split
  · exact (s.stored_agentPut k bs).sameClusters
  · exact (hsend.trans (State.stored_agentPut _ k bs).sameClusters).trans (hack _ _ _)

theorem State.sameClusters_agentSegs (w : Who) (segs : List Seg) (s : State) (bs : List Byte) : s.SameClusters (s.agentSegs w segs bs) := by
  induction segs generalizing s bs with
  | nil => exact ⟨rfl, fun _ => rfl⟩
  | cons z segs ih => exact (s.sameClusters_agentSend w z.lo _).trans (ih _ _)

end Sys2Proof.Machine
end

section
/-! SUPPORT. Spills, and the return of a spilled entry (R49). -/
namespace Sys2Proof.Machine
open Sys2Proof

/-! ### A spill (R49) -/

/-- The lowest place that is not taken. -/
def freePlace (taken : List Nat) : Nat := ((List.range (taken.length + 1)).find? fun i => !taken.contains i).getD 0

/-- Among more places than are taken one is free. -/
theorem freePlace_not_mem (taken : List Nat) : freePlace taken ∉ taken := by
  unfold freePlace
  cases h : (List.range (taken.length + 1)).find? fun i => !taken.contains i with
  | some i => simpa using List.find?_some h
  | none =>
    have hall : List.range (taken.length + 1) ⊆ taken := fun i hi => by simpa using List.find?_eq_none.1 h i hi
    have := (List.nodup_range.subperm hall).length_le
    rw [List.length_range] at this
    omega

theorem State.spillOne_eq {s : State} {cl first : Nat} {e : BasketEntry} {c : Cap} (h : s.spillCap e.ctx e.key = some (first, c)) :
    s.spillOne cl e = if spillRoom c ≤ freePlace (s.spillTaken e.ctx first) then none
      else (s.spillAt cl e.ctx c (freePlace (s.spillTaken e.ctx first)) true).map fun p =>
        ((s.fill cl p.2).agentSegs (s.whoCtx e.ctx cl false) p.1 e.bytes).modCluster cl fun x => { x with basket := { x.basket with
          entries := x.basket.entries.filter fun y => y.num != e.num,
          spilled := x.basket.spilled ++ [⟨e.ctx, e.key, freePlace (s.spillTaken e.ctx first), e.num⟩] } } := by
  rw [State.spillOne, h]
  dsimp only
  rw [← freePlace]
  split
  · rfl
  · split
    next h => rw [h]; rfl
    next h => rw [h]; rfl

/-- A full spill area takes no entry. -/
theorem State.spillOne_full {s : State} {cl first : Nat} {e : BasketEntry} {c : Cap} (h : s.spillCap e.ctx e.key = some (first, c))
    (hfull : ∀ i < spillRoom c, i ∈ s.spillTaken e.ctx first) : s.spillOne cl e = none := by
  rw [State.spillOne_eq h, if_pos]
  exact Nat.le_of_not_lt fun hlt => freePlace_not_mem _ (hfull _ hlt)

theorem BasketEntry.length_bytes (e : BasketEntry) : e.bytes.length = 64 := by
  simp only [BasketEntry.bytes, List.length_append, length_leBytes, List.length_replicate]

/-- The first entry of a spill area. -/
theorem State.spillOne_first {s : State} {cl first : Nat} {e : BasketEntry} {c : Cap} {segs : List Seg} {ts : List TlbEntry} (hcl : cl < 192)
    (h : s.spillCap e.ctx e.key = some (first, c)) (ht : s.spillTaken e.ctx first = []) (hroom : 0 < spillRoom c)
    (hat : s.spillAt cl e.ctx c 0 true = some (segs, ts)) : ∃ t, s.spillOne cl e = some t ∧
      (t.cluster cl).basket.entries = (s.cluster cl).basket.entries.filter (fun x => x.num != e.num) ∧
      (t.cluster cl).basket.spilled = (s.cluster cl).basket.spilled ++ [⟨e.ctx, e.key, 0, e.num⟩] ∧
      ∀ z, segs = [z] → z.len = 64 → s.Canonical → s.writeWaits z.lo 64 = false → (∀ w ∈ s.stalled, w.meets z.lo 64 = false) → z.lo + 64 ≤ Config.remoteKey →
        (∀ j < 64, tagByte (z.lo + j) = none ∧ s.regOf (z.lo + j) = none ∧ worldByte (z.lo + j) = none) → t.readKeys z.lo 64 = e.bytes := by
  have hplace : freePlace [] = 0 := rfl
  rw [State.spillOne_eq h, ht, hplace, if_neg (by omega), hat, Option.map_some]
  refine ⟨_, rfl, ?_⟩
  dsimp only
  obtain ⟨⟨cs, hfill⟩, hsvc, hcores⟩ := s.fill_parts cl ts
  have hsent := State.sameClusters_agentSegs (s.whoCtx e.ctx cl false) segs (s.fill cl ts) e.bytes
  have hb : (((s.fill cl ts).agentSegs (s.whoCtx e.ctx cl false) segs e.bytes).cluster cl).basket = (s.cluster cl).basket := by
    rw [State.cluster, hsent.clusters]; exact (hcores cl).2
  rw [State.cluster_modCluster_same _ _ _ hcl]
  refine ⟨congrArg (fun b : Basket => b.entries.filter fun x => x.num != e.num) hb, congrArg (fun b : Basket => b.spilled ++ [⟨e.ctx, e.key, 0, e.num⟩]) hb,
    fun z hz hlen hc hw hst hlow hkeys => ?_⟩
  have hbytes : e.bytes.take z.len = e.bytes := List.take_of_length_le (by rw [hlen, e.length_bytes])
  have hput : (s.fill cl ts).agentSegs (s.whoCtx e.ctx cl false) segs e.bytes = (s.fill cl ts).writeKeys z.lo e.bytes := by
    have hwait : (s.fill cl ts).writeWaits z.lo 64 = false :=
      (State.writeWaits_congr hsvc (fun d => (hcores d).1) (by rw [hfill]) _ _).trans hw
    have hstall : ((s.fill cl ts).stalled.any fun w => w.meets z.lo 64) = false := by
      rw [hfill]; exact List.any_eq_false.2 fun w hw => by simp [hst w hw]
    have hpos : Config.remoteKey ≥ 64 := by decide
    rw [hz, State.agentSegs, State.agentSegs, hbytes, State.agentSend, if_pos (by omega), State.agentPut, State.agentWrite]
    simp only [StallWrite.len, e.length_bytes, hwait, hstall, Bool.or_self, Bool.false_eq_true, if_false, State.perform]
  rw [hput]
  have hread : ∀ (u : State) f, (u.modCluster cl f).readKeys z.lo 64 = u.readKeys z.lo 64 := fun u f => rfl
  rw [hread, ← e.length_bytes]
  refine State.readKeys_writeKeys e.bytes (by rw [hfill]; exact hc.1) fun i hi => ?_
  rw [e.length_bytes] at hi
  obtain ⟨h1, h2, h3⟩ := hkeys i hi
  exact ⟨by omega, by rw [hfill]; exact h2, h1, h3⟩

/-- A spill leaves every slot as it was taken. -/
theorem State.slots_spillOne {s t : State} {cl : Nat} {e : BasketEntry} (h : s.spillOne cl e = some t) (j : Nat) : (t.group j).isSome = (s.group j).isSome := by
  cases hc : s.spillCap e.ctx e.key with
  | none => rw [State.spillOne, hc] at h; cases h
  | some p =>
    obtain ⟨first, c⟩ := p
    rw [State.spillOne_eq hc] at h
    split at h
    · cases h
    · cases hat : s.spillAt cl e.ctx c (freePlace (s.spillTaken e.ctx first)) true with
      | none => rw [hat] at h; cases h
      | some p =>
        rw [hat] at h
        cases h
        have hsent := State.sameClusters_agentSegs (s.whoCtx e.ctx cl false) p.1 (s.fill cl p.2) e.bytes
        obtain ⟨⟨cs, hfill⟩, -⟩ := s.fill_parts cl p.2
        exact (hsent.slots j).trans (by rw [hfill]; rfl)

theorem State.spillAll_eq (cl : Nat) (l : List BasketEntry) (s : State) : s.spillAll cl l = l.foldlM (fun w y => w.spillOne cl y) s := by
  induction l generalizing s with
  | nil => rfl
  | cons e l ih =>
    rw [State.spillAll, List.foldlM_cons]
    cases s.spillOne cl e with
    | none => rfl
    | some t => exact ih t

theorem State.slots_spills {cl : Nat} {l : List BasketEntry} {s t : State} (h : l.foldlM (fun w y => w.spillOne cl y) s = some t) (j : Nat) :
    (t.group j).isSome = (s.group j).isSome := by
  induction l generalizing s with
  | nil => cases h; rfl
  | cons e l ih =>
    rw [List.foldlM_cons] at h
    cases hone : State.spillOne s cl e with
    | none => rw [hone] at h; cases h
    | some u => rw [hone] at h; exact (ih h).trans (State.slots_spillOne hone j)

/-! ### `vbasket` at a full Basket -/

/-- Room made in a full Basket: the bin of the oldest entry is spilled. -/
theorem State.makeRoom_full {s : State} {cl : Nat} {e : BasketEntry} (h : (s.cluster cl).basket.entries.length = 4096)
    (he : (s.cluster cl).basket.entries.head? = some e) :
    s.makeRoom cl = ((s.cluster cl).basket.held e.ctx e.key).foldlM (fun w y => w.spillOne cl y) s := by
  obtain ⟨rest, hl⟩ : ∃ rest, (s.cluster cl).basket.entries = e :: rest := by
    cases hl : (s.cluster cl).basket.entries with
    | nil => rw [hl] at he; cases he
    | cons x l => rw [hl] at he; cases he; exact ⟨l, rfl⟩
  rw [State.makeRoom, if_neg (by omega), hl]
  exact State.spillAll_eq _ _ _

/-- A `vbasket` of one element at a full Basket whose oldest bin has no room in its spill area. -/
theorem vbasket_spill_refused {s : State} {v : View} {c : Ctl} {a b : BitVec 6} {j : Nat} {e : BasketEntry} (h : s.LaneReady (.vbasket c a b) v)
    (hp : v.g.hart.performed = true) (hj : v.l.actives c = [j]) (hbins : ∀ x ∈ s.basketEntries v c a b, (s.binReg v.g.ctx x.key).isSome = true)
    (hlen : (s.cluster (slotCluster v.slot)).basket.entries.length = 4096) (he : (s.cluster (slotCluster v.slot)).basket.entries.head? = some e)
    (hs : ((s.cluster (slotCluster v.slot)).basket.held e.ctx e.key).foldlM (fun w y => w.spillOne (slotCluster v.slot) y) { s with nextId := s.nextId + 64 } = none) :
    exec (.vbasket c a b) s = .next (State.raiseLane { s with nextId := s.nextId + 64 } v Cause.capBounds v.run.addr (BitVec.ofNat 2048 (2 ^ j))) := by
  have hroom := (State.makeRoom_full (s := { s with nextId := s.nextId + 64 }) hlen he).trans hs
  have hdep : State.depositAll (slotCluster v.slot) { s with nextId := s.nextId + 64 } ((v.l.actives c).map fun k => (k, v.entry s.nextId a b k)) =
      ({ s with nextId := s.nextId + 64 }, [j]) := by
    rw [hj, List.map_singleton, State.depositAll, State.depositOne, hroom]
    rfl
  rw [vbasket_eq h hp hbins hdep, if_neg (show ¬ [j].isEmpty = true from Bool.false_ne_true), elemMask]
  simp

/-- The same with room there: the bin is spilled, and the entry deposited. -/
theorem vbasket_spills {s w : State} {v : View} {c : Ctl} {a b : BitVec 6} {j : Nat} {e : BasketEntry} (h : s.LaneReady (.vbasket c a b) v)
    (hp : v.g.hart.performed = true) (hj : v.l.actives c = [j]) (hcl : slotCluster v.slot < 192)
    (hbins : ∀ x ∈ s.basketEntries v c a b, (s.binReg v.g.ctx x.key).isSome = true)
    (hlen : (s.cluster (slotCluster v.slot)).basket.entries.length = 4096) (he : (s.cluster (slotCluster v.slot)).basket.entries.head? = some e)
    (hs : ((s.cluster (slotCluster v.slot)).basket.held e.ctx e.key).foldlM (fun w y => w.spillOne (slotCluster v.slot) y) { s with nextId := s.nextId + 64 } = some w) :
    ∃ t g', exec (.vbasket c a b) s = .next t ∧ t.group v.slot = some g' ∧ g'.life = .exiting ∧
      (t.cluster (slotCluster v.slot)).basket = (w.cluster (slotCluster v.slot)).basket.deposit s.time (v.entry s.nextId a b j) := by
  have hroom := (State.makeRoom_full (s := { s with nextId := s.nextId + 64 }) hlen he).trans hs
  have hdep : State.depositAll (slotCluster v.slot) { s with nextId := s.nextId + 64 } ((v.l.actives c).map fun k => (k, v.entry s.nextId a b k)) =
      (w.modCluster (slotCluster v.slot) fun c => { c with basket := c.basket.deposit s.time (v.entry s.nextId a b j) }, []) := by
    rw [hj, List.map_singleton, State.depositAll, State.depositOne, hroom]
    rfl
  have hslot : (w.group v.slot).isSome = true := by
    rw [State.slots_spills hs, show State.group { s with nextId := s.nextId + 64 } v.slot = some v.g from h.group]; rfl
  obtain ⟨g, hg⟩ := Option.isSome_iff_exists.1 hslot
  obtain ⟨g', hg', hl, -, hb⟩ := State.issued_exiting
    (w := w.modCluster (slotCluster v.slot) fun c => { c with basket := c.basket.deposit s.time (v.entry s.nextId a b j) }) (v := v) (Uses.basket c a b v.t) hg
  rw [vbasket_eq h hp hbins hdep]
  refine ⟨_, g', rfl, hg', hl, ?_⟩
  rw [hb, State.cluster_modCluster_same _ _ _ hcl]

/-! ### The return of a spilled entry (R49) -/

theorem takeWhile_before {α : Type} {p : α → Bool} {l r : List α} (hl : ∀ x ∈ l, p x = true) (hr : ∀ x ∈ r, p x = false) :
    (l ++ r).takeWhile p = l ∧ (l ++ r).dropWhile p = r := by
  induction l with
  | nil =>
    cases r with
    | nil => exact ⟨rfl, rfl⟩
    | cons x r => exact ⟨List.takeWhile_cons_of_neg (by rw [hr x (by simp)]; decide), List.dropWhile_cons_of_neg (by rw [hr x (by simp)]; decide)⟩
  | cons x l ih =>
    obtain ⟨h1, h2⟩ := ih fun y hy => hl y (by simp [hy])
    rw [List.cons_append, List.takeWhile_cons_of_pos (hl x (by simp)), List.dropWhile_cons_of_pos (hl x (by simp)), h1, h2]
    exact ⟨rfl, rfl⟩

/-- An entry that returns takes its place in the order of deposits. -/
theorem Basket.insert_between {b : Basket} {e : BasketEntry} {l r : List BasketEntry} (hb : b.entries = l ++ r) (hl : ∀ x ∈ l, x.num < e.num)
    (hr : ∀ x ∈ r, e.num < x.num) : b.insert e = { b with entries := l ++ e :: r } := by
  obtain ⟨h1, h2⟩ := takeWhile_before (p := fun x : BasketEntry => x.num < e.num) (l := l) (r := r) (fun x hx => by simpa using hl x hx)
    fun x hx => by simpa using Nat.le_of_lt (hr x hx)
  rw [Basket.insert, hb, h1, h2]

theorem basketSpillReturn_eq {s : State} {cl ctx : Nat} {e : SpillEntry} {pre post : List SpillEntry} {c : Nat × Cap} {segs : List Seg} {ts : List TlbEntry}
    (hs : (s.cluster cl).basket.spilled = pre ++ e :: post) (hpre : ∀ x ∈ pre, x.ctx ≠ ctx) (he : e.ctx = ctx) (hlen : (s.cluster cl).basket.entries.length < 4096)
    (hc : s.spillCap ctx e.key = some c) (hat : s.spillAt cl ctx c.2 e.place false = some (segs, ts)) :
    exec (.basketSpillReturn cl ctx) s = .next ((s.fill cl ts).modCluster cl fun x => { x with basket :=
      (({ (s.cluster cl).basket with spilled := pre ++ post } : Basket).insert ⟨ctx, e.key, BitVec.ofNat 256 (leNat ((s.readSegs segs).take 32)), e.num⟩).launchFull ctx e.key s.time }) := by
  have hfind : (pre ++ e :: post).find? (fun x => x.ctx == ctx) = some e := by
    rw [List.find?_append, List.find?_eq_none.2 fun x hx => by simpa using hpre x hx, List.find?_cons_of_pos (by simpa using he)]
    rfl
  have hdrop : dropFirst (fun x : SpillEntry => x.ctx == ctx) 1 (pre ++ e :: post) = pre ++ post :=
    dropFirst_one (fun x hx => by simpa using hpre x hx) (by simpa using he)
  subst he
  change execBasketSpillReturn cl e.ctx s = _
  rw [execBasketSpillReturn]
  dsimp only
  rw [hs, hfind]
  dsimp only
  rw [if_neg (by omega), hc, Option.bind_some, hat]
  dsimp only
  rw [hdrop]

/-- A bin with one more entry, launched if that fills it. -/
theorem Basket.launchFull_insert {b : Basket} {l r : List BasketEntry} {e : BasketEntry} (time : Nat) (hb : b.entries = l ++ e :: r) :
    (((l ++ r).filter fun x => x.ctx == e.ctx && x.key == e.key).length < 15 → b.launchFull e.ctx e.key time = b) ∧
    (((l ++ r).filter fun x => x.ctx == e.ctx && x.key == e.key).length = 15 →
      (b.launchFull e.ctx e.key time).entries = BasketEntry.others (l ++ r) e.ctx e.key ∧
      (b.launchFull e.ctx e.key time).ready = b.ready ++ [⟨e.ctx, e.key, ((l ++ e :: r).filter fun x => x.ctx == e.ctx && x.key == e.key).map (·.pay), time⟩] ∧
      (b.launchFull e.ctx e.key time).spilled = b.spilled) := by
  have hfull : binFull = 16 := rfl
  have hheld : b.held e.ctx e.key = (l ++ e :: r).filter fun x => x.ctx == e.ctx && x.key == e.key := by rw [Basket.held, hb]
  have hlen : (b.held e.ctx e.key).length = ((l ++ r).filter fun x => x.ctx == e.ctx && x.key == e.key).length + 1 := by
    rw [hheld, List.filter_append, List.filter_append, List.filter_cons_of_pos (by simp), List.length_append, List.length_append, List.length_cons]
    omega
  refine ⟨fun h => if_neg (by rw [hfull, Basket.bin_eq_held, hlen]; omega), fun h => ?_⟩
  have hlaunch : b.launchFull e.ctx e.key time = b.launch e.ctx e.key 16 time := if_pos (by rw [hfull, Basket.bin_eq_held, hlen]; omega)
  rw [hlaunch]
  refine ⟨(b.entries_launch_all time (by omega)).trans ?_, ?_, rfl⟩
  · rw [hb, BasketEntry.others, BasketEntry.others, List.filter_append, List.filter_append, List.filter_cons_of_neg (by simp)]
  · rw [Basket.ready_launch, List.take_of_length_le (by omega), hheld]

end Sys2Proof.Machine
end

section
/-! OBLIGATION O37. -/
namespace Sys2Proof.Machine
open Sys2Proof

/-- The entries of one `vbasket` are all of its context. -/
theorem State.ctx_basketEntries {s : State} {v : View} {c : Ctl} {a b : BitVec 6} {x : BasketEntry} (hx : x ∈ s.basketEntries v c a b) : x.ctx = v.g.ctx := by
  obtain ⟨j, -, rfl⟩ := List.mem_map.1 hx
  rfl

/-- `vbasket` at a Basket with room, as R49 and R188 have it. -/
theorem vbasket_deposits {s : State} {v : View} {c : Ctl} {a b : BitVec 6} (h : s.LaneReady (.vbasket c a b) v) (hp : v.g.hart.performed = true)
    (hcl : slotCluster v.slot < 192) (hbins : ∀ x ∈ s.basketEntries v c a b, (s.binReg v.g.ctx x.key).isSome = true)
    (hroom : (s.cluster (slotCluster v.slot)).basket.entries.length + (s.basketEntries v c a b).length ≤ 4096) :
    let cl := slotCluster v.slot
    let bk := (s.cluster cl).basket
    let es := s.basketEntries v c a b
    ((∀ x ∈ es, (bk.held v.g.ctx x.key ++ es.filter (·.key = x.key)).length < 16) → ∃ t g', exec (.vbasket c a b) s = .next t ∧ t.group v.slot = some g' ∧
      g'.life = .exiting ∧ g'.lane.queue = [] ∧ (t.cluster cl).basket.entries = bk.entries ++ es ∧ (t.cluster cl).basket.ready = bk.ready ∧
      (t.cluster cl).basket.spilled = bk.spilled) ∧
    (∀ x, es = [x] → (bk.held v.g.ctx x.key).length = 15 → ∃ t g', exec (.vbasket c a b) s = .next t ∧ t.group v.slot = some g' ∧ g'.life = .exiting ∧
      (t.cluster cl).basket.ready = bk.ready ++ [⟨v.g.ctx, x.key, (bk.held v.g.ctx x.key).map (·.pay) ++ [x.pay], s.time⟩] ∧
      (t.cluster cl).basket.entries = BasketEntry.others bk.entries v.g.ctx x.key ∧ (t.cluster cl).basket.spilled = bk.spilled) ∧
    ((∀ x ∈ es, (bk.held v.g.ctx x.key).length < 16) → ∃ t g' ls, exec (.vbasket c a b) s = .next t ∧ t.group v.slot = some g' ∧ g'.life = .exiting ∧ g'.lane.queue = [] ∧
      let bk' := (t.cluster cl).basket
      bk'.spilled = bk.spilled ∧ bk'.ready = bk.ready ++ ls ∧ (∀ x ∈ ls, x.pays.length = 16 ∧ x.since = s.time) ∧ bk'.entries.Sublist (bk.entries ++ es) ∧
      (∀ x ∈ es, (bk'.held v.g.ctx x.key).length < 16) ∧
      ∀ ctx key, (ls.filter fun x => x.ctx == ctx && x.key == key).flatMap (·.pays) ++ (bk'.held ctx key).map (·.pay) =
        (bk.held ctx key).map (·.pay) ++ (es.filter fun x => x.ctx == ctx && x.key == key).map (·.pay)) := by
  intro cl bk es
  obtain ⟨t, g', he, hg, hl, hq, hb⟩ := vbasket_room h hp hcl hbins hroom
  have hctx : ∀ x ∈ es, x.ctx = v.g.ctx := fun x hx => State.ctx_basketEntries hx
  refine ⟨fun hlt => ?_, fun x hx h15 => ?_, fun hlt => ?_⟩
  · obtain ⟨h1, h2, h3⟩ := Basket.deposits_short s.time es bk fun x hx => by
      have hfilter : (es.filter fun y => y.ctx == x.ctx && y.key == x.key) = es.filter (·.key = x.key) :=
        List.filter_congr fun y hy => by rw [hctx y hy, hctx x hx, beq_self_eq_true, Bool.true_and, beq_eq_decide]
      rw [hfilter, hctx x hx]
      exact hlt x hx
    exact ⟨t, g', he, hg, hl, hq, by rw [hb]; exact h1, by rw [hb]; exact h2, by rw [hb]; exact h3⟩
  · have hxc : x.ctx = v.g.ctx := hctx x (by rw [hx]; simp)
    have hdep : (t.cluster cl).basket = bk.deposit s.time x := by rw [hb, show s.basketEntries v c a b = [x] from hx]; rfl
    rw [← hxc] at h15 ⊢
    have hall : ((bk.added s.time x).held x.ctx x.key).length ≤ 16 := by
      rw [Basket.held_added_same, List.length_append, List.length_singleton, h15]
    refine ⟨t, g', he, hg, hl, ?_, ?_, ?_⟩
    · rw [hdep, Basket.deposit_full h15, Basket.ready_launch, List.take_of_length_le hall, Basket.held_added_same, List.map_append]
      rfl
    · rw [hdep, Basket.deposit_full h15, Basket.entries_launch_all _ _ hall, BasketEntry.others, BasketEntry.others, Basket.added, List.filter_append,
        List.filter_cons_of_neg (by simp), List.filter_nil, List.append_nil]
    · rw [hdep, Basket.deposit_full h15]; rfl
  · obtain ⟨ls, h1, h2, h3, h4, h5, h6⟩ := Basket.deposits_effect s.time es bk fun x hx => by rw [hctx x hx]; exact hlt x hx
    refine ⟨t, g', ls, he, hg, hl, hq, ?_⟩
    dsimp only
    rw [hb]
    exact ⟨h1, h2, h3, h4, fun x hx => h5 _ _ (hlt x hx), h6⟩

/-- The return of a spilled entry, as R49 has it. -/
theorem basketSpillReturn_returns {s : State} {cl ctx : Nat} {e : SpillEntry} {pre post : List SpillEntry} {l r : List BasketEntry} {c : Nat × Cap} {segs : List Seg}
    {ts : List TlbEntry} (hcl : cl < 192) (hs : (s.cluster cl).basket.spilled = pre ++ e :: post) (hpre : ∀ x ∈ pre, x.ctx ≠ ctx) (he : e.ctx = ctx)
    (hlen : (s.cluster cl).basket.entries.length < 4096) (hb : (s.cluster cl).basket.entries = l ++ r) (hl : ∀ x ∈ l, x.num < e.num) (hr : ∀ x ∈ r, e.num < x.num)
    (hc : s.spillCap ctx e.key = some c) (hat : s.spillAt cl ctx c.2 e.place false = some (segs, ts)) :
    let bk := (s.cluster cl).basket
    let back : BasketEntry := ⟨ctx, e.key, BitVec.ofNat 256 (leNat ((s.readSegs segs).take 32)), e.num⟩
    ∃ t, exec (.basketSpillReturn cl ctx) s = .next t ∧ (t.cluster cl).basket.spilled = pre ++ post ∧
      ((bk.held ctx e.key).length < 15 → (t.cluster cl).basket.entries = l ++ back :: r ∧ (t.cluster cl).basket.ready = bk.ready) ∧
      ((bk.held ctx e.key).length = 15 → (t.cluster cl).basket.entries = BasketEntry.others bk.entries ctx e.key ∧
        (t.cluster cl).basket.ready = bk.ready ++ [⟨ctx, e.key, ((l ++ back :: r).filter fun x => x.ctx == ctx && x.key == e.key).map (·.pay), s.time⟩]) := by
  intro bk back
  have hins := Basket.insert_between (b := { bk with spilled := pre ++ post }) (e := back) hb hl hr
  obtain ⟨hshort, hfull⟩ := Basket.launchFull_insert (b := { bk with spilled := pre ++ post, entries := l ++ back :: r }) (l := l) (r := r) (e := back) s.time rfl
  have hheld : (l ++ r).filter (fun x => x.ctx == ctx && x.key == e.key) = bk.held ctx e.key := by rw [Basket.held, ← hb]
  rw [hheld] at hshort hfull
  refine ⟨_, basketSpillReturn_eq hs hpre he hlen hc hat, ?_⟩
  rw [State.cluster_modCluster_same _ _ _ hcl, hins]
  dsimp only
  refine ⟨?_, fun h => ?_, fun h => ?_⟩
  · unfold Basket.launchFull; split <;> rfl
  · rw [hshort h]; exact ⟨rfl, rfl⟩
  · obtain ⟨h1, h2, -⟩ := hfull h
    exact ⟨h1.trans (by rw [← hb]), h2⟩

end Sys2Proof.Machine

open Sys2Proof Sys2Proof.Machine

/-- Settles O37: deposits by induction over the entries (`Basket.deposits_effect`), a flush by induction over its launches (`Basket.flush_effect`), spills to the lowest
    free place, and the return of an entry between those deposited before and after it. -/
theorem basketEntriesKeepTheirOrder : Obligations.BasketEntriesKeepTheirOrder := by
  unfold Obligations.BasketEntriesKeepTheirOrder
  refine ⟨fun s v c a b h hp => ?_, fun s v c a b j e0 h hp hj => ?_, fun bk b' ctx time key hb => ?_, fun s k g a h hr => bflush_did h hr, fun s cl ctx key => ?_,
    fun s cl first e c hcl hc => ⟨State.spillOne_full hc, fun segs ts ht hroom hat => State.spillOne_first hcl hc ht hroom hat⟩, ?_⟩
  · exact fun hcl hbins hroom => vbasket_deposits h hp hcl hbins hroom
  · dsimp only
    intro hcl hbin hlen he
    have hes : s.basketEntries v c a b =
        [⟨v.g.ctx, BitVec.ofNat 16 (v.a a 32 j), BitVec.ofNat 256 ((v.l.vreg (b.toNat + j / 8)).read (j % 8 * 256) 256), s.nextId + j⟩] := by
      rw [State.basketEntries, hj]; rfl
    have hbins : ∀ x ∈ s.basketEntries v c a b, (s.binReg v.g.ctx x.key).isSome = true := fun x hx => by
      rw [hes] at hx
      obtain rfl := List.mem_singleton.1 hx
      exact hbin
    refine ⟨vbasket_spill_refused h hp hj hbins hlen he, fun w hw h15 => ?_⟩
    obtain ⟨t, g', hx, hg', hl, hb⟩ := vbasket_spills h hp hj hcl hbins hlen he hw
    rw [View.entry_eq, Basket.deposit_short h15] at hb
    exact ⟨t, g', hx, hg', hl, by rw [hb]; rfl, by rw [hb]; rfl, by rw [hb]; rfl⟩
  · obtain ⟨n, rfl, rfl⟩ := hb
    exact Basket.flush_effect time ctx key _ bk (Nat.le_refl _)
  · exact ⟨fun h => congrArg _ (if_pos h), fun h => congrArg _ (if_neg (Nat.not_le.2 h))⟩
  · exact fun s cl ctx e pre post l r c segs ts hcl hs hpre he hlen hb hl hr hc hat => basketSpillReturn_returns hcl hs hpre he hlen hb hl hr hc hat

end

section
/-! LEMMAS for O39: what an operation's return, its atomics and its line routines do. -/
namespace Sys2Proof.Machine
open Sys2Proof

/-! ### The scalar part of a thread that an event speaks of -/

/-- The thread has a scalar part: its group is resident, or its cluster is one of the package's. -/
def State.Resident (s : State) (t : Thread) : Prop := { s with cur := t }.Present

theorem State.hartOf_modHartOf {s : State} {t : Thread} (f : Hart → Hart) (h : s.Resident t) : (s.modHartOf t f).hartOf t = f (s.hartOf t) := by
  have e := State.hart_modHart { s with cur := t } f h
  cases t <;> exact e

theorem State.resident_modHartOf {s : State} {t : Thread} (f : Hart → Hart) (h : s.Resident t) : (s.modHartOf t f).Resident t := by
  have e := State.present_modHart { s with cur := t } f h
  cases t <;> exact e

/-- A thread with an operation outstanding has a scalar part. -/
theorem State.resident_of_op {s : State} {t : Thread} {id : Nat} {p : Pending} (h : (s.hartOf t).op id = some p) : s.Resident t := by
  cases t with
  | group k =>
    rcases hg : s.group k with _ | g
    · simp [State.hartOf, hg, Hart.op, Hart.reset] at h
    · exact Option.isSome_iff_exists.mpr ⟨g, hg⟩
  | service c =>
    by_contra hc
    have hc : ¬ c < Config.nClusters := hc
    have e : s.cluster c = .reset := dif_neg hc
    rw [State.hartOf, e] at h
    simp [Hart.op, Cluster.reset, Service.reset, Hart.reset] at h

theorem Hart.op_id {h : Hart} {id : Nat} {p : Pending} (e : h.op id = some p) : p.id = id := by
  simpa using List.find?_some e

/-- An operation changed, its number kept, is found again as changed. -/
theorem Hart.op_modOp {h : Hart} {id : Nat} {p : Pending} (f : Pending → Pending) (hf : ∀ q, (f q).id = q.id) (e : h.op id = some p) :
    (h.modOp id f).op id = some (f p) := by
  have hp := Hart.op_id e
  unfold Hart.op Hart.modOp at *
  dsimp only
  rw [List.find?_map]
  have : ((fun q : Pending => q.id == id) ∘ fun q => if q.id = id then f q else q) = fun q => q.id == id := by
    funext q; dsimp only [Function.comp]; split <;> simp_all
  rw [this, e, Option.map_some, if_pos hp]

/-! ### Writes that land -/

/-- What a write that lands does to the scalar part of its thread. -/
def RegWrite.onHart (h : Hart) : RegWrite → Hart
  | .s n x => h.setX (BitVec.ofNat 6 n) x
  | .c n x => h.setCap (BitVec.ofNat 5 n) x
  | _ => h

/-- What the writes of an operation leave of a state: the memory, the life of the thread's group and its float flags. -/
structure State.Landing (s u : State) (t : Thread) : Prop where
  resident : u.Resident t
  mem : u.mem = s.mem
  tags : u.tags = s.tags
  group : ∀ k g, t = .group k → s.group k = some g → ∃ g', u.group k = some g' ∧ g'.life = g.life ∧ g'.lane.fpstat = g.lane.fpstat

theorem State.Landing.trans {s u v : State} {t : Thread} (h : s.Landing u t) (i : u.Landing v t) : s.Landing v t where
  resident := i.resident
  mem := i.mem.trans h.mem
  tags := i.tags.trans h.tags
  group := fun k g ht hg => by
    obtain ⟨g1, hg1, hl1, hf1⟩ := h.group k g ht hg
    obtain ⟨g2, hg2, hl2, hf2⟩ := i.group k g1 ht hg1
    exact ⟨g2, hg2, hl2.trans hl1, hf2.trans hf1⟩

theorem State.landing_modGroup {s : State} {k : Nat} (f : Group → Group) (h : s.Resident (.group k))
    (hf : ∀ g, (f g).life = g.life ∧ (f g).lane.fpstat = g.lane.fpstat) : s.Landing (s.modGroup k f) (.group k) where
  resident := by
    obtain ⟨g, hg⟩ := Option.isSome_iff_exists.mp h
    exact Option.isSome_iff_exists.mpr ⟨f g, State.group_modGroup_of hg f⟩
  mem := rfl
  tags := rfl
  group := fun j g hj hg => by
    cases hj
    exact ⟨f g, State.group_modGroup_of hg f, hf g⟩

theorem State.landing_modHartOf {s : State} {t : Thread} (f : Hart → Hart) (h : s.Resident t) : s.Landing (s.modHartOf t f) t := by
  cases t with
  | group k => exact State.landing_modGroup _ h fun _ => ⟨rfl, rfl⟩
  | service c => exact ⟨State.resident_modHartOf f h, rfl, rfl, fun _ _ e => nomatch e⟩

theorem State.landed_modGroup {s : State} {k : Nat} (f : Group → Group) (h : s.Resident (.group k))
    (hf : ∀ g, (f g).hart = g.hart ∧ (f g).life = g.life ∧ (f g).lane.fpstat = g.lane.fpstat) :
    s.Landing (s.modGroup k f) (.group k) ∧ (s.modGroup k f).hartOf (.group k) = s.hartOf (.group k) :=
  ⟨State.landing_modGroup f h fun g => (hf g).2, s.hartOf_modGroup k f (fun g => (hf g).1) _⟩

theorem State.landed_modHartOf {s : State} {t : Thread} (f : Hart → Hart) (h : s.Resident t) :
    s.Landing (s.modHartOf t f) t ∧ (s.modHartOf t f).hartOf t = f (s.hartOf t) :=
  ⟨State.landing_modHartOf f h, State.hartOf_modHartOf f h⟩

theorem State.land_effect {s : State} {t : Thread} (w : RegWrite) (h : s.Resident t) :
    s.Landing (s.land t w) t ∧ (s.land t w).hartOf t = RegWrite.onHart (s.hartOf t) w := by
  have same : s.Landing s t := ⟨h, rfl, rfl, fun k g _ hg => ⟨g, hg, rfl, rfl⟩⟩
  cases w with
  | s n x => exact State.landed_modHartOf (fun h => h.setX (BitVec.ofNat 6 n) x) h
  | c n x => exact State.landed_modHartOf (fun h => h.setCap (BitVec.ofNat 5 n) x) h
  | v n lo width x tag =>
    cases t with
    | group k => exact State.landed_modGroup _ h fun _ => ⟨rfl, rfl, rfl⟩
    | service c => exact ⟨same, rfl⟩
  | p n mask bits =>
    cases t with
    | group k =>
      dsimp only [State.land]
      split
      · exact ⟨same, rfl⟩
      · exact State.landed_modGroup _ h fun _ => ⟨rfl, rfl, rfl⟩
    | service c => exact ⟨same, rfl⟩

theorem State.lands_effect {t : Thread} (ws : List RegWrite) (s : State) (h : s.Resident t) :
    s.Landing (ws.foldl (fun s w => s.land t w) s) t ∧ (ws.foldl (fun s w => s.land t w) s).hartOf t = ws.foldl RegWrite.onHart (s.hartOf t) := by
  induction ws generalizing s with
  | nil => exact ⟨⟨h, rfl, rfl, fun k g _ hg => ⟨g, hg, rfl, rfl⟩⟩, rfl⟩
  | cons w ws ih =>
    obtain ⟨hl, hh⟩ := s.land_effect w h
    obtain ⟨il, ih⟩ := ih _ hl.resident
    rw [List.foldl_cons, List.foldl_cons, ← hh]
    exact ⟨hl.trans il, ih⟩

/-- Writes that land keep what is no register: the operations outstanding, their counts and the address. -/
theorem RegWrite.onHart_frame (ws : List RegWrite) (h : Hart) :
    (ws.foldl RegWrite.onHart h).pend = h.pend ∧ (ws.foldl RegWrite.onHart h).ld = h.ld ∧ (ws.foldl RegWrite.onHart h).st = h.st ∧
    (ws.foldl RegWrite.onHart h).pc = h.pc := by
  induction ws generalizing h with
  | nil => exact ⟨rfl, rfl, rfl, rfl⟩
  | cons w ws ih =>
    obtain ⟨i1, i2, i3, i4⟩ := ih (RegWrite.onHart h w)
    rw [List.foldl_cons, i1, i2, i3, i4]
    cases w with
    | s n x => dsimp only [RegWrite.onHart, Hart.setX]; split <;> exact ⟨rfl, rfl, rfl, rfl⟩
    | _ => exact ⟨rfl, rfl, rfl, rfl⟩

/-- A register after one write: the last written value counts. -/
theorem RegWrite.x_onHart {n : BitVec 6} (hn : n ≠ 0) (h : Hart) (w : RegWrite) (hw : ∀ m x, w = .s m x → m < 64) :
    (RegWrite.onHart h w).x n = (match w with | .s m x => if m = n.toNat then x else h.x n | _ => h.x n) := by
  cases w with
  | s m x =>
    have hm := hw m x rfl
    have hmn : BitVec.ofNat 6 m = n ↔ m = n.toNat := by
      rw [← BitVec.toNat_inj, BitVec.toNat_ofNat, Nat.mod_eq_of_lt hm]
    dsimp only [RegWrite.onHart, Hart.setX, Hart.x]
    rw [if_neg hn]
    by_cases e : m = n.toNat
    · rw [hmn.mpr e, if_neg hn, if_pos e]; simp
    · rw [if_neg e]
      split
      · rfl
      · dsimp only
        rw [Vector.getElem_set_ne]
        rw [BitVec.toNat_ofNat, Nat.mod_eq_of_lt hm]; exact e
  | _ => rfl

theorem RegWrite.x_lands {n : BitVec 6} (hn : n ≠ 0) (ws : List RegWrite) (h : Hart) (hw : ∀ w ∈ ws, ∀ m x, w = .s m x → m < 64) :
    (ws.foldl RegWrite.onHart h).x n = lastWrite n.toNat ws (h.x n) := by
  induction ws generalizing h with
  | nil => rfl
  | cons w ws ih =>
    rw [List.foldl_cons, ih _ fun v hv => hw v (List.mem_cons_of_mem _ hv), RegWrite.x_onHart hn h w (hw w List.mem_cons_self)]
    cases w <;> rfl

/-! ### An operation returned -/

/-- An operation that owes no stop returned: its writes land, it is gone with its count, and its flags are added. -/
theorem State.returnOp_effect {s : State} {t : Thread} (p : Pending) (h : s.Resident t) (hp : p.stop = false) :
    (s.returnOp t p).hartOf t = (p.writes.foldl RegWrite.onHart (s.hartOf t)).dropOp p ∧ (s.returnOp t p).mem = s.mem ∧ (s.returnOp t p).tags = s.tags ∧
    ∀ k g, t = .group k → s.group k = some g → ∃ g', (s.returnOp t p).group k = some g' ∧ g'.life = g.life ∧ g'.lane.fpstat = g.lane.fpstat ||| p.flags := by
  obtain ⟨hl, hh⟩ := State.lands_effect p.writes s h
  generalize hu : p.writes.foldl (fun s w => s.land t w) s = u at hl hh
  have ha : u.Landing (u.wlAck p.id) t := ⟨by cases t <;> exact hl.resident, rfl, rfl, fun k g _ hg => ⟨g, hg, rfl, rfl⟩⟩
  have hd := (hl.trans ha).trans (State.landing_modHartOf (fun h => h.dropOp p) ha.resident)
  have he := State.hartOf_modHartOf (fun h => h.dropOp p) ha.resident
  have hb : (u.wlAck p.id).hartOf t = u.hartOf t := by cases t <;> rfl
  rw [hb, hh] at he
  cases t with
  | group k =>
    have er : s.returnOp (.group k) p = ((u.wlAck p.id).modHartOf (.group k) fun h => h.dropOp p).modGroup k
        fun g => { g with lane := { g.lane with fpstat := g.lane.fpstat ||| p.flags } } := by
      simp only [State.returnOp, State.routineStop, hp, hu, Bool.not_false, if_true]
    rw [er]
    refine ⟨(State.hartOf_modGroup _ _ _ ?_ _).trans he, hd.mem, hd.tags, ?_⟩
    · exact fun _ => rfl
    rintro j g ⟨⟩ hg
    obtain ⟨g1, hg1, hl1, hf1⟩ := hd.group k g rfl hg
    exact ⟨_, State.group_modGroup_of hg1 _, hl1, by dsimp only; rw [hf1]⟩
  | service c =>
    have er : s.returnOp (.service c) p = ((u.wlAck p.id).modHartOf (.service c) fun h => h.dropOp p).modCluster c
        fun cl => { cl with svc := { cl.svc with fpstat := cl.svc.fpstat ||| p.flags } } := by
      simp only [State.returnOp, State.routineStop, hu]
    rw [er]
    refine ⟨Eq.trans ?_ he, hd.mem, hd.tags, fun _ _ e => nomatch e⟩
    exact State.cluster_modCluster_part _ c c _ (fun x => x.svc.hart) fun _ => rfl

/-- R48: the loads' counter, with the writes landed. -/
theorem loadReturn_returns {s : State} {t : Thread} {id : Nat} {p : Pending} (ho : (s.hartOf t).op id = some p) (hl : p.ld = true) (hr : p.ready = true)
    (hp : p.stop = false) : ∃ u, exec (.loadReturn t id) s = .next u ∧
      (u.hartOf t).pend = (s.hartOf t).pend.filter (fun q => q.id != id) ∧ (u.hartOf t).ld = (s.hartOf t).ld - 1 ∧ (u.hartOf t).st = (s.hartOf t).st ∧
      (u.hartOf t).pc = (s.hartOf t).pc ∧
      (∀ n : BitVec 6, n ≠ 0 → (∀ w ∈ p.writes, ∀ m x, w = .s m x → m < 64) → (u.hartOf t).x n = lastWrite n.toNat p.writes ((s.hartOf t).x n)) ∧
      (∀ k g, t = .group k → s.group k = some g → ∃ g', u.group k = some g' ∧ g'.life = g.life ∧ g'.lane.fpstat = g.lane.fpstat ||| p.flags) ∧
      u.mem = s.mem ∧ u.tags = s.tags := by
  obtain ⟨hh, hm, ht, hg⟩ := State.returnOp_effect p (State.resident_of_op ho) hp
  obtain ⟨f1, f2, f3, f4⟩ := RegWrite.onHart_frame p.writes (s.hartOf t)
  have e : execLoadReturn t id s = .next (s.returnOp t p) := by simp only [execLoadReturn, ho, hl, hr, Bool.and_self, if_true]
  refine ⟨_, e, ?_, ?_, ?_, ?_, fun n hn hw => ?_, hg, hm, ht⟩
  · rw [hh, Hart.dropOp, f1, Hart.op_id ho]
  · rw [hh, Hart.dropOp, f2]; simp only [hl, if_true]
  · rw [hh, Hart.dropOp, f3]; simp only [hl, if_true]
  · exact (congrArg Hart.pc hh).trans f4
  · exact (congrArg (fun h : Hart => h.x n) hh).trans (RegWrite.x_lands hn _ _ hw)

/-- R48: the stores' counter; an operation without writes leaves the registers. -/
theorem storeAccept_returns {s : State} {t : Thread} {id : Nat} {p : Pending} (ho : (s.hartOf t).op id = some p) (hl : p.ld = false) (hr : p.ready = true)
    (hp : p.stop = false) (hw : p.writes = []) : ∃ u, exec (.storeAccept t id) s = .next u ∧
      (u.hartOf t).pend = (s.hartOf t).pend.filter (fun q => q.id != id) ∧ (u.hartOf t).st = (s.hartOf t).st - 1 ∧ (u.hartOf t).ld = (s.hartOf t).ld ∧
      (u.hartOf t).s = (s.hartOf t).s ∧ (u.hartOf t).c = (s.hartOf t).c ∧ u.mem = s.mem ∧ u.tags = s.tags := by
  obtain ⟨hh, hm, ht, -⟩ := State.returnOp_effect p (State.resident_of_op ho) hp
  have e : execStoreAccept t id s = .next (s.returnOp t p) := by simp only [execStoreAccept, ho, hl, hr, Bool.not_false, Bool.and_self, if_true]
  rw [hw, List.foldl_nil] at hh
  refine ⟨_, e, ?_, ?_, ?_, by rw [hh]; rfl, by rw [hh]; rfl, hm, ht⟩
  · rw [hh, Hart.dropOp, Hart.op_id ho]
  · rw [hh, Hart.dropOp]; simp only [hl, Bool.false_eq_true, if_false]
  · rw [hh, Hart.dropOp]; simp only [hl, Bool.false_eq_true, if_false]

end Sys2Proof.Machine
end

section
namespace Sys2Proof.Machine
open Sys2Proof

/-! ### A rounded value fits its format -/

/-- A magnitude rounded to a multiple of 2^q, q at least the place that keeps n + 1 bits, has at most n + 1 bits, or is the next power of two. -/
theorem roundMul_le (mode : Nat) (neg : Bool) {m n : Nat} {e q : Int} (h : e + m.log2 - n ≤ q) : roundMul mode neg m e q ≤ 2 ^ (n + 1) := by
  have hm : m < 2 ^ (m.log2 + 1) := Nat.lt_log2_self
  unfold roundMul
  split
  case isTrue hq =>
    calc m * 2 ^ (e - q).toNat ≤ 2 ^ (m.log2 + 1) * 2 ^ (e - q).toNat := Nat.mul_le_mul_right _ hm.le
      _ = 2 ^ (m.log2 + 1 + (e - q).toNat) := (pow_add _ _ _).symm
      _ ≤ 2 ^ (n + 1) := Nat.pow_le_pow_right (by omega) (by omega)
  case isFalse hq =>
    dsimp only
    have hn : m / 2 ^ (q - e).toNat < 2 ^ (n + 1) := by
      refine Nat.div_lt_of_lt_mul (lt_of_lt_of_le hm ?_)
      rw [← pow_add]
      exact Nat.pow_le_pow_right (by omega) (by omega)
    exact (show ∀ up : Bool, (if up then m / 2 ^ (q - e).toNat + 1 else m / 2 ^ (q - e).toNat) ≤ 2 ^ (n + 1) from
      fun up => by split <;> omega) _

/-- What does not exceed the greatest finite magnitude has its exponent and, at a power of two above n + 1 bits, one less. -/
theorem exponent_le_of_not_dyLt {n k : Nat} {q g : Int} (h : dyLt (2 ^ (n + 1) - 1) g k q = false) (hk : 2 ^ n ≤ k) :
    q ≤ g ∧ (k = 2 ^ (n + 1) → q + 1 ≤ g) := by
  have pos : 0 < 2 ^ n := by positivity
  have two : 2 ^ (n + 1) = 2 * 2 ^ n := by ring
  unfold dyLt at h
  by_cases hq : g ≤ q
  · rw [if_pos hq, decide_eq_false_iff_not, not_lt] at h
    have hd : (q - g).toNat = 0 := by
      by_contra hne
      have h2 : 2 ≤ 2 ^ (q - g).toNat := Nat.le_self_pow hne 2
      have := Nat.mul_le_mul hk h2
      omega
    rw [hd, pow_zero, mul_one] at h
    omega
  · omega

theorem Fmt.round_lt (f : Fmt) (v : FpEnv) (x : Fp) (ht : f.top = .ieee) (hf : 1 ≤ f.fbits) (he : 1 ≤ f.ebits) : (f.round v false x).1 < 2 ^ f.width := by
  have hw : 2 ^ f.width = 2 * (2 ^ f.ebits * 2 ^ f.fbits) := by rw [Fmt.width, pow_add, pow_add]; ring
  have hs : ∀ b, f.signBit b ≤ 2 ^ f.ebits * 2 ^ f.fbits := fun b => by rw [Fmt.signBit, pow_add]; split <;> omega
  have pf : 0 < 2 ^ f.fbits := by positivity
  have pe : 0 < 2 ^ f.ebits := by positivity
  have hm : f.emaxField * 2 ^ f.fbits + 2 ^ f.fbits = 2 ^ f.ebits * 2 ^ f.fbits := by
    rw [Fmt.emaxField, ← Nat.succ_mul, Nat.succ_eq_add_one, Nat.sub_add_cancel pe]
  have hnan : f.qnan < 2 ^ f.ebits * 2 ^ f.fbits := by
    have : 2 ^ (f.fbits - 1) < 2 ^ f.fbits := Nat.pow_lt_pow_right (by omega) (by omega)
    simp only [Fmt.qnan, ht]; omega
  have hinf : ∀ b, f.infinity b < 2 ^ f.width := fun b => by have := hs b; rw [Fmt.infinity]; omega
  have hmax : f.maxFinite < 2 ^ f.ebits * 2 ^ f.fbits := by simp only [Fmt.maxFinite, ht]; omega
  have hover : ∀ b, f.overflow v.mode false b < 2 ^ f.width := fun b => by
    have := hs b
    simp only [Fmt.overflow, ht]
    split
    · omega
    · exact hinf b
  cases x with
  | nan g => dsimp only [Fmt.round]; omega
  | inf b => simp only [Fmt.round, ht, Bool.false_eq_true, if_false]; exact hinf b
  | fin b m e =>
    have hb := hs b
    have pow : 0 < 2 ^ f.ebits * 2 ^ f.fbits := by positivity
    unfold Fmt.round
    dsimp only
    split
    · dsimp only; omega
    · generalize hqy : max (e + (m.log2 : Int) - f.fbits) (1 - (f.bias : Int) - f.fbits) = qy
      have hn : roundMul v.mode b m e qy ≤ 2 ^ (f.fbits + 1) := roundMul_le _ _ (hqy ▸ le_max_left _ _)
      have hqm : 1 - (f.bias : Int) - f.fbits ≤ qy := hqy ▸ le_max_right _ _
      generalize roundMul v.mode b m e qy = n at hn
      simp only [ht, reduceCtorEq, if_false]
      split
      · exact hover b
      next hd =>
        split
        · dsimp only; omega
        · dsimp only
          split
          next hlt => have := Nat.mul_le_mul_right (2 ^ f.fbits) pe; omega
          next hge =>
            obtain ⟨h1, h2⟩ := exponent_le_of_not_dyLt (Bool.not_eq_true _ ▸ hd) (not_lt.mp hge)
            have two : 2 ^ (f.fbits + 1) = 2 * 2 ^ f.fbits := by ring
            have field : (qy + f.fbits + f.bias).toNat + (if n = 2 ^ (f.fbits + 1) then 1 else 0) + 1 ≤ f.emaxField := by
              have : 1 ≤ f.emaxField := by
                have : 2 ≤ 2 ^ f.ebits := Nat.le_self_pow (by omega) 2
                rw [Fmt.emaxField]; omega
              split <;> omega
            have := Nat.mul_le_mul_right (2 ^ f.fbits) field
            split at this
            · rw [add_mul, add_mul] at this; omega
            · rw [add_mul, add_mul] at this; omega

/-- A sum's pattern fits its format. -/
theorem Fmt.add_lt (f : Fmt) (v : FpEnv) (a b : Nat) (ht : f.top = .ieee) (hf : 1 ≤ f.fbits) (he : 1 ≤ f.ebits) : (f.add v a b).1 < 2 ^ f.width :=
  f.round_lt v _ ht hf he

end Sys2Proof.Machine
end

section
namespace Sys2Proof.Machine
open Sys2Proof

/-! ### What a merged operation gives -/

/-- The model's operation of a code gives, of operands of n bits, what a function gives, and n bits again. -/
def MergesTo (op n : Nat) (f : Nat → Nat → Nat × Flags) : Prop :=
  ∀ x y, x < 2 ^ n → y < 2 ^ n → atomOp op x y = f x y ∧ (f x y).1 < 2 ^ n

theorem pickBits_min (sg : Bool) {n x y : Nat} (hx : x < 2 ^ n) (hy : y < 2 ^ n) :
    pickBits false sg n x y = if valueOf sg (BitVec.ofNat n x) ≤ valueOf sg (BitVec.ofNat n y) then x else y := by
  have inj : valueOf sg (BitVec.ofNat n x) = valueOf sg (BitVec.ofNat n y) → x = y := fun h => by
    simpa [Nat.mod_eq_of_lt, hx, hy] using congrArg BitVec.toNat (valueOf_injective sg h)
  rw [pickBits, extInt_eq_valueOf, extInt_eq_valueOf]
  rcases lt_trichotomy (valueOf sg (BitVec.ofNat n x)) (valueOf sg (BitVec.ofNat n y)) with h | h | h
  · simp [h, h.le]
  · simp [inj h]
  · simp [h.not_gt, h.not_ge]

theorem pickBits_max (sg : Bool) {n x y : Nat} (hx : x < 2 ^ n) (hy : y < 2 ^ n) :
    pickBits true sg n x y = if valueOf sg (BitVec.ofNat n x) ≤ valueOf sg (BitVec.ofNat n y) then y else x := by
  have inj : valueOf sg (BitVec.ofNat n x) = valueOf sg (BitVec.ofNat n y) → x = y := fun h => by
    simpa [Nat.mod_eq_of_lt, hx, hy] using congrArg BitVec.toNat (valueOf_injective sg h)
  rw [pickBits, extInt_eq_valueOf, extInt_eq_valueOf]
  rcases lt_trichotomy (valueOf sg (BitVec.ofNat n x)) (valueOf sg (BitVec.ofNat n y)) with h | h | h
  · simp [h, h.le]
  · simp [inj h]
  · simp [h.not_gt, h.not_ge]

/-- An integer operation that agrees with one on words of n bits merges to it, without flags. -/
theorem mergesTo_of_bits {op n : Nat} (f : BitVec n → BitVec n → BitVec n)
    (h : ∀ x y, x < 2 ^ n → y < 2 ^ n → atomOp op x y = ((f (BitVec.ofNat n x) (BitVec.ofNat n y)).toNat, 0)) :
    MergesTo op n fun x y => ((f (BitVec.ofNat n x) (BitVec.ofNat n y)).toNat, 0) :=
  fun x y hx hy => ⟨h x y hx hy, BitVec.isLt _⟩

theorem mergesTo_float {op n : Nat} {f : Fmt} (hn : f.width = n) (ht : f.top = .ieee) (hf : 1 ≤ f.fbits) (he : 1 ≤ f.ebits)
    (h : ∀ x y, atomOp op x y = f.add .rne x y) : MergesTo op n (f.add .rne) :=
  fun x y _ _ => ⟨h x y, hn ▸ f.add_lt _ x y ht hf he⟩

theorem mergesTo_halves {op : Nat} {f : Fmt} (hn : f.width = 16) (ht : f.top = .ieee) (hf : 1 ≤ f.fbits) (he : 1 ≤ f.ebits)
    (h : ∀ x y, atomOp op x y = f.halves x y) : MergesTo op 32 f.halves := fun x y _ _ => by
  refine ⟨h x y, ?_⟩
  have h1 := f.add_lt .rne (x % 2 ^ 16) (y % 2 ^ 16) ht hf he
  have h2 := f.add_lt .rne (x / 2 ^ 16) (y / 2 ^ 16) ht hf he
  rw [hn] at h1 h2
  dsimp only [Fmt.halves]
  omega

theorem ofNat_lift {n x : Nat} (hx : x < 2 ^ n) : (BitVec.ofNat n x).toNat = x := by rw [BitVec.toNat_ofNat, Nat.mod_eq_of_lt hx]

theorem mergesTo_add {op n : Nat} (h : ∀ x y, atomOp op x y = ((x + y) % 2 ^ n, 0)) :
    MergesTo op n fun x y => ((BitVec.ofNat n x + BitVec.ofNat n y).toNat, 0) :=
  mergesTo_of_bits (· + ·) fun x y hx hy => by rw [h, BitVec.toNat_add, ofNat_lift hx, ofNat_lift hy]

theorem mergesTo_and {op n : Nat} (h : ∀ x y, atomOp op x y = (x &&& y, 0)) :
    MergesTo op n fun x y => ((BitVec.ofNat n x &&& BitVec.ofNat n y).toNat, 0) :=
  mergesTo_of_bits (· &&& ·) fun x y hx hy => by rw [h, BitVec.toNat_and, ofNat_lift hx, ofNat_lift hy]

theorem mergesTo_or {op n : Nat} (h : ∀ x y, atomOp op x y = (x ||| y, 0)) :
    MergesTo op n fun x y => ((BitVec.ofNat n x ||| BitVec.ofNat n y).toNat, 0) :=
  mergesTo_of_bits (· ||| ·) fun x y hx hy => by rw [h, BitVec.toNat_or, ofNat_lift hx, ofNat_lift hy]

theorem mergesTo_xor {op n : Nat} (h : ∀ x y, atomOp op x y = (x ^^^ y, 0)) :
    MergesTo op n fun x y => ((BitVec.ofNat n x ^^^ BitVec.ofNat n y).toNat, 0) :=
  mergesTo_of_bits (· ^^^ ·) fun x y hx hy => by rw [h, BitVec.toNat_xor, ofNat_lift hx, ofNat_lift hy]

theorem mergesTo_smin {op n : Nat} (h : ∀ x y, atomOp op x y = (pickBits false true n x y, 0)) :
    MergesTo op n fun x y => ((if (BitVec.ofNat n x).toInt ≤ (BitVec.ofNat n y).toInt then BitVec.ofNat n x else BitVec.ofNat n y).toNat, 0) :=
  mergesTo_of_bits (fun x y => if x.toInt ≤ y.toInt then x else y) fun x y hx hy => by
    rw [h, pickBits_min _ hx hy, apply_ite BitVec.toNat, ofNat_lift hx, ofNat_lift hy]; rfl

theorem mergesTo_umin {op n : Nat} (h : ∀ x y, atomOp op x y = (pickBits false false n x y, 0)) :
    MergesTo op n fun x y => ((if (BitVec.ofNat n x).toNat ≤ (BitVec.ofNat n y).toNat then BitVec.ofNat n x else BitVec.ofNat n y).toNat, 0) :=
  mergesTo_of_bits (fun x y => if x.toNat ≤ y.toNat then x else y) fun x y hx hy => by
    rw [h, pickBits_min _ hx hy, apply_ite BitVec.toNat]; simp [valueOf, ofNat_lift hx, ofNat_lift hy]

theorem mergesTo_smax {op n : Nat} (h : ∀ x y, atomOp op x y = (pickBits true true n x y, 0)) :
    MergesTo op n fun x y => ((if (BitVec.ofNat n x).toInt ≤ (BitVec.ofNat n y).toInt then BitVec.ofNat n y else BitVec.ofNat n x).toNat, 0) :=
  mergesTo_of_bits (fun x y => if x.toInt ≤ y.toInt then y else x) fun x y hx hy => by
    rw [h, pickBits_max _ hx hy, apply_ite BitVec.toNat, ofNat_lift hx, ofNat_lift hy]; rfl

theorem mergesTo_umax {op n : Nat} (h : ∀ x y, atomOp op x y = (pickBits true false n x y, 0)) :
    MergesTo op n fun x y => ((if (BitVec.ofNat n x).toNat ≤ (BitVec.ofNat n y).toNat then BitVec.ofNat n y else BitVec.ofNat n x).toNat, 0) :=
  mergesTo_of_bits (fun x y => if x.toNat ≤ y.toNat then y else x) fun x y hx hy => by
    rw [h, pickBits_max _ hx hy, apply_ite BitVec.toNat]; simp [valueOf, ofNat_lift hx, ofNat_lift hy]

/-- Every merged row of R228 and R232 is what the model merges, of its own width. -/
theorem mergedWords_mergesTo : ∀ row ∈ mergedWords, MergesTo row.1 (8 * row.2.1) row.2.2 ∧ atomSize row.1 = row.2.1 ∧ isXchg row.1 = false := by
  have codes : mergedWords.map (fun r => (atomSize r.1, isXchg r.1)) = mergedWords.map fun r => (r.2.1, false) := rfl
  intro row hr
  have hc := List.map_inj_left.mp codes row hr
  obtain ⟨hs, hx⟩ := Prod.mk.inj hc
  refine ⟨?_, hs, hx⟩
  have all : mergedWords.Forall fun r => MergesTo r.1 (8 * r.2.1) r.2.2 :=
    ⟨mergesTo_add fun _ _ => rfl, mergesTo_add fun _ _ => rfl, mergesTo_and fun _ _ => rfl, mergesTo_and fun _ _ => rfl, mergesTo_or fun _ _ => rfl, mergesTo_or fun _ _ => rfl,
     mergesTo_xor fun _ _ => rfl, mergesTo_xor fun _ _ => rfl, mergesTo_smin fun _ _ => rfl, mergesTo_smin fun _ _ => rfl, mergesTo_umin fun _ _ => rfl, mergesTo_umin fun _ _ => rfl,
     mergesTo_smax fun _ _ => rfl, mergesTo_smax fun _ _ => rfl, mergesTo_umax fun _ _ => rfl, mergesTo_umax fun _ _ => rfl,
     mergesTo_float rfl rfl (by decide) (by decide) fun _ _ => rfl, mergesTo_float rfl rfl (by decide) (by decide) fun _ _ => rfl,
     mergesTo_halves rfl rfl (by decide) (by decide) fun _ _ => rfl, mergesTo_halves rfl rfl (by decide) (by decide) fun _ _ => rfl,
     mergesTo_float rfl rfl (by decide) (by decide) fun _ _ => rfl, mergesTo_float rfl rfl (by decide) (by decide) fun _ _ => rfl⟩
  exact List.forall_iff_forall_mem.mp all row hr

end Sys2Proof.Machine
end

section
namespace Sys2Proof.Machine
open Sys2Proof

/-! ### The results of a request -/

/-- A result that fits its width lands as it is. -/
theorem ResDst.write_eq_landed (d : ResDst) {x w : Nat} (h : x < 2 ^ w) : d.write x w = d.landed x := by
  cases d with
  | none => rfl
  | s n sx =>
    simp only [ResDst.write, ResDst.landed]
    cases sx
    · rfl
    · simp only [if_true, ofNat_wrapInt, sextNat_eq_toInt]
  | v n lo width => rw [ResDst.write, ResDst.landed, Nat.mod_eq_of_lt h]

/-- The writes of a request's elements, each with its result. -/
def resultWrites (w : Nat) (es : List AtomElem) (xs : List Nat) : List RegWrite := (es.zip xs).flatMap fun e => e.1.dst.write e.2 w

theorem resultWrites_cons (w : Nat) (e : AtomElem) (es : List AtomElem) (x : Nat) (xs : List Nat) (h : x < 2 ^ w) :
    resultWrites w (e :: es) (x :: xs) = e.dst.landed x ++ resultWrites w es xs := by
  rw [resultWrites, List.zip_cons_cons, List.flatMap_cons, ResDst.write_eq_landed _ h]; rfl

/-- What one element of an exchange does to the value and the writes before it. -/
def exchangeStep {w : Nat} (f : BitVec w → BitVec w → BitVec w → Option (BitVec w)) (acc : BitVec w × List RegWrite) (e : AtomElem) : BitVec w × List RegWrite :=
  ((f acc.1 (BitVec.ofNat w e.v) (BitVec.ofNat w e.u)).getD acc.1, acc.2 ++ e.dst.landed acc.1.toNat)

/-- The exchanges of a request one after another: the value left, the results, no flags. -/
theorem xchgAll_eq_foldl {w : Nat} (cas : Bool) (f : BitVec w → BitVec w → BitVec w → Option (BitVec w))
    (hf : ∀ o v u, f o v u = if !cas || o == u then some v else none) (es : List AtomElem) (hb : ∀ e ∈ es, e.v < 2 ^ w ∧ e.u < 2 ^ w)
    (acc : BitVec w) (old : Nat) (r : AtomDone) (hr : r.stored.getD old = acc.toNat) (ws : List RegWrite) :
    (xchgAll cas es acc.toNat r).stored.getD old = (es.foldl (exchangeStep f) (acc, ws)).1.toNat ∧ (xchgAll cas es acc.toNat r).flags = r.flags ∧
    ∃ xs, (xchgAll cas es acc.toNat r).results = r.results ++ xs ∧ ws ++ resultWrites w es xs = (es.foldl (exchangeStep f) (acc, ws)).2 := by
  induction es generalizing acc r ws with
  | nil => exact ⟨hr, rfl, [], (List.append_nil _).symm, List.append_nil _⟩
  | cons e es ih =>
    obtain ⟨hv, hu⟩ := hb e List.mem_cons_self
    have hc : (acc.toNat == e.u) = (acc == BitVec.ofNat w e.u) := by
      rw [Bool.eq_iff_iff, beq_iff_eq, beq_iff_eq, ← BitVec.toNat_inj, ofNat_lift hu]
    have hput : (if !cas || acc.toNat == e.u then e.v else acc.toNat) = ((f acc (BitVec.ofNat w e.v) (BitVec.ofNat w e.u)).getD acc).toNat := by
      rw [hf, hc]; split
      · exact (ofNat_lift hv).symm
      · rfl
    have hstored : (if !cas || acc.toNat == e.u then some e.v else r.stored).getD old = ((f acc (BitVec.ofNat w e.v) (BitVec.ofNat w e.u)).getD acc).toNat := by
      rw [← hput]; split
      · rfl
      · exact hr
    obtain ⟨h1, h2, xs, h3, h4⟩ := ih (fun x hx => hb x (List.mem_cons_of_mem _ hx)) ((f acc (BitVec.ofNat w e.v) (BitVec.ofNat w e.u)).getD acc)
      ⟨if !cas || acc.toNat == e.u then some e.v else r.stored, r.results ++ [acc.toNat], r.flags⟩ hstored (ws ++ e.dst.landed acc.toNat)
    rw [xchgAll, List.foldl_cons, exchangeStep, hput]
    refine ⟨h1, h2, acc.toNat :: xs, by rw [h3, List.append_assoc]; rfl, ?_⟩
    rw [resultWrites_cons _ _ _ _ _ acc.isLt, ← List.append_assoc]
    exact h4

/-- The exchanges of R228: their sizes, and what is stored. -/
theorem exchangeWords {row : Nat × Nat × ((w : Nat) → BitVec w → BitVec w → BitVec w → Option (BitVec w))} (hr : row ∈ atomicWords) (h8 : 8 ≤ row.1) (h11 : row.1 ≤ 11) :
    atomSize row.1 = row.2.1 ∧ isXchg row.1 = true ∧
    ∀ w (o v u : BitVec w), row.2.2 w o v u = if !(row.1 == 10 || row.1 == 11) || o == u then some v else none := by
  have hmem : row ∈ atomicWords.filter fun r => decide (8 ≤ r.1 ∧ r.1 ≤ 11) := List.mem_filter.mpr ⟨hr, by simp [h8, h11]⟩
  have all : (atomicWords.filter fun r => decide (8 ≤ r.1 ∧ r.1 ≤ 11)).Forall fun row => atomSize row.1 = row.2.1 ∧ isXchg row.1 = true ∧
      ∀ w (o v u : BitVec w), row.2.2 w o v u = if !(row.1 == 10 || row.1 == 11) || o == u then some v else none :=
    ⟨⟨rfl, rfl, fun _ _ _ _ => rfl⟩, ⟨rfl, rfl, fun _ _ _ _ => rfl⟩, ⟨rfl, rfl, fun _ o _ u => by simp⟩, ⟨rfl, rfl, fun _ o _ u => by simp⟩⟩
  exact List.forall_iff_forall_mem.mp all row hmem

/-! ### Elements merged (R125) -/

theorem foldFlags_cons (op : Nat → Nat → Nat × Flags) (acc : Nat × Flags) (y : Nat) (ys : List Nat) :
    foldFlags op acc (y :: ys) = foldFlags op ((op acc.1 y).1, acc.2 ||| (op acc.1 y).2) ys := rfl

/-- Operands of n bits have one sum under an operation and the function that it merges to, of n bits. -/
theorem foldFlags_merges {op n : Nat} {f : Nat → Nat → Nat × Flags} (hf : MergesTo op n f) (ys : List Nat) (acc : Nat × Flags) (hacc : acc.1 < 2 ^ n)
    (hys : ∀ y ∈ ys, y < 2 ^ n) : foldFlags (atomOp op) acc ys = foldFlags f acc ys ∧ (foldFlags f acc ys).1 < 2 ^ n := by
  induction ys generalizing acc with
  | nil => exact ⟨rfl, hacc⟩
  | cons y ys ih =>
    obtain ⟨h1, h2⟩ := hf acc.1 y hacc (hys y List.mem_cons_self)
    rw [foldFlags_cons, foldFlags_cons, h1]
    exact ih _ h2 fun z hz => hys z (List.mem_cons_of_mem _ hz)

/-- The sum of a request's first element and i more. -/
def partialSum (op : Nat → Nat → Nat × Flags) (acc : Nat × Flags) (es : List AtomElem) (i : Nat) : Nat × Flags := foldFlags op acc ((es.take i).map (·.v))

/-- An element aggregated onto what stands (R125). -/
def aggregateStep (op : Nat) (acc : Option Nat × List (Option Nat) × Flags) (e : AtomElem) : Option Nat × List (Option Nat) × Flags :=
  match acc.1 with
  | none => (some e.v, acc.2.1 ++ [none], acc.2.2)
  | some x => let r := atomOp op x e.v; (some r.1, acc.2.1 ++ [some x], acc.2.2 ||| r.2)

theorem aggregateStep_some (op x : Nat) (pre : List (Option Nat)) (fl : Flags) (e : AtomElem) :
    aggregateStep op (some x, pre, fl) e = (some (atomOp op x e.v).1, pre ++ [some x], fl ||| (atomOp op x e.v).2) := rfl

theorem aggregateStep_foldl (op : Nat) (es : List AtomElem) (x : Nat) (pre : List (Option Nat)) (fl : Flags) :
    es.foldl (aggregateStep op) (some x, pre, fl) =
    (some (partialSum (atomOp op) (x, fl) es es.length).1, pre ++ (List.range es.length).map (fun i => some (partialSum (atomOp op) (x, fl) es i).1),
      (partialSum (atomOp op) (x, fl) es es.length).2) := by
  induction es generalizing x pre fl with
  | nil => simp [partialSum, foldFlags]
  | cons e es ih =>
    rw [List.foldl_cons, aggregateStep_some, ih]
    rw [List.length_cons, List.range_succ_eq_map, List.map_cons, List.map_map, List.append_assoc]
    rfl

/-- A merged request of at least one element: the value stored, each element's result, the flags. -/
theorem atomPerform_merged {op : Nat} (h : isXchg op = false) (e : AtomElem) (es : List AtomElem) (old : Nat) :
    atomPerform op (e :: es) old =
    ⟨some (atomOp op old (partialSum (atomOp op) (e.v, 0) es es.length).1).1,
     old :: (List.range es.length).map (fun i => (atomOp op old (partialSum (atomOp op) (e.v, 0) es i).1).1),
     (partialSum (atomOp op) (e.v, 0) es es.length).2 ||| (atomOp op old (partialSum (atomOp op) (e.v, 0) es es.length).1).2⟩ := by
  have ha : aggregate op (e :: es) = es.foldl (aggregateStep op) (some e.v, [none], 0) := rfl
  rw [atomPerform, h, if_neg Bool.false_ne_true, ha, aggregateStep_foldl]
  simp only [List.singleton_append, List.map_cons, List.map_map]
  rfl

/-- Results given by place, as the writes of the elements with their places. -/
theorem resultWrites_range (w : Nat) (es : List AtomElem) (f : Nat → Nat) (h : ∀ i, f i < 2 ^ w) :
    resultWrites w es ((List.range es.length).map f) = es.zipIdx.flatMap fun y => y.1.dst.landed (f y.2) := by
  rw [resultWrites, List.zipIdx_eq_zip_range', ← List.range_eq_range', List.zip_map_right, List.flatMap_map]
  refine List.flatMap_congr fun y _ => ?_
  exact ResDst.write_eq_landed _ (h _)

end Sys2Proof.Machine
end

section
namespace Sys2Proof.Machine
open Sys2Proof

/-! ### A number written to memory and read back -/

theorem State.readNat_memory {s : State} {k n : Nat} (h : ∀ i < n, s.MemoryKey (k + i)) : s.readNat k n = leNat (memRead s.mem k n) := by
  rw [State.readNat, State.readKeys, memRead]
  congr 1
  exact List.map_congr_left fun i hi => State.keyByte_memory (h i (List.mem_range.mp hi))

/-- States whose groups hold the same blocks hold the same numbers where their memories do. -/
theorem State.readNat_congr {s t : State} {k n : Nat} (hb : s.SameBlocks t) (hm : t.mem = s.mem) (h : ∀ i < n, s.MemoryKey (k + i)) : t.readNat k n = s.readNat k n := by
  rw [State.readNat_memory h, State.readNat_memory (s := t), hm]
  exact fun i hi => by rw [State.MemoryKey, hb.regOf]; exact h i hi

theorem State.sameBlocks_writeKeys {s : State} {k : Nat} (bs : List Byte) (h : ∀ i < bs.length, s.MemoryKey (k + i)) :
    s.SameBlocks (s.writeKeys k bs) ∧ (s.writeKeys k bs).mem = memWrite s.mem k bs := by
  obtain ⟨hsame, hmem⟩ := s.sameBlocks_clearTags k bs.length
  obtain ⟨hput, hgroups⟩ := State.putKeys_memory (s := s.clearTags k bs.length) bs fun i hi => by
    rw [State.MemoryKey, hsame.regOf]; exact h i hi
  refine ⟨?_, by rw [State.writeKeys, hput, hmem]⟩
  rw [State.SameBlocks, ← hsame, State.writeKeys, hgroups]

theorem State.sameBlocks_modHartOf (s : State) (t : Thread) (f : Hart → Hart) : s.SameBlocks (s.modHartOf t f) := by
  cases t with
  | group k => exact s.sameBlocks_modGroup k _ fun _ => rfl
  | service c => rfl

theorem State.readNat_writeNat {s : State} {k n x : Nat} (hm : Memory.wf s.mem = true) (h : ∀ i < n, s.MemoryKey (k + i)) (hx : x < 2 ^ (8 * n)) :
    (s.writeNat k n x).readNat k n = x := by
  have e := State.readKeys_writeKeys (s := s) (k := k) (leBytes n x) hm (by rw [length_leBytes]; exact h)
  rw [length_leBytes] at e
  rw [State.readNat, State.writeNat, e, leNat_leBytes, Nat.mod_eq_of_lt]
  rw [show 256 = 2 ^ 8 from rfl, ← pow_mul]; exact hx

/-! ### A request performed -/

/-- The flags of an operation without return change no register, memory or block; in memory they are added at the home slice. -/
theorem State.flagsAt_effect (s : State) (ctx k : Nat) (fl : Flags) :
    (∀ t, (s.flagsAt ctx k fl).hartOf t = s.hartOf t) ∧ (s.flagsAt ctx k fl).mem = s.mem ∧ s.SameBlocks (s.flagsAt ctx k fl) ∧
    (k < Config.windowKey → mapGetD (s.flagsAt ctx k fl).sliceFlags (homeSlice k * 4096 + ctx) 0 = mapGetD s.sliceFlags (homeSlice k * 4096 + ctx) 0 ||| fl) := by
  unfold State.flagsAt
  split
  next h =>
    refine ⟨fun _ => rfl, rfl, rfl, fun hk => ?_⟩
    obtain h | h := h
    · rw [h]; exact (BitVec.or_zero).symm
    · have : Config.windowKey ≤ Config.remoteKey := by decide
      omega
  next h =>
    split
    · refine ⟨fun t => by cases t <;> rfl, rfl, rfl, fun _ => ?_⟩
      dsimp only
      rw [mapGetD, mapGet_mapSet, if_pos rfl]; rfl
    · refine ⟨fun t => by cases t <;> rfl, rfl, rfl, fun hk => ?_⟩
      omega

/-- The state after a request's value is stored. -/
def State.atomStored (s : State) (r : AtomReq) : State :=
  match (atomPerform r.op r.elems (s.readNat r.key (atomSize r.op))).stored with
  | some x => s.writeNat r.key (atomSize r.op) x
  | none => s

theorem State.stored_atomStored (s : State) (r : AtomReq) : s.Stored (s.atomStored r) ∧ s.SameHarts (s.atomStored r) := by
  unfold State.atomStored
  split
  · exact ⟨s.stored_writeKeys _ _, s.sameHarts_writeKeys _ _⟩
  · exact ⟨.refl s, .refl s⟩

/-- What is in memory after a request: what it stored, or what was there. -/
theorem State.readNat_atomStored {s : State} {r : AtomReq} (hm : Memory.wf s.mem = true) (h : ∀ i < atomSize r.op, s.MemoryKey (r.key + i))
    (hx : ∀ x, (atomPerform r.op r.elems (s.readNat r.key (atomSize r.op))).stored = some x → x < 2 ^ (8 * atomSize r.op)) :
    (s.atomStored r).SameBlocks s ∧ (s.atomStored r).readNat r.key (atomSize r.op) =
      (atomPerform r.op r.elems (s.readNat r.key (atomSize r.op))).stored.getD (s.readNat r.key (atomSize r.op)) := by
  unfold State.atomStored
  split
  next x e =>
    refine ⟨(State.sameBlocks_writeKeys _ (by rw [length_leBytes]; exact h)).1.symm, ?_⟩
    rw [e, State.readNat_writeNat hm h (hx x e)]; rfl
  next e => exact ⟨rfl, by rw [e]; rfl⟩

/-- The operation after one of its requests. -/
def Pending.performedAtom (p : Pending) (r : AtomReq) (n : Nat) (a : AtomDone) : Pending :=
  { p with atoms := dropAt p.atoms n, writes := p.writes ++ resultWrites (8 * atomSize r.op) r.elems a.results, flags := if p.ld then p.flags ||| a.flags else p.flags }

theorem State.doAtom_eq (s : State) (t : Thread) (p : Pending) (r : AtomReq) (n : Nat) :
    s.doAtom t p r n =
    let a := atomPerform r.op r.elems (s.readNat r.key (atomSize r.op))
    let u := (s.atomStored r).modHartOf t fun h => h.modOp p.id fun q =>
      { q with atoms := dropAt q.atoms n, writes := q.writes ++ resultWrites (8 * atomSize r.op) r.elems a.results, flags := if p.ld then q.flags ||| a.flags else q.flags }
    if p.ld then u else u.flagsAt (s.ctxOf t) r.key a.flags := rfl

/-- A request performed: its results and flags stand with the operation, its value in memory, its flags at the home slice where the operation has no return. -/
theorem State.doAtom_effect {s : State} {t : Thread} {id n : Nat} {p : Pending} {r : AtomReq} (ho : (s.hartOf t).op id = some p) :
    let a := atomPerform r.op r.elems (s.readNat r.key (atomSize r.op))
    ((s.doAtom t p r n).hartOf t).op id = some (p.performedAtom r n a) ∧
    (∀ k m, (∀ i < m, s.MemoryKey (k + i)) → (s.atomStored r).SameBlocks s → (s.doAtom t p r n).readNat k m = (s.atomStored r).readNat k m) ∧
    (p.ld = false → r.key < Config.windowKey →
      mapGetD (s.doAtom t p r n).sliceFlags (homeSlice r.key * 4096 + s.ctxOf t) 0 = mapGetD s.sliceFlags (homeSlice r.key * 4096 + s.ctxOf t) 0 ||| a.flags) := by
  intro a
  obtain ⟨hst, hsame⟩ := s.stored_atomStored r
  have ho' : ((s.atomStored r).hartOf t).op p.id = some p := by rw [hsame.hart, Hart.op_id ho]; exact ho
  rw [State.doAtom_eq, ← Hart.op_id ho]
  dsimp only
  set f : Pending → Pending := fun q => { q with
    atoms := dropAt q.atoms n, writes := q.writes ++ resultWrites (8 * atomSize r.op) r.elems a.results, flags := if p.ld then q.flags ||| a.flags else q.flags } with hf
  have hop : (((s.atomStored r).modHartOf t fun h => h.modOp p.id f).hartOf t).op p.id = some (p.performedAtom r n a) := by
    rw [State.hartOf_modHartOf _ (State.resident_of_op ho')]
    exact Hart.op_modOp f (fun _ => rfl) ho'
  have hslice : ((s.atomStored r).modHartOf t fun h => h.modOp p.id f).sliceFlags = s.sliceFlags := by
    obtain ⟨_, _, _, _, _, e, -⟩ := hst
    rw [e]; cases t <;> rfl
  have hblocks := (s.atomStored r).sameBlocks_modHartOf t fun h => h.modOp p.id f
  have hmem : ((s.atomStored r).modHartOf t fun h => h.modOp p.id f).mem = (s.atomStored r).mem := by cases t <;> rfl
  generalize (s.atomStored r).modHartOf t (fun h => h.modOp p.id f) = u at hop hslice hblocks hmem
  obtain ⟨e1, e2, e3, e4⟩ := u.flagsAt_effect (s.ctxOf t) r.key a.flags
  refine ⟨?_, fun k m hk hb => ?_, fun hl hw => ?_⟩
  · split
    · exact hop
    · rw [e1]; exact hop
  · have hk' : ∀ i < m, (s.atomStored r).MemoryKey (k + i) := fun i hi => by
      have : s.regOf (k + i) = (s.atomStored r).regOf (k + i) := hb.regOf _
      rw [State.MemoryKey, ← this]; exact hk i hi
    split
    · exact State.readNat_congr hblocks hmem hk'
    · exact State.readNat_congr (e3.trans hblocks) (e2.trans hmem) hk'
  · rw [hl, if_neg Bool.false_ne_true, e4 hw, hslice]

end Sys2Proof.Machine
end

section
namespace Sys2Proof.Machine
open Sys2Proof

/-! ### The two kinds of requests -/

/-- A request of exchanges on a value: what it leaves, what its elements take. -/
theorem atomPerform_exchange {row : Nat × Nat × ((w : Nat) → BitVec w → BitVec w → BitVec w → Option (BitVec w))} (hr : row ∈ atomicWords) (h8 : 8 ≤ row.1)
    (h11 : row.1 ≤ 11) {w : Nat} (es : List AtomElem) (hb : ∀ e ∈ es, e.v < 2 ^ w ∧ e.u < 2 ^ w) (old : BitVec w) :
    (atomPerform row.1 es old.toNat).stored.getD old.toNat = (es.foldl (exchangeStep (row.2.2 w)) (old, [])).1.toNat ∧
    resultWrites w es (atomPerform row.1 es old.toNat).results = (es.foldl (exchangeStep (row.2.2 w)) (old, [])).2 ∧ (atomPerform row.1 es old.toNat).flags = 0 := by
  obtain ⟨-, hx, hf⟩ := exchangeWords hr h8 h11
  obtain ⟨h1, h2, xs, h3, h4⟩ := xchgAll_eq_foldl (row.1 == 10 || row.1 == 11) (row.2.2 w) (hf w) es hb old old.toNat ⟨none, [], 0⟩ rfl []
  rw [atomPerform, hx, if_pos rfl]
  exact ⟨h1, by rw [h3]; exact h4, h2⟩

/-- A merged request of operands that fit: the value stored and the writes of its elements, by the function that the operation merges to. -/
theorem atomPerform_merges {op n : Nat} {f : Nat → Nat → Nat × Flags} (hf : MergesTo op n f) (hx : isXchg op = false) (e : AtomElem) (es : List AtomElem)
    (hb : ∀ y ∈ e :: es, y.v < 2 ^ n) {old : Nat} (ho : old < 2 ^ n) :
    (atomPerform op (e :: es) old).stored = some (f old (partialSum f (e.v, 0) es es.length).1).1 ∧ (f old (partialSum f (e.v, 0) es es.length).1).1 < 2 ^ n ∧
    resultWrites n (e :: es) (atomPerform op (e :: es) old).results =
      e.dst.landed old ++ es.zipIdx.flatMap (fun y => y.1.dst.landed (f old (partialSum f (e.v, 0) es y.2).1).1) ∧
    (atomPerform op (e :: es) old).flags = (partialSum f (e.v, 0) es es.length).2 ||| (f old (partialSum f (e.v, 0) es es.length).1).2 := by
  have hsum : ∀ i, partialSum (atomOp op) (e.v, 0) es i = partialSum f (e.v, 0) es i ∧ (partialSum f (e.v, 0) es i).1 < 2 ^ n := fun i =>
    foldFlags_merges hf _ (e.v, 0) (hb e List.mem_cons_self) fun y hy => by
      obtain ⟨z, hz, rfl⟩ := List.mem_map.mp hy
      exact hb z (List.mem_cons_of_mem _ (List.mem_of_mem_take hz))
  have hop : ∀ i, atomOp op old (partialSum f (e.v, 0) es i).1 = f old (partialSum f (e.v, 0) es i).1 ∧ (f old (partialSum f (e.v, 0) es i).1).1 < 2 ^ n :=
    fun i => hf _ _ ho (hsum i).2
  rw [atomPerform_merged hx]
  simp only [(hsum _).1, (hop _).1]
  refine ⟨trivial, (hop _).2, ?_, trivial⟩
  rw [resultWrites_cons _ _ _ _ _ ho, resultWrites_range _ _ _ fun i => (hop i).2]

/-- Where a request lies in plain memory and its elements fit its size. -/
def State.PlainRequest (s : State) (r : AtomReq) (size : Nat) : Prop :=
  r.key + size ≤ Config.remoteKey ∧ (∀ i < size, tagByte (r.key + i) = none ∧ s.regOf (r.key + i) = none ∧ worldByte (r.key + i) = none) ∧
    ∀ e ∈ r.elems, e.v < 2 ^ (8 * size) ∧ e.u < 2 ^ (8 * size)

theorem State.PlainRequest.memory {s : State} {r : AtomReq} {size : Nat} (h : s.PlainRequest r size) : ∀ i < size, s.MemoryKey (r.key + i) := fun i hi => by
  obtain ⟨hk, hp, -⟩ := h
  obtain ⟨ht, hg, hw⟩ := hp i hi
  exact ⟨by omega, hg, ht, hw⟩

theorem State.readNat_lt_bits (s : State) (k n : Nat) : s.readNat k n < 2 ^ (8 * n) := by
  rw [pow_mul]; exact s.readNat_lt k n

/-- An exchange in memory. -/
theorem State.doAtom_exchange {s : State} {t : Thread} {id n : Nat} {p : Pending} {r : AtomReq} (ho : (s.hartOf t).op id = some p) (hm : Memory.wf s.mem = true)
    {row : Nat × Nat × ((w : Nat) → BitVec w → BitVec w → BitVec w → Option (BitVec w))} (hr : row ∈ atomicWords) (hop : r.op = row.1) (h8 : 8 ≤ row.1) (h11 : row.1 ≤ 11)
    (hp : s.PlainRequest r row.2.1) :
    let a := atomPerform r.op r.elems (s.readNat r.key (atomSize r.op))
    let run := r.elems.foldl (exchangeStep (row.2.2 (8 * row.2.1))) (BitVec.ofNat (8 * row.2.1) (s.readNat r.key row.2.1), [])
    (s.doAtom t p r n).readNat r.key row.2.1 = run.1.toNat ∧ (p.performedAtom r n a).writes = p.writes ++ run.2 ∧ (p.performedAtom r n a).flags = p.flags := by
  intro a run
  obtain ⟨hsize, -, -⟩ := exchangeWords hr h8 h11
  rw [← hop] at hsize
  have hold : (BitVec.ofNat (8 * row.2.1) (s.readNat r.key row.2.1)).toNat = s.readNat r.key (atomSize r.op) := by rw [hsize, ofNat_lift (s.readNat_lt_bits _ _)]
  have hmem := hp.memory
  obtain ⟨h1, h2, h3⟩ := atomPerform_exchange hr h8 h11 r.elems hp.2.2 (BitVec.ofNat (8 * row.2.1) (s.readNat r.key row.2.1))
  rw [hold, ← hop] at h1 h2 h3
  have hfit : ∀ x, a.stored = some x → x < 2 ^ (8 * atomSize r.op) := fun x hx => by
    rw [hsize, show x = run.1.toNat from by rw [← h1]; simp only [a] at hx; rw [hx]; rfl]
    exact run.1.isLt
  obtain ⟨hb, hread⟩ := State.readNat_atomStored hm (by rw [hsize]; exact hmem) hfit
  obtain ⟨-, hk, -⟩ := State.doAtom_effect (n := n) (r := r) ho
  refine ⟨?_, ?_, ?_⟩
  · exact (hk _ _ hmem hb).trans ((congrArg _ hsize.symm).trans (hread.trans h1))
  · exact congrArg (p.writes ++ ·) ((congrArg (fun w => resultWrites (8 * w) r.elems a.results) hsize).trans h2)
  · dsimp only [Pending.performedAtom, a]; rw [h3]; split
    · exact BitVec.or_zero
    · rfl

/-- A merged request in memory. -/
theorem State.doAtom_merges {s : State} {t : Thread} {id n : Nat} {p : Pending} {r : AtomReq} (ho : (s.hartOf t).op id = some p) (hm : Memory.wf s.mem = true)
    {row : Nat × Nat × (Nat → Nat → Nat × Flags)} (hr : row ∈ mergedWords) (hop : r.op = row.1) (hp : s.PlainRequest r row.2.1) {e : AtomElem} {es : List AtomElem}
    (he : r.elems = e :: es) :
    let a := atomPerform r.op r.elems (s.readNat r.key (atomSize r.op))
    let old := s.readNat r.key row.2.1
    let sum := partialSum row.2.2 (e.v, 0) es
    let stored := row.2.2 old (sum es.length).1
    (s.doAtom t p r n).readNat r.key row.2.1 = stored.1 ∧
    (p.performedAtom r n a).writes = p.writes ++ e.dst.landed old ++ es.zipIdx.flatMap (fun y => y.1.dst.landed (row.2.2 old (sum y.2).1).1) ∧
    a.flags = (sum es.length).2 ||| stored.2 := by
  intro a old sum stored
  obtain ⟨hf, hsize, hx⟩ := mergedWords_mergesTo row hr
  rw [← hop] at hsize hx hf
  obtain ⟨h1, h2, h3, h4⟩ := atomPerform_merges hf hx e es (fun y hy => (hp.2.2 y (he ▸ hy)).1) (s.readNat_lt_bits r.key row.2.1)
  have ha : a = atomPerform r.op (e :: es) old := by simp only [a, old, hsize, he]
  have hmem := hp.memory
  have hst : a.stored = some stored.1 := ha ▸ h1
  have hfit : ∀ x, a.stored = some x → x < 2 ^ (8 * atomSize r.op) := fun x hx => by
    rw [hst] at hx; cases hx; rw [hsize]; exact h2
  obtain ⟨hb, hread⟩ := State.readNat_atomStored hm (by rw [hsize]; exact hmem) hfit
  obtain ⟨-, hk, -⟩ := State.doAtom_effect (n := n) (r := r) ho
  refine ⟨?_, ?_, ha ▸ h4⟩
  · rw [hk _ _ hmem hb, ← hsize, hread]
    exact congrArg (Option.getD · _) hst
  · dsimp only [Pending.performedAtom]
    rw [hsize, he, ha, h3, List.append_assoc]

/-- The count of free values is read for other packages alone. -/
theorem State.readNat_free (s : State) (f : Nat) {k n : Nat} (h : k + n ≤ Config.remoteKey) : ({ s with free := f } : State).readNat k n = s.readNat k n := by
  rw [State.readNat, State.readNat, State.readKeys, State.readKeys]
  refine congrArg leNat (List.map_congr_left fun i hi => ?_)
  have hk : ¬ Config.remoteKey ≤ k + i := by have := List.mem_range.mp hi; omega
  rw [State.keyByte, State.keyByte, if_neg hk, if_neg hk]
  rfl

/-- A request that nothing holds back is performed. -/
theorem atomicPerform_eq {s : State} {t : Thread} {id n : Nat} {p : Pending} {r : AtomReq} (ho : (s.hartOf t).op id = some p) (hr : p.atoms[n]? = some r)
    (hm : s.migrating r.key = false) (hd : s.spoilt r.key 8 = false) :
    exec (.atomicPerform t id n) s = .next { s.doAtom t p r n with free := s.free + 1 } := by
  have h8 : atomSize r.op ≤ 8 := by
    unfold atomSize Uses.atomBytes
    split
    · omega
    · split <;> omega
  have hsp : s.spoilt r.key (atomSize r.op) = false := by
    simp only [State.spoilt, List.any_eq_false, Bool.and_eq_true, decide_eq_true_eq, not_and, not_lt] at hd ⊢
    exact fun d hx hk => (Nat.add_le_add_left h8 _).trans (hd d hx hk)
  change execAtomicPerform t id n s = _
  simp only [execAtomicPerform, ho, hr, hm, hsp, Bool.or_self, Bool.false_eq_true, if_false]

/-- A request whose page is being moved, or whose datum is spoilt, waits. -/
theorem atomicPerform_waits {s : State} {t : Thread} {id n : Nat} {p : Pending} {r : AtomReq} (ho : (s.hartOf t).op id = some p) (hr : p.atoms[n]? = some r)
    (hw : s.migrating r.key = true ∨ s.spoilt r.key (atomSize r.op) = true) : exec (.atomicPerform t id n) s = .next s := by
  have hw : (s.migrating r.key || s.spoilt r.key (atomSize r.op)) = true := by simpa using hw
  change execAtomicPerform t id n s = _
  simp only [execAtomicPerform, ho, hr, hw, if_true]

/-- R123 to R125, R228, R231: what a request does, by its row of the table. -/
theorem atomicPerform_performs {s : State} {t : Thread} {id n : Nat} {p : Pending} {r : AtomReq} (ho : (s.hartOf t).op id = some p) (hr : p.atoms[n]? = some r)
    (hm : s.migrating r.key = false) (hd : s.spoilt r.key 8 = false) (hc : s.Canonical) :
    ∃ u q, exec (.atomicPerform t id n) s = .next u ∧ (u.hartOf t).op id = some q ∧ q.atoms = dropAt p.atoms n ∧ q.lines = p.lines ∧
      (∀ row ∈ atomicWords, r.op = row.1 → 8 ≤ row.1 → row.1 ≤ 11 → s.PlainRequest r row.2.1 →
        let run := r.elems.foldl (exchangeStep (row.2.2 (8 * row.2.1))) (BitVec.ofNat (8 * row.2.1) (s.readNat r.key row.2.1), [])
        u.readNat r.key row.2.1 = run.1.toNat ∧ q.writes = p.writes ++ run.2 ∧ q.flags = p.flags) ∧
      (∀ row ∈ mergedWords, r.op = row.1 → s.PlainRequest r row.2.1 → ∀ e es, r.elems = e :: es →
        let old := s.readNat r.key row.2.1
        let sum := partialSum row.2.2 (e.v, 0) es
        let stored := row.2.2 old (sum es.length).1
        let fl := (sum es.length).2 ||| stored.2
        u.readNat r.key row.2.1 = stored.1 ∧
        q.writes = p.writes ++ e.dst.landed old ++ es.zipIdx.flatMap (fun y => y.1.dst.landed (row.2.2 old (sum y.2).1).1) ∧
        (p.ld = true → q.flags = p.flags ||| fl) ∧
        (p.ld = false → q.flags = p.flags ∧ (r.key < Config.windowKey → let i := homeSlice r.key * 4096 + s.ctxOf t
          mapGetD u.sliceFlags i 0 = mapGetD s.sliceFlags i 0 ||| fl))) := by
  obtain ⟨hop, -, hsl⟩ := State.doAtom_effect (n := n) (r := r) ho
  refine ⟨_, p.performedAtom r n (atomPerform r.op r.elems (s.readNat r.key (atomSize r.op))), atomicPerform_eq ho hr hm hd, ?_, rfl, rfl, fun row hrow hrop h8 h11 hp => ?_, fun row hrow hrop hp e es he => ?_⟩
  · exact Eq.trans (by cases t <;> rfl) hop
  · obtain ⟨h1, h2, h3⟩ := State.doAtom_exchange (n := n) ho hc.1 hrow hrop h8 h11 hp
    exact ⟨(State.readNat_free _ _ hp.1).trans h1, h2, h3⟩
  · obtain ⟨h1, h2, h3⟩ := State.doAtom_merges (n := n) ho hc.1 hrow hrop hp he
    refine ⟨(State.readNat_free _ _ hp.1).trans h1, h2, fun hl => ?_, fun hl => ⟨?_, fun hw => ?_⟩⟩
    · exact (if_pos hl).trans (congrArg (p.flags ||| ·) h3)
    · exact if_neg (by rw [hl]; exact Bool.false_ne_true)
    · exact (hsl hl hw).trans (congrArg (_ ||| ·) h3)

end Sys2Proof.Machine
end

section
namespace Sys2Proof.Machine
open Sys2Proof

/-! ### The lookup of a routine depends on no counter -/

/-- The state with other clusters that translate the same: their TLBs and the split of their ways are as before. -/
def State.Translating (s : State) (cs : Vector Cluster 192) : Prop :=
  ∀ c, (State.cluster { s with clusters := cs } c).tlb = (s.cluster c).tlb ∧ (State.cluster { s with clusters := cs } c).split = (s.cluster c).split

theorem State.keyByte_clusters (s : State) (cs : Vector Cluster 192) (k : Nat) : ({ s with clusters := cs } : State).keyByte k = s.keyByte k := rfl

theorem State.readNat_clusters (s : State) (cs : Vector Cluster 192) (k n : Nat) : ({ s with clusters := cs } : State).readNat k n = s.readNat k n := rfl

theorem State.walk_clusters (s : State) (cs : Vector Cluster 192) (world : Option (BitVec 8)) (va : Nat) (l : List (Nat × Nat × Nat)) (base : Nat) :
    ({ s with clusters := cs } : State).walk world va l base = s.walk world va l base := by
  induction l generalizing base with
  | nil => rfl
  | cons x l ih =>
    obtain ⟨sh, bits, size⟩ := x
    rw [State.walk, State.walk]
    simp only [ih]
    rfl

theorem State.Translating.virt {s : State} {cs : Vector Cluster 192} (h : s.Translating cs) (w : Who) (need : List Nat) (va : Nat) :
    ({ s with clusters := cs } : State).virt w need va = s.virt w need va := by
  have ht : (State.cluster { s with clusters := cs } w.cluster).tlbHit w.ctx va = (s.cluster w.cluster).tlbHit w.ctx va := by
    rw [Cluster.tlbHit, (h _).1]; rfl
  unfold State.virt
  rw [ht]
  simp only [State.walk_clusters]
  rfl

theorem State.Translating.locate {s : State} {cs : Vector Cluster 192} (h : s.Translating cs) (w : Who) (c : Cap) (need : List Nat) (x : Nat) :
    ({ s with clusters := cs } : State).locate w c need x = s.locate w c need x := by
  unfold State.locate
  simp only [(h _).2, h.virt]
  rfl

theorem State.Translating.locateAll {s : State} {cs : Vector Cluster 192} (h : s.Translating cs) (w : Who) (c : Cap) (need : List Nat) (l : List (Nat × Nat))
    (segs : List Seg) (ts : List TlbEntry) : ({ s with clusters := cs } : State).locateAll w c need l segs ts = s.locateAll w c need l segs ts := by
  induction l generalizing segs ts with
  | nil => rfl
  | cons x l ih =>
    obtain ⟨x, n⟩ := x
    rw [State.locateAll, State.locateAll, h.locate]
    simp only [ih]
    rfl

theorem State.Translating.resolve {s : State} {cs : Vector Cluster 192} (h : s.Translating cs) (w : Who) (c : Cap) (perms need : List Nat) (x len align : Nat) :
    ({ s with clusters := cs } : State).resolve w c perms need x len align = s.resolve w c perms need x len align := by
  unfold State.resolve
  simp only [h.locateAll]

theorem State.Translating.dirEntry {s : State} {cs : Vector Cluster 192} (h : s.Translating cs) (ctx n perm : Nat) (need : List Nat) :
    ({ s with clusters := cs } : State).dirEntry ctx n perm need = s.dirEntry ctx n perm need := by
  unfold State.dirEntry
  simp only [h.resolve]
  rfl

/-- Counters do not reach a routine's lookup. -/
theorem State.Translating.lookupRoutine {s : State} {cs : Vector Cluster 192} (h : s.Translating cs) (slice ctx n : Nat) :
    ({ s with clusters := cs } : State).lookupRoutine slice ctx n = (s.lookupRoutine slice ctx n).map fun x => (x.1, { x.2 with clusters := cs }) := by
  have hr : ({ s with clusters := cs } : State).readRoutine ctx n = s.readRoutine ctx n := by
    unfold State.readRoutine
    rw [h.dirEntry]
    rfl
  unfold State.lookupRoutine
  rw [hr]
  dsimp only
  split
  · rfl
  · cases s.readRoutine ctx n <;> rfl

/-- A lookup changes the tables alone. -/
theorem State.lookupRoutine_state {s s1 : State} {slice ctx n : Nat} {e : RtEntry} (h : s.lookupRoutine slice ctx n = some (e, s1)) :
    ∃ tables, s1 = { s with tables := tables } := by
  unfold State.lookupRoutine at h
  dsimp only at h
  split at h
  · cases h; exact ⟨_, rfl⟩
  · obtain ⟨ws, -, hw⟩ := Option.map_eq_some_iff.mp h
    cases hw; exact ⟨_, rfl⟩

/-- A miss counted changes counters alone. -/
theorem State.countMiss_eq (s : State) (t : Thread) (r : LineReq) :
    ∃ cs, s.countMiss t r = { s with clusters := cs } ∧ s.Translating cs ∧ (s.countMiss t r).SameHarts s := by
  have same : ∃ cs, s = { s with clusters := cs } ∧ s.Translating cs ∧ s.SameHarts s := ⟨s.clusters, rfl, fun _ => ⟨rfl, rfl⟩, .refl s⟩
  have counted : ∀ cl core, ∃ cs, s.count cl core 12 1 = { s with clusters := cs } ∧ s.Translating cs ∧ (s.count cl core 12 1).SameHarts s := fun cl core => by
    rw [State.count_eq]
    refine ⟨_, rfl, fun c => ⟨?_, ?_⟩, ?_⟩
    · exact s.cluster_modCluster_part cl c _ (fun x => x.tlb) fun _ => rfl
    · exact s.cluster_modCluster_part cl c _ (fun x => x.split) fun _ => rfl
    · have e := s.sameHarts_modCluster cl (fun x => { x with cores := vmod x.cores core (Core.counting ((s.cluster cl).dbg.ctl.getLsbD 4) 12 1) }) fun _ => rfl
      exact ⟨rfl, rfl, fun x => (e.hart x).symm, fun _ => rfl⟩
  unfold State.countMiss
  split
  · exact same
  · split
    · exact same
    · exact counted _ _

end Sys2Proof.Machine
end

section
namespace Sys2Proof.Machine
open Sys2Proof

/-! ### A granule of memory written -/

/-- A line of 128 bytes in plain memory, of a state whose memory and tags have their forms. -/
structure State.MemoryLine (s : State) (k : Nat) : Prop where
  aligned : k % 128 = 0
  inside : k + 128 ≤ Config.remoteKey
  memory : ∀ i < 128, s.MemoryKey (k + i)
  mem : Memory.wf s.mem = true
  tags : Tags.wf s.tags = true

theorem State.tags_putKeys_memory {s : State} {k : Nat} (bs : List Byte) (h : ∀ i < bs.length, s.MemoryKey (k + i)) : (s.putKeys k bs).tags = s.tags := by
  induction bs generalizing s k with
  | nil => rfl
  | cons b bs ih =>
    obtain ⟨hl, hr, ht, hw⟩ := h 0 (by simp)
    have hs : (s.keyPut k b).tags = s.tags ∧ (s.keyPut k b).groups = s.groups := by
      simp only [Nat.add_zero] at hl hr ht hw
      simp only [State.keyPut, if_neg (Nat.not_le.2 hl), hr, ht, hw, and_self]
    have hsame : s.SameBlocks (s.keyPut k b) := by rw [State.SameBlocks]; exact congrArg _ hs.2
    rw [State.putKeys, ih (s := s.keyPut k b) (k := k + 1) ?_, hs.1]
    intro i hi
    rw [Nat.add_right_comm, State.MemoryKey, hsame.regOf]
    exact h (i + 1) (by simpa using hi)

theorem State.keyTag_memory {s : State} {k : Nat} (h : s.MemoryKey k) : s.keyTag k = tagGet s.tags (k / 16) := by
  obtain ⟨hl, hr, -, -⟩ := h
  simp only [State.keyTag, if_neg (Nat.not_le.2 hl), hr]

/-- A whole granule written: its tag alone is cleared. -/
theorem State.tags_writeGranule {s : State} {k : Nat} {bs : List Byte} (hk : k % 16 = 0) (hb : bs.length = 16) (h : ∀ i < 16, s.MemoryKey (k + i)) :
    (s.writeKeys k bs).tags = tagPut s.tags (k / 16) false := by
  obtain ⟨hsame, -⟩ := s.sameBlocks_clearTags k bs.length
  have hc : s.clearTags k bs.length = s.keySetTag k false := by
    have h1 : (k + bs.length - 1) / 16 + 1 - k / 16 = 1 := by omega
    have h2 : (k / 16 + 0) * 16 = k := by omega
    rw [State.clearTags, if_neg (by omega), h1, List.range_one, List.foldl_cons, h2]
    rfl
  rw [State.writeKeys, State.tags_putKeys_memory, hc]
  · obtain ⟨hl, hr, -, -⟩ := h 0 (by omega)
    rw [Nat.add_zero] at hl hr
    simp only [State.keySetTag, if_neg (Nat.not_le.2 hl), hr]
  · intro i hi
    rw [State.MemoryKey, hsame.regOf]; exact h i (by omega)

/-! ### An invocation that commits (R241) -/

/-- The sixteen bytes that a granule of an invocation's registers gives. -/
def Routine.granuleBytes (r : Routine) (g : Nat) : List Byte := leBytes 8 (vgetD r.regs (2 * g) 0).toNat ++ leBytes 8 (vgetD r.regs (2 * g + 1) 0).toNat

theorem Routine.length_granuleBytes (r : Routine) (g : Nat) : (r.granuleBytes g).length = 16 := by rw [Routine.granuleBytes, List.length_append, length_leBytes, length_leBytes]

/-- The eight bytes of register i in its granule. -/
theorem Routine.granuleBytes_word (r : Routine) (i : Nat) :
    (List.range 8).map (fun j => (r.granuleBytes (i / 2)).getD (8 * (i % 2) + j) 0) = leBytes 8 (vgetD r.regs i 0).toNat := by
  refine List.ext_getElem (by simp) fun j h1 h2 => ?_
  have hj : j < 8 := by simpa using h1
  rw [List.getElem_map, List.getElem_range, Routine.granuleBytes]
  rcases Nat.mod_two_eq_zero_or_one i with hi | hi
  · rw [hi, Nat.mul_zero, Nat.zero_add, List.getD_append _ _ _ _ (by rw [length_leBytes]; exact hj), show 2 * (i / 2) = i by omega, List.getD_eq_getElem]
  · rw [hi, Nat.mul_one, List.getD_append_right _ _ _ _ (by rw [length_leBytes]; omega), length_leBytes, Nat.add_sub_cancel_left,
      show 2 * (i / 2) + 1 = i by omega, List.getD_eq_getElem]

theorem State.MemoryLine.word {s : State} {k i : Nat} (h : s.MemoryLine k) (hi : i < 16) : ∀ j < 8, s.MemoryKey (k + 8 * i + j) := fun j hj => by
  rw [Nat.add_assoc]; exact h.memory _ (by omega)

theorem leNat_leBytes_word (x : Word) : leNat (leBytes 8 x.toNat) = x.toNat := by
  rw [leNat_leBytes]; exact Nat.mod_eq_of_lt x.isLt

/-- A granule written from an invocation's registers: its two words and its tag. -/
theorem State.MemoryLine.writeGranule {s : State} {k : Nat} (h : s.MemoryLine k) (r : Routine) {g : Nat} (hg : g < 8) :
    let u := s.writeKeys (k + 16 * g) (r.granuleBytes g)
    u.MemoryLine k ∧ (∀ i < 16, u.readNat (k + 8 * i) 8 = if i / 2 = g then (vgetD r.regs i 0).toNat else s.readNat (k + 8 * i) 8) ∧
    (∀ j < 8, u.keyTag (k + 16 * j) = if j = g then false else s.keyTag (k + 16 * j)) := by
  intro u
  have hlen := r.length_granuleBytes g
  have hkeys : ∀ i < 16, s.MemoryKey (k + 16 * g + i) := fun i hi => by rw [Nat.add_assoc]; exact h.memory _ (by omega)
  obtain ⟨hb, hm⟩ := State.sameBlocks_writeKeys (s := s) (k := k + 16 * g) (r.granuleBytes g) (by rw [hlen]; exact hkeys)
  have ha := h.aligned
  have ht : u.tags = tagPut s.tags ((k + 16 * g) / 16) false := State.tags_writeGranule (by omega) hlen hkeys
  have hu : u.MemoryLine k :=
    { aligned := ha, inside := h.inside, memory := fun i hi => by rw [State.MemoryKey, hb.regOf]; exact h.memory i hi,
      mem := by rw [hm]; exact memWrite_wf _ _ _ h.mem, tags := by rw [ht]; exact tagPut_wf _ _ _ h.tags }
  refine ⟨hu, fun i hi => ?_, fun j hj => ?_⟩
  · rw [State.readNat_memory (hu.word hi), State.readNat_memory (h.word hi), hm, memRead, memRead]
    split
    next e =>
      rw [← leNat_leBytes_word (vgetD r.regs i 0), ← r.granuleBytes_word i, e]
      refine congrArg leNat (List.map_congr_left fun j hj => ?_)
      have hj := List.mem_range.mp hj
      rw [memGet_memWrite _ _ _ _ h.mem, if_pos (by omega), show k + 8 * i + j - (k + 16 * g) = 8 * (i % 2) + j by omega,
        List.getD_eq_getElem _ _ (by omega), List.getD_eq_getElem _ _ (by omega)]
    next e =>
      refine congrArg leNat (List.map_congr_left fun j hj => ?_)
      have hj := List.mem_range.mp hj
      rw [memGet_memWrite _ _ _ _ h.mem]
      split
      · rw [List.getD_eq_default _ _ (by omega)]
      · rfl
  · rw [State.keyTag_memory (hu.memory _ (by omega)), State.keyTag_memory (h.memory _ (by omega)), ht, tagGet_tagPut _ _ _ _ h.tags]
    refine if_congr ?_ rfl rfl
    omega

/-- The granules of an invocation written one after another. -/
theorem State.MemoryLine.commit {k : Nat} (r : Routine) (gs : List Nat) (hgs : ∀ g ∈ gs, g < 8) {s : State} (h : s.MemoryLine k) :
    let u := gs.foldl (fun s g => s.writeKeys (k + 16 * g) (r.granuleBytes g)) s
    u.MemoryLine k ∧ (∀ i < 16, u.readNat (k + 8 * i) 8 = if i / 2 ∈ gs then (vgetD r.regs i 0).toNat else s.readNat (k + 8 * i) 8) ∧
    (∀ j < 8, u.keyTag (k + 16 * j) = if j ∈ gs then false else s.keyTag (k + 16 * j)) := by
  induction gs generalizing s with
  | nil => exact ⟨h, fun i _ => (if_neg List.not_mem_nil).symm, fun j _ => (if_neg List.not_mem_nil).symm⟩
  | cons g gs ih =>
    obtain ⟨h1, h2, h3⟩ := h.writeGranule r (hgs g List.mem_cons_self)
    obtain ⟨i1, i2, i3⟩ := ih (fun x hx => hgs x (List.mem_cons_of_mem _ hx)) h1
    refine ⟨i1, fun i hi => ?_, fun j hj => ?_⟩
    · rw [List.foldl_cons, i2 i hi, h2 i hi]
      by_cases hm : i / 2 ∈ gs <;> by_cases he : i / 2 = g <;> simp [hm, he]
    · rw [List.foldl_cons, i3 j hj, h3 j hj]
      by_cases hm : j ∈ gs <;> by_cases he : j = g <;> simp [hm, he]

theorem Routine.mem_granules {r : Routine} {g : Nat} : g ∈ r.granules ↔ g < 8 ∧ r.written.getLsbD g = true := by
  rw [Routine.granules, List.mem_filter, List.mem_range]

theorem Routine.any_granules (r : Routine) (p : Nat → Bool) : r.granules.any p = true ↔ ∃ g < 8, r.written.getLsbD g = true ∧ p g = true := by
  simp only [List.any_eq_true, Routine.mem_granules, and_assoc]

/-- The state after an invocation that commits. -/
def State.committed (s : State) (k : Nat) (r : Routine) : State := r.granules.foldl (fun s g => s.writeKeys (k + 16 * g) (r.granuleBytes g)) s

/-- R241: the line after an invocation commits: the granules that it wrote, no longer tagged. -/
theorem State.MemoryLine.committed {s : State} {k : Nat} (h : s.MemoryLine k) (r : Routine) :
    (s.committed k r).MemoryLine k ∧
    (∀ i < 16, (s.committed k r).readNat (k + 8 * i) 8 = if r.written.getLsbD (i / 2) then (vgetD r.regs i 0).toNat else s.readNat (k + 8 * i) 8) ∧
    (∀ j < 8, (s.committed k r).keyTag (k + 16 * j) = (s.keyTag (k + 16 * j) && !r.written.getLsbD j)) := by
  obtain ⟨h1, h2, h3⟩ := h.commit r r.granules fun g hg => (Routine.mem_granules.mp hg).1
  refine ⟨h1, fun i hi => ?_, fun j hj => ?_⟩
  · refine (h2 i hi).trans (if_congr ?_ rfl rfl)
    rw [Routine.mem_granules]
    exact ⟨And.right, fun hw => ⟨by omega, hw⟩⟩
  · refine (h3 j hj).trans ?_
    by_cases hw : r.written.getLsbD j = true
    · rw [if_pos (Routine.mem_granules.mpr ⟨hj, hw⟩), hw, Bool.not_true, Bool.and_false]
    · rw [if_neg fun hm => hw (Routine.mem_granules.mp hm).2, Bool.eq_false_iff.mpr hw, Bool.not_false, Bool.and_true]

theorem State.endRoutine_eq (s : State) (k : Nat) (r : Routine) : s.endRoutine k r =
    if r.fin = .fail then (0x28, s) else if r.fin = .ret ∧ (r.granules.any fun g => s.keyTag (k + 16 * g)) then (0x2A, s) else (0, s.committed k r) := rfl

theorem State.sameHarts_endRoutine (s : State) (k : Nat) (r : Routine) : s.SameHarts (s.endRoutine k r).2 := by
  rw [State.endRoutine_eq]
  split
  · exact .refl s
  · split
    · exact .refl s
    · exact State.sameHarts_foldl _ (fun _ _ => State.sameHarts_writeKeys _ _ _) _ s

end Sys2Proof.Machine
end

section
namespace Sys2Proof.Machine
open Sys2Proof

/-! ### The invocations of one line (R243) -/

theorem vgetD_ofFn {α : Type} {n : Nat} (f : Fin n → α) {i : Nat} (hi : i < n) (d : α) : vgetD (Vector.ofFn f) i d = f ⟨i, hi⟩ := by
  rw [vgetD, dif_pos hi, Vector.getElem_ofFn]

theorem State.lineImage_word (s : State) (k : Nat) {i : Nat} (hi : i < 16) : vgetD (s.lineImage k).words i 0 = BitVec.ofNat 64 (s.readNat (k + 8 * i) 8) :=
  vgetD_ofFn _ hi _

theorem State.toNat_lineImage_word (s : State) (k : Nat) {i : Nat} (hi : i < 16) : (vgetD (s.lineImage k).words i 0).toNat = s.readNat (k + 8 * i) 8 := by
  rw [s.lineImage_word k hi]; exact ofNat_lift (s.readNat_lt_bits _ _)

theorem State.lineImage_tag (s : State) (k : Nat) {g : Nat} (hg : g < 8) : vgetD (s.lineImage k).tagged g false = s.keyTag (k + 16 * g) := vgetD_ofFn _ hg _

/-- The registers that an invocation of a line's image starts with. -/
def LineImage.registers (l : LineImage) (e : LineElem) : Vector Word 32 :=
  Vector.ofFn fun i => if i.val < 16 then vgetD l.words i.val 0 else if i.val = 16 then e.o0 else if i.val = 17 then e.o1 else 0

theorem State.startRoutine_image (s : State) (k : Nat) (e : LineElem) : s.startRoutine k e.o0 e.o1 = ⟨(s.lineImage k).registers e, 0, 0, 0, .running⟩ := by
  refine congrArg (fun v => Routine.mk v 0 0 0 .running) (Vector.ext fun i hi => ?_)
  rw [LineImage.registers, Vector.getElem_ofFn, Vector.getElem_ofFn]
  by_cases h : i < 16
  · rw [if_pos h, if_pos h, s.lineImage_word k h]
  · rw [if_neg h, if_neg h]

/-- The line after an invocation ended so, and the status. -/
def LineImage.ended (l : LineImage) (o : Routine) : LineImage × Nat :=
  if o.fin = .fail then (l, 0x28)
  else if o.fin = .ret ∧ ∃ g < 8, o.written.getLsbD g = true ∧ vgetD l.tagged g false = true then (l, 0x2A)
  else (⟨Vector.ofFn fun i => if o.written.getLsbD (i.val / 2) then vgetD o.regs i.val 0 else vgetD l.words i.val 0,
         Vector.ofFn fun i => vgetD l.tagged i.val false && !o.written.getLsbD i.val⟩, 0)

theorem LineImage.invoke_eq (l : LineImage) (ws : List (BitVec 32)) (e : LineElem) :
    l.invoke ws e =
    (let o := Routine.run ws 32 ⟨l.registers e, 0, 0, 0, .running⟩
     ((l.ended o).1, vgetD o.regs 26 0, (l.ended o).2)) := by
  have split : ∀ o : Routine, (if o.fin = .fail then (l, vgetD o.regs 26 0, 0x28)
      else if o.fin = .ret ∧ ∃ g < 8, o.written.getLsbD g = true ∧ vgetD l.tagged g false = true then (l, vgetD o.regs 26 0, 0x2A)
      else (⟨Vector.ofFn fun i => if o.written.getLsbD (i.val / 2) then vgetD o.regs i.val 0 else vgetD l.words i.val 0,
             Vector.ofFn fun i => vgetD l.tagged i.val false && !o.written.getLsbD i.val⟩, vgetD o.regs 26 0, 0)) =
      ((l.ended o).1, vgetD o.regs 26 0, (l.ended o).2) := fun o => by
    unfold LineImage.ended
    split
    · rfl
    · split <;> rfl
  exact split _

/-- Whether a granule that an invocation wrote is tagged, by the line's image. -/
theorem State.writes_tagged_iff (s : State) (k : Nat) (o : Routine) :
    (o.granules.any fun g => s.keyTag (k + 16 * g)) = true ↔ ∃ g < 8, o.written.getLsbD g = true ∧ vgetD (s.lineImage k).tagged g false = true := by
  rw [Routine.any_granules]
  constructor
  · rintro ⟨g, hg, hw, ht⟩; exact ⟨g, hg, hw, by rw [s.lineImage_tag k hg]; exact ht⟩
  · rintro ⟨g, hg, hw, ht⟩; exact ⟨g, hg, hw, by rw [s.lineImage_tag k hg] at ht; exact ht⟩

/-- The end of an invocation in memory is that of its line's image. -/
theorem State.MemoryLine.endRoutine {s : State} {k : Nat} (h : s.MemoryLine k) (o : Routine) :
    (s.endRoutine k o).2.MemoryLine k ∧ (s.lineImage k).ended o = ((s.endRoutine k o).2.lineImage k, (s.endRoutine k o).1) := by
  rw [State.endRoutine_eq, LineImage.ended]
  simp only [← s.writes_tagged_iff k o]
  split
  · exact ⟨h, rfl⟩
  · split
    · exact ⟨h, rfl⟩
    · obtain ⟨h1, h2, h3⟩ := h.committed o
      refine ⟨h1, Prod.ext ?_ rfl⟩
      refine LineImage.mk.injEq .. |>.mpr ⟨Vector.ext fun i hi => ?_, Vector.ext fun j hj => ?_⟩
      · rw [Vector.getElem_ofFn, Vector.getElem_ofFn, h2 i hi, s.lineImage_word k hi]
        split
        · rw [BitVec.ofNat_toNat, BitVec.setWidth_eq]
        · rfl
      · rw [Vector.getElem_ofFn, Vector.getElem_ofFn, h3 j hj, s.lineImage_tag k hj]

/-- What one invocation does to a line's image and the writes before it. -/
def invokeStep (ws : List (BitVec 32)) (acc : LineImage × List RegWrite) (e : LineElem) : LineImage × List RegWrite :=
  let o := acc.1.invoke ws e
  (o.1, acc.2 ++ e.dq.landed o.2.1.toNat ++ e.dst.landed o.2.2)

theorem LineElem.done_eq_landed (e : LineElem) (q : Word) {st : Nat} (h : st < 2 ^ 64) : (e.done q.toNat st).1 = e.dq.landed q.toNat ++ e.dst.landed st := by
  rw [LineElem.done, ResDst.write_eq_landed _ q.isLt, ResDst.write_eq_landed _ h]

theorem State.endRoutine_status_lt (s : State) (k : Nat) (o : Routine) : (s.endRoutine k o).1 < 2 ^ 64 := by
  rw [State.endRoutine_eq]
  split
  · exact (by decide : 0x28 < 2 ^ 64)
  · split
    · exact (by decide : 0x2A < 2 ^ 64)
    · exact (by decide : 0 < 2 ^ 64)

/-- The invocation that an element starts. -/
def State.invocation (s : State) (ws : List (BitVec 32)) (k : Nat) (e : LineElem) : Routine := Routine.run ws 32 (s.startRoutine k e.o0 e.o1)

theorem State.runLine_cons (s : State) (ws : List (BitVec 32)) (k : Nat) (e : LineElem) (es : List LineElem) :
    s.runLine ws k (e :: es) =
    (let r := s.invocation ws k e
     let o := s.endRoutine k r
     let d := e.done (vgetD r.regs 26 0).toNat o.1
     let rest := State.runLine { o.2 with rt := r } ws k es
     (rest.1, d.1 ++ rest.2.1, d.2 ++ rest.2.2.1, (if o.1 = 0 then r.flags else 0) ||| rest.2.2.2)) := rfl

theorem State.sameHarts_runLine (ws : List (BitVec 32)) (k : Nat) (es : List LineElem) (s : State) : s.SameHarts (s.runLine ws k es).1 := by
  induction es generalizing s with
  | nil => exact .refl s
  | cons e es ih =>
    rw [State.runLine_cons]
    dsimp only
    have h := s.sameHarts_endRoutine k (s.invocation ws k e)
    have h' : s.SameHarts { (s.endRoutine k (s.invocation ws k e)).2 with rt := s.invocation ws k e } :=
      ⟨h.cur, h.next, fun x => Eq.trans (by cases x <;> rfl) (h.hart x), h.some⟩
    exact h'.trans (ih _)

/-- R243: the invocations of a line, each on the line as the one before left it. -/
theorem State.MemoryLine.runLine {ws : List (BitVec 32)} {k : Nat} (es : List LineElem) {s : State} (h : s.MemoryLine k) (w : List RegWrite) :
    (s.runLine ws k es).1.MemoryLine k ∧ es.foldl (invokeStep ws) (s.lineImage k, w) = ((s.runLine ws k es).1.lineImage k, w ++ (s.runLine ws k es).2.1) := by
  induction es generalizing s w with
  | nil => exact ⟨h, by rw [List.foldl_nil]; exact congrArg _ (List.append_nil w).symm⟩
  | cons e es ih =>
    obtain ⟨h1, h2⟩ := h.endRoutine (s.invocation ws k e)
    have hnext : ({ (s.endRoutine k (s.invocation ws k e)).2 with rt := s.invocation ws k e } : State).MemoryLine k := ⟨h1.1, h1.2, h1.3, h1.4, h1.5⟩
    have hstep : invokeStep ws (s.lineImage k, w) e =
        ((s.endRoutine k (s.invocation ws k e)).2.lineImage k, w ++ (e.done (vgetD (s.invocation ws k e).regs 26 0).toNat (s.endRoutine k (s.invocation ws k e)).1).1) := by
      rw [LineElem.done_eq_landed _ _ (s.endRoutine_status_lt k _), invokeStep, LineImage.invoke_eq, ← s.startRoutine_image k e]
      dsimp only
      rw [← State.invocation, h2, List.append_assoc]
    obtain ⟨i1, i2⟩ := ih hnext (w ++ (e.done (vgetD (s.invocation ws k e).regs 26 0).toNat (s.endRoutine k (s.invocation ws k e)).1).1)
    rw [List.foldl_cons, hstep, State.runLine_cons]
    refine ⟨i1, Eq.trans i2 ?_⟩
    rw [List.append_assoc]

/-! ### A line request performed -/

theorem State.doLine_missing {s : State} {ctx : Nat} {r : LineReq} (hk : r.key < Config.remoteKey) (h : s.lookupRoutine (homeSlice r.key) ctx r.n = none) :
    s.doLine ctx r = (s, (r.answer 0 0x2C).1, (r.answer 0 0x2C).2, 0) := by
  rw [State.doLine, if_neg (Nat.not_le.2 hk), h]

theorem State.doLine_legal {s s1 : State} {ctx : Nat} {r : LineReq} {e : RtEntry} (hk : r.key < Config.remoteKey)
    (h : s.lookupRoutine (homeSlice r.key) ctx r.n = some (e, s1)) (he : e.legal = true) : s.doLine ctx r = s1.runLine e.words r.key r.elems := by
  rw [State.doLine, if_neg (Nat.not_le.2 hk), h]
  exact if_pos he

theorem State.sameHarts_doLine (s : State) (ctx : Nat) (r : LineReq) : s.SameHarts (s.doLine ctx r).1 := by
  unfold State.doLine
  split
  · exact .refl s
  · split
    · exact .refl s
    next e s1 h =>
      obtain ⟨tables, rfl⟩ := State.lookupRoutine_state h
      have ht : s.SameHarts { s with tables := tables } := ⟨rfl, rfl, fun x => by cases x <;> rfl, fun _ => rfl⟩
      split
      · exact ht.trans (State.sameHarts_runLine _ _ _ _)
      · exact ht

/-- The operation after one of its lines. -/
def Pending.performedLine (p : Pending) (n : Nat) (d : State × List RegWrite × List (Nat × Nat × Word) × Flags) : Pending :=
  { p with lines := dropAt p.lines n, writes := p.writes ++ d.2.1, ends := p.ends ++ d.2.2.1, flags := p.flags ||| d.2.2.2 }

/-- A line request that nothing holds back is performed: its answers stand with the operation. -/
theorem lineRoutineInvocation_eq {s : State} {t : Thread} {id n : Nat} {p : Pending} {r : LineReq} (ho : (s.hartOf t).op id = some p) (hr : p.lines[n]? = some r)
    (hm : s.migrating r.key = false) (hd : s.spoilt r.key 128 = false) :
    let d := (s.countMiss t r).doLine (s.ctxOf t) r
    ∃ u, exec (.lineRoutineInvocation t id n) s = .next u ∧ (u.hartOf t).op id = some (p.performedLine n d) ∧ u.mem = d.1.mem ∧ u.tags = d.1.tags ∧ d.1.SameBlocks u := by
  intro d
  obtain ⟨_, -, -, hc⟩ := s.countMiss_eq t r
  have hh : d.1.hartOf t = s.hartOf t := ((State.sameHarts_doLine _ _ _).hart t).trans (hc.hart t).symm
  have ho' : (d.1.hartOf t).op id = some p := by rw [hh]; exact ho
  let f : Pending → Pending := fun q => { q with lines := dropAt q.lines n, writes := q.writes ++ d.2.1, ends := q.ends ++ d.2.2.1, flags := q.flags ||| d.2.2.2 }
  refine ⟨{ d.1.modHartOf t fun h => h.modOp id f with free := d.1.free + 1 }, ?_, ?_, ?_, ?_, ?_⟩
  · change execLineRoutineInvocation t id n s = _
    simp only [execLineRoutineInvocation, ho, hr, hm, hd, Bool.or_self, Bool.false_eq_true, if_false]
    rfl
  · have e := State.hartOf_modHartOf (fun h => h.modOp id f) (State.resident_of_op ho')
    refine Eq.trans ?_ ((congrArg (fun h : Hart => h.op id) e).trans (Hart.op_modOp f (fun _ => rfl) ho'))
    cases t <;> rfl
  · cases t <;> rfl
  · cases t <;> rfl
  · exact (d.1.sameBlocks_modHartOf t fun h => h.modOp id f)

end Sys2Proof.Machine
end

section
namespace Sys2Proof.Machine
open Sys2Proof

/-! ### The invocation event -/

/-- A line whose page is being moved, or that is spoilt, waits. -/
theorem lineRoutineInvocation_waits {s : State} {t : Thread} {id n : Nat} {p : Pending} {r : LineReq} (ho : (s.hartOf t).op id = some p)
    (hr : p.lines[n]? = some r) (hw : s.migrating r.key = true ∨ s.spoilt r.key 128 = true) : exec (.lineRoutineInvocation t id n) s = .next s := by
  have hw : (s.migrating r.key || s.spoilt r.key 128) = true := by simpa using hw
  change execLineRoutineInvocation t id n s = _
  simp only [execLineRoutineInvocation, ho, hr, hw, if_true]

theorem State.countMiss_memory (s : State) (t : Thread) (r : LineReq) : (s.countMiss t r).mem = s.mem ∧ (s.countMiss t r).tags = s.tags := by
  obtain ⟨cs, e, -, -⟩ := s.countMiss_eq t r
  rw [e]; exact ⟨rfl, rfl⟩

theorem State.lookupRoutine_countMiss_none {s : State} (t : Thread) (r : LineReq) {slice ctx n : Nat} (h : s.lookupRoutine slice ctx n = none) :
    (s.countMiss t r).lookupRoutine slice ctx n = none := by
  obtain ⟨cs, e, htr, -⟩ := s.countMiss_eq t r
  rw [e, htr.lookupRoutine, h]; rfl

/-- A routine found is found behind the count of a miss too; clusters and tables apart, the state is as it was. -/
theorem State.lookupRoutine_countMiss {s s1 : State} (t : Thread) (r : LineReq) {slice ctx n : Nat} {e : RtEntry} (h : s.lookupRoutine slice ctx n = some (e, s1)) :
    ∃ cs tables, (s.countMiss t r).lookupRoutine slice ctx n = some (e, { s with clusters := cs, tables := tables }) ∧
      ∀ k x y, s1.startRoutine k x y = s.startRoutine k x y := by
  obtain ⟨cs, hc, htr, -⟩ := s.countMiss_eq t r
  obtain ⟨tables, rfl⟩ := State.lookupRoutine_state h
  exact ⟨cs, tables, by rw [hc, htr.lookupRoutine, h]; rfl, fun _ _ _ => rfl⟩

theorem State.MemoryLine.of_same {s u : State} {k : Nat} (h : s.MemoryLine k) (hb : s.SameBlocks u) (hm : u.mem = s.mem) (ht : u.tags = s.tags) : u.MemoryLine k where
  aligned := h.aligned
  inside := h.inside
  memory := fun i hi => by rw [State.MemoryKey, hb.regOf]; exact h.memory i hi
  mem := by rw [hm]; exact h.mem
  tags := by rw [ht]; exact h.tags

/-- States with the same blocks, memory and tags hold the same in a line of memory. -/
theorem State.MemoryLine.same {s u : State} {k : Nat} (h : s.MemoryLine k) (hb : s.SameBlocks u) (hm : u.mem = s.mem) (ht : u.tags = s.tags) :
    (∀ i < 16, u.readNat (k + 8 * i) 8 = s.readNat (k + 8 * i) 8) ∧ ∀ j < 8, u.keyTag (k + 16 * j) = s.keyTag (k + 16 * j) :=
  ⟨fun _ hi => State.readNat_congr hb hm (h.word hi), fun j hj => by
    rw [State.keyTag_memory ((h.of_same hb hm ht).memory _ (by omega)), State.keyTag_memory (h.memory _ (by omega)), ht]⟩

theorem State.runLine_one (s : State) (ws : List (BitVec 32)) (k : Nat) (e : LineElem) :
    (s.runLine ws k [e]).1 = { (s.endRoutine k (s.invocation ws k e)).2 with rt := s.invocation ws k e } ∧
    (s.runLine ws k [e]).2.1 = (e.done (vgetD (s.invocation ws k e).regs 26 0).toNat (s.endRoutine k (s.invocation ws k e)).1).1 :=
  ⟨rfl, List.append_nil _⟩

/-- The line of a canonical state that lies in plain memory. -/
theorem State.Canonical.memoryLine {s : State} {k : Nat} (h : s.Canonical) (ha : k % 128 = 0) (hk : k + 128 ≤ Config.remoteKey)
    (hp : ∀ i < 128, tagByte (k + i) = none ∧ s.regOf (k + i) = none ∧ worldByte (k + i) = none) : s.MemoryLine k where
  aligned := ha
  inside := hk
  memory := fun i hi => ⟨by omega, (hp i hi).2.1, (hp i hi).1, (hp i hi).2.2⟩
  mem := h.1
  tags := h.2.1

/-- R224, R239 to R243: what a line request does. -/
theorem lineRoutineInvocation_performs {s : State} {t : Thread} {id n : Nat} {p : Pending} {r : LineReq} (ho : (s.hartOf t).op id = some p)
    (hr : p.lines[n]? = some r) (hm : s.migrating r.key = false) (hd : s.spoilt r.key 128 = false) :
    ∃ u q, exec (.lineRoutineInvocation t id n) s = .next u ∧ (u.hartOf t).op id = some q ∧ q.lines = dropAt p.lines n ∧ q.atoms = p.atoms ∧
      (r.key < Config.remoteKey → s.lookupRoutine (homeSlice r.key) (s.ctxOf t) r.n = none →
        u.mem = s.mem ∧ u.tags = s.tags ∧ q.writes = p.writes ++ r.elems.flatMap fun e => (e.done 0 0x2C).1) ∧
      (∀ entry s1, s.lookupRoutine (homeSlice r.key) (s.ctxOf t) r.n = some (entry, s1) → entry.legal = true → s.MemoryLine r.key →
        let z := r.elems.foldl (invokeStep entry.words) (s.lineImage r.key, [])
        q.writes = p.writes ++ z.2 ∧ (∀ i < 16, u.readNat (r.key + 8 * i) 8 = (vgetD z.1.words i 0).toNat) ∧ ∀ i < 8, u.keyTag (r.key + 16 * i) = vgetD z.1.tagged i false) ∧
      (∀ entry s1 e, r.key < Config.remoteKey → s.lookupRoutine (homeSlice r.key) (s.ctxOf t) r.n = some (entry, s1) → entry.legal = true → r.elems = [e] →
        let o := Routine.run entry.words 32 (s1.startRoutine r.key e.o0 e.o1)
        (o.fin = .fail → u.mem = s.mem ∧ u.tags = s.tags ∧ q.writes = p.writes ++ (e.done (vgetD o.regs 26 0).toNat 0x28).1) ∧
        (o.fin = .ret → (∃ g < 8, o.written.getLsbD g = true ∧ s.keyTag (r.key + 16 * g) = true) →
          u.mem = s.mem ∧ u.tags = s.tags ∧ q.writes = p.writes ++ (e.done (vgetD o.regs 26 0).toNat 0x2A).1) ∧
        (o.fin = .retTc ∨ o.fin = .ret ∧ (∀ g < 8, o.written.getLsbD g = true → s.keyTag (r.key + 16 * g) = false) →
          q.writes = p.writes ++ (e.done (vgetD o.regs 26 0).toNat 0).1 ∧
          (s.MemoryLine r.key →
            ∀ i < 16, u.readNat (r.key + 8 * i) 8 = if o.written.getLsbD (i / 2) then (vgetD o.regs i 0).toNat else s.readNat (r.key + 8 * i) 8))) := by
  obtain ⟨u, he, hop, hmem, htags, hblocks⟩ := lineRoutineInvocation_eq ho hr hm hd
  refine ⟨u, _, he, hop, rfl, rfl, fun hk hl => ?_, fun entry s1 hl hlegal hline => ?_, fun entry s1 e hk hl hlegal hone => ?_⟩
  · rw [State.doLine_missing hk (State.lookupRoutine_countMiss_none t r hl)] at hmem htags ⊢
    obtain ⟨h1, h2⟩ := s.countMiss_memory t r
    exact ⟨hmem.trans h1, htags.trans h2, rfl⟩
  · obtain ⟨cs, tables, hl', -⟩ := State.lookupRoutine_countMiss t r hl
    have hk : r.key < Config.remoteKey := by have := hline.inside; omega
    rw [State.doLine_legal hk hl' hlegal] at hmem htags hblocks ⊢
    have hline' : ({ s with clusters := cs, tables := tables } : State).MemoryLine r.key := hline.of_same rfl rfl rfl
    obtain ⟨h1, h2⟩ := hline'.runLine (ws := entry.words) r.elems []
    have h2 : r.elems.foldl (invokeStep entry.words) (s.lineImage r.key, []) = _ := h2
    obtain ⟨h3, h4⟩ := h1.same hblocks hmem htags
    dsimp only
    rw [h2]
    refine ⟨rfl, fun i hi => ?_, fun j hj => ?_⟩
    · rw [h3 i hi, State.toNat_lineImage_word _ _ hi]
    · rw [h4 j hj, State.lineImage_tag _ _ hj]
  · obtain ⟨cs, tables, hl', hs⟩ := State.lookupRoutine_countMiss t r hl
    rw [State.doLine_legal hk hl' hlegal, hone] at hmem htags hblocks ⊢
    have hs2 : ({ s with clusters := cs, tables := tables } : State).invocation entry.words r.key e = Routine.run entry.words 32 (s1.startRoutine r.key e.o0 e.o1) := by
      rw [hs]; rfl
    obtain ⟨h1, h2⟩ := ({ s with clusters := cs, tables := tables } : State).runLine_one entry.words r.key e
    rw [hs2, State.endRoutine_eq] at h1 h2
    dsimp only [Pending.performedLine]
    rw [h1] at hmem htags hblocks
    rw [h2]
    generalize Routine.run entry.words 32 (s1.startRoutine r.key e.o0 e.o1) = o at hmem htags hblocks
    refine ⟨fun hf => ?_, fun hf htag => ?_, fun hf => ?_⟩
    · rw [if_pos hf] at hmem htags ⊢
      exact ⟨hmem, htags, rfl⟩
    · have hnf : ¬ o.fin = .fail := by rw [hf]; decide
      have hret : o.fin = .ret ∧ (o.granules.any fun g => ({ s with clusters := cs, tables := tables } : State).keyTag (r.key + 16 * g)) :=
        ⟨hf, (Routine.any_granules _ _).mpr htag⟩
      rw [if_neg hnf, if_pos hret] at hmem htags ⊢
      exact ⟨hmem, htags, rfl⟩
    · have hnf : ¬ o.fin = .fail := by rcases hf with hf | ⟨hf, -⟩ <;> rw [hf] <;> decide
      have hret : ¬ (o.fin = .ret ∧ (o.granules.any fun g => ({ s with clusters := cs, tables := tables } : State).keyTag (r.key + 16 * g))) := by
        rintro ⟨hr, hg⟩
        rcases hf with hf | ⟨-, hf⟩
        · rw [hr] at hf; exact nomatch hf
        · obtain ⟨g, hg8, hgw, hgt⟩ := (Routine.any_granules _ _).mp hg
          exact Bool.false_ne_true ((hf g hg8 hgw).symm.trans hgt)
      rw [if_neg hnf, if_neg hret] at hmem htags hblocks ⊢
      refine ⟨rfl, fun hline i hi => ?_⟩
      have hline' : ({ s with clusters := cs, tables := tables } : State).MemoryLine r.key := hline.of_same rfl rfl rfl
      obtain ⟨c1, c2, -⟩ := hline'.committed o
      exact ((c1.of_same (u := { State.committed { s with clusters := cs, tables := tables } r.key o with rt := o }) rfl rfl rfl).same hblocks hmem htags).1 i hi |>.trans (c2 i hi)

end Sys2Proof.Machine

open Sys2Proof Sys2Proof.Machine

/-- Settles O39: the returns by what lands, the atomics by the rows of R228 and R125, the line routines by the image of their line. -/
theorem operationsCompleteByEvents : Obligations.OperationsCompleteByEvents := by
  unfold Obligations.OperationsCompleteByEvents
  intro s t id p ho
  dsimp only
  have ready : p.atoms = [] → p.lines = [] → p.stores = [] → p.ready = true := fun h1 h2 h3 => by rw [Pending.ready, h1, h2, h3]; rfl
  refine ⟨fun hl h1 h2 h3 hp => loadReturn_returns ho hl (ready h1 h2 h3) hp, fun hl h1 h2 h3 hp hw => storeAccept_returns ho hl (ready h1 h2 h3) hp hw,
    fun n r hr hw => atomicPerform_waits ho hr hw, fun n r hr hm hd hc => ?_, fun n r hr hw => lineRoutineInvocation_waits ho hr hw, fun n r hr hm hd => ?_⟩
  · exact atomicPerform_performs ho hr hm hd hc
  · obtain ⟨u, q, he, hop, hq1, hq2, hnone, hlegal, hone⟩ := lineRoutineInvocation_performs ho hr hm hd
    refine ⟨u, q, he, hop, hq1, hq2, hnone, fun entry s1 hl hlg hc ha hk hp => hlegal entry s1 hl hlg (hc.memoryLine ha hk hp), fun entry s1 e hk hl hlg hel => ?_⟩
    obtain ⟨h1, h2, h3⟩ := hone entry s1 e hk hl hlg hel
    exact ⟨h1, h2, fun ho => ⟨(h3 ho).1, fun hc ha hk hp => (h3 ho).2 (hc.memoryLine ha hk hp)⟩⟩

end

section
/-! SUPPORT. Bit fields: parts of words put side by side, and the parts taken out again (R77, R88, R95). -/
namespace Sys2Proof

/-! ### Parts of words side by side -/

-- The widths of a word are numerals where the sums of its parts' widths stand in a library lemma; `no_index` lets `simp` find such a word.

@[simp] theorem extractLsb'_append_high {v w s l : Nat} {x : BitVec v} {y : BitVec w} (h : w ≤ s) :
    BitVec.extractLsb' s l (no_index (x ++ y)) = BitVec.extractLsb' (s - w) l x := BitVec.extractLsb'_append_eq_of_le h

@[simp] theorem extractLsb'_append_low {v w s l : Nat} {x : BitVec v} {y : BitVec w} (h : s + l ≤ w) :
    BitVec.extractLsb' s l (no_index (x ++ y)) = BitVec.extractLsb' s l y := BitVec.extractLsb'_append_eq_of_add_le h

@[simp] theorem getLsbD_append_high {v w i : Nat} {x : BitVec v} {y : BitVec w} (h : w ≤ i) :
    BitVec.getLsbD (no_index (x ++ y)) i = x.getLsbD (i - w) := by
  rw [BitVec.getLsbD_append, if_neg (Nat.not_lt.2 h)]

@[simp] theorem getLsbD_append_low {v w i : Nat} {x : BitVec v} {y : BitVec w} (h : i < w) :
    BitVec.getLsbD (no_index (x ++ y)) i = y.getLsbD i := by
  rw [BitVec.getLsbD_append, if_pos h]

theorem append_eq_iff {v w : Nat} {x : BitVec v} {y : BitVec w} {z : BitVec (v + w)} :
    @Eq (no_index (BitVec (v + w))) (no_index (x ++ y)) z ↔ x = z.extractLsb' w v ∧ y = z.extractLsb' 0 w := by
  constructor
  · rintro rfl
    simp
  · rintro ⟨rfl, rfl⟩
    rw [BitVec.extractLsb'_append_extractLsb'_eq_extractLsb' (Nat.zero_add w).symm]
    exact BitVec.extractLsb'_eq_self

@[simp] theorem extractLsb'_extractLsb' {n i k j l : Nat} {x : BitVec n} (h : j + l ≤ k) :
    (x.extractLsb' i k).extractLsb' j l = x.extractLsb' (i + j) l := by
  ext m hm
  simp [show j + m < k by omega, Nat.add_assoc]

@[simp] theorem getLsbD_extractLsb'_of_lt {n i k j : Nat} {x : BitVec n} (h : j < k) : (x.extractLsb' i k).getLsbD j = x.getLsbD (i + j) := by
  simp [h]

/-! ### One bit, and the bits above a bound -/

theorem ofBool_getLsbD {n : Nat} (x : BitVec n) (i : Nat) : BitVec.ofBool (x.getLsbD i) = x.extractLsb' i 1 := by
  ext j hj
  obtain rfl : j = 0 := by omega
  simp

@[simp] theorem ofBool_eq_extractLsb' {n i : Nat} {x : BitVec n} {b : Bool} : BitVec.ofBool b = x.extractLsb' i 1 ↔ b = x.getLsbD i := by
  rw [← ofBool_getLsbD]
  cases b <;> cases x.getLsbD i <;> decide

theorem zero_eq_extractLsb'_one {n i : Nat} {x : BitVec n} : 0#1 = x.extractLsb' i 1 ↔ x.getLsbD i = false := by
  rw [← ofBool_getLsbD]
  cases x.getLsbD i <;> decide

theorem ofBool_append_extractLsb' {n k : Nat} {x : BitVec n} : BitVec.ofBool (x.getLsbD k) ++ x.extractLsb' 0 k = x.extractLsb' 0 (1 + k) := by
  rw [ofBool_getLsbD, BitVec.extractLsb'_append_extractLsb'_eq_extractLsb' (Nat.zero_add k).symm]

theorem setWidth_extractLsb' {n k : Nat} {x : BitVec n} (h : x.toNat < 2 ^ k) : (x.extractLsb' 0 k).setWidth n = x := by
  apply BitVec.eq_of_toNat_eq
  simp [Nat.mod_eq_of_lt h, Nat.mod_eq_of_lt x.isLt]

theorem extractLsb'_eq_zero {n k l : Nat} {x : BitVec n} (h : x.toNat < 2 ^ k) : x.extractLsb' k l = 0 := by
  apply BitVec.eq_of_toNat_eq
  simp [Nat.shiftRight_eq_div_pow, Nat.div_eq_of_lt h]

theorem twoBits_cases : ∀ x : BitVec 2, x = 0 ∨ x = 1 ∨ x = 2 ∨ x = 3 := by decide

/-! ### The fields of a word -/

@[simp] theorem ScalarFields.ofWord_toWord (f : ScalarFields) : ScalarFields.ofWord f.toWord = f := by
  simp [ScalarFields.ofWord, ScalarFields.toWord, BitVec.extractLsb'_eq_self]

@[simp] theorem ScalarFields.toWord_ofWord (w : BitVec 32) : (ScalarFields.ofWord w).toWord = w := by
  simp only [ScalarFields.ofWord, ScalarFields.toWord]
  iterate 4 rw [BitVec.extractLsb'_append_extractLsb'_eq_extractLsb']
  · exact BitVec.extractLsb'_eq_self
  all_goals rfl

@[simp] theorem LaneFields.ofWord_toWord (f : LaneFields) : LaneFields.ofWord f.toWord = f := by
  simp [LaneFields.ofWord, LaneFields.toWord, BitVec.extractLsb'_eq_self, -BitVec.getLsbD_eq_getElem]

@[simp] theorem LaneFields.toWord_ofWord (w : BitVec 96) : (LaneFields.ofWord w).toWord = w := by
  simp only [LaneFields.ofWord, LaneFields.toWord, ofBool_getLsbD]
  iterate 17 rw [BitVec.extractLsb'_append_extractLsb'_eq_extractLsb']
  · exact BitVec.extractLsb'_eq_self
  all_goals rfl

@[simp] theorem RoutineFields.ofWord_toWord (f : RoutineFields) : RoutineFields.ofWord f.toWord = f := by
  simp [RoutineFields.ofWord, RoutineFields.toWord, BitVec.extractLsb'_eq_self]

@[simp] theorem RoutineFields.toWord_ofWord (w : BitVec 32) : (RoutineFields.ofWord w).toWord = w := by
  simp only [RoutineFields.ofWord, RoutineFields.toWord]
  iterate 3 rw [BitVec.extractLsb'_append_extractLsb'_eq_extractLsb']
  · exact BitVec.extractLsb'_eq_self
  all_goals rfl

/-! ### What a decoder reads -/

/-- What a decoding of the fields `f` gives, if it gives an instruction, is a well-formed one that the encoder writes as `f`. -/
def Reads {α : Type} (encode : Instr → Option α) (f : α) (r : Except DecodeError Instr) : Prop :=
  ∀ i, r = .ok i → encode i = some f ∧ i.wf = true

section
variable {α : Type} {encode : Instr → Option α} {f : α}

@[simp] theorem reads_ok {i : Instr} : Reads encode f (.ok i) ↔ encode i = some f ∧ i.wf = true := by
  simp [Reads]

@[simp] theorem reads_error {e : DecodeError} : Reads encode f (.error e) := by
  simp [Reads]

@[simp] theorem reads_need {b : Bool} {i : Instr} : Reads encode f (need b i) ↔ (b = true → encode i = some f ∧ i.wf = true) := by
  cases b <;> simp [need]

@[simp] theorem reads_ite {c : Prop} [Decidable c] {r r' : Except DecodeError Instr} :
    Reads encode f (if c then r else r') ↔ (c → Reads encode f r) ∧ (¬ c → Reads encode f r') := by
  split <;> simp [*]
end

end Sys2Proof
end

section
/-! SUPPORT. The scalar word: what decodes is the encoding of a well-formed instruction, one lemma per major (R77 to R87). -/
namespace Sys2Proof

/-! ### Capability fields (R78) -/

@[simp] theorem capField_ofCap (c : BitVec 5) : capField (ofCap c) = c := by
  revert c; decide

@[simp] theorem capOk_ofCap (c : BitVec 5) : capOk (ofCap c) = true := by
  revert c; decide

@[simp] theorem ofCap_capField {x : BitVec 6} (h : capOk x = true) : ofCap (capField x) = x := by
  revert x; decide

/-! ### The forms of a scalar word (R77) -/

theorem regWord_eq_iff {maj d a b : BitVec 6} {func : BitVec 8} {f : ScalarFields} :
    regWord maj d a b func = f ↔ maj = f.maj ∧ d = f.d ∧ a = f.a ∧ b = f.b ∧ func = f.func := by
  obtain ⟨⟩ := f
  simp [regWord]

theorem ScalarFields.ofImm_eq_iff {maj d a : BitVec 6} {imm : BitVec 14} {f : ScalarFields} :
    ScalarFields.ofImm maj d a imm = f ↔ maj = f.maj ∧ d = f.d ∧ a = f.a ∧ f.imm = imm := by
  obtain ⟨⟩ := f
  simp [ScalarFields.ofImm, ScalarFields.imm, append_eq_iff, eq_comm]

theorem ScalarFields.ofJump_eq_iff {maj : BitVec 6} {off : BitVec 26} {f : ScalarFields} :
    ScalarFields.ofJump maj off = f ↔ maj = f.maj ∧ f.off26 = off := by
  obtain ⟨⟩ := f
  simp [ScalarFields.ofJump, ScalarFields.off26, append_eq_iff, eq_comm, and_assoc]

theorem ScalarFields.toNat_eq_op2_iff {f : ScalarFields} {op : BitVec 2} : op.toNat = f.op2 ↔ op = f.b.extractLsb' 4 2 := BitVec.toNat_inj

theorem ScalarFields.op2_cases (f : ScalarFields) : f.op2 = 0 ∨ f.op2 = 1 ∨ f.op2 = 2 ∨ f.op2 = 3 := by
  have : f.op2 < 4 := BitVec.isLt _
  omega

theorem sysWord_eq_iff {maj d a : BitVec 6} {op : BitVec 2} {sub : BitVec 12} {f : ScalarFields} :
    sysWord maj d a op sub = f ↔ maj = f.maj ∧ d = f.d ∧ a = f.a ∧ op.toNat = f.op2 ∧ sub = f.sub12 := by
  have himm : f.imm = op ++ sub ↔ op.toNat = f.op2 ∧ sub = f.sub12 := by
    rw [eq_comm, append_eq_iff, ScalarFields.toNat_eq_op2_iff]
    simp [ScalarFields.sub12, ScalarFields.imm]
  rw [sysWord, ScalarFields.ofImm_eq_iff, himm]

theorem ScalarFields.extractLsb'_sub12 {f : ScalarFields} {k : Nat} (h : k ≤ 8) : f.sub12.extractLsb' 0 k = f.func.extractLsb' 0 k := by
  simp [ScalarFields.sub12, ScalarFields.imm, h, Nat.le_trans h]

theorem ScalarFields.setWidth_func {f : ScalarFields} {k : Nat} (hk : k ≤ 8) (h : f.sub12.toNat < 2 ^ k) :
    (f.func.extractLsb' 0 k).setWidth 12 = f.sub12 := by
  rw [← ScalarFields.extractLsb'_sub12 hk, setWidth_extractLsb' h]

/-! ### The majors -/

theorem decodeAlu_reads {f : ScalarFields} (hm : f.maj = 0x01) : Reads encodeScalarFields f (decodeAlu f) := by
  unfold decodeAlu
  split <;> simp_all [encodeScalarFields.eq_def, Instr.wf.eq_def, regWord_eq_iff, BitVec.toNat_eq_nat]

theorem decodeShift_reads {f : ScalarFields} (hm : f.maj = 0x06) : Reads encodeScalarFields f (decodeShift f) := by
  simp only [decodeShift]
  split <;> simp_all [encodeScalarFields.eq_def, Instr.wf.eq_def, regWord_eq_iff, BitVec.toNat_eq_nat, append_eq_iff, -BitVec.extractLsb'_toNat]

theorem decodeLdx_reads {f : ScalarFields} (hm : f.maj = 0x16) : Reads encodeScalarFields f (decodeLdx f) := by
  simp only [decodeLdx]
  split_ifs with hok hty
  · exact reads_error
  · have hhigh := extractLsb'_eq_zero (k := 3) (l := 1) hty
    simp_all [encodeScalarFields.eq_def, Instr.wf.eq_def, regWord_eq_iff, append_eq_iff, ScalarFields.ord]
  · exact reads_error

theorem decodeStx_reads {f : ScalarFields} (hm : f.maj = 0x17) : Reads encodeScalarFields f (decodeStx f) := by
  simp only [decodeStx]
  split_ifs with hok hty
  · exact reads_error
  · have hhigh := extractLsb'_eq_zero (k := 2) (l := 2) hty
    simp_all [encodeScalarFields.eq_def, Instr.wf.eq_def, regWord_eq_iff, append_eq_iff, ScalarFields.ord]
  · exact reads_error

theorem decodeAtom_reads {f : ScalarFields} (hm : f.maj = 0x1A) : Reads encodeScalarFields f (decodeAtom f) := by
  simp only [decodeAtom]
  split_ifs <;> simp_all [encodeScalarFields.eq_def, Instr.wf.eq_def, regWord_eq_iff, append_eq_iff]

theorem decodeBar_reads {f : ScalarFields} (hm : f.maj = 0x1B) : Reads encodeScalarFields f (decodeBar f) := by
  obtain h | h | h | h := f.op2_cases <;>
    simp_all [decodeBar, encodeScalarFields.eq_def, Instr.wf.eq_def, sysWord_eq_iff, ScalarFields.setWidth_func]

theorem decodeMsg_reads {f : ScalarFields} (hm : f.maj = 0x1C) : Reads encodeScalarFields f (decodeMsg f) := by
  obtain h | h | h | h := f.op2_cases <;>
    simp_all [decodeMsg, encodeScalarFields.eq_def, Instr.wf.eq_def, sysWord_eq_iff, ScalarFields.setWidth_func]

theorem decodePost_reads {f : ScalarFields} (hm : f.maj = 0x1D) : Reads encodeScalarFields f (decodePost f) := by
  obtain h | h | h | h := f.op2_cases <;> simp_all [decodePost, encodeScalarFields.eq_def, Instr.wf.eq_def, sysWord_eq_iff]

theorem decodeTrap_reads {f : ScalarFields} (hm : f.maj = 0x1E) : Reads encodeScalarFields f (decodeTrap f) := by
  have hsub : f.sub12.toNat < 2 ^ 8 → (BitVec.ofBool (f.func.getLsbD 7) ++ f.func.extractLsb' 0 7).setWidth 12 = f.sub12 := fun h => by
    rw [ofBool_append_extractLsb', ScalarFields.setWidth_func le_rfl h]
  obtain h | h | h | h := f.op2_cases <;> simp_all [decodeTrap, encodeScalarFields.eq_def, Instr.wf.eq_def, sysWord_eq_iff]

theorem decodeFence_reads {f : ScalarFields} (hm : f.maj = 0x1F) : Reads encodeScalarFields f (decodeFence f) := by
  have hhigh : f.imm.toNat < 2 ^ 5 → f.b = 0 ∧ f.func.extractLsb' 5 3 = 0 := fun h =>
    ⟨by simpa [ScalarFields.imm] using extractLsb'_eq_zero (k := 8) (l := 6) (Nat.lt_trans h (by decide)),
     by simpa [ScalarFields.imm] using extractLsb'_eq_zero (k := 5) (l := 3) h⟩
  obtain h | h | h | h := twoBits_cases (f.func.extractLsb' 3 2) <;>
    simp_all [decodeFence, encodeScalarFields.eq_def, Instr.wf.eq_def, regWord_eq_iff, append_eq_iff, -BitVec.extractLsb'_toNat, -BitVec.reduceAppend]

theorem decodeCap_reads {f : ScalarFields} (hm : f.maj = 0x20) : Reads encodeScalarFields f (decodeCap f) := by
  unfold decodeCap
  split <;> simp_all [encodeScalarFields.eq_def, Instr.wf.eq_def, regWord_eq_iff, BitVec.toNat_eq_nat]

theorem decodeJr_reads {f : ScalarFields} (hm : f.maj = 0x2C) : Reads encodeScalarFields f (decodeJr f) := by
  unfold decodeJr
  split <;> simp_all [encodeScalarFields.eq_def, Instr.wf.eq_def, regWord_eq_iff, BitVec.toNat_eq_nat]

theorem decodeCsr_reads {f : ScalarFields} (hm : f.maj = 0x32) : Reads encodeScalarFields f (decodeCsr f) := by
  obtain h | h | h | h := f.op2_cases <;> simp_all [decodeCsr, encodeScalarFields.eq_def, Instr.wf.eq_def, sysWord_eq_iff]

theorem decodeMx_reads {f : ScalarFields} (hm : f.maj = 0x34) : Reads encodeScalarFields f (decodeMx f) := by
  simp only [decodeMx]
  split <;> simp_all [encodeScalarFields.eq_def, Instr.wf.eq_def, regWord_eq_iff, BitVec.toNat_eq_nat, append_eq_iff, extractLsb'_eq_zero,
    zero_eq_extractLsb'_one, setWidth_extractLsb', -BitVec.extractLsb'_toNat, -BitVec.reduceAppend, -BitVec.getLsbD_eq_getElem]

theorem decodeCopy_reads {f : ScalarFields} (hm : f.maj = 0x35) : Reads encodeScalarFields f (decodeCopy f) := by
  simp only [decodeCopy]
  split <;> simp_all [encodeScalarFields.eq_def, Instr.wf.eq_def, regWord_eq_iff, BitVec.toNat_eq_nat, append_eq_iff, -BitVec.extractLsb'_toNat]

theorem decodeGraph_reads {f : ScalarFields} (hm : f.maj = 0x36) : Reads encodeScalarFields f (decodeGraph f) := by
  unfold decodeGraph
  split <;> simp_all [encodeScalarFields.eq_def, Instr.wf.eq_def, regWord_eq_iff, BitVec.toNat_eq_nat]

theorem decodePriv_reads {f : ScalarFields} (hm : f.maj = 0x3C) : Reads encodeScalarFields f (decodePriv f) := by
  simp only [decodePriv]
  split <;> simp_all [encodeScalarFields.eq_def, Instr.wf.eq_def, regWord_eq_iff, BitVec.toNat_eq_nat]

/-- The opcode map of scalar words: a major that stands for one word by its form, the others by their lemmas. -/
theorem decodeScalarFields_reads (f : ScalarFields) : Reads encodeScalarFields f (decodeScalarFields f) := by
  unfold decodeScalarFields
  split <;> simp_all [encodeScalarFields.eq_def, Instr.wf.eq_def, regWord_eq_iff, ScalarFields.ofImm_eq_iff, ScalarFields.ofJump_eq_iff,
    BitVec.toNat_eq_nat, append_eq_iff, decodeAlu_reads, decodeShift_reads, decodeLdx_reads, decodeStx_reads, decodeAtom_reads, decodeBar_reads, decodeMsg_reads,
    decodePost_reads, decodeTrap_reads, decodeFence_reads, decodeCap_reads, decodeJr_reads, decodeCsr_reads, decodeMx_reads, decodeCopy_reads,
    decodeGraph_reads, decodePriv_reads]

end Sys2Proof
end

section
/-! SUPPORT. The lane word: what decodes is the encoding of a well-formed instruction, one lemma per major (R88 to R93). -/
namespace Sys2Proof
open LaneFields

/-! ### The forms of a lane word (R88 to R90) -/

theorem ctlOk_of_base {f : LaneFields} (h : f.base = true) : ctlOk f.ctl = true := by
  simp_all [base, ctlOk, ctl]

theorem LaneFields.ctl_unguarded {f : LaneFields} (hguard : f.guard = 0) (hneg : f.neg = false) : (⟨f.last, 0#7, false⟩ : Ctl) = f.ctl := by
  simp [ctl, hguard, hneg]

theorem laneBin_eq_iff {f : LaneFields} {maj : BitVec 7} {func : BitVec 8} {e : BitVec 6}
    (hbase : f.base = true) (hhigh : f.noHigh = true) (hsrc : f.src2Ok = true) :
    { laneBin f.ctl maj func f.d f.a f.src2 f.ty with c := e } = f ↔ maj = f.maj ∧ func = f.func ∧ e = f.c := by
  obtain ⟨last, maj, func, guard, neg, d, a, b, c, k, ty, fl, fi, fs, dh, ah, r32, imm⟩ := f
  cases fl <;> cases fi <;> cases fs <;> simp_all [src2Ok, src2, withSrc2, laneBin, laneBase, base, noHigh, ctl]

theorem laneBin_eq_iff_of_okBin {f : LaneFields} {maj : BitVec 7} {func : BitVec 8} {a : BitVec 6} (h : f.okBin = true) :
    laneBin f.ctl maj func f.d a f.src2 f.ty = f ↔ maj = f.maj ∧ func = f.func ∧ a = f.a := by
  obtain ⟨last, maj, func, guard, neg, d, a, b, c, k, ty, fl, fi, fs, dh, ah, r32, imm⟩ := f
  cases fl <;> cases fi <;> cases fs <;> simp_all [okBin, src2Ok, src2, withSrc2, laneBin, laneBase, base, noHigh, ctl]

theorem laneUn_eq_iff_of_okUn {f : LaneFields} {ctl : Ctl} {maj : BitVec 7} {func : BitVec 8} {a : BitVec 6} (h : f.okUn = true) :
    laneUn ctl maj func f.d a f.ty = f ↔ ctl = f.ctl ∧ maj = f.maj ∧ func = f.func ∧ a = f.a := by
  obtain ⟨⟩ := f
  obtain ⟨⟩ := ctl
  simp_all [okUn, noSrc2, noFlags, laneUn, laneBase, base, noHigh, LaneFields.ctl]
  tauto

theorem laneCmp_eq_iff_of_okCmp {f : LaneFields} {maj : BitVec 7} {func : BitVec 8} (h : f.okCmp = true) :
    laneCmp f.ctl maj func f.pd f.a f.src2 f.ty = f ↔ maj = f.maj ∧ func = f.func := by
  obtain ⟨last, maj, func, guard, neg, d, a, b, c, k, ty, fl, fi, fs, dh, ah, r32, imm⟩ := f
  cases fl <;> cases fi <;> cases fs <;>
    simp_all [okCmp, src2Ok, src2, withSrc2, laneCmp, laneBase, base, ctl, pd, BitVec.extractLsb'_eq_self, -BitVec.getLsbD_eq_getElem]

theorem wf_of_okBin {f : LaneFields} (h : f.okBin = true) : ctlOk f.ctl = true ∧ tyOk f.ty = true := by
  simp_all [okBin, ctlOk_of_base]

theorem wf_of_okUn {f : LaneFields} (h : f.okUn = true) : ctlOk f.ctl = true ∧ tyOk f.ty = true := by
  simp_all [okUn, ctlOk_of_base]

theorem wf_of_okCmp {f : LaneFields} (h : f.okCmp = true) : ctlOk f.ctl = true ∧ tyOk f.ty = true ∧ guardOk f.pd = true := by
  simp_all [okCmp, ctlOk_of_base]

/-! ### func as a rounding code and an operation (R91) -/

theorem LaneFields.eq_func_iff {f : LaneFields} {func : BitVec 8} :
    func = f.func ↔ func.extractLsb' 5 3 = f.rm ∧ (func.extractLsb' 0 5).toNat = f.op5 := by
  rw [rm, op5, BitVec.toNat_inj, ← append_eq_iff (v := 3) (w := 5), BitVec.extractLsb'_append_extractLsb'_eq_extractLsb' (Nat.zero_add 5).symm,
    BitVec.extractLsb'_eq_self]

/-! ### Words whose fields are all plain: no flag, no high bit -/

@[simp] theorem laneBase_operands (c : Ctl) (maj : BitVec 7) (func : BitVec 8) :
    (laneBase c maj func).d = 0 ∧ (laneBase c maj func).a = 0 ∧ (laneBase c maj func).b = 0 ∧ (laneBase c maj func).c = 0 ∧
      (laneBase c maj func).k = 0 ∧ (laneBase c maj func).ty = 0 ∧ (laneBase c maj func).imm = 0 := ⟨rfl, rfl, rfl, rfl, rfl, rfl, rfl⟩

theorem laneBase_eq_iff {f : LaneFields} {maj : BitVec 7} {func : BitVec 8} {d a b c k : BitVec 6} {ty : BitVec 4} {imm : BitVec 32} (h : f.okMem = true) :
    { laneBase f.ctl maj func with d := d, a := a, b := b, c := c, k := k, ty := ty, imm := imm } = f ↔
      maj = f.maj ∧ func = f.func ∧ d = f.d ∧ a = f.a ∧ b = f.b ∧ c = f.c ∧ k = f.k ∧ ty = f.ty ∧ imm = f.imm := by
  obtain ⟨⟩ := f
  simp_all [okMem, noFlags, laneBase, base, noHigh, ctl]

theorem ctlOk_of_okMem {f : LaneFields} (h : f.okMem = true) : ctlOk f.ctl = true := by
  simp_all [okMem, ctlOk_of_base]

/-! ### Conversions, predicates (R90, R91) -/

theorem laneUn_eq_iff_of_okCvt {f : LaneFields} {maj : BitVec 7} {func : BitVec 8} {e : BitVec 6} (h : f.okCvt = true) :
    { laneUn f.ctl maj func f.d f.a f.ty with c := e } = f ↔ maj = f.maj ∧ func = f.func ∧ e = f.c := by
  obtain ⟨⟩ := f
  simp_all [okCvt, noSrc2, noFlags, laneUn, laneBase, base, noHigh, LaneFields.ctl]

theorem wf_of_okCvt {f : LaneFields} (h : f.okCvt = true) :
    ctlOk f.ctl = true ∧ rmOk f.rm = true ∧ tyOk (f.c.extractLsb' 0 4) = true ∧ tyOk f.ty = true ∧
      (f.rm = 0#3 ∨ isIntTy (f.c.extractLsb' 0 4) = false ∨ isIntTy f.ty = false) ∧ (f.c.extractLsb' 0 4).setWidth 6 = f.c := by
  simp_all [okCvt, ctlOk_of_base, setWidth_extractLsb']

theorem LaneFields.setWidth_d {f : LaneFields} (h : f.dh = false) : f.d.setWidth 7 = f.pd := by
  rw [pd, h, BitVec.setWidth_eq_append (by decide)]
  rfl

theorem LaneFields.zero_eq_pa {f : LaneFields} (hah : f.ah = false) (ha : f.a = 0) : f.pa = 0 := by
  rw [pa, hah, ha]
  rfl

theorem lanePred_eq_iff {f : LaneFields} {func : BitVec 8} {pd pa pb : BitVec 7} {ty : BitVec 4}
    (hbase : f.base = true) (hflags : f.noFlags = true) (hk : f.k = 0) (himm : f.imm = 0) :
    { lanePred f.ctl func pd pa pb with ty := ty } = f ↔
      0x0A = f.maj ∧ func = f.func ∧ f.pd = pd ∧ f.pa = pa ∧ pb.extractLsb' 0 6 = f.b ∧ (pb.extractLsb' 6 1).setWidth 6 = f.c ∧ ty = f.ty := by
  obtain ⟨⟩ := f
  simp_all [noFlags, lanePred, laneBase, base, LaneFields.ctl, LaneFields.pd, LaneFields.pa, append_eq_iff, -BitVec.getLsbD_eq_getElem]
  grind

theorem lanePred_eq_iff_of_ty {f : LaneFields} {func : BitVec 8} {pd pa pb : BitVec 7}
    (hbase : f.base = true) (hflags : f.noFlags = true) (hk : f.k = 0) (himm : f.imm = 0) (hty : f.ty = 0) :
    lanePred f.ctl func pd pa pb = f ↔
      0x0A = f.maj ∧ func = f.func ∧ f.pd = pd ∧ f.pa = pa ∧ pb.extractLsb' 0 6 = f.b ∧ (pb.extractLsb' 6 1).setWidth 6 = f.c := by
  exact (lanePred_eq_iff (ty := 0) hbase hflags hk himm).trans (by simp [hty])

theorem laneCmp_vec_eq_iff {f : LaneFields} {func : BitVec 8}
    (hbase : f.base = true) (hflags : f.noFlags = true) (hk : f.k = 0) (himm : f.imm = 0) (hah : f.ah = false) (hb : f.b = 0) (hc : f.c = 0) :
    laneCmp f.ctl 0x0A#7 func f.pd f.a (.vec 0#6) f.ty = f ↔ 0x0A = f.maj ∧ func = f.func := by
  obtain ⟨⟩ := f
  simp_all [noFlags, laneCmp, withSrc2, laneBase, base, LaneFields.ctl, LaneFields.pd, BitVec.extractLsb'_eq_self, -BitVec.getLsbD_eq_getElem]

theorem LaneFields.pb_parts (f : LaneFields) : f.pb.extractLsb' 0 6 = f.b ∧ f.pb.extractLsb' 6 1 = f.c.extractLsb' 0 1 := by
  simp [pb, BitVec.extractLsb'_eq_self]

theorem authOk_uniform (k : BitVec 6) : authOk ⟨k, false⟩ = decide (k.toNat < 32) := by
  simp [authOk]

/-! ### The imm32 of atomics (R93) -/

theorem atomImm_eq {x : BitVec 32} (h : atomImmOk x = true) :
    0#25 ++ BitVec.ofBool (x.getLsbD 6) ++ 0#5 ++ BitVec.ofBool (x.getLsbD 0) = x := by
  have hmask : ∀ i l, (x &&& 0xFFFFFFBE#32).extractLsb' i l = 0 := fun i l => by
    rw [show x &&& 0xFFFFFFBE#32 = 0 by simpa [atomImmOk] using h]
    simp
  have hhigh : x.extractLsb' 7 25 = 0 := by
    have := hmask 7 25
    rwa [BitVec.extractLsb'_and, show (0xFFFFFFBE#32).extractLsb' 7 25 = BitVec.allOnes 25 by decide, BitVec.and_allOnes] at this
  have hlow : x.extractLsb' 1 5 = 0 := by
    have := hmask 1 5
    rwa [BitVec.extractLsb'_and, show (0xFFFFFFBE#32).extractLsb' 1 5 = BitVec.allOnes 5 by decide, BitVec.and_allOnes] at this
  simp [append_eq_iff, hhigh, hlow]

/-! ### The majors -/

theorem decodeVint_reads {f : LaneFields} (hm : f.maj = 0x02) : Reads encodeLaneFields f (decodeVint f) := by
  unfold decodeVint
  split <;> simp_all [encodeLaneFields.eq_def, Instr.wf.eq_def, laneBin_eq_iff_of_okBin, wf_of_okBin, laneUn_eq_iff_of_okUn, wf_of_okUn,
    BitVec.toNat_eq_nat]

theorem decodeVwiden_reads {f : LaneFields} (hm : f.maj = 0x03) : Reads encodeLaneFields f (decodeVwiden f) := by
  unfold decodeVwiden
  split <;> simp_all [encodeLaneFields.eq_def, Instr.wf.eq_def, laneBin_eq_iff_of_okBin, wf_of_okBin, BitVec.toNat_eq_nat]

theorem decodeVmacc_reads {f : LaneFields} (hm : f.maj = 0x04) : Reads encodeLaneFields f (decodeVmacc f) := by
  unfold decodeVmacc
  split <;> simp_all [encodeLaneFields.eq_def, Instr.wf.eq_def, laneBin_eq_iff_of_okBin, wf_of_okBin, BitVec.toNat_eq_nat]

theorem decodeVfloat_reads {f : LaneFields} (hm : f.maj = 0x05) : Reads encodeLaneFields f (decodeVfloat f) := by
  unfold decodeVfloat
  split <;> simp_all [encodeLaneFields.eq_def, Instr.wf.eq_def, laneBin_eq_iff_of_okBin, wf_of_okBin, laneUn_eq_iff_of_okUn, wf_of_okUn,
    eq_func_iff]

theorem decodeVfused_reads {f : LaneFields} (hm : f.maj = 0x06) : Reads encodeLaneFields f (decodeVfused f) := by
  unfold decodeVfused
  split <;> simp_all [encodeLaneFields.eq_def, Instr.wf.eq_def, laneBin_eq_iff, ctlOk_of_base, eq_func_iff]

theorem decodeVcmp_reads {f : LaneFields} (hm : f.maj = 0x08) : Reads encodeLaneFields f (decodeVcmp f) := by
  unfold decodeVcmp
  split <;> simp_all [encodeLaneFields.eq_def, Instr.wf.eq_def, laneCmp_eq_iff_of_okCmp, wf_of_okCmp, BitVec.toNat_eq_nat]

theorem decodeVfcmp_reads {f : LaneFields} (hm : f.maj = 0x09) : Reads encodeLaneFields f (decodeVfcmp f) := by
  unfold decodeVfcmp
  split <;> simp_all [encodeLaneFields.eq_def, Instr.wf.eq_def, laneCmp_eq_iff_of_okCmp, wf_of_okCmp, eq_func_iff]

theorem decodeVmove_reads {f : LaneFields} (hm : f.maj = 0x0B) : Reads encodeLaneFields f (decodeVmove f) := by
  unfold decodeVmove
  split <;> simp_all [encodeLaneFields.eq_def, Instr.wf.eq_def, laneBin_eq_iff_of_okBin, wf_of_okBin, laneUn_eq_iff_of_okUn, wf_of_okUn,
    ctl_unguarded, BitVec.toNat_eq_nat]

theorem decodeVred_reads {f : LaneFields} (hm : f.maj = 0x0C) : Reads encodeLaneFields f (decodeVred f) := by
  unfold decodeVred
  split <;> simp_all [encodeLaneFields.eq_def, Instr.wf.eq_def, laneUn_eq_iff_of_okUn, wf_of_okUn, eq_func_iff]

theorem decodeVscan_reads {f : LaneFields} (hm : f.maj = 0x0D) : Reads encodeLaneFields f (decodeVscan f) := by
  unfold decodeVscan
  split <;> simp_all [encodeLaneFields.eq_def, Instr.wf.eq_def, laneUn_eq_iff_of_okUn, wf_of_okUn, eq_func_iff]

theorem decodeVperm_reads {f : LaneFields} (hm : f.maj = 0x0E) : Reads encodeLaneFields f (decodeVperm f) := by
  unfold decodeVperm
  split <;> simp_all [encodeLaneFields.eq_def, Instr.wf.eq_def, laneBin_eq_iff_of_okBin, wf_of_okBin, laneUn_eq_iff_of_okUn, wf_of_okUn,
    laneBin_eq_iff, ctlOk_of_base, eq_func_iff]

theorem decodeVpred_reads {f : LaneFields} (hm : f.maj = 0x0A) : Reads encodeLaneFields f (decodeVpred f) := by
  simp only [decodeVpred]
  split <;> simp_all [encodeLaneFields.eq_def, Instr.wf.eq_def, BitVec.toNat_eq_nat, lanePred_eq_iff, lanePred_eq_iff_of_ty, laneCmp_vec_eq_iff,
    ctlOk_of_base, setWidth_d, zero_eq_pa, pb_parts, setWidth_extractLsb']

theorem decodeVcvt_reads {f : LaneFields} (hm : f.maj = 0x07) : Reads encodeLaneFields f (decodeVcvt f) := by
  unfold decodeVcvt
  split <;> simp_all [encodeLaneFields.eq_def, Instr.wf.eq_def, eq_func_iff, laneUn_eq_iff_of_okCvt, wf_of_okCvt]

theorem decodeVtype_reads {f : LaneFields} (hm : f.maj = 0x01) : Reads encodeLaneFields f (decodeVtype f) := by
  have hplain : f.base = true → f.noHigh = true → f.noFlags = true → f.okMem = true := by simp +contextual [okMem]
  simp only [decodeVtype]
  split <;> simp_all [encodeLaneFields.eq_def, Instr.wf.eq_def, BitVec.toNat_eq_nat, laneBase_eq_iff, ctl_unguarded, append_eq_iff, BitVec.setWidth_eq_append]

theorem decodeVload_reads {f : LaneFields} (hm : f.maj = 0x10) : Reads encodeLaneFields f (decodeVload f) := by
  simp only [decodeVload]
  split
  -- The strided form tests the authority itself: that test is taken apart before it is unfolded.
  on_goal 2 => rw [reads_ite]
  all_goals
    simp_all [encodeLaneFields.eq_def, Instr.wf.eq_def, BitVec.toNat_eq_nat, laneMem, laneBase_eq_iff, ctlOk_of_okMem, auth, ord, authOk_uniform,
      append_eq_iff, zero_eq_extractLsb'_one, -BitVec.extractLsb'_toNat, -BitVec.getLsbD_eq_getElem]

theorem decodeVstore_reads {f : LaneFields} (hm : f.maj = 0x11) : Reads encodeLaneFields f (decodeVstore f) := by
  simp only [decodeVstore]
  split
  -- The strided form tests the authority itself: that test is taken apart before it is unfolded.
  on_goal 2 => rw [reads_ite]
  all_goals
    simp_all [encodeLaneFields.eq_def, Instr.wf.eq_def, BitVec.toNat_eq_nat, laneMem, laneBase_eq_iff, ctlOk_of_okMem, auth, ord, authOk_uniform,
      append_eq_iff, zero_eq_extractLsb'_one, -BitVec.extractLsb'_toNat, -BitVec.getLsbD_eq_getElem]

theorem decodeVatom_reads {f : LaneFields} (hm : f.maj = 0x12) : Reads encodeLaneFields f (decodeVatom f) := by
  simp only [decodeVatom]
  split <;> simp_all [encodeLaneFields.eq_def, Instr.wf.eq_def, laneBase_eq_iff, ctlOk_of_okMem, authImm, rm, append_eq_iff,
    atomImm_eq, -BitVec.getLsbD_eq_getElem]

theorem decodeVatom32_reads {f : LaneFields} (hm : f.maj = 0x13) : Reads encodeLaneFields f (decodeVatom32 f) := by
  simp only [decodeVatom32]
  split <;> simp_all [encodeLaneFields.eq_def, Instr.wf.eq_def, laneBase_eq_iff, ctlOk_of_okMem, authImm, rm, append_eq_iff,
    atomImm_eq, -BitVec.getLsbD_eq_getElem]

theorem decodeVlrc_reads {f : LaneFields} (hm : f.maj = 0x14) : Reads encodeLaneFields f (decodeVlrc f) := by
  unfold decodeVlrc
  split <;> simp_all [encodeLaneFields.eq_def, Instr.wf.eq_def, laneBase_eq_iff, ctlOk_of_okMem, authImm, append_eq_iff,
    extractLsb'_eq_zero, -BitVec.getLsbD_eq_getElem]

theorem decodeVbasket_reads {f : LaneFields} (hm : f.maj = 0x15) : Reads encodeLaneFields f (decodeVbasket f) := by
  unfold decodeVbasket
  split <;> simp_all [encodeLaneFields.eq_def, Instr.wf.eq_def, laneBase_eq_iff, ctlOk_of_okMem]

/-- The opcode map of lane words, by the lemma about each major. -/
theorem decodeLaneFields_reads (f : LaneFields) : Reads encodeLaneFields f (decodeLaneFields f) := by
  unfold decodeLaneFields
  split <;> simp_all [BitVec.toNat_eq_nat, decodeVtype_reads, decodeVint_reads, decodeVwiden_reads, decodeVmacc_reads, decodeVfloat_reads, decodeVfused_reads,
    decodeVcvt_reads, decodeVcmp_reads, decodeVfcmp_reads, decodeVpred_reads, decodeVmove_reads, decodeVred_reads, decodeVscan_reads, decodeVperm_reads,
    decodeVload_reads, decodeVstore_reads, decodeVatom_reads, decodeVatom32_reads, decodeVlrc_reads, decodeVbasket_reads]

end Sys2Proof
end

section
/-! SUPPORT. The routine word: what decodes is the encoding of a well-formed instruction (R95 to R98). -/
namespace Sys2Proof

/-- The opcode map of routine words. -/
theorem decodeRoutineFields_reads (f : RoutineFields) : Reads encodeRoutineFields f (decodeRoutineFields f) := by
  obtain ⟨op, d, a, imm⟩ := f
  simp only [decodeRoutineFields]
  split <;> simp_all [encodeRoutineFields.eq_def, Instr.wf.eq_def, BitVec.toNat_eq_nat, RoutineFields.b, append_eq_iff]

end Sys2Proof
end

section
open Sys2Proof Sys2Proof.Machine

/-- Settles O58, by evaluation of the decoder. -/
theorem writtenWordsDecode : Obligations.WrittenWordsDecode := by
  unfold Obligations.WrittenWordsDecode
  exact ⟨rfl, rfl, rfl, rfl, rfl, rfl, rfl, rfl, rfl⟩

/-- Settles O60: each decoder reads fields, and fields that stand in a word are the whole word. -/
theorem decodedWordsAreEncodings : Obligations.DecodedWordsAreEncodings := by
  unfold Obligations.DecodedWordsAreEncodings
  refine fun i => ⟨fun w h => ?_, fun w h => ?_, fun w h => ?_⟩
  · obtain ⟨he, hw⟩ := decodeScalarFields_reads (.ofWord w) i h
    exact ⟨by rw [encodeScalar, he, Option.map_some, ScalarFields.toWord_ofWord], hw⟩
  · obtain ⟨he, hw⟩ := decodeLaneFields_reads (.ofWord w) i h
    exact ⟨by rw [encodeLane, he, Option.map_some, LaneFields.toWord_ofWord], hw⟩
  · obtain ⟨he, hw⟩ := decodeRoutineFields_reads (.ofWord w) i h
    exact ⟨by rw [encodeRoutine, he, Option.map_some, RoutineFields.toWord_ofWord], hw⟩

end

section
/-! SUPPORT. The scalar word: the encoding of a well-formed instruction decodes to it (R77 to R87). -/
namespace Sys2Proof

/-! ### The fields of a word that is put together (R77) -/

@[simp] theorem regWord_fields (maj d a b : BitVec 6) (func : BitVec 8) :
    (regWord maj d a b func).maj = maj ∧ (regWord maj d a b func).d = d ∧ (regWord maj d a b func).a = a ∧ (regWord maj d a b func).b = b ∧
      (regWord maj d a b func).func = func := ⟨rfl, rfl, rfl, rfl, rfl⟩

@[simp] theorem ScalarFields.ofImm_fields (maj d a : BitVec 6) (imm : BitVec 14) :
    (ScalarFields.ofImm maj d a imm).maj = maj ∧ (ScalarFields.ofImm maj d a imm).d = d ∧ (ScalarFields.ofImm maj d a imm).a = a ∧
      (ScalarFields.ofImm maj d a imm).imm = imm := by
  obtain ⟨hmaj, hd, ha, himm⟩ := ScalarFields.ofImm_eq_iff.1 (rfl : ScalarFields.ofImm maj d a imm = _)
  exact ⟨hmaj.symm, hd.symm, ha.symm, himm⟩

@[simp] theorem ScalarFields.ofJump_fields (maj : BitVec 6) (off : BitVec 26) :
    (ScalarFields.ofJump maj off).maj = maj ∧ (ScalarFields.ofJump maj off).off26 = off := by
  obtain ⟨hmaj, hoff⟩ := ScalarFields.ofJump_eq_iff.1 (rfl : ScalarFields.ofJump maj off = _)
  exact ⟨hmaj.symm, hoff⟩

@[simp] theorem sysWord_fields (maj d a : BitVec 6) (op : BitVec 2) (sub : BitVec 12) :
    (sysWord maj d a op sub).maj = maj ∧ (sysWord maj d a op sub).d = d ∧ (sysWord maj d a op sub).a = a ∧
      (sysWord maj d a op sub).op2 = op.toNat ∧ (sysWord maj d a op sub).sub12 = sub ∧ (sysWord maj d a op sub).func = sub.extractLsb' 0 8 := by
  obtain ⟨hmaj, hd, ha, hop, hsub⟩ := sysWord_eq_iff.1 (rfl : sysWord maj d a op sub = _)
  refine ⟨hmaj.symm, hd.symm, ha.symm, hop.symm, hsub.symm, ?_⟩
  simp [sysWord, ScalarFields.ofImm]

theorem need_eq_ok {ok : Bool} {i j : Instr} (hok : ok = true) (hi : i = j) : need ok i = .ok j := by
  rw [need, if_pos hok, hi]

@[simp] theorem extractLsb'_setWidth {k m : Nat} {x : BitVec k} (h : k ≤ m) : (x.setWidth m).extractLsb' 0 k = x := by
  ext i hi
  simp [hi, show i < m by omega]

theorem toNat_setWidth_lt {k m b : Nat} {x : BitVec k} (h : 2 ^ k ≤ b) : (x.setWidth m).toNat < b := by
  have := x.isLt
  have := Nat.mod_le x.toNat (2 ^ m)
  rw [BitVec.toNat_setWidth]
  omega

theorem loadFunc_type : ∀ (x : BitVec 4) (ty : BitVec 3),
    (x ++ 0#1 ++ ty).extractLsb' 0 4 = 0#1 ++ ty ∧ tyOk (0#1 ++ ty) = true ∧ (0#1 ++ ty).toNat < 8 := by decide

theorem storeFunc_type : ∀ (x : BitVec 4) (ty : BitVec 2),
    (x ++ 0#2 ++ ty).extractLsb' 0 4 = 0#2 ++ ty ∧ tyOk (0#2 ++ ty) = true ∧ (0#2 ++ ty).toNat < 4 := by decide

theorem multiply_d_lt : ∀ (z : Bool) (acc : BitVec 2), (0#3 ++ BitVec.ofBool z ++ acc).toNat < 8 := by decide

theorem fence_imm_lt : ∀ (op : BitVec 2) (sc : BitVec 3), (regWord 0x1F#6 0#6 0#6 0#6 (0#3 ++ op ++ sc)).imm.toNat < 32 := by decide

/-- Each scalar word is put together by one of the forms of R77, whose fields its major's decoder reads back. -/
theorem decodeScalarFields_of_encode {i : Instr} {f : ScalarFields} (hw : i.wf = true) (h : encodeScalarFields i = some f) :
    decodeScalarFields f = .ok i := by
  cases i <;> simp only [encodeScalarFields.eq_def, reduceCtorEq, Option.some.injEq] at h <;> subst h
  case addi | andi | ori | xori | sltiS64 | sltiZ64 | sethi | beq | bne | bltS64 | bgeS64 | bltZ64 | bgeZ64 | j | jal =>
    exact congrArg Except.ok (by simp)
  case ldZ8 | ldZ16 | ldZ32 | ldB64 | ldS8 | ldS16 | ldS32 | stZ8 | stZ16 | stZ32 | stB64 | lc | sc | cinci | lrun | waitc | cbound | cboundExact |
    cperm | cinc | cset | cseal | cunseal | cmov | cgetaddr | cgetbase | cgettop | cgetperm
      | cgettype | cgetcolour | cgettag | cgetlen | ccleartag | ctestsub | ccolour | gnode | grplay | gpatch | gclose | lrinst =>
    exact need_eq_ok (by simp) (by simp)
  case slli | srli | srai =>
    change decodeShift _ = _
    simp [decodeShift, need]
  case ldx d a b o ty =>
    change decodeLdx _ = _
    have htype := loadFunc_type (BitVec.ofBool o.on ++ o.scope) ty
    simp_all [decodeLdx, Instr.wf.eq_def, ScalarFields.ord, -BitVec.extractLsb'_toNat, -BitVec.getLsbD_eq_getElem]
  case stx d a b o ty =>
    change decodeStx _ = _
    have htype := storeFunc_type (BitVec.ofBool o.on ++ o.scope) ty
    simp_all [decodeStx, Instr.wf.eq_def, ScalarFields.ord, -BitVec.extractLsb'_toNat, -BitVec.getLsbD_eq_getElem]
  case atom =>
    change decodeAtom _ = _
    simp_all [decodeAtom, Instr.wf.eq_def, need]
  case barArrive | barWait | barSync | barInit =>
    change decodeBar _ = _
    simp [decodeBar, need, toNat_setWidth_lt, -BitVec.toNat_setWidth]
  case msend | mpost | mrecv | mprobe =>
    change decodeMsg _ = _
    simp [decodeMsg, need, toNat_setWidth_lt, -BitVec.toNat_setWidth]
  case qpost | exitc | bflush =>
    change decodePost _ = _
    simp [decodePost, need]
  case trapAll | trapAny =>
    change decodeTrap _ = _
    simp_all [decodeTrap, Instr.wf.eq_def, need, toNat_setWidth_lt, -BitVec.toNat_setWidth, -BitVec.getLsbD_eq_getElem]
  case fenceAcq | fenceRel | fenceAr | fenceSc =>
    change decodeFence _ = _
    simp_all [decodeFence, Instr.wf.eq_def, need, fence_imm_lt, -BitVec.reduceAppend]
  case rdcsr | wrcsr | setcsr | clrcsr =>
    change decodeCsr _ = _
    simp_all [decodeCsr, Instr.wf.eq_def, need]
  case mxlds | mxmm | mxst | mxzero | mxfence | mxwait =>
    change decodeMx _ = _
    simp_all [decodeMx, Instr.wf.eq_def, need, multiply_d_lt, toNat_setWidth_lt, -BitVec.toNat_setWidth, -BitVec.getLsbD_eq_getElem]
  case tcopy | bcopy =>
    change decodeCopy _ = _
    simp_all [decodeCopy, Instr.wf.eq_def, need, -BitVec.getLsbD_eq_getElem]
  all_goals rfl

end Sys2Proof
end

section
/-! SUPPORT. The lane word: the encoding of a well-formed instruction decodes to it (R88 to R93). -/
namespace Sys2Proof
open LaneFields

/-! ### The parts of a predicate's number (R90) -/

theorem ofBool_append_low_six (p : BitVec 7) : BitVec.ofBool (p.getLsbD 6) ++ p.extractLsb' 0 6 = p := by
  rw [ofBool_append_extractLsb']
  exact BitVec.extractLsb'_eq_self

theorem extractLsb'_append_low_six (p : BitVec 7) : p.extractLsb' 6 1 ++ p.extractLsb' 0 6 = p := by
  rw [← ofBool_getLsbD, ofBool_append_low_six]

theorem toNat_setWidth_one_le (x : BitVec 1) : (x.setWidth 6).toNat ≤ 1 := Nat.le_of_lt_succ (toNat_setWidth_lt (by decide))

theorem extractLsb'_setWidth_above {k l m : Nat} {x : BitVec k} : (x.setWidth m).extractLsb' k l = 0#l := by
  ext i hi
  simp

/-! ### The fields of a word that is put together (R88 to R90) -/

@[simp] theorem laneBin_fields (c : Ctl) (maj : BitVec 7) (func : BitVec 8) (d a : BitVec 6) (x : Src2) (ty : BitVec 4) :
    let f := laneBin c maj func d a x ty
    f.maj = maj ∧ f.func = func ∧ f.ctl = c ∧ f.d = d ∧ f.a = a ∧ f.src2 = x ∧ f.ty = ty ∧ f.okBin = (ctlOk c && tyOk ty) := by
  cases x <;> simp [laneBin, laneBase, withSrc2, src2, ctl, okBin, base, noHigh, src2Ok, ctlOk]

@[simp] theorem laneUn_fields (c : Ctl) (maj : BitVec 7) (func : BitVec 8) (d a : BitVec 6) (ty : BitVec 4) :
    let f := laneUn c maj func d a ty
    f.maj = maj ∧ f.func = func ∧ f.ctl = c ∧ f.d = d ∧ f.a = a ∧ f.ty = ty ∧ f.okUn = (ctlOk c && tyOk ty) := by
  simp [laneUn, laneBase, ctl, okUn, base, noHigh, noSrc2, noFlags, ctlOk]

@[simp] theorem laneCmp_fields (c : Ctl) (maj : BitVec 7) (func : BitVec 8) (pd : BitVec 7) (a : BitVec 6) (x : Src2) (ty : BitVec 4) :
    let f := laneCmp c maj func pd a x ty
    f.maj = maj ∧ f.func = func ∧ f.ctl = c ∧ f.pd = pd ∧ f.a = a ∧ f.src2 = x ∧ f.ty = ty ∧ f.okCmp = (ctlOk c && guardOk pd && tyOk ty) := by
  cases x <;> simp [laneCmp, laneBase, withSrc2, src2, ctl, okCmp, base, src2Ok, ctlOk, LaneFields.pd, ofBool_append_low_six, -BitVec.getLsbD_eq_getElem]

/-! ### The guard p0, and the imm32 of atomics and routine calls (R47, R93) -/

theorem guardOk_zero : guardOk 0#7 = true := by decide

theorem atomImmOk_bits : ∀ perLane nr : Bool, atomImmOk (0#25 ++ BitVec.ofBool perLane ++ 0#5 ++ BitVec.ofBool nr) = true := by decide

theorem routineImm_lt : ∀ (stop perLane : Bool) (n : BitVec 6), (0#24 ++ BitVec.ofBool stop ++ BitVec.ofBool perLane ++ n).toNat < 256 := by decide

/-! ### The majors -/

/-- Each lane word is put together by one of the forms of R88 to R90, whose fields its major's decoder reads back; a word with a third source by the kind of its second. -/
theorem decodeLaneFields_of_encode {i : Instr} {f : LaneFields} (hw : i.wf = true) (h : encodeLaneFields i = some f) : decodeLaneFields f = .ok i := by
  cases i <;> simp only [encodeLaneFields.eq_def, reduceCtorEq, Option.some.injEq] at h <;> subst h
  case vadd | vsub | vrsub | vmul | vmulh | vdiv | vrem | vmin | vmax | vand | vor | vxor | vandn | vsll | vsrl | vsra | vaddSat | vsubSat | vclz | vpopc =>
    simp_all [decodeLaneFields, decodeVint, need, Instr.wf.eq_def]
  case vwadd | vwsub | vwmul | vnsrl | vnsra | vnclip => simp_all [decodeLaneFields, decodeVwiden, need, Instr.wf.eq_def]
  case vmacc | vnmsac | vwmacc => simp_all [decodeLaneFields, decodeVmacc, need, Instr.wf.eq_def]
  case vfadd | vfsub | vfmul | vfdiv | vfsqrt | vfmin | vfmax | vfsgnj | vfsgnjn | vfsgnjx | vfabs | vfneg | vfkind =>
    simp_all [decodeLaneFields, decodeVfloat, need, Instr.wf.eq_def, rm, op5]
  case vfma c mode d a x e ty | vfms c mode d a x e ty | vfnma c mode d a x e ty | vfnms c mode d a x e ty | vfwma c mode d a x e ty =>
    cases x <;> simp_all [decodeLaneFields, decodeVfused, need, Instr.wf.eq_def, rm, op5, laneBin, laneBase, withSrc2, src2, ctl, base, noHigh,
      src2Ok, ctlOk]
  case vcvt | vcvtSat =>
    simp_all [decodeLaneFields, decodeVcvt, okCvt, need, Instr.wf.eq_def, rm, op5, laneUn, laneBase, ctl, base, noHigh, noSrc2, noFlags, ctlOk,
      toNat_setWidth_lt, -BitVec.toNat_setWidth]
  case vcmpEq | vcmpNe | vcmpLt | vcmpLe | vcmpGt | vcmpGe => simp_all [decodeLaneFields, decodeVcmp, need, Instr.wf.eq_def]
  case vfcmpEq | vfcmpLt | vfcmpLe | vfcmpUnord => simp_all [decodeLaneFields, decodeVfcmp, need, Instr.wf.eq_def, rm, op5]
  case vpand | vpor | vpxor | vpandn | vpnot | vpmov | vpset | vpclr | vpcnt | vpfirst | vpfrom | vpto =>
    simp_all [decodeLaneFields, decodeVpred, need, Instr.wf.eq_def, lanePred, laneCmp, laneBase, withSrc2, ctl, base, noFlags, ctlOk, LaneFields.pd,
      LaneFields.pa, LaneFields.pb, ofBool_append_low_six, extractLsb'_append_low_six, toNat_setWidth_one_le, -laneCmp_fields, -BitVec.toNat_setWidth,
      -BitVec.getLsbD_eq_getElem]
  case vmv | vmerge | vid => simp_all [decodeLaneFields, decodeVmove, need, Instr.wf.eq_def]
  case vmvx =>
    simp_all [decodeLaneFields, decodeVmove, need, Instr.wf.eq_def, laneUn, laneBase, okUn, base, noHigh, noSrc2, noFlags, guardOk_zero,
      -laneUn_fields]
  case vredsum | vredmin | vredmax | vredand | vredor | vredxor | vfredsum | vfredmin | vfredmax =>
    simp_all [decodeLaneFields, decodeVred, need, Instr.wf.eq_def, rm, op5]
  case vscanAdd | vscanMin | vscanMax | vfscanAdd => simp_all [decodeLaneFields, decodeVscan, need, Instr.wf.eq_def, rm, op5]
  case vpick | vpack | vxchg | vbcast | vrev => simp_all [decodeLaneFields, decodeVperm, need, Instr.wf.eq_def, rm, op5]
  case vshup c d a x e ty | vshdn c d a x e ty =>
    cases x <;> simp_all [decodeLaneFields, decodeVperm, need, Instr.wf.eq_def, rm, op5, laneBin, laneBase, withSrc2, src2, ctl, base, noHigh, src2Ok,
      ctlOk]
  case vsetl | vsetli =>
    simp_all [decodeLaneFields, decodeVtype, need, Instr.wf.eq_def, laneBase, base, noHigh, noFlags, guardOk_zero, extractLsb'_setWidth_above]
  case vld | vlds | vldx | vldff | vldp | vldc =>
    simp_all [decodeLaneFields, decodeVload, need, Instr.wf.eq_def, laneMem, laneBase, okMem, base, noHigh, noFlags, ord, auth, authOk_uniform, ctl,
      ctlOk, -BitVec.getLsbD_eq_getElem]
  case vst | vsts | vstx | vstp | vstc =>
    simp_all [decodeLaneFields, decodeVstore, need, Instr.wf.eq_def, laneMem, laneBase, okMem, base, noHigh, noFlags, ord, auth, authOk_uniform, ctl,
      ctlOk, -BitVec.getLsbD_eq_getElem]
  case vatom =>
    simp_all [decodeLaneFields, decodeVatom, need, Instr.wf.eq_def, laneBase, okMem, base, noHigh, noFlags, rm, authImm, atomImmOk_bits, ctl, ctlOk,
      -BitVec.getLsbD_eq_getElem]
  case vatom32 =>
    simp_all [decodeLaneFields, decodeVatom32, need, Instr.wf.eq_def, laneBase, okMem, base, noHigh, noFlags, rm, authImm, atomImmOk_bits, ctl, ctlOk,
      -BitVec.getLsbD_eq_getElem]
  case vlrc =>
    simp_all [decodeLaneFields, decodeVlrc, need, Instr.wf.eq_def, laneBase, okMem, base, noHigh, noFlags, authImm, routineImm_lt, ctl, ctlOk,
      -BitVec.reduceAppend, -BitVec.getLsbD_eq_getElem]
  case vbasket => simp_all [decodeLaneFields, decodeVbasket, need, Instr.wf.eq_def, laneBase, okMem, base, noHigh, noFlags, ctl, ctlOk]

end Sys2Proof
end

section
/-! SUPPORT. The routine word: the encoding of a well-formed instruction decodes to it (R95 to R98). -/
namespace Sys2Proof

/-- Each routine word has one form, whose fields are read back. -/
theorem decodeRoutineFields_of_encode {i : Instr} {f : RoutineFields} (hw : i.wf = true) (h : encodeRoutineFields i = some f) :
    decodeRoutineFields f = .ok i := by
  cases i <;> simp only [encodeRoutineFields.eq_def, reduceCtorEq, Option.some.injEq] at h <;> subst h <;>
    simp_all [decodeRoutineFields, RoutineFields.b, Instr.wf.eq_def]

end Sys2Proof
end

section
/-! SUPPORT. The bytes of an instruction (R5, R77, R88). -/
namespace Sys2Proof

theorem ofNat_leNat_leBytes {n k : Nat} (w : BitVec k) (h : 2 ^ k = 256 ^ n) : BitVec.ofNat k (leNat (leBytes n w.toNat)) = w := by
  apply BitVec.eq_of_toNat_eq
  rw [BitVec.toNat_ofNat, Machine.leNat_leBytes, ← h, Nat.mod_mod, Nat.mod_eq_of_lt w.isLt]

theorem decodeBytes_scalar (w : BitVec 32) : decodeBytes (leBytes 4 w.toNat) = decodeScalar w := by
  rw [decodeBytes, if_pos (Machine.length_leBytes 4 _), ofNat_leNat_leBytes w (by decide)]

theorem decodeBytes_lane (w : BitVec 96) : decodeBytes (leBytes 12 w.toNat) = decodeLane w := by
  rw [decodeBytes, if_neg (by rw [Machine.length_leBytes]; decide), if_pos (Machine.length_leBytes 12 _), ofNat_leNat_leBytes w (by decide)]

theorem decodeScalar_of_encode {i : Instr} {w : BitVec 32} (hw : i.wf = true) (h : encodeScalar i = some w) : decodeScalar w = .ok i := by
  obtain ⟨f, hf, rfl⟩ := Option.map_eq_some_iff.1 h
  rw [decodeScalar, ScalarFields.ofWord_toWord, decodeScalarFields_of_encode hw hf]

theorem decodeLane_of_encode {i : Instr} {w : BitVec 96} (hw : i.wf = true) (h : encodeLane i = some w) : decodeLane w = .ok i := by
  obtain ⟨f, hf, rfl⟩ := Option.map_eq_some_iff.1 h
  rw [decodeLane, LaneFields.ofWord_toWord, decodeLaneFields_of_encode hw hf]

theorem decodeRoutine_of_encode {i : Instr} {w : BitVec 32} (hw : i.wf = true) (h : encodeRoutine i = some w) : decodeRoutine w = .ok i := by
  obtain ⟨f, hf, rfl⟩ := Option.map_eq_some_iff.1 h
  rw [decodeRoutine, RoutineFields.ofWord_toWord, decodeRoutineFields_of_encode hw hf]

theorem decodeBytes_of_encode {i : Instr} {bs : List Byte} (hw : i.wf = true) (h : encode i = some bs) (hr : encodeRoutine i = none) :
    decodeBytes bs = .ok i := by
  rw [encode] at h
  split at h
  next w hs =>
    obtain rfl := Option.some.inj h
    rw [decodeBytes_scalar, decodeScalar_of_encode hw hs]
  next =>
    split at h
    next w hl =>
      obtain rfl := Option.some.inj h
      rw [decodeBytes_lane, decodeLane_of_encode hw hl]
    next => rw [hr] at h; exact nomatch h

end Sys2Proof

open Sys2Proof Sys2Proof.Machine

/-- Settles O59: a word's fields are read back from it, and each decoder gives back what the encoder put into them. -/
theorem encodedInstructionsDecode : Obligations.EncodedInstructionsDecode := by
  unfold Obligations.EncodedInstructionsDecode
  exact fun i hw => ⟨fun _ => decodeScalar_of_encode hw, fun _ => decodeLane_of_encode hw, fun _ => decodeRoutine_of_encode hw,
    fun _ => decodeBytes_of_encode hw⟩

end

section
/-! SUPPORT. The words of line routines: what they write, by the tables of R242 (R95, R241, R242). -/
namespace Sys2Proof.Machine
open Sys2Proof

/-! ### The values of the words -/

theorem Routine.put_eq_wrote (r : Routine) (d : BitVec 5) (x : Word) : r.put d x = r.wrote d x 0 := by
  simp [Routine.put, Routine.set, Routine.wrote]

theorem Routine.rr_eq_wrote (r : Routine) (op : Nat) (d a b : BitVec 5) :
    r.rr op d a b = r.wrote d (rrValue op (r.reg a) (r.reg b) (r.reg d)).1 (rrValue op (r.reg a) (r.reg b) (r.reg d)).2 := rfl

theorem shiftLeft_eq_ofNat_mul (x : Word) (n : Nat) : x <<< n = BitVec.ofNat 64 (x.toNat * 2 ^ n) := by
  apply BitVec.eq_of_toNat_eq
  rw [BitVec.toNat_shiftLeft, BitVec.toNat_ofNat, Nat.shiftLeft_eq]

theorem ushiftRight_eq_ofNat_div (x : Word) (n : Nat) : x >>> n = BitVec.ofNat 64 (x.toNat / 2 ^ n) := by
  apply BitVec.eq_of_toNat_eq
  have := Nat.div_le_self x.toNat (2 ^ n)
  rw [BitVec.toNat_ushiftRight, BitVec.toNat_ofNat, Nat.shiftRight_eq_div_pow, Nat.mod_eq_of_lt (by omega)]

theorem sshiftRight_eq_ofInt_div (x : Word) (n : Nat) : x.sshiftRight n = BitVec.ofInt 64 (x.toInt / 2 ^ n) := by
  rw [BitVec.sshiftRight, Int.shiftRight_eq_div_pow]
  norm_cast

theorem add_signExtend_eq_ofInt (x : Word) (imm : BitVec 16) : x + imm.signExtend 64 = BitVec.ofInt 64 (x.toInt + imm.toInt) := by
  rw [BitVec.ofInt_add, BitVec.ofInt_toInt, BitVec.signExtend]

theorem rtExt_eq (x : Word) (pos len : BitVec 6) : rtExt x pos len = BitVec.ofNat 64 (x.toNat / 2 ^ pos.toNat % 2 ^ (len.toNat + 1)) := by
  rw [rtExt, bitsOf_eq, show pos.toNat + len.toNat + 1 - pos.toNat = len.toNat + 1 by omega]

theorem getLsbD_rtIns (old x : Word) (pos len : BitVec 6) {i : Nat} (hi : i < 64) :
    (rtIns old x pos len).getLsbD i = if pos.toNat ≤ i ∧ i < pos.toNat + len.toNat + 1 then x.getLsbD (i - pos.toNat) else old.getLsbD i := by
  have hmask : (BitVec.ofNat 64 ((2 ^ (len.toNat + 1) - 1) <<< pos.toNat)).getLsbD i = decide (pos.toNat ≤ i ∧ i < pos.toNat + len.toNat + 1) := by
    rw [BitVec.getLsbD_ofNat, Nat.testBit_shiftLeft, Nat.testBit_two_pow_sub_one]
    grind
  simp only [rtIns, BitVec.getLsbD_or, BitVec.getLsbD_and, BitVec.getLsbD_not, BitVec.getLsbD_shiftLeft, hmask]
  by_cases h : pos.toNat ≤ i ∧ i < pos.toNat + len.toNat + 1
  · rw [if_pos h, decide_eq_true h]
    simp [h.1, hi]
  · rw [if_neg h, decide_eq_false h]
    simp [hi]

/-! ### The tables of R242 -/

/-- A word of two sources and a destination, by its code. -/
theorem routineWords_rr : ∀ row ∈ routineWords, ∃ op, (∀ d a b s, exec (row.1 d a b) s = .next { s with rt := s.rt.rr op d a b }) ∧
    ∀ x y old, rrValue op x y old = (row.2 x y old, 0) := by
  intro row hrow
  simp only [routineWords, List.mem_cons, List.not_mem_nil, or_false] at hrow
  rcases hrow with rfl | rfl | rfl | rfl | rfl | rfl | rfl | rfl | rfl | rfl | rfl | rfl | rfl | rfl | rfl | rfl | rfl
  · exact ⟨0x01, fun _ _ _ _ => rfl, fun _ _ _ => rfl⟩
  · exact ⟨0x02, fun _ _ _ _ => rfl, fun _ _ _ => rfl⟩
  · exact ⟨0x03, fun _ _ _ _ => rfl, fun _ _ _ => rfl⟩
  · exact ⟨0x04, fun _ _ _ _ => rfl, fun _ _ _ => rfl⟩
  · exact ⟨0x05, fun _ _ _ _ => rfl, fun _ _ _ => rfl⟩
  · exact ⟨0x06, fun _ _ _ _ => rfl, fun x y _ => congrArg (·, 0) (shiftLeft_eq_ofNat_mul x _)⟩
  · exact ⟨0x07, fun _ _ _ _ => rfl, fun x y _ => congrArg (·, 0) (ushiftRight_eq_ofNat_div x _)⟩
  · exact ⟨0x08, fun _ _ _ _ => rfl, fun x y _ => congrArg (·, 0) (sshiftRight_eq_ofInt_div x _)⟩
  · exact ⟨0x09, fun _ _ _ _ => rfl, fun _ _ _ => rfl⟩
  · exact ⟨0x0A, fun _ _ _ _ => rfl, fun _ _ _ => rfl⟩
  · exact ⟨0x0B, fun _ _ _ _ => rfl, fun _ _ _ => rfl⟩
  · exact ⟨0x0C, fun _ _ _ _ => rfl, fun _ _ _ => rfl⟩
  · exact ⟨0x0D, fun _ _ _ _ => rfl, fun x y _ => by simp [rrValue, flag]⟩
  · exact ⟨0x0E, fun _ _ _ _ => rfl, fun x y _ => by simp [rrValue, flag]⟩
  · exact ⟨0x0F, fun _ _ _ _ => rfl, fun x y _ => by simp [rrValue, flag]⟩
  · exact ⟨0x10, fun _ _ _ _ => rfl, fun x y old => by simp [rrValue]⟩
  · exact ⟨0x11, fun _ _ _ _ => rfl, fun _ _ _ => rfl⟩

theorem routineFloatWords_rr : ∀ row ∈ routineFloatWords, ∃ op, (∀ d a b s, exec (row.1 d a b) s = .next { s with rt := s.rt.rr op d a b }) ∧
    ∀ x y old, rrValue op x y old = rtFloat row.2.1 row.2.2 x y := by
  intro row hrow
  simp only [routineFloatWords, List.mem_cons, List.not_mem_nil, or_false] at hrow
  rcases hrow with rfl | rfl | rfl | rfl | rfl | rfl
  · exact ⟨0x12, fun _ _ _ _ => rfl, fun _ _ _ => rfl⟩
  · exact ⟨0x13, fun _ _ _ _ => rfl, fun _ _ _ => rfl⟩
  · exact ⟨0x14, fun _ _ _ _ => rfl, fun _ _ _ => rfl⟩
  · exact ⟨0x15, fun _ _ _ _ => rfl, fun _ _ _ => rfl⟩
  · exact ⟨0x16, fun _ _ _ _ => rfl, fun _ _ _ => rfl⟩
  · exact ⟨0x17, fun _ _ _ _ => rfl, fun _ _ _ => rfl⟩

theorem routineSkips_skip : ∀ row ∈ routineSkips, ∀ (a b n : BitVec 5) (s : State),
    exec (row.1 a b n) s = .next { s with rt := s.rt.skip (row.2 (s.rt.reg a) (s.rt.reg b)) n } := by
  intro row hrow
  simp only [routineSkips, List.mem_cons, List.not_mem_nil, or_false] at hrow
  rcases hrow with rfl | rfl | rfl | rfl <;> exact fun _ _ _ _ => rfl

end Sys2Proof.Machine
end

section
/-! `lrinst`, and the words of routines (R95, R238, R241, R242, R264). -/
namespace Sys2Proof.Machine
open Sys2Proof

theorem State.sameHarts_writeSegs (segs : List Seg) (s : State) (bs : List Byte) : s.SameHarts (s.writeSegs segs bs) := by
  induction segs generalizing s bs with
  | nil => exact .refl s
  | cons z segs ih => exact (s.sameHarts_writeKeys z.lo _).trans (ih _ _)

theorem State.sameHarts_dropRoutines (s : State) (ctx : Nat) (n : Option Nat) : s.SameHarts (s.dropRoutines ctx n) :=
  ⟨rfl, rfl, fun x => by cases x <;> rfl, fun _ => rfl⟩

/-- No table keeps an entry of a routine that is discarded. -/
theorem State.dropRoutines_tables {s : State} {ctx n : Nat} : ∀ p ∈ (s.dropRoutines ctx (some n)).tables, ∀ e ∈ p.2, e.ctx = ctx → e.n ≠ n := by
  intro p hp e he hctx hn
  obtain ⟨q, -, rfl⟩ := List.mem_map.1 hp
  have := (List.mem_filter.1 he).2
  simp [hctx, hn] at this

/-- Routine n's entry of a context's directory written, where it can be (R238). -/
def State.writeEntry (s : State) (ctx n : Nat) (image : List Byte) : State :=
  match s.dirEntry ctx n Perm.store Need.write with
  | some out => s.writeSegs out image
  | none => s

theorem State.sameHarts_writeEntry (s : State) (ctx n : Nat) (image : List Byte) : s.SameHarts (s.writeEntry ctx n image) := by
  unfold State.writeEntry
  split
  · exact State.sameHarts_writeSegs _ _ _
  · exact .refl s

/-- The bytes of a directory's entry: a routine's words, and the word that says that it is installed and how long it is (R237). -/
def routineImage (code : List Byte) (len : Nat) : List Byte :=
  code ++ List.replicate (128 - code.length) 0 ++ leBytes 8 (2 ^ 63 + (len - 1)) ++ List.replicate 120 0

theorem State.installRoutine_eq (s : State) (ctx n : Nat) (code : List Byte) (len : Nat) :
    s.installRoutine ctx n code len = (s.writeEntry ctx n (routineImage code len)).dropRoutines ctx (some n) := by
  rw [State.installRoutine, routineImage, Nat.add_comm (2 ^ 63)]
  rfl

theorem State.sameHarts_installRoutine (s : State) (ctx n : Nat) (code : List Byte) (len : Nat) : s.SameHarts (s.installRoutine ctx n code len) := by
  rw [State.installRoutine_eq]
  exact (s.sameHarts_writeEntry _ _ _).trans (State.sameHarts_dropRoutines _ _ _)

section
variable {s : State} {k : Nat} {g : Group} {d b : BitVec 6} {a : BitVec 5} (hs : s.AsGroup k g) (hr : s.Ready [d, b] [a])
include hs hr

/-- A descriptor with a reserved bit set is answered with 1. -/
theorem did_lrinst_reserved (h : (s.x b).toNat / 2 ^ 13 ≠ 0 ∨ (s.x b).toNat / 64 % 4 ≠ 0) : Did s (exec (.lrinst d a b) s) (s.hart.setX d 1) := by
  change Did _ (execLrinst d a b s) _
  rw [execLrinst, State.groupOnly_group hs, s.scalarOp_ready _ _ _ hr]
  dsimp only
  rw [if_pos (by rw [bitsOf_eq]; exact h)]
  exact did_setX s d 1 hs.present

/-- A clean descriptor whose words can be fetched and whose directory's page stays where it is. -/
theorem did_lrinst {segs : List Seg} {ts : List TlbEntry} {len : Nat} (h1 : (s.x b).toNat / 2 ^ 13 = 0) (h2 : (s.x b).toNat / 64 % 4 = 0)
    (hlen : len = (s.x b).toNat / 256 % 32 + 1)
    (hres : s.resolve s.who (s.c a) [Perm.load] Need.read (s.c a).cursor.toNat (4 * len) 4 = .ok (segs, ts)) (hrel : s.released = true)
    (hlock : ∀ z ∈ segs, s.locked s.who true false z.lo z.len = false) (hspoilt : s.segsSpoilt segs = false) (hroom : s.wlRoomFor (segs.map (·.lo)) = true)
    (hwatch : (s.c a).has Perm.window = true ∨ s.watch (slotCluster k) g.ctx true false (s.c a).cursor.toNat (4 * len) = none)
    (hmove : ∀ out, s.dirEntry g.ctx ((s.x b).toNat % 64) Perm.store Need.write = some out → ∀ z ∈ out, s.moving z.lo z.len = false) :
    DidIn s (((s.fill s.curCluster ts).wlReadNow s.who segs).installRoutine g.ctx ((s.x b).toNat % 64) (s.readSegs segs) len) (exec (.lrinst d a b) s)
      (s.hart.setX d 0) := by
  have hany : (segs.any fun z => s.locked s.who true false z.lo z.len) = false := by simpa using hlock
  have hw : (if (s.c a).has Perm.window then none else s.watch (slotCluster k) g.ctx true false (s.c a).cursor.toNat (4 * len)) = none := by
    rcases hwatch with h | h <;> simp [h]
  have hstill : (((s.dirEntry g.ctx ((s.x b).toNat % 64) Perm.store Need.write).getD []).any fun z => s.moving z.lo z.len) = false := by
    cases hdir : s.dirEntry g.ctx ((s.x b).toNat % 64) Perm.store Need.write with
    | none => rfl
    | some out => simpa using hmove out hdir
  have hclean : ¬ ((s.x b).toNat / 2 ^ 13 ≠ 0 ∨ bitsOf (s.x b).toNat 7 6 ≠ 0) := by
    rw [bitsOf_eq]
    omega
  have hbits : bitsOf (s.x b).toNat 12 8 + 1 = len := by rw [hlen, bitsOf_eq]; rfl
  have hexec : exec (.lrinst d a b) s =
      .next (((((s.fill s.curCluster ts).wlReadNow s.who segs).installRoutine g.ctx ((s.x b).toNat % 64) (s.readSegs segs) len).setX d 0).advance) := by
    change execLrinst d a b s = _
    rw [execLrinst, State.groupOnly_group hs, s.scalarOp_ready _ _ _ hr]
    simp only [hclean, if_false, hbits, hres, hany, hw, hrel, hstill, hspoilt, hroom, Bool.not_true, Bool.or_self, Bool.false_eq_true]
  obtain ⟨hpres, hhart⟩ := State.present_wlReadNow ((s.sameHarts_fill s.curCluster ts).present hs.present) s.who segs
  have hsame := State.sameHarts_installRoutine ((s.fill s.curCluster ts).wlReadNow s.who segs) g.ctx ((s.x b).toNat % 64) (s.readSegs segs) len
  rw [hexec]
  obtain ⟨t, ht, hth, hrest⟩ := did_setX _ d 0 (hsame.present hpres)
  have hh := (hsame.here.trans hhart).trans (s.sameHarts_fill s.curCluster ts).here
  refine ⟨t, ht, ?_, hrest⟩
  rw [hth, State.pc, hh]
  rfl

end

end Sys2Proof.Machine

open Sys2Proof Sys2Proof.Machine

/-- Settles O38: the words by the tables of their values; `lrinst` by its descriptor. -/
theorem routinesAreInstalledAndRun : Obligations.RoutinesAreInstalledAndRun := by
  unfold Obligations.RoutinesAreInstalledAndRun
  refine ⟨fun s d a b n imm pos len => ?_, fun s k g d b a hs hr => ?_⟩
  · dsimp only
    have hput : ∀ y, (.next { s with rt := s.rt.put d y } : Res) = .next { s with rt := s.rt.wrote d y 0 } := fun y => by rw [Routine.put_eq_wrote]
    refine ⟨fun row hrow => ?_, fun row hrow => ?_, ?_, ?_, ?_, ⟨_, hput _, fun i hi => getLsbD_rtIns _ _ pos len hi⟩,
      fun row hrow => routineSkips_skip row hrow a b n s, rfl, rfl, rfl⟩
    · obtain ⟨op, hexec, hvalue⟩ := routineWords_rr row hrow
      rw [hexec, Routine.rr_eq_wrote, hvalue]
      rfl
    · obtain ⟨op, hexec, hvalue⟩ := routineFloatWords_rr row hrow
      rw [hexec, Routine.rr_eq_wrote, hvalue]
      rfl
    · rw [← add_signExtend_eq_ofInt]
      exact hput _
    · exact hput _
    · rw [← rtExt_eq]
      exact hput _
  · refine ⟨did_lrinst_reserved hs hr, ?_⟩
    intro segs ts h1 h2 hres hrel hlock hspoilt hroom hwatch hmove
    have hdid := did_lrinst hs hr h1 h2 rfl hres hrel hlock hspoilt hroom hwatch hmove
    rw [State.installRoutine_eq] at hdid
    exact ⟨hdid, State.dropRoutines_tables⟩

end
